-- ==== Sys2Proof/Word.lean ====
section
/-! DEFINITION. The plainest words of the model: bytes, station addresses, the units of time and the fixed-size
tables. Times are counted in fraction units of 2^-16 ns (00_scope.md, "Time"). -/
namespace Sys2Proof

/-- One byte of a frame or of the time-of-day line. -/
abbrev Byte := BitVec 8

/-- A station address, six bytes, most significant first (11_frame_and_record_formats.md). -/
abbrev Addr := BitVec 48

/-- Fraction units in one nanosecond (00_scope.md, "Time"). -/
abbrev nsUnits : Nat := 65536

/-- Fraction units in one microsecond. -/
abbrev usUnits : Nat := 65536000

/-- Fraction units in one millisecond. -/
abbrev msUnits : Nat := 65536000000

/-- Fraction units in one second. -/
abbrev secUnits : Nat := 65536000000000

/-- Seconds of the Time Counter, 2^48 (R90). -/
abbrev secRange : Nat := 281474976710656

/-- The largest value of every counter, 2^32 - 1 (R23 and the counter rules of each chapter). -/
abbrev counterMax : Nat := 4294967295

/-- Change one entry of a table of fixed size. -/
def updAt {α : Type} {n : Nat} (v : Vector α n) (i : Fin n) (f : α → α) : Vector α n :=
  v.set i.val (f (v.get i)) i.isLt

end Sys2Proof
end

