-- ==== Sys2Proof/Syntax.lean ====
section
/-! DEFINITION. The commands of the relay: one constructor of `Instr` for each row of spec/opcode_table.json, and the
types of their operands. `dt` is the local-oscillator time, in units of 2^-17 ns, that passes before the event; an
event that is the end of a timer or a due instant of the relay brings the clocks to its own instant (log 1). -/
namespace Sys2Proof

/-- The eight ports (00_scope.md, "Ports and port sets"). -/
inductive Port where
  | n0 | n1 | s0 | s1 | s2 | s3 | s4 | s5
deriving DecidableEq, Repr

/-- The six references, ids 0 to 5 (00_scope.md, "References"). -/
inductive Ref where
  | gnss | pkt0 | pkt1 | line0 | line1 | ext
deriving DecidableEq, Repr

/-- The two Client Sessions: PKT0 on N0 and PKT1 on N1 (R29). The recovered line clocks of N0 and N1 are named by the
same type. -/
inductive Client where
  | pkt0 | pkt1
deriving DecidableEq, Repr

/-- A VLAN tag: its vid, and the rest of the tag, which the relay carries unchanged (R13). -/
structure Tag where
  vid  : BitVec 12
  rest : BitVec 20
deriving DecidableEq, Repr

/-- An Ethernet frame as the relay reads it: addresses, the outermost VLAN tag, the EtherType after that tag, and the
bytes that follow (R4; log 15). -/
structure Frame where
  dst       : Addr
  src       : Addr
  tag       : Option Tag
  etherType : BitVec 16
  payload   : List Byte
deriving DecidableEq, Repr

/-- What RESTART_FULL brings from outside: the oscillator time before its completion, and the level of ADDR3 to ADDR0 that
the restart reads (R190, R202; log 39). -/
structure FullRestart where
  dt     : Nat
  straps : BitVec 4
deriving DecidableEq, Repr

/-- The parts of the per-second work whose order the manual leaves open (R74, R104, R111, R132, R147; log 8):
`samples` forms and hands on the samples and runs the realignment and the loop; `windows` judges the frequency windows;
`tracking` hands the frequency role's window result to the Time Engine; `grade` recomputes the Announced Grade;
`notices` builds the QUALITY_NOTICEs. -/
inductive BoundaryWork where
  | samples | windows | tracking | grade | notices
deriving DecidableEq, Repr

/-- The commands: the rows of spec/opcode_table.json. -/
inductive Instr where
  | powerOn (straps : BitVec 4)
  | resetPin (straps : BitVec 4)
  | frameReceived (dt : Nat) (port : Port) (fcsOk : Bool) (frame : Frame)
  | linkUp (dt : Nat) (port : Port)
  | linkDown (dt : Nat) (port : Port)
  | egressMoment (port : Port)
  | transmitEnd (dt : Nat) (port : Port)
  | secondBoundary (order : List BoundaryWork)
  | counterWrap
  | ppsInputEdge (dt : Nat) (pin : Fin 4)
  | freqInputEdge (dt : Nat) (pin : Fin 4) (edges : Nat)
  | todRecord (dt : Nat) (byte : Byte)
  | todFramingError (dt : Nat)
  | todByteGap
  | quietIntervalExpires (port : Port)
  | queryDue (client : Client)
  | replyTimeout (client : Client)
  | noticeIntervalExpires (client : Client)
  | gnssSignalTimeout
  | todIntervalTimeout
  | extEdgeTimeout
  | starveCountReached (client : Client)
  | qualifyTimeReached (ref : Ref)
  | holdOffExpires (ref : Ref)
  | restoreWaitReached (ref : Ref)
  | suspendedSlewExpires
  | lockCountReached
  | unlockCountReached
  | holdoverMinute
  | serveDelayExpires (site : Fin 6)
  | presenceTimeout (site : Fin 6)
  | markDue (site : Fin 6)
  | ppsOutputEdge (pin : Fin 4)
  | ppsPulseEnd (pin : Fin 4)
  | raiseHoldOffExpires (record : Fin 41)
  | clearDelayExpires (record : Fin 41)
  | noticeOffer
  | testIntervalExpires
  | pinPulseEnd
  | get (dt : Nat)
  | continueRead (dt : Nat)
  | put (dt : Nat)
  | clear (dt : Nat)
  | pin (dt : Nat)
  | unpin (dt : Nat)
  | forceSelect (dt : Nat)
  | release (dt : Nat)
  | slewHold (dt : Nat)
  | slewRelease (dt : Nat)
  | timeSet (dt : Nat)
  | ack (dt : Nat)
  | testAlarm (dt : Nat)
  | status (dt : Nat)
  | countersClear (dt : Nat)
  | restartDatapath (dt : Nat)
  | restartFull (input : FullRestart)
  | unknownCommand (dt : Nat)
  | todByteReceived (dt : Nat) (byte : Byte)
  | freqOutputEdge (pin : Fin 4)
  | halfCycleEnd (pin : Fin 4)
  | lineClockCycle (dt : Nat) (line : Client) (cycles : Nat)
deriving DecidableEq, Repr

end Sys2Proof
end

