-- ==== Sys2Proof/Config.lean ====
section
/-! DEFINITION. What an implementation fixes and the manual leaves open. Each free value is an opaque constant with
no body: nothing can be proved of its value, so a claim holds whatever it is. -/
namespace Sys2Proof

/-- The tag bits other than the vid in a frame the relay builds (protocol identifier and priority): the manual names
the vid only (R37, R146, R181). Free value, log 16. -/
opaque Config.builtTagRest : BitVec 20

/-- When one re-evaluation changes both roles, whether the frequency role is reported first: R102 allows both orders.
Free value, log 10. -/
opaque Config.frequencyFirst : Nat → Bool

/-- The two named flag bits in the header of a management frame the relay builds: R192 and R181 give them no value.
Free value, log 19. -/
opaque Config.managementFlags : Nat → BitVec 2

/-- Grade in the header of an ALARM_NOTICE: R181 gives it no value. Free value, log 19. -/
opaque Config.noticeGrade : Nat → BitVec 4

/-- Epoch in the header of an ALARM_NOTICE: R181 gives it no value. Free value, log 19. -/
opaque Config.noticeEpoch : Nat → BitVec 8

/-- Timestamp seconds in the header of an ALARM_NOTICE. Free value, log 19. -/
opaque Config.noticeSeconds : Nat → BitVec 48

/-- Timestamp nanoseconds in the header of an ALARM_NOTICE, reduced to their range where used. Free value, log 19. -/
opaque Config.noticeNanos : Nat → BitVec 32

/-- Correction in the header of an ALARM_NOTICE. Free value, log 19. -/
opaque Config.noticeCorrection : Nat → BitVec 64

/-- How far into its period a bypass output starts (R163 says its cycles are not aligned to Time Counter seconds, and
no more). Free value, log 37. -/
opaque Config.bypassPhase : Nat → Nat

end Sys2Proof
end

