-- ==== Sys2Proof/Machine/State.lean ====
section
/-! DEFINITION. The state of the relay as plain data, one record per block of 00_scope.md ("Blocks of the relay"), and
the state after reset. Field docstrings cite the rule of spec/ that names the field. -/
namespace Sys2Proof.Machine
open Sys2Proof

/-! ## Time -/

/-- A Time Counter value, in fraction units, with the Epoch it was read in (R92). -/
structure Stamp where
  counter : Nat
  epoch   : Nat
deriving DecidableEq, Repr

/-- The three ingress stamps of a frame (R1). -/
structure Ingress where
  counter   : Nat
  epoch     : Nat
  residence : Nat
deriving DecidableEq, Repr

/-- The clocks of the Time Engine: Time Counter (R90), Residence Clock (R21), Epoch (R92). `residue` is the part of a
fraction unit left over, in units of 1 / (2 * 10^12) of it; `osc` is the local oscillator's own time in 2^-17 ns;
`boundaryDue` says that the counter stands at a second boundary whose work is outstanding (log 3, log 4). -/
structure Clock where
  counter     : Nat := 0
  residence   : Nat := 0
  residue     : Nat := 0
  osc         : Nat := 0
  boundaryDue : Bool := false
  epoch       : Nat := 0
deriving DecidableEq, Repr

/-- An elapsed timer on the Residence Clock: what it held when last started, and the Residence Clock at that start
while it runs. -/
structure Timer where
  base  : Nat := 0
  since : Option Nat := none
deriving DecidableEq, Repr

/-! ## Frames and ports -/

/-- Scope of a RESTART (R201, R202). -/
inductive RestartScope where
  | datapath | full
deriving DecidableEq, Repr

/-- Whose frame it is, and what its egress moment has to do for it (R3, R13, R22, R26, R37). -/
inductive FrameRole where
  | passing (correct : Bool) (ingress : Port) (stamps : Ingress)
  | timeMark
  | qualityNotice
  | delayReply
  | delayQuery (seq : Nat)
  | response (restart : Option RestartScope)
  | alarmNotice
deriving DecidableEq, Repr

/-- A frame in an egress queue. -/
structure QFrame where
  frame : Frame
  role  : FrameRole
deriving DecidableEq, Repr

/-- The frame in transmission; `counted` is false once a RESTART DATAPATH has taken it out of the counts (R24). -/
structure TxFrame where
  item    : QFrame
  counted : Bool
deriving DecidableEq, Repr

/-- Queue classes (01, the Flow Table). -/
inductive QueueClass where
  | timing | bulk
deriving DecidableEq, Repr

/-- Counters of R23 kept per port, then those of R206. -/
structure PortCounters where
  receivedFrames : Nat := 0
  receiveErrors : Nat := 0
  transmittedFrames : Nat := 0
  unmatchedFrames : Nat := 0
  unclaimedTerminations : Nat := 0
  flowDrops : Nat := 0
  noEgress : Nat := 0
  timingDiscards : Nat := 0
  bulkDiscards : Nat := 0
  linkDownDiscards : Nat := 0
  flushed : Nat := 0
  correctionSaturated : Nat := 0
  notCorrectable : Nat := 0
  shortFrames : Nat := 0
  badHeader : Nat := 0
deriving DecidableEq, Repr

/-- One Port Unit with its egress queues (R2, R3, R16, R18) and its recovered line clock (R58). `quiet` is the start
of the quiet interval, which runs exactly while TIMING_LOSS is present. -/
structure PortState where
  linkUp  : Bool := false
  timingQ : List QFrame := []
  bulkQ   : List QFrame := []
  tx      : Option TxFrame := none
  quiet   : Option Nat := none
  lineCycles : Nat := 0
  lineEdge   : Option Stamp := none
  ctr     : PortCounters := {}
deriving DecidableEq, Repr

/-! ## Flow Classifier -/

/-- Kind of a VLAN match (01, the Flow Table). -/
inductive VlanKind where
  | any | untagged | tagged
deriving DecidableEq, Repr

/-- EtherType match; `part` follows the Part EtherType in force (R9). -/
inductive EtherMatch where
  | any
  | part
  | literal (value : Nat)
deriving DecidableEq, Repr

/-- Class match, and the class of a frame. -/
inductive ClassMatch where
  | any | timing | management
deriving DecidableEq, Repr

/-- Destination match. -/
inductive DestMatch where
  | any | station | timingGroup
deriving DecidableEq, Repr

/-- Actions of a Flow entry. -/
inductive Action where
  | forward | correct | terminate | manage | drop
deriving DecidableEq, Repr

/-- A port set: bit k is port k in the order N0, N1, S0 to S5 (11, "Table entries"). -/
abbrev PortSet := BitVec 8

/-- An egress set: a port set with or without ACTIVE_UPLINK (R12). -/
structure EgressSet where
  ports  : PortSet := 0
  uplink : Bool := false
deriving DecidableEq, Repr

/-- A Flow Table entry (01, the Flow Table). -/
structure FlowEntry where
  enabled    : Bool := false
  pinned     : Bool := false
  priority   : Nat := 3
  ingress    : PortSet := 0
  vlan       : VlanKind := .any
  vStart     : Nat := 0
  vStop      : Nat := 4095
  etherType  : EtherMatch := .any
  cls        : ClassMatch := .any
  dStart     : Nat := 0
  dStop      : Nat := 127
  dest       : DestMatch := .any
  action     : Action := .drop
  egress     : EgressSet := {}
  vlanOffset : Nat := 0
  queueClass : QueueClass := .bulk
  hitCount   : Nat := 0
deriving DecidableEq, Repr

/-- A Port Map entry (R11). -/
structure PortMapEntry where
  egress      : EgressSet
  ingressComp : Int := 0
  egressComp  : Int := 0
deriving DecidableEq, Repr

/-! ## Client Sessions -/

/-- Configuration of a Client Session (R29). -/
structure ClientCfg where
  enabled       : Bool := false
  domain        : Nat := 0
  queryRate     : Nat := 8
  replyTimeout  : Nat := 1000
  asymmetry     : Int := 0
  queryVlan     : Option Nat := none
  noticeTimeout : Nat := 3
deriving DecidableEq, Repr

/-- Session states (R30). -/
inductive ClientState where
  | idle | listening | exchanging
deriving DecidableEq, Repr

/-- The master a session has accepted (R32). -/
structure Master where
  addr  : Addr
  grade : Nat
  epoch : Nat
deriving DecidableEq, Repr

/-- A record of the Outstanding Query List (R37); `created` is the Residence Clock at its creation (R39). -/
structure QueryRec where
  seq     : Nat
  t3      : Option Nat
  epoch   : Nat
  created : Nat
deriving DecidableEq, Repr

/-- The TIME_MARK pair (R35). -/
structure MarkPair where
  t1    : Nat
  c1    : Int
  t2    : Nat
  epoch : Nat
deriving DecidableEq, Repr

/-- The best-exchange record (R41): phase sample in ns, round trip in fraction units. -/
structure Exchange where
  sample    : Int
  roundTrip : Int
deriving DecidableEq, Repr

/-- Counters of R44. -/
structure ClientCounters where
  idleDiscards : Nat := 0
  otherDomain : Nat := 0
  unusedTypes : Nat := 0
  noMaster : Nat := 0
  foreignFrames : Nat := 0
  masterEpochMismatch : Nat := 0
  notServing : Nat := 0
  foreignNotices : Nat := 0
  masterEpochChanges : Nat := 0
  staleMarks : Nat := 0
  skipped : Nat := 0
  queryDiscards : Nat := 0
  queriesSent : Nat := 0
  repliesMatched : Nat := 0
  stray : Nat := 0
  lost : Nat := 0
  noPair : Nat := 0
  negativeDelay : Nat := 0
  samples : Nat := 0
deriving DecidableEq, Repr

/-- A Client Session (R29 to R44). `rate` is the Query Rate in force this second; every due instant at or before the
counter value `queryDone` is already taken (R36, log 36). -/
structure ClientSession where
  cfg           : ClientCfg := {}
  state         : ClientState := .idle
  master        : Option Master := none
  noticeStart   : Nat := 0
  noticeMissing : Bool := false
  outstanding   : List QueryRec := []
  pair          : Option MarkPair := none
  best          : Option Exchange := none
  nextSeq       : Nat := 0
  rate          : Nat := 8
  queryDone     : Nat := 0
  ctr           : ClientCounters := {}
deriving DecidableEq, Repr

/-! ## Reference Monitor -/

/-- Defect names, in the order of R67. -/
inductive Defect where
  | signalLost | freqRange | wander | phaseJump | gradeLow | starved | noticeMissing | todMissing | todMismatch
  | phaseFar
deriving DecidableEq, Repr

/-- Realign Policy of a reference (R46). -/
inductive RealignPolicy where
  | slew | buildOut
deriving DecidableEq, Repr

/-- Configuration of a reference (R46); times in seconds, rates in Hz, ppt and ns as R46 gives them. -/
structure RefCfg where
  enabled       : Bool := false
  declaredRate  : Nat := 10000000
  acceptRange   : Nat := 10000000
  holdOff       : Nat := 2
  qualifyTime   : Nat := 30
  restoreWait   : Nat := 300
  jumpLimit     : Nat := 200
  wanderLimit   : Nat := 500
  minGrade      : Nat := 6
  starveSeconds : Nat := 8
  compensation  : Int := 0
  policy        : RealignPolicy := .slew
  gradeCap      : Nat := 15
  todBaud       : Nat := 9600
deriving DecidableEq, Repr

/-- Reference states (R48). -/
inductive RefState where
  | disabled | monitoring | qualified | failed | restoring
deriving DecidableEq, Repr

/-- Counters of R68 that every reference can have. -/
structure RefCounters where
  phaseJumps : Nat := 0
  windowsVoid : Nat := 0
  failures : Nat := 0
deriving DecidableEq, Repr

/-- A reference: configuration and runtime record (R46, R48), the signal interval (R49, R58) and the frequency window
(R57, R58, R59). -/
structure Reference where
  cfg      : RefCfg := {}
  state    : RefState := .disabled
  defects  : List Defect := []
  qualify  : Timer := {}
  holdOff  : Timer := {}
  restore  : Timer := {}
  lastE    : Option Int := none
  lastD    : Option Int := none
  grade    : Option Nat := none
  starve   : Nat := 0
  lastEdge : Option Nat := none
  pStart   : Option Int := none
  capStart : Option Nat := none
  winVoid  : Bool := false
  prevD    : Option Int := none
  ctr      : RefCounters := {}
deriving DecidableEq, Repr

/-- What a valid time-of-day record says (R50, 11 "The time-of-day record"). -/
structure TodInfo where
  label         : Nat
  satellites    : Nat
  fixStatus     : Nat
  receiverGrade : Nat
deriving DecidableEq, Repr

/-- A pending GNSS sample: the second it belongs to, p, and the Epoch at the edge (R52). -/
structure GnssSample where
  second : Nat
  p      : Int
  epoch  : Nat
deriving DecidableEq, Repr

/-- Counters of R68 kept for GNSS alone. -/
structure GnssCounters where
  spuriousEdges : Nat := 0
  unlabelledEdges : Nat := 0
  replacedEdges : Nat := 0
  validRecords : Nat := 0
  badChecksum : Nat := 0
  noFix : Nat := 0
  badRecord : Nat := 0
  outOfWindow : Nat := 0
  replacedRecords : Nat := 0
deriving DecidableEq, Repr

/-- The GNSS part of the Reference Monitor and the time-of-day receiver: `partialRecord` is empty while the receiver hunts
(R207), else the bytes assembled, first byte first. -/
structure Gnss where
  todStart   : Option Nat := none
  held       : Option TodInfo := none
  last       : Option TodInfo := none
  samples    : List GnssSample := []
  partialRecord : List Byte := []
  lastByteAt : Nat := 0
  ctr        : GnssCounters := {}
deriving DecidableEq, Repr

/-- The 16-second windows: whether one is in progress, and the sum of F over its seconds (R57, R59). -/
structure WindowState where
  isOpen : Bool := false
  fSum   : Int := 0
deriving DecidableEq, Repr

/-! ## Selector and Realignment Unit -/

/-- Selector configuration (R70). -/
structure SelectorCfg where
  phaseList : List Ref := []
  freqList  : List Ref := []
  revertive : Bool := false
  ranking   : Bool := false
deriving DecidableEq, Repr

/-- Counters of R88 kept by the Selector. -/
structure SelectorCounters where
  phaseChanges : Nat := 0
  frequencyChanges : Nat := 0
  forcesLapsed : Nat := 0
deriving DecidableEq, Repr

/-- The Selector: configuration and Selection record (R70, R71). -/
structure Selector where
  cfg         : SelectorCfg := {}
  phase       : Option Ref := none
  phaseForced : Bool := false
  freq        : Option Ref := none
  freqForced  : Bool := false
  ctr         : SelectorCounters := {}
deriving DecidableEq, Repr

/-- Step Policy (R79). -/
inductive StepPolicy where
  | never | beforeServe | always
deriving DecidableEq, Repr

/-- Realignment parameters (R79). -/
structure RealignParams where
  stepPolicy      : StepPolicy := .beforeServe
  stepThreshold   : Nat := 1000
  maxOffset       : Nat := 1000000
  slewRate        : Nat := 10
  resumeWindow    : Nat := 600
  resumeTolerance : Nat := 500
deriving DecidableEq, Repr

/-- Progress of the current phase selection (R80). -/
inductive Decision where
  | none | pending | decided
deriving DecidableEq, Repr

/-- A Suspended Slew record (R80, R86). -/
structure Suspended where
  ref  : Ref
  b    : Int
  at'  : Nat
  held : Bool
deriving DecidableEq, Repr

/-- Counters of R88 kept by the Realignment Unit. -/
structure RealignCounters where
  decisions : Nat := 0
  resumes : Nat := 0
  steps : Nat := 0
  tooFar : Nat := 0
  buildOuts : Nat := 0
  slewsStarted : Nat := 0
  slewsCompleted : Nat := 0
  slewsSuspended : Nat := 0
  slewsAbandoned : Nat := 0
  suspendedDiscarded : Nat := 0
  suspendedExpired : Nat := 0
deriving DecidableEq, Repr

/-- The Realignment Unit (R79, R80); `slew` holds the Held flag of a present Slew record. -/
structure Realign where
  params      : RealignParams := {}
  decision    : Decision := .none
  decisionRef : Option Ref := none
  b           : Int := 0
  buildOut    : Bool := false
  slew        : Option Bool := none
  suspended   : Option Suspended := none
  ctr         : RealignCounters := {}
deriving DecidableEq, Repr

/-! ## Time Engine -/

/-- Servo parameters (R97). -/
structure ServoParams where
  phaseClamp   : Nat := 1000
  pullRange    : Nat := 2000000
  acquiringPg  : Nat := 128
  acquiringIg  : Nat := 32
  lockedPg     : Nat := 32
  lockedIg     : Nat := 8
  fg           : Nat := 64
  lockWindow   : Nat := 100
  lockCount    : Nat := 16
  unlockWindow : Nat := 1000
  unlockCount  : Nat := 4
deriving DecidableEq, Repr

/-- Servo states (R99). -/
inductive ServoState where
  | freerun | acquiring | locked | holdover | freqTrack
deriving DecidableEq, Repr

/-- Last e_loop and Last Clamped (R96). -/
structure LoopRecord where
  e       : Int
  clamped : Bool
deriving DecidableEq, Repr

/-- Counters of R114. -/
structure ServoCounters where
  timeSteps : Nat := 0
  timeSets : Nat := 0
  counterWraps : Nat := 0
  stateChanges : Nat := 0
  missingSamples : Nat := 0
  clampedSamples : Nat := 0
  outputClamps : Nat := 0
  windupHolds : Nat := 0
  locks : Nat := 0
  unlocks : Nat := 0
  frequencyUpdates : Nat := 0
  pullRangeClamps : Nat := 0
deriving DecidableEq, Repr

/-- The Servo Context (R96), its parameters, and PHASE_TRANSIENT as last reported (R106). -/
structure Servo where
  params      : ServoParams := {}
  state       : ServoState := .freerun
  f           : Int := 0
  i           : Int := 0
  phaseValid  : Bool := false
  lockRun     : Nat := 0
  unlockRun   : Nat := 0
  lastLoop    : Option LoopRecord := none
  acqFromHold : Option Bool := none
  transient   : Bool := false
  ctr         : ServoCounters := {}
deriving DecidableEq, Repr

/-! ## Holdover Unit -/

/-- Holdover parameters (R121). -/
structure HoldoverParams where
  guardMinutes    : Nat := 2
  averagingDepth  : Nat := 60
  minimumEntries  : Nat := 10
  driftEstimation : Bool := false
  driftMinimum    : Nat := 120
  driftLimit      : Nat := 50
  settleLimit     : Nat := 50
deriving DecidableEq, Repr

/-- Grade parameters (R133). -/
structure GradeParams where
  hopDecrement  : Nat := 1
  acquiring     : Nat := 3
  slewing       : Nat := 6
  historyShort  : Nat := 4
  frequencyOnly : Nat := 2
  freerun       : Nat := 1
  budgetAlarm   : Nat := 8
deriving DecidableEq, Repr

/-- A History Ring entry (R116). -/
structure RingEntry where
  stamp         : Nat
  lockedSeconds : Nat
  meanFreq      : Option Int
  source        : Option Ref
  servoState    : ServoState
deriving DecidableEq, Repr

/-- The minute accumulator (R117). -/
structure MinuteAcc where
  count     : Nat := 0
  iSum      : Int := 0
  firstVoid : Bool := false
deriving DecidableEq, Repr

/-- The Holdover record (R122); `elapsed` runs while the holdover runs, and `minuteMark` is the last whole minute of
Elapsed already taken (R127). -/
structure HoldoverRec where
  enteredAt  : Stamp
  enteredRes : Nat
  n          : Nat
  h          : Int
  d          : Int
  entryGrade : Nat
  short      : Bool
  elapsed    : Timer
  minuteMark : Nat
deriving DecidableEq, Repr

/-- A Budget Table entry (R129). -/
structure BudgetEntry where
  threshold  : Nat
  unassisted : Nat
  assisted   : Nat
deriving DecidableEq, Repr

/-- The Budget Table after power-on (R129). -/
def defaultBudget : List BudgetEntry :=
  [⟨0, 12, 13⟩, ⟨3600, 10, 12⟩, ⟨14400, 8, 11⟩, ⟨28800, 6, 10⟩, ⟨86400, 4, 8⟩]

/-- Counters of R135. -/
structure HoldoverCounters where
  entriesAppended : Nat := 0
  ringOverwrites : Nat := 0
  ringClears : Nat := 0
  holdoversEntered : Nat := 0
  holdoversResumed : Nat := 0
  shortHoldovers : Nat := 0
  gradeChanges : Nat := 0
deriving DecidableEq, Repr

/-- The Holdover Unit (06); `ring` has its oldest entry first. -/
structure Holdover where
  params    : HoldoverParams := {}
  grades    : GradeParams := {}
  ring      : List RingEntry := []
  acc       : MinuteAcc := {}
  settle    : Option Int := none
  record    : Option HoldoverRec := none
  frozen    : Option Nat := none
  budget    : List BudgetEntry := defaultBudget
  announced : Nat := 1
  ctr       : HoldoverCounters := {}
deriving DecidableEq, Repr

/-! ## Delivery Unit -/

/-- A Site Table entry (R137). -/
structure SiteCfg where
  enabled      : Bool := false
  domain       : Nat := 0
  vlan         : Option Nat := none
  markRate     : Nat := 16
  pathComp     : Int := 0
  minGrade     : Nat := 6
  serveDelay   : Nat := 5
  queryLimit   : Nat := 128
  queryTimeout : Nat := 10
deriving DecidableEq, Repr

/-- Delivery Session states (R139). -/
inductive SiteState where
  | disabled | muted | serving
deriving DecidableEq, Repr

/-- Mute Reason (R139). -/
inductive MuteReason where
  | enabled | link | grade | restart
deriving DecidableEq, Repr

/-- Counters of R154. -/
structure SiteCounters where
  serveEntries : Nat := 0
  mutes : Nat := 0
  marksQueued : Nat := 0
  marksSkipped : Nat := 0
  marksWithdrawn : Nat := 0
  noticesQueued : Nat := 0
  noticesSkipped : Nat := 0
  disabledDiscards : Nat := 0
  unusedTypes : Nat := 0
  otherDomain : Nat := 0
  epochDiscards : Nat := 0
  mutedQueries : Nat := 0
  overLimit : Nat := 0
  queriesAnswered : Nat := 0
  repliesSkipped : Nat := 0
deriving DecidableEq, Repr

/-- A Delivery Session (R137, R139). `rate` is the Mark Rate in force this second; every due instant at or before the
counter value `markDone` is already taken (R145, log 36). The presence interval is the time since `lastQuery`. -/
structure Site where
  cfg          : SiteCfg := {}
  state        : SiteState := .disabled
  muteReason   : Option MuteReason := none
  serve        : Timer := {}
  present      : Bool := false
  lastQuery    : Option Nat := none
  queries      : Nat := 0
  nextMark     : Nat := 0
  nextNotice   : Nat := 0
  epochPending : Bool := false
  rate         : Nat := 16
  markDone     : Nat := 0
  ctr          : SiteCounters := {}
deriving DecidableEq, Repr

/-! ## Pin Unit -/

/-- Pin functions (R156). -/
inductive PinFunction where
  | unused | ppsIn | freqIn | ppsOut | freqOut
deriving DecidableEq, Repr

/-- Source of a FREQ_OUT pin (R156). -/
inductive FreqSource where
  | counter
  | bypass (ref : Ref)
deriving DecidableEq, Repr

/-- A Pin Table entry (R156); Pulse Width in us, Offset in ns, Rate in Hz. -/
structure PinCfg where
  function   : PinFunction := .unused
  outEnabled : Bool := false
  squelch    : Nat := 0
  pulseWidth : Nat := 100000
  offset     : Int := 0
  rate       : Nat := 10000000
  source     : FreqSource := .counter
deriving DecidableEq, Repr

/-- When a pin that is high goes low: at a Residence Clock value, or (in bypass) at an oscillator time. -/
inductive Fall where
  | atResidence (at' : Nat)
  | atOsc (at' : Nat)
deriving DecidableEq, Repr

/-- Where the cycles of a FREQ_OUT pin are placed (R162, R163). On the counter, every instant at or before `done` is
already taken. In bypass the next cycle starts at oscillator time `next`, with `rem` carried. Leaving bypass, the cycle
in progress ends at `finish`; leaving the counter, the cycle in progress ends at the next counter instant. -/
inductive FreqPhase where
  | onCounter (done : Nat)
  | onBypass (next rem : Nat)
  | leavingBypass (finish : Nat)
  | leavingCounter (done : Nat)
deriving DecidableEq, Repr

/-- Counters of R166. -/
structure PinCounters where
  inputEdges : Nat := 0
  pulsesSent : Nat := 0
  squelches : Nat := 0
  fallbackEntries : Nat := 0
deriving DecidableEq, Repr

/-- A timing pin (R156, R158, R160 to R165). -/
structure Pin where
  cfg          : PinCfg := {}
  squelched    : Bool := false
  fallback     : Bool := true
  bypassOffset : Option Int := none
  lastInput    : Option Stamp := none
  cycles       : Nat := 0
  high         : Option Fall := none
  riseRes      : Option Nat := none
  phase        : FreqPhase := .onCounter 0
  ppsLast      : Option Nat := none
  ppsFrom      : Nat := 0
  ctr          : PinCounters := {}
deriving DecidableEq, Repr

/-! ## Alarm Unit -/

/-- Severities (R168). -/
inductive Severity where
  | off | warning | minor | major | critical
deriving DecidableEq, Repr

/-- Routes (R168). -/
inductive Route where
  | none | notice | pin | both
deriving DecidableEq, Repr

/-- An Alarm Config entry (R168); hold-off and delay in seconds. -/
structure AlarmCfg where
  severity   : Severity
  route      : Route
  raiseHold  : Nat
  clearDelay : Nat
deriving DecidableEq, Repr

/-- The Alarm Config defaults (R168), REF_FAIL first. -/
def defaultAlarmCfg : Vector AlarmCfg 12 :=
  #v[⟨.major, .both, 0, 5⟩, ⟨.minor, .both, 0, 10⟩, ⟨.major, .both, 0, 10⟩, ⟨.warning, .notice, 0, 0⟩,
     ⟨.major, .both, 0, 60⟩, ⟨.warning, .notice, 0, 10⟩, ⟨.minor, .notice, 2, 2⟩, ⟨.minor, .notice, 0, 0⟩,
     ⟨.minor, .notice, 30, 0⟩, ⟨.major, .both, 0, 0⟩, ⟨.warning, .pin, 0, 0⟩, ⟨.warning, .both, 0, 0⟩]

/-- Alarm record states (R170). -/
inductive AlarmState where
  | clear | raising | raised | clearing
deriving DecidableEq, Repr

/-- An Alarm Table record (R170); `timer` is the Residence Clock at the start of the hold-off or delay. -/
structure AlarmRecord where
  state      : AlarmState := .clear
  present    : Bool := false
  acked      : Bool := false
  pending    : Bool := false
  raiseCount : Nat := 0
  first      : Option Stamp := none
  last       : Option Stamp := none
  cause      : List Defect := []
  timer      : Option Nat := none
deriving DecidableEq, Repr

/-- A notice in the Notice Queue (R175). Condition and Instance follow from the record index. -/
structure Notice where
  record     : Fin 41
  state      : AlarmState
  severity   : Severity
  raiseCount : Nat
  time       : Option Stamp
  cause      : List Defect
deriving DecidableEq, Repr

/-- Alarm settings (R179); the pulse width in ms. -/
structure AlarmSettings where
  notify        : Bool := false
  rate          : Nat := 8
  collector     : Option Addr := none
  collectorPort : Port := .n0
  vlan          : Option Nat := none
  ackOnRead     : Bool := false
  pulseMode     : Bool := false
  pulseWidth    : Nat := 100
deriving DecidableEq, Repr

/-- Counters of R187. -/
structure AlarmCounters where
  noticesRewritten : Nat := 0
  noticesDeferred : Nat := 0
  noticesDropped : Nat := 0
  noticesSent : Nat := 0
  noticesDiscarded : Nat := 0
  acknowledgementsGiven : Nat := 0
  pinPulses : Nat := 0
deriving DecidableEq, Repr

/-- The Alarm Unit (09): `spacing` is the Residence Clock at the last offer, `pulse` at the start of the pulse in
progress, `test` at the start of the test interval. -/
structure Alarm where
  cfg      : Vector AlarmCfg 12 := defaultAlarmCfg
  set      : AlarmSettings := {}
  recs     : Vector AlarmRecord 41 := Vector.replicate 41 {}
  queue    : List Notice := []
  spacing  : Option Nat := none
  nextSeq  : Nat := 0
  asserted : Bool := false
  pulse    : Option Nat := none
  test     : Option Nat := none
  ctr      : AlarmCounters := {}
deriving DecidableEq, Repr

/-! ## Management Unit -/

/-- A command in the Command Queue (R189, R191); `args` is the body after the Tag. -/
structure Command where
  ingress : Port
  src     : Addr
  vlan    : Option Tag
  tag     : Nat
  seq     : Nat
  type    : Nat
  args    : List Byte
deriving DecidableEq, Repr

/-- Counters of R203. -/
structure MgmtCounters where
  wrongClass : Nat := 0
  wrongDestination : Nat := 0
  portNotPermitted : Nat := 0
  notACommand : Nat := 0
  queueFullDrops : Nat := 0
  commandsExecuted : Nat := 0
  responsesDiscarded : Nat := 0
deriving DecidableEq, Repr

/-- The default Station Address with the straps' digit (R190): 02-4D-44-00-00-0x. -/
def strapAddress (straps : BitVec 4) : Addr :=
  BitVec.ofNat 48 (0x024D44000000 + straps.toNat)

/-- The Management Unit (10): settings, Command Queue, the RESTART that holds its head, and the Read Cursors. `straps` is
the levels on ADDR3 to ADDR0 as they stand, read at power-on, the reset pin and RESTART FULL (R190). -/
structure Mgmt where
  straps    : BitVec 4 := 0
  station   : Addr := strapAddress 0
  permitted : PortSet := 3
  partEther : Nat := 0x88B5
  queue     : List Command := []
  waiting   : Option RestartScope := none
  cursors   : Vector (Option Nat) 26 := Vector.replicate 26 none
  ctr       : MgmtCounters := {}
deriving DecidableEq, Repr

/-! ## The whole relay -/

/-- Flow entry 0 after power-on (R10). -/
def managementEntry : FlowEntry :=
  { enabled := true, pinned := true, priority := 0, ingress := 3, etherType := .part, cls := .management,
    dest := .station, action := .manage }

/-- The Port Map after power-on (R11). -/
def defaultPortMap : Vector PortMapEntry 8 :=
  let upstream : PortMapEntry := ⟨⟨0xFC, false⟩, 0, 0⟩
  let downstream : PortMapEntry := ⟨⟨0, true⟩, 0, 0⟩
  ((Vector.replicate 8 downstream).set 0 upstream).set 1 upstream

/-- The Flow Table after power-on (R10). -/
def defaultFlow : Vector FlowEntry 64 :=
  (Vector.replicate 64 ({} : FlowEntry)).set 0 managementEntry

/-- The state of the relay, block by block, and the queue of waiting commands. `free` is the index of the next free
value of Config (log 10, log 19, log 37). -/
structure State where
  clock        : Clock := {}
  ports        : Vector PortState 8 := Vector.replicate 8 {}
  flow         : Vector FlowEntry 64 := defaultFlow
  portMap      : Vector PortMapEntry 8 := defaultPortMap
  sessions     : Vector ClientSession 2 := Vector.replicate 2 {}
  refs         : Vector Reference 6 := Vector.replicate 6 {}
  gnss         : Gnss := {}
  window       : WindowState := {}
  selector     : Selector := {}
  realign      : Realign := {}
  servo        : Servo := {}
  holdover     : Holdover := {}
  sites        : Vector Site 6 := Vector.replicate 6 {}
  servingSince : Bool := false
  pins         : Vector Pin 4 := Vector.replicate 4 {}
  alarm        : Alarm := {}
  mgmt         : Mgmt := {}
  free         : Nat := 0
  pending      : List Instr := []
deriving DecidableEq, Repr

/-- Reasons a step can stop with a fault. The manual stops the relay nowhere (INVENTORY.md, "Faults"), so no meaning
raises one. -/
inductive Fault where
  /-- Raised by nothing: the manual names no event that stops the relay. Safe. -/
  | none
deriving DecidableEq, Repr

/-- Reasons a step can be refused. -/
inductive Refusal where
  /-- Raised by an arm of `exec` whose command has no meaning yet; no arm is left so. Safe. -/
  | notModelled (mnemonic : String)
deriving DecidableEq, Repr

/-- The FREERUN record after reset: reported present as the Time Engine starts and raised at once under the default
configuration, its notice pending since Notify Enable is off (R115, R172, R188). -/
def freerunAtReset : AlarmRecord :=
  { state := .raised, present := true, pending := true, raiseCount := 1, first := some ⟨0, 0⟩, last := some ⟨0, 0⟩ }

/-- A LINK_DOWN record after reset: reported present, its 2 s hold-off running from 0 (R2, R170, R172). -/
def linkDownAtReset : AlarmRecord :=
  { state := .raising, present := true, last := some ⟨0, 0⟩, timer := some 0 }

/-- The Alarm Table after reset, once the starting blocks have reported (R170, R188; log 40). -/
def alarmsAtReset : Vector AlarmRecord 41 :=
  #v[{}, {}, {}, {}, {}, {}, {}, freerunAtReset, {}, {}, {},
     linkDownAtReset, linkDownAtReset, linkDownAtReset, linkDownAtReset, linkDownAtReset, linkDownAtReset,
     linkDownAtReset, linkDownAtReset,
     {}, {}, {}, {}, {}, {}, {}, {}, {}, {}, {}, {}, {}, {}, {}, {}, {}, {}, {}, {}, {}, {}]

/-- The relay right after reset: every block as R10, R11, R24, R45, R69, R89, R115, R136, R155, R167, R188 and R202
leave it at power-on, the straps reading 0 (log 39). -/
def State.reset : State :=
  { alarm := { recs := alarmsAtReset, asserted := true } }

end Sys2Proof.Machine
end

