-- ==== Sys2Proof/Machine/Arith.lean ====
section
/-! DEFINITION. The arithmetic the manual names: rounding, clamping, saturating counters, and reading a time in
seconds, nanoseconds and fraction (00_scope.md, "Conventions"). -/
namespace Sys2Proof.Machine
open Sys2Proof

/-- `a / b` rounded to nearest, ties away from zero (00_scope.md, "Rounding"); `b` is positive where it is used. -/
def roundDiv (a b : Int) : Int :=
  if 0 ≤ a then (2 * a + b) / (2 * b) else -((2 * (-a) + b) / (2 * b))

/-- Clamp to a range that includes both ends. -/
def clampInt (lo hi x : Int) : Int := max lo (min hi x)

/-- Clamp to plus or minus a limit. -/
def clampMag (limit : Nat) (x : Int) : Int := clampInt (-(limit : Int)) limit x

/-- Add to a counter that stays at 2^32 - 1 once it reaches it (R23). -/
def bumpBy (k n : Nat) : Nat := min (n + k) counterMax

/-- Count one (R23). -/
def bump (n : Nat) : Nat := bumpBy 1 n

/-- Seconds part of a time. -/
def secondsOf (t : Nat) : Nat := t / secUnits

/-- Nanoseconds part of a time. -/
def nanosOf (t : Nat) : Nat := t % secUnits / nsUnits

/-- Fraction part of a time, in units of 2^-16 ns. -/
def fractionOf (t : Nat) : Nat := t % nsUnits

/-- The time of given parts. -/
def timeOf (seconds nanos fraction : Nat) : Nat := seconds * secUnits + nanos * nsUnits + fraction

/-- The first multiple of `period` that is at least `t`. -/
def nextMultiple (period t : Nat) : Nat := (t + (period - 1)) / period * period

/-- `floor(n / d)` carried up when a part is left. -/
def ceilDiv (n d : Nat) : Nat := (n + (d - 1)) / d

end Sys2Proof.Machine
end

