-- ==== Sys2Proof/Machine/Flags.lean ====
section
/-! DEFINITION. Defect sets (R48, R67) and elapsed timers on the Residence Clock. -/
namespace Sys2Proof.Machine
open Sys2Proof

/-- Every defect name, in the order of R67. -/
def allDefects : List Defect :=
  [.signalLost, .freqRange, .wander, .phaseJump, .gradeLow, .starved, .noticeMissing, .todMissing, .todMismatch,
   .phaseFar]

/-- Make one defect present or absent, keeping the order of R67. -/
def putDefect (d : Defect) (present : Bool) (ds : List Defect) : List Defect :=
  allDefects.filter fun x => if x = d then present else ds.contains x

/-- Number of a defect name in a Cause list (11, "Table entries"). -/
def defectNumber (d : Defect) : Nat := allDefects.idxOf d

/-- A timer started at 0. -/
def timerStart (now : Nat) : Timer := { base := 0, since := some now }

/-- A timer stopped at 0. -/
def timerZero : Timer := {}

/-- What a timer shows, in fraction units. -/
def timerElapsed (t : Timer) (now : Nat) : Nat :=
  match t.since with
  | some start => t.base + (now - start)
  | none => t.base

/-- Stop a timer at its value. -/
def timerStop (t : Timer) (now : Nat) : Timer := { base := timerElapsed t now, since := none }

/-- Let a stopped timer run on from its value. -/
def timerResume (t : Timer) (now : Nat) : Timer := { t with since := some now }

/-- Whether a timer runs. -/
def timerRuns (t : Timer) : Bool := t.since.isSome

end Sys2Proof.Machine
end

