-- ==== Sys2Proof/Machine/Ops.lean ====
section
/-! DEFINITION. The shared operations over State: places in its tables, the passing of time on the clocks, and the
single-block updates every meaning is made of. -/
namespace Sys2Proof.Machine
open Sys2Proof

/-! ## Places in the tables -/

/-- Index of a port, N0, N1, S0 to S5. -/
def portIdx : Port → Fin 8
  | .n0 => 0 | .n1 => 1 | .s0 => 2 | .s1 => 3 | .s2 => 4 | .s3 => 5 | .s4 => 6 | .s5 => 7

/-- Every port in index order. -/
def allPorts : List Port := [.n0, .n1, .s0, .s1, .s2, .s3, .s4, .s5]

/-- The port of a number, when it names one. -/
def portOfNat? (k : Nat) : Option Port := allPorts[k]?

/-- The site port of a site (07). -/
def sitePort : Fin 6 → Port
  | 0 => .s0 | 1 => .s1 | 2 => .s2 | 3 => .s3 | 4 => .s4 | 5 => .s5

/-- The site of a site port. -/
def portSite? : Port → Option (Fin 6)
  | .n0 => none | .n1 => none
  | .s0 => some 0 | .s1 => some 1 | .s2 => some 2 | .s3 => some 3 | .s4 => some 4 | .s5 => some 5

/-- Every site. -/
def allSites : List (Fin 6) := [0, 1, 2, 3, 4, 5]

/-- Every pin. -/
def allPins : List (Fin 4) := [0, 1, 2, 3]

/-- Index of a reference, its id. -/
def refIdx : Ref → Fin 6
  | .gnss => 0 | .pkt0 => 1 | .pkt1 => 2 | .line0 => 3 | .line1 => 4 | .ext => 5

/-- Every reference in id order. -/
def allRefs : List Ref := [.gnss, .pkt0, .pkt1, .line0, .line1, .ext]

/-- The reference of an id, when it names one. -/
def refOfNat? (k : Nat) : Option Ref := allRefs[k]?

/-- The phase-capable references (00_scope.md, "References"). -/
def phaseCapable : Ref → Bool
  | .gnss => true | .pkt0 => true | .pkt1 => true
  | .line0 => false | .line1 => false | .ext => false

/-- Index of a Client Session. -/
def clientIdx : Client → Fin 2
  | .pkt0 => 0 | .pkt1 => 1

/-- Both Client Sessions. -/
def allClients : List Client := [.pkt0, .pkt1]

/-- The network port a Client Session works on (02). -/
def clientPort : Client → Port
  | .pkt0 => .n0 | .pkt1 => .n1

/-- The reference a Client Session supplies (02). -/
def clientRef : Client → Ref
  | .pkt0 => .pkt0 | .pkt1 => .pkt1

/-- The Client Session of a network port. -/
def portClient? : Port → Option Client
  | .n0 => some .pkt0 | .n1 => some .pkt1
  | .s0 => none | .s1 => none | .s2 => none | .s3 => none | .s4 => none | .s5 => none

/-- The LINE reference of a network port's line clock (03). -/
def lineRef : Client → Ref
  | .pkt0 => .line0 | .pkt1 => .line1

/-- Whether a port is in a port set. -/
def inPorts (ps : PortSet) (p : Port) : Bool := ps.getLsbD (portIdx p).val

/-! ## Reading State -/

/-- One port. -/
def State.port (s : State) (p : Port) : PortState := s.ports.get (portIdx p)

/-- One reference. -/
def State.ref (s : State) (r : Ref) : Reference := s.refs.get (refIdx r)

/-- One Client Session. -/
def State.client (s : State) (c : Client) : ClientSession := s.sessions.get (clientIdx c)

/-- One Delivery Session. -/
def State.site (s : State) (k : Fin 6) : Site := s.sites.get k

/-- One pin. -/
def State.tpin (s : State) (k : Fin 4) : Pin := s.pins.get k

/-- The Time Counter and Epoch as they stand. -/
def State.stamp (s : State) : Stamp := ⟨s.clock.counter, s.clock.epoch⟩

/-- The Residence Clock as it stands. -/
def State.res (s : State) : Nat := s.clock.residence

/-! ## Single-block updates -/

/-- Update one port. -/
def State.updPort (s : State) (p : Port) (f : PortState → PortState) : State :=
  { s with ports := updAt s.ports (portIdx p) f }

/-- Update one reference. -/
def State.updRef (s : State) (r : Ref) (f : Reference → Reference) : State :=
  { s with refs := updAt s.refs (refIdx r) f }

/-- Update one Client Session. -/
def State.updClient (s : State) (c : Client) (f : ClientSession → ClientSession) : State :=
  { s with sessions := updAt s.sessions (clientIdx c) f }

/-- Update one Delivery Session. -/
def State.updSite (s : State) (k : Fin 6) (f : Site → Site) : State :=
  { s with sites := updAt s.sites k f }

/-- Update one pin. -/
def State.updPin (s : State) (k : Fin 4) (f : Pin → Pin) : State :=
  { s with pins := updAt s.pins k f }

/-- Update the Alarm Unit. -/
def State.updAlarm (s : State) (f : Alarm → Alarm) : State := { s with alarm := f s.alarm }

/-- Update the Servo. -/
def State.updServo (s : State) (f : Servo → Servo) : State := { s with servo := f s.servo }

/-- Update the Holdover Unit. -/
def State.updHold (s : State) (f : Holdover → Holdover) : State := { s with holdover := f s.holdover }

/-- Update the Selector. -/
def State.updSel (s : State) (f : Selector → Selector) : State := { s with selector := f s.selector }

/-- Update the Realignment Unit. -/
def State.updReal (s : State) (f : Realign → Realign) : State := { s with realign := f s.realign }

/-- Update the Management Unit. -/
def State.updMgmt (s : State) (f : Mgmt → Mgmt) : State := { s with mgmt := f s.mgmt }

/-- Update the GNSS receiver. -/
def State.updGnss (s : State) (f : Gnss → Gnss) : State := { s with gnss := f s.gnss }

/-- Count on a port. -/
def State.countPort (s : State) (p : Port) (f : PortCounters → PortCounters) : State :=
  s.updPort p fun x => { x with ctr := f x.ctr }

/-- Count on a Client Session. -/
def State.countClient (s : State) (c : Client) (f : ClientCounters → ClientCounters) : State :=
  s.updClient c fun x => { x with ctr := f x.ctr }

/-- Count on a Delivery Session. -/
def State.countSite (s : State) (k : Fin 6) (f : SiteCounters → SiteCounters) : State :=
  s.updSite k fun x => { x with ctr := f x.ctr }

/-- Count on GNSS. -/
def State.countGnss (s : State) (f : GnssCounters → GnssCounters) : State :=
  s.updGnss fun x => { x with ctr := f x.ctr }

/-- Count in the Time Engine. -/
def State.countServo (s : State) (f : ServoCounters → ServoCounters) : State :=
  s.updServo fun x => { x with ctr := f x.ctr }

/-- Count in the Realignment Unit. -/
def State.countReal (s : State) (f : RealignCounters → RealignCounters) : State :=
  s.updReal fun x => { x with ctr := f x.ctr }

/-- Count in the Holdover Unit. -/
def State.countHold (s : State) (f : HoldoverCounters → HoldoverCounters) : State :=
  s.updHold fun x => { x with ctr := f x.ctr }

/-- Count in the Management Unit. -/
def State.countMgmt (s : State) (f : MgmtCounters → MgmtCounters) : State :=
  s.updMgmt fun x => { x with ctr := f x.ctr }

/-! ## The passing of time (R90, R21; log 1, log 3, log 4, log 6) -/

/-- How much the counter advances in 10^12 units of oscillator time: the factor 1 + F * 10^-12 of R90. -/
def rateOf (f : Int) : Nat := (1000000000000 + f).toNat

/-- Parts of one fraction unit in which the left-over is kept. -/
def unitParts : Nat := 2000000000000

/-- Fraction units left until the counter carries into the next second. -/
def Clock.room (c : Clock) : Nat :=
  if c.boundaryDue then 0 else secUnits - c.counter % secUnits

/-- Let the counter advance by exactly `d` units: the oscillator runs for the time that takes (R90). -/
def Clock.run (f : Int) (d : Nat) (c : Clock) : Clock :=
  let osc := ceilDiv (unitParts * d - c.residue) (rateOf f)
  { c with
    counter := c.counter + d
    residence := c.residence + d
    residue := c.residue + osc * rateOf f - unitParts * d
    osc := c.osc + osc }

/-- Let the oscillator run for `dt` before an event from outside. The event is not a second boundary, so the counter
stops short of the next one (log 6). -/
def Clock.pass (f : Int) (dt : Nat) (c : Clock) : Clock :=
  if c.boundaryDue then c
  else
    let total := c.residue + dt * rateOf f
    if total / unitParts < c.room then
      { c with
        counter := c.counter + total / unitParts
        residence := c.residence + total / unitParts
        residue := total % unitParts
        osc := c.osc + dt }
    else c.run f (c.room - 1)

/-- Bring the clocks to an instant `d` units ahead, if no second boundary or carry comes before it. An instant that
falls together with a second boundary is reached with the boundary's work outstanding (log 4). -/
def Clock.reach (f : Int) (d : Nat) (c : Clock) : Option Clock :=
  if d = 0 then some c
  else if d < c.room then some (c.run f d)
  else if d = c.room ∧ secondsOf c.counter + 1 < secRange then some { c.run f d with boundaryDue := true }
  else none

/-- Bring the clocks to the second boundary that comes next, if it is not the carry of R91; its work is outstanding. -/
def Clock.toBoundary (f : Int) (c : Clock) : Option Clock :=
  if c.boundaryDue then some c
  else if secondsOf c.counter + 1 < secRange then some { c.run f c.room with boundaryDue := true }
  else none

/-- The clocks once the work of the boundary they stand at is taken. -/
def Clock.settle (c : Clock) : Clock := { c with boundaryDue := false }

/-- Bring the clocks to an oscillator time, if no second boundary or carry comes before it. One that falls together
with a second boundary is reached with the boundary's work outstanding, so that either can be taken first (R164;
log 4). -/
def Clock.reachOsc (f : Int) (target : Nat) (c : Clock) : Option Clock :=
  if target ≤ c.osc then some c
  else
    let total := c.residue + (target - c.osc) * rateOf f
    if total / unitParts < c.room then
      some { c with
        counter := c.counter + total / unitParts
        residence := c.residence + total / unitParts
        residue := total % unitParts
        osc := target }
    else (c.toBoundary f).filter fun b => !c.boundaryDue && decide (target ≤ b.osc)

/-! ## Closing a second and a minute (R116 to R119) -/

/-- Capacity of the History Ring (R116). -/
def ringCapacity : Nat := 1440

/-- The settle test (R118). -/
def Holdover.settled (x : Holdover) : Bool :=
  match x.settle with
  | some d => decide (d.natAbs ≤ x.params.settleLimit)
  | none => false

/-- Whether the second just ended qualifies, by its close (R117). -/
def State.qualifying (s : State) : Bool :=
  !s.holdover.acc.firstVoid && (s.servo.state = .locked || (s.servo.state = .freqTrack && s.holdover.settled))

/-- The accumulator after it has taken the second just ended; `i` is the I at its close (R117). -/
def MinuteAcc.take (qualifies : Bool) (i : Int) (x : MinuteAcc) : MinuteAcc :=
  { count := if qualifies then x.count + 1 else x.count
    iSum := if qualifies then x.iSum + i else x.iSum
    firstVoid := false }

/-- The accumulator takes the second just ended (R117). -/
def State.takeSecond (s : State) : State :=
  s.updHold fun x => { x with acc := x.acc.take s.qualifying s.servo.i }

/-- Source of an entry (R119). -/
def State.ringSource (s : State) : Option Ref :=
  match s.selector.phase with
  | some r => some r
  | none => if s.servo.state = .freqTrack then s.selector.freq else none

/-- Append an entry for a minute, removing the oldest of a full ring, and empty the accumulator (R116, R119, R120). -/
def Holdover.append (stamp : Nat) (source : Option Ref) (state : ServoState) (x : Holdover) : Holdover :=
  let full := decide (ringCapacity ≤ x.ring.length)
  let e : RingEntry :=
    { stamp := stamp, lockedSeconds := x.acc.count
      meanFreq := if x.acc.count = 0 then none else some (roundDiv x.acc.iSum x.acc.count)
      source := source, servoState := state }
  { x with
    ring := (if full then x.ring.drop 1 else x.ring) ++ [e]
    acc := { count := 0, iSum := 0, firstVoid := x.acc.firstVoid }
    ctr := { x.ctr with
      entriesAppended := bump x.ctr.entriesAppended
      ringOverwrites := if full then bump x.ctr.ringOverwrites else x.ctr.ringOverwrites } }

/-- Append an entry for a minute with the Source and the Servo State that stand (R119, R120). -/
def State.appendMinute (s : State) (stamp : Nat) : State :=
  s.updHold (Holdover.append stamp s.ringSource s.servo.state)

/-- The Holdover Unit once the second that ends at the boundary into `second` has been taken, and the minute closed at
a minute boundary (R117, R119). -/
def State.secondClosed (s : State) (second : Nat) : Holdover :=
  let x := s.takeSecond.holdover
  if second % 60 = 0 then x.append (second / 60) s.ringSource s.servo.state else x

/-- The clocks come to `c`. Where that is a second boundary not stood at before, its work is now outstanding, and the
Holdover Unit takes the second that has just ended at once: its close comes before any event of the boundary
(R117, R119). -/
def State.arrive (s : State) (c : Clock) : State :=
  { s with
    clock := c
    holdover := if c.boundaryDue && !s.clock.boundaryDue then s.secondClosed (secondsOf c.counter) else s.holdover }

/-! ## The passing of time on the state -/

/-- Let time pass before an event from outside. -/
def State.pass (s : State) (dt : Nat) : State := { s with clock := s.clock.pass s.servo.f dt }

/-- Bring the relay to an instant `d` units ahead. -/
def State.reach (s : State) (d : Nat) : Option State := (s.clock.reach s.servo.f d).map s.arrive

/-- Bring the relay to a Residence Clock value. -/
def State.reachRes (s : State) (target : Nat) : Option State := s.reach (target - s.res)

/-- Bring the relay to a Time Counter value. -/
def State.reachCounter (s : State) (target : Nat) : Option State := s.reach (target - s.clock.counter)

/-- Bring the relay to an oscillator time. -/
def State.reachOsc (s : State) (osc : Nat) : Option State := (s.clock.reachOsc s.servo.f osc).map s.arrive

/-- Act at an instant if it can be reached; an event that cannot come changes nothing (log 5). -/
def State.atInstant (s : State) (there : Option State) (act : State → State) : State :=
  match there with
  | some t => act t
  | none => s

/-- The due instant that comes next on a schedule of `period` units, once every instant at or before `done` is taken
(R36, R145). -/
def nextDue (period done counter : Nat) : Nat := nextMultiple period (max (done + 1) counter)

/-- Take the next free value's index (log 10, log 19, log 37). -/
def State.useFree (s : State) : State := { s with free := s.free + 1 }

end Sys2Proof.Machine
end

