-- ==== Sys2Proof/Machine/Operands.lean ====
section
/-! DEFINITION. Byte layouts of chapter 11: numbers most significant byte first, the common header, and the field
encodings of table entries, with their readers. -/
namespace Sys2Proof.Machine
open Sys2Proof

/-! ## Numbers in bytes -/

/-- `n` bytes of a number, most significant first. -/
def beBytes : Nat → Nat → List Byte
  | 0, _ => []
  | n + 1, v => beBytes n (v / 256) ++ [BitVec.ofNat 8 v]

/-- The number of a run of bytes, most significant first. -/
def beNat (bs : List Byte) : Nat := bs.foldl (fun a b => a * 256 + b.toNat) 0

/-- `n` bytes of a signed number in two's complement. -/
def beBytesInt (n : Nat) (v : Int) : List Byte := beBytes n (v % (2 ^ (8 * n) : Nat)).toNat

/-- The signed number of a run of bytes in two's complement. -/
def beInt (bs : List Byte) : Int :=
  let v := beNat bs
  let span := 2 ^ (8 * bs.length)
  if 2 * v < span then v else (v : Int) - span

/-- `len` bytes from an offset. -/
def slice (off len : Nat) (bs : List Byte) : List Byte := (bs.drop off).take len

/-- Replace the bytes at an offset. -/
def overwrite (off : Nat) (new bs : List Byte) : List Byte := bs.take off ++ new ++ bs.drop (off + new.length)

/-! ## The common header (11, "The Meridane frame") -/

/-- The 28-byte common header. -/
structure Header where
  cls        : Nat
  type       : Nat
  domain     : Nat := 0
  flags      : Nat := 0
  seq        : Nat := 0
  grade      : Nat := 0
  epoch      : Nat := 0
  seconds    : Nat := 0
  nanos      : Nat := 0
  correction : Int := 0
  bodyLen    : Nat := 0
deriving DecidableEq, Repr

/-- Class TIMING. -/
def classTiming : Nat := 1
/-- Class MANAGEMENT. -/
def classManagement : Nat := 2
/-- Type TIME_MARK. -/
def typeTimeMark : Nat := 0x01
/-- Type QUALITY_NOTICE. -/
def typeQualityNotice : Nat := 0x02
/-- Type DELAY_QUERY. -/
def typeDelayQuery : Nat := 0x03
/-- Type DELAY_REPLY. -/
def typeDelayReply : Nat := 0x04
/-- Type RESPONSE. -/
def typeResponse : Nat := 0x20
/-- Type ALARM_NOTICE. -/
def typeAlarmNotice : Nat := 0x21

/-- The Timing Group Address (R204). -/
def timingGroup : Addr := 0x014D44540000

/-- The bytes of a common header. -/
def headerBytes (h : Header) : List Byte :=
  beBytes 1 h.cls ++ beBytes 1 h.type ++ beBytes 1 h.domain ++ beBytes 1 h.flags ++ beBytes 2 h.seq ++
    beBytes 1 h.grade ++ beBytes 1 h.epoch ++ beBytes 6 h.seconds ++ beBytes 4 h.nanos ++
    beBytesInt 8 h.correction ++ beBytes 2 h.bodyLen

/-- The common header of the bytes after the EtherType. -/
def readHeader (bs : List Byte) : Header :=
  { cls := beNat (slice 0 1 bs)
    type := beNat (slice 1 1 bs)
    domain := beNat (slice 2 1 bs)
    flags := beNat (slice 3 1 bs)
    seq := beNat (slice 4 2 bs)
    grade := beNat (slice 6 1 bs)
    epoch := beNat (slice 7 1 bs)
    seconds := beNat (slice 8 6 bs)
    nanos := beNat (slice 14 4 bs)
    correction := beInt (slice 18 8 bs)
    bodyLen := beNat (slice 26 2 bs) }

/-- The body of a frame that passed R206: Body Length bytes after the header. -/
def bodyOf (bs : List Byte) : List Byte := slice 28 (beNat (slice 26 2 bs)) bs

/-- The Timestamp field in fraction units. -/
def Header.time (h : Header) : Nat := timeOf h.seconds h.nanos 0

/-- Flag Serving, bit 0. -/
def Header.serving (h : Header) : Bool := h.flags % 2 == 1

/-- The tag of a frame the relay builds: untagged, or the vid given (log 16). -/
def builtTag (vid : Option Nat) : Option Tag := vid.map fun v => ⟨BitVec.ofNat 12 v, Config.builtTagRest⟩

/-- A frame the relay builds. -/
def builtFrame (dst src : Addr) (tag : Option Tag) (partEther : Nat) (h : Header) (body : List Byte) : Frame :=
  { dst := dst, src := src, tag := tag, etherType := BitVec.ofNat 16 partEther
    payload := headerBytes { h with bodyLen := body.length } ++ body }

/-! ## Fields of table entries (11, "Table entries") -/

/-- Boolean. -/
def encBool (b : Bool) : List Byte := [if b then 1 else 0]
/-- Enumeration: the position in the listed set. -/
def encEnum (k : Nat) : List Byte := beBytes 1 k
/-- Number, 8 bytes signed. -/
def encNum (v : Int) : List Byte := beBytesInt 8 v
/-- Reference id. -/
def encRef (r : Ref) : List Byte := beBytes 1 (refIdx r).val
/-- Port set, with ACTIVE_UPLINK in bit 0 of the first byte. -/
def encPorts (e : EgressSet) : List Byte := [if e.uplink then 1 else 0, e.ports]
/-- Station address. -/
def encAddr (a : Addr) : List Byte := beBytes 6 a.toNat
/-- Residence Clock value. -/
def encRes (t : Nat) : List Byte := beBytes 6 (secondsOf t) ++ beBytes 4 (nanosOf t) ++ beBytes 2 (fractionOf t)
/-- Time: a Time Counter value with its Epoch. -/
def encTime (t : Stamp) : List Byte := encRes t.counter ++ beBytes 1 t.epoch
/-- Elapsed timer. -/
def encElapsed (units : Nat) (running : Bool) : List Byte :=
  beBytesInt 8 (secondsOf units) ++ beBytes 4 (nanosOf units) ++ encBool running
/-- A timer of the Residence Clock as it stands. -/
def encTimer (t : Timer) (res : Nat) : List Byte := encElapsed (timerElapsed t res) (timerRuns t)
/-- Optional field of `width` bytes. -/
def encOpt {α : Type} (width : Nat) (f : α → List Byte) : Option α → List Byte
  | some a => 1 :: f a
  | none => 0 :: List.replicate width 0
/-- Optional number. -/
def encOptNum (v : Option Nat) : List Byte := encOpt 8 (fun n => encNum n) v
/-- Optional signed number. -/
def encOptInt (v : Option Int) : List Byte := encOpt 8 encNum v
/-- List: a count, then the items. -/
def encList {α : Type} (f : α → List Byte) (l : List α) : List Byte := beBytes 1 l.length ++ l.flatMap f
/-- A Cause list. -/
def encCause (ds : List Defect) : List Byte := encList (fun d => beBytes 1 (defectNumber d)) ds

/-- A reader of a field: the value and the bytes left. -/
abbrev Reader (α : Type) := List Byte → Option (α × List Byte)

/-- Read one byte. -/
def takeByte : Reader Nat
  | [] => none
  | b :: rest => some (b.toNat, rest)

/-- Read a number of 8 bytes. -/
def takeNum : Reader Int := fun bs =>
  if bs.length < 8 then none else some (beInt (bs.take 8), bs.drop 8)

/-- Read a boolean; a byte above 1 fails (R205). -/
def takeBool : Reader Bool := fun bs =>
  match takeByte bs with
  | some (0, rest) => some (false, rest)
  | some (1, rest) => some (true, rest)
  | _ => none

/-- Read a station address. -/
def takeAddr : Reader Addr := fun bs =>
  if bs.length < 6 then none else some (BitVec.ofNat 48 (beNat (bs.take 6)), bs.drop 6)

/-- Read a port set; bits of the first byte other than ACTIVE_UPLINK fail, and ACTIVE_UPLINK too where the field does
not take it (R205). -/
def takePorts (uplinkAllowed : Bool) : Reader EgressSet
  | hi :: lo :: rest =>
    if hi = 0 then some (⟨lo, false⟩, rest)
    else if hi = 1 ∧ uplinkAllowed = true then some (⟨lo, true⟩, rest)
    else none
  | _ => none

/-- Read an optional field of `width` bytes; a presence byte above 1 fails (log 25). -/
def takeOpt {α : Type} (width : Nat) (f : Reader α) : Reader (Option α) := fun bs =>
  match takeByte bs with
  | some (0, rest) => if rest.length < width then none else some (none, rest.drop width)
  | some (1, rest) => (f rest).map fun (a, left) => (some a, left)
  | _ => none

/-- Read `n` bytes. -/
def takeBytes : Nat → Reader (List Nat)
  | 0, bs => some ([], bs)
  | n + 1, bs =>
    match takeByte bs with
    | none => none
    | some (b, rest) => (takeBytes n rest).map fun (l, left) => (b :: l, left)

/-- Read a list of one-byte items. -/
def takeByteList : Reader (List Nat) := fun bs =>
  match takeByte bs with
  | none => none
  | some (n, rest) => takeBytes n rest

/-- Read a whole entry: all its bytes and no others (R205). -/
def readWhole {α : Type} (r : Reader α) (bs : List Byte) : Option α :=
  match r bs with
  | some (a, []) => some a
  | _ => none

end Sys2Proof.Machine
end

