-- ==== Sys2Proof/Machine/Alarms.lean ====
section
/-! DEFINITION. The Alarm Unit's own operations (09): moving a record, producing and placing notices, draining pending
records, and driving ALARM_N. Each works on the Alarm Unit alone; `now` is the Time Counter with its Epoch and `res`
the Residence Clock. -/
namespace Sys2Proof.Machine
open Sys2Proof

/-! ## Records -/

/-- REF_FAIL record of a reference. -/
def recRefFail (r : Ref) : Fin 41 := ⟨(refIdx r).val, by omega⟩
/-- HOLDOVER. -/
def recHoldover : Fin 41 := 6
/-- FREERUN. -/
def recFreerun : Fin 41 := 7
/-- HISTORY_SHORT. -/
def recHistoryShort : Fin 41 := 8
/-- BUDGET_LOW. -/
def recBudgetLow : Fin 41 := 9
/-- PHASE_TRANSIENT. -/
def recTransient : Fin 41 := 10
/-- LINK_DOWN of a port. -/
def recLinkDown (p : Port) : Fin 41 := ⟨11 + (portIdx p).val, by omega⟩
/-- TIMING_LOSS of a port. -/
def recTimingLoss (p : Port) : Fin 41 := ⟨19 + (portIdx p).val, by omega⟩
/-- SITE_ABSENT of a site. -/
def recSiteAbsent (k : Fin 6) : Fin 41 := ⟨27 + k.val, by omega⟩
/-- SITE_MUTED of a site. -/
def recSiteMuted (k : Fin 6) : Fin 41 := ⟨33 + k.val, by omega⟩
/-- NOTICE_OVERFLOW. -/
def recOverflow : Fin 41 := 39
/-- TEST. -/
def recTest : Fin 41 := 40

/-- Every record index. -/
def allRecords : List (Fin 41) := List.finRange 41

/-- The condition of a record, 0 to 11 in the order of R168. -/
def conditionOf (i : Fin 41) : Fin 12 :=
  if i.val < 6 then 0
  else if i.val = 6 then 1
  else if i.val = 7 then 2
  else if i.val = 8 then 3
  else if i.val = 9 then 4
  else if i.val = 10 then 5
  else if i.val < 19 then 6
  else if i.val < 27 then 7
  else if i.val < 33 then 8
  else if i.val < 39 then 9
  else if i.val = 39 then 10
  else 11

/-- The Instance of a record (R175). -/
def instanceOf (i : Fin 41) : Nat :=
  if i.val < 6 then i.val
  else if i.val < 11 then 0
  else if i.val < 19 then i.val - 11
  else if i.val < 27 then i.val - 19
  else if i.val < 33 then i.val - 27
  else if i.val < 39 then i.val - 33
  else 0

/-- The configuration that applies to a record (R168). -/
def Alarm.cfgOf (a : Alarm) (i : Fin 41) : AlarmCfg := a.cfg.get (conditionOf i)

/-- One record. -/
def Alarm.record (a : Alarm) (i : Fin 41) : AlarmRecord := a.recs.get i

/-- Update one record. -/
def Alarm.updRec (a : Alarm) (i : Fin 41) (f : AlarmRecord → AlarmRecord) : Alarm :=
  { a with recs := updAt a.recs i f }

/-- Whether a condition's records are told to the collector (R174). -/
def AlarmCfg.notifies (c : AlarmCfg) : Bool :=
  (c.route = .notice || c.route = .both) && c.severity ≠ .off

/-- Whether a condition's records count toward the pin (09, "Driving ALARM_N"). -/
def AlarmCfg.pinRouted (c : AlarmCfg) : Bool :=
  (c.route = .pin || c.route = .both) && c.severity ≠ .off

/-! ## ALARM_N -/

/-- A record holds the pin in LEVEL mode: RAISED or CLEARING and unacknowledged (R184). -/
def AlarmRecord.holdsPin (r : AlarmRecord) : Bool :=
  (r.state = .raised || r.state = .clearing) && !r.acked

/-- The pin's level in LEVEL mode (R184). -/
def Alarm.levelPin (a : Alarm) : Bool :=
  allRecords.any fun i => (a.cfgOf i).pinRouted && (a.record i).holdsPin

/-- Evaluate the pin: in LEVEL mode it follows the records at once (R184); in PULSE mode nothing changes. -/
def Alarm.evalPin (a : Alarm) : Alarm :=
  if a.set.pulseMode then a else { a with asserted := a.levelPin }

/-- Start or restart a pulse at a raise, in PULSE mode (R185). -/
def Alarm.pulseFor (res : Nat) (i : Fin 41) (a : Alarm) : Alarm :=
  if a.set.pulseMode && (a.cfgOf i).pinRouted then
    { a with asserted := true, pulse := some res, ctr := { a.ctr with pinPulses := bump a.ctr.pinPulses } }
  else a

/-! ## Notices -/

/-- The notice of a record as it stands (R175). -/
def Alarm.noticeOf (a : Alarm) (i : Fin 41) : Notice :=
  { record := i
    state := (a.record i).state
    severity := (a.cfgOf i).severity
    raiseCount := (a.record i).raiseCount
    time := (a.record i).last
    cause := (a.record i).cause }

/-- Capacity of the Notice Queue (R176). -/
def noticeCapacity : Nat := 16

/-- Place a produced notice by the first case of R176 that applies; the flag says that it met a full queue (case 4). -/
def Alarm.place (i : Fin 41) (a : Alarm) : Alarm × Bool :=
  if a.queue.any (fun n => n.record = i) then
    ({ a with
        queue := a.queue.map (fun n => if n.record = i then a.noticeOf i else n)
        ctr := { a.ctr with noticesRewritten := bump a.ctr.noticesRewritten } }, false)
  else if !a.set.notify then (a.updRec i fun r => { r with pending := true }, false)
  else if a.queue.length < noticeCapacity then ({ a with queue := a.queue ++ [a.noticeOf i] }, false)
  else
    ({ (a.updRec i fun r => { r with pending := true }) with
        ctr := { a.ctr with noticesDeferred := bump a.ctr.noticesDeferred } }, true)

/-- Produce a notice for a record if its route and severity ask for one (R174). -/
def Alarm.produce (i : Fin 41) (a : Alarm) : Alarm × Bool :=
  if (a.cfgOf i).notifies then a.place i else (a, false)

/-! ## Moving a record (R172) -/

/-- A raise. -/
def Alarm.raise (now : Stamp) (res : Nat) (i : Fin 41) (a : Alarm) : Alarm × Bool :=
  let a1 := a.updRec i fun r =>
    { r with
      state := .raised
      raiseCount := min (r.raiseCount + 1) 255
      acked := false
      first := r.first.or (some now)
      last := some now
      timer := none }
  ((a1.pulseFor res i).produce i)

/-- A clear. -/
def Alarm.clearRecord (now : Stamp) (i : Fin 41) (a : Alarm) : Alarm × Bool :=
  (a.updRec i fun r => { r with state := .clear, acked := false, last := some now, timer := none }).produce i

/-- Present has become true. -/
def Alarm.becomePresent (now : Stamp) (res : Nat) (i : Fin 41) (a : Alarm) : Alarm × Bool :=
  let a1 := a.updRec i fun r => { r with present := true }
  match (a.record i).state with
  | .clear =>
    if (a.cfgOf i).raiseHold = 0 then a1.raise now res i
    else (a1.updRec i fun r => { r with state := .raising, last := some now, timer := some res }, false)
  | .clearing => (a1.updRec i fun r => { r with state := .raised, last := some now, timer := none }, false)
  | .raising => (a1, false)
  | .raised => (a1, false)

/-- Present has become false. -/
def Alarm.becomeAbsent (now : Stamp) (res : Nat) (i : Fin 41) (a : Alarm) : Alarm × Bool :=
  let a1 := a.updRec i fun r => { r with present := false }
  match (a.record i).state with
  | .raising => (a1.updRec i fun r => { r with state := .clear, last := some now, timer := none }, false)
  | .raised =>
    if (a.cfgOf i).clearDelay = 0 then a1.clearRecord now i
    else (a1.updRec i fun r => { r with state := .clearing, last := some now, timer := some res }, false)
  | .clear => (a1, false)
  | .clearing => (a1, false)

/-- Take a report that differs from the stored Present (R171). -/
def Alarm.move (now : Stamp) (res : Nat) (i : Fin 41) (present : Bool) (a : Alarm) : Alarm × Bool :=
  if present = (a.record i).present then (a, false)
  else if present then a.becomePresent now res i
  else a.becomeAbsent now res i

/-- NOTICE_OVERFLOW reported present; its own notice can overflow too, which reports it present again (R177). The
number bounds how often the record can move in one event. -/
def Alarm.overflowed (now : Stamp) (res : Nat) : Nat → Alarm → Alarm
  | 0, a => a
  | n + 1, a =>
    match a.move now res recOverflow true with
    | (a1, true) => a1.overflowed now res n
    | (a1, false) => a1

/-- Follow an operation on a record with the report of an overflow it caused, and evaluate the pin. -/
def Alarm.settle (now : Stamp) (res : Nat) (x : Alarm × Bool) : Alarm :=
  match x with
  | (a, true) => (a.overflowed now res 3).evalPin
  | (a, false) => a.evalPin

/-- A report from a source block (R171); `cause` is read for REF_FAIL reports. -/
def Alarm.report (now : Stamp) (res : Nat) (i : Fin 41) (present : Bool) (cause : List Defect) (a : Alarm) : Alarm :=
  let a1 := if present && i.val < 6 then a.updRec i (fun r => { r with cause := cause }) else a
  Alarm.settle now res (a1.move now res i present)

/-- Whether a record is pending. -/
def Alarm.anyPending (a : Alarm) : Bool := allRecords.any fun i => (a.record i).pending

/-- Drain one pending record while there is room (R178). -/
def Alarm.drainOne (a : Alarm) (i : Fin 41) : Alarm :=
  if (a.record i).pending && a.queue.length < noticeCapacity then
    let a1 := a.updRec i fun r => { r with pending := false }
    if (a.cfgOf i).notifies then { a1 with queue := a1.queue ++ [a.noticeOf i] } else a1
  else a

/-- The drain of R178, which reports NOTICE_OVERFLOW absent when it clears the last Pending flag. -/
def Alarm.drain (now : Stamp) (res : Nat) (a : Alarm) : Alarm :=
  if a.set.notify && a.anyPending then
    let a1 := allRecords.foldl Alarm.drainOne a
    if a1.anyPending then a1.evalPin else Alarm.settle now res (a1.move now res recOverflow false)
  else a

/-- The hold-off of a RAISING record has run out (R172). -/
def Alarm.raiseExpired (now : Stamp) (res : Nat) (i : Fin 41) (a : Alarm) : Alarm :=
  if (a.record i).state = .raising then Alarm.settle now res (a.raise now res i) else a

/-- The delay of a CLEARING record has run out (R172). -/
def Alarm.clearExpired (now : Stamp) (res : Nat) (i : Fin 41) (a : Alarm) : Alarm :=
  if (a.record i).state = .clearing then Alarm.settle now res (a.clearRecord now i) else a

/-- Acknowledge one record if it is RAISED or CLEARING (R182, R183). -/
def Alarm.ackOne (a : Alarm) (i : Fin 41) : Alarm :=
  if (a.record i).holdsPin then
    { (a.updRec i fun r => { r with acked := true }) with
      ctr := { a.ctr with acknowledgementsGiven := bump a.ctr.acknowledgementsGiven } }
  else a

/-- Acknowledge records, in order, and evaluate the pin. -/
def Alarm.ackAll (is : List (Fin 41)) (a : Alarm) : Alarm := (is.foldl Alarm.ackOne a).evalPin

/-- The time of the next offer on the Residence Clock: once the send spacing has run out (R181). -/
def Alarm.spacingUnits (a : Alarm) : Nat := (roundDiv 1000000000 a.set.rate).toNat * nsUnits

/-! ## Reports to the Alarm Unit from State -/

/-- Report a condition without a cause. -/
def State.report (s : State) (i : Fin 41) (present : Bool) : State :=
  s.updAlarm (Alarm.report s.stamp s.res i present [])

/-- Report REF_FAIL of a reference with its defect set (R67). -/
def State.reportRef (s : State) (r : Ref) (present : Bool) (cause : List Defect) : State :=
  s.updAlarm (Alarm.report s.stamp s.res (recRefFail r) present cause)

end Sys2Proof.Machine
end

