-- ==== Sys2Proof/Machine/Scheduler.lean ====
section
/-! DEFINITION. The Egress Scheduler's operations (01, "The egress queues"): the offer of a frame, withdrawal, and the
flush at a link-down. -/
namespace Sys2Proof.Machine
open Sys2Proof

/-- Capacity of a queue (R16). -/
def queueCapacity : QueueClass → Nat
  | .timing => 16
  | .bulk => 48

/-- A full Timing Queue discarded a frame: TIMING_LOSS present, quiet interval restarted (R18). -/
def State.timingLoss (s : State) (p : Port) : State :=
  (s.updPort p fun x => { x with quiet := some s.res }).report (recTimingLoss p) true

/-- Offer a frame to a queue of a port (R16); the flag says whether it was queued. -/
def State.offer (s : State) (p : Port) (q : QueueClass) (f : QFrame) : State × Bool :=
  let x := s.port p
  if !x.linkUp then (s.countPort p fun c => { c with linkDownDiscards := bump c.linkDownDiscards }, false)
  else
    match q with
    | .timing =>
      if x.timingQ.length < queueCapacity .timing then
        (s.updPort p fun y => { y with timingQ := y.timingQ ++ [f] }, true)
      else
        ((s.countPort p fun c => { c with timingDiscards := bump c.timingDiscards }).timingLoss p, false)
    | .bulk =>
      if x.bulkQ.length < queueCapacity .bulk then
        (s.updPort p fun y => { y with bulkQ := y.bulkQ ++ [f] }, true)
      else (s.countPort p fun c => { c with bulkDiscards := bump c.bulkDiscards }, false)

/-- The TIME_MARKs waiting in a port's Timing Queue (R20). -/
def queuedMarks (x : PortState) : Nat := (x.timingQ.filter fun f => f.role = .timeMark).length

/-- Withdraw the TIME_MARKs of a site's session from its port's Timing Queue and count them (R20, R143). -/
def State.withdraw (s : State) (k : Fin 6) : State :=
  let n := queuedMarks (s.port (sitePort k))
  (s.updPort (sitePort k) fun x => { x with timingQ := x.timingQ.filter fun f => f.role ≠ .timeMark }).countSite k
    fun c => { c with marksWithdrawn := bumpBy n c.marksWithdrawn }

/-- The RESTART whose response a frame is, if it is one (R201). -/
def restartOf : FrameRole → Option RestartScope
  | .response r => r
  | .passing _ _ _ => none
  | .timeMark => none
  | .qualityNotice => none
  | .delayReply => none
  | .delayQuery _ => none
  | .alarmNotice => none

/-- Every frame a link-down of the port removes: both queues and the frame in transmission (R19). -/
def portFrames (x : PortState) : List QFrame :=
  x.timingQ ++ x.bulkQ ++ (x.tx.map (·.item)).toList

/-- Flush a port at its link-down (R19). A frame in transmission that RESTART DATAPATH has taken out of the counts (R24)
is counted under Flushed like any other that the link-down loses (log 50). -/
def State.flush (s : State) (p : Port) : State :=
  s.updPort p fun x =>
    { x with
      timingQ := []
      bulkQ := []
      tx := none
      ctr := { x.ctr with flushed := bumpBy (portFrames x).length x.ctr.flushed } }

end Sys2Proof.Machine
end

