-- ==== Sys2Proof/Machine/SiteOps.lean ====
section
/-! DEFINITION. The Delivery Unit's operations (07): states of a Delivery Session, its Serve Delay timer, its conditions,
and the messages it builds. -/
namespace Sys2Proof.Machine
open Sys2Proof

/-- Evaluate SITE_ABSENT and SITE_MUTED of a site and report them (R153). -/
def State.siteConditions (s : State) (k : Fin 6) : State :=
  let x := s.site k
  (s.report (recSiteAbsent k) (x.state = .serving && !x.present)).report (recSiteMuted k)
    (x.state = .muted && (s.port (sitePort k)).linkUp)

/-- Entry to SERVING (R141, R142). The first mark is due after this moment. -/
def State.enterServing (s : State) (k : Fin 6) : State :=
  ({ (s.updSite k fun x =>
      { x with
        state := .serving
        muteReason := none
        serve := timerZero
        markDone := s.clock.counter
        ctr := { x.ctr with serveEntries := bump x.ctr.serveEntries } }) with
    servingSince := true }).siteConditions k

/-- The three conditions under which a Serve Delay timer runs (R141). -/
def State.mayServe (s : State) (k : Fin 6) : Bool :=
  (s.site k).state = .muted && (s.port (sitePort k)).linkUp && decide ((s.site k).cfg.minGrade ≤ s.holdover.announced)

/-- Evaluate the Serve Delay timer of a session (R141): started when the three conditions first hold, stopped at 0 when
one fails, expired as it starts under Serve Delay 0 s. -/
def State.serveCheck (s : State) (k : Fin 6) : State :=
  if s.mayServe k then
    if timerRuns (s.site k).serve then s
    else if (s.site k).cfg.serveDelay = 0 then s.enterServing k
    else s.updSite k fun x => { x with serve := timerStart s.res }
  else s.updSite k fun x => { x with serve := timerZero }

/-- Mute a SERVING session whose Minimum Grade is above the Announced Grade, and withdraw its marks (R143). -/
def State.gradeMute (s : State) (k : Fin 6) : State :=
  if (s.site k).state = .serving ∧ s.holdover.announced < (s.site k).cfg.minGrade then
    ((s.updSite k fun x =>
      { x with state := .muted, muteReason := some .grade, ctr := { x.ctr with mutes := bump x.ctr.mutes } }).withdraw
        k).siteConditions k
  else s

/-- Take the Announced Grade for one session: mute, or start or stop the timer (R141, R143). -/
def State.siteGrade (s : State) (k : Fin 6) : State := (s.gradeMute k).serveCheck k

/-- The Announced Grade is delivered to the Delivery Unit (R132, R143). -/
def State.deliverGrade (s : State) : State := allSites.foldl State.siteGrade s

/-- The DISABLED values of a session's runtime record (R139, R140); its sequences and counters stay. -/
def disabledSite (x : Site) : Site :=
  { x with
    state := .disabled, muteReason := none, serve := timerZero, present := false, lastQuery := none, queries := 0
    epochPending := false }

/-- Enabled written true (R140). -/
def State.siteEnable (s : State) (k : Fin 6) : State :=
  ((s.updSite k fun x => { disabledSite x with state := .muted, muteReason := some .enabled }).serveCheck
    k).siteConditions k

/-- Enabled written false (R140, R144). -/
def State.siteDisable (s : State) (k : Fin 6) : State :=
  let s1 := if (s.site k).state = .serving then s.withdraw k else s
  (s1.updSite k disabledSite).siteConditions k

/-- Link-down of the site port (R140, R144). -/
def State.siteLinkDown (s : State) (k : Fin 6) : State :=
  match (s.site k).state with
  | .disabled => s
  | .muted => (s.updSite k fun x => { x with muteReason := some .link, serve := timerZero }).siteConditions k
  | .serving =>
    (s.updSite k fun x =>
      { x with
        state := .muted, muteReason := some .link, serve := timerZero
        ctr := { x.ctr with mutes := bump x.ctr.mutes } }).siteConditions k

/-- Link-up of the site port (R141, R153). -/
def State.siteLinkUp (s : State) (k : Fin 6) : State := (s.serveCheck k).siteConditions k

/-! ## Messages -/

/-- Header of a timing message a Delivery Session builds (R25): its domain, the Announced Grade and the Epoch. -/
def State.siteHeader (s : State) (k : Fin 6) (type seq : Nat) : Header :=
  { cls := classTiming, type := type, domain := (s.site k).cfg.domain, seq := seq
    grade := s.holdover.announced, epoch := s.clock.epoch }

/-- A frame of a Delivery Session, tagged with its VLAN (R146, R147, R151). -/
def State.siteFrame (s : State) (k : Fin 6) (dst : Addr) (h : Header) (body : List Byte) : Frame :=
  builtFrame dst s.mgmt.station (builtTag (s.site k).cfg.vlan) s.mgmt.partEther h body

/-- Build and offer a TIME_MARK (R146). -/
def State.offerMark (s : State) (k : Fin 6) : State :=
  let f := s.siteFrame k timingGroup (s.siteHeader k typeTimeMark (s.site k).nextMark) []
  let s1 := s.updSite k fun x => { x with nextMark := (x.nextMark + 1) % 65536 }
  match s1.offer (sitePort k) .timing ⟨f, .timeMark⟩ with
  | (s2, true) => s2.countSite k fun c => { c with marksQueued := bump c.marksQueued }
  | (s2, false) => s2.countSite k fun c => { c with marksSkipped := bump c.marksSkipped }

/-- Build and offer a QUALITY_NOTICE of a session in MUTED or SERVING (R147, R148). -/
def State.offerNotice (s : State) (k : Fin 6) : State :=
  if (s.site k).state = .disabled then s
  else
    let x := s.site k
    let flags := (if x.state = .serving then 1 else 0) + (if x.epochPending then 2 else 0)
    let h := { s.siteHeader k typeQualityNotice x.nextNotice with flags := flags }
    let f := s.siteFrame k timingGroup h (beBytes 6 s.mgmt.station.toNat ++ [0, 0])
    let s1 := s.updSite k fun y => { y with nextNotice := (y.nextNotice + 1) % 65536 }
    match s1.offer (sitePort k) .timing ⟨f, .qualityNotice⟩ with
    | (s2, true) =>
      s2.updSite k fun y =>
        { y with epochPending := false, ctr := { y.ctr with noticesQueued := bump y.ctr.noticesQueued } }
    | (s2, false) => s2.countSite k fun c => { c with noticesSkipped := bump c.noticesSkipped }

/-- A time with whole nanoseconds added, 0 where the sum would be below 0 s 0 ns (R146, R151). -/
def addNanos (t : Nat) (ns : Int) : Nat := ((t : Int) + ns * nsUnits).toNat

/-- Answer a site's query with a DELAY_REPLY (R151). `t4` is the ingress stamp with the Path Compensation added,
its seconds written in 48 bits (log 62). -/
def State.answerQuery (s : State) (k : Fin 6) (f : Frame) (stamps : Ingress) : State :=
  let q := readHeader f.payload
  let t4 := addNanos stamps.counter (s.site k).cfg.pathComp
  let h := { s.siteHeader k typeDelayReply q.seq with
    seconds := secondsOf t4, nanos := nanosOf t4, correction := q.correction }
  let r := s.siteFrame k f.src h []
  let s1 := s.updSite k fun x =>
    { x with queries := x.queries + 1, ctr := { x.ctr with queriesAnswered := bump x.ctr.queriesAnswered } }
  match s1.offer (sitePort k) .timing ⟨r, .delayReply⟩ with
  | (s2, true) => s2
  | (s2, false) => s2.countSite k fun c => { c with repliesSkipped := bump c.repliesSkipped }

/-- A query marks its site present (R152). -/
def State.markPresent (s : State) (k : Fin 6) : State :=
  (s.updSite k fun x => { x with present := true, lastQuery := some s.res }).siteConditions k

/-- A Delivery Session sorts a timing frame it is handed (R149). -/
def State.siteSort (s : State) (k : Fin 6) (f : Frame) (stamps : Ingress) : State :=
  let h := readHeader f.payload
  let x := s.site k
  if x.state = .disabled then s.countSite k fun c => { c with disabledDiscards := bump c.disabledDiscards }
  else if h.type ≠ typeDelayQuery then s.countSite k fun c => { c with unusedTypes := bump c.unusedTypes }
  else if h.domain ≠ x.cfg.domain then s.countSite k fun c => { c with otherDomain := bump c.otherDomain }
  else
    let s1 := s.markPresent k
    if stamps.epoch ≠ s.clock.epoch then s1.countSite k fun c => { c with epochDiscards := bump c.epochDiscards }
    else if x.state = .muted then s1.countSite k fun c => { c with mutedQueries := bump c.mutedQueries }
    else if x.cfg.queryLimit ≤ x.queries then s1.countSite k fun c => { c with overLimit := bump c.overLimit }
    else s1.answerQuery k f stamps

/-- The Delivery Unit takes a change of Epoch (R94, R148, R150); due instants start again after the new counter. -/
def State.sitesEpoch (s : State) : State :=
  allSites.foldl (fun t k => t.updSite k fun x =>
    { x with
      epochPending := x.epochPending || decide (x.state ≠ .disabled)
      queries := 0
      markDone := t.clock.counter }) s

end Sys2Proof.Machine
end

