-- ==== Sys2Proof/Machine/PinOps.lean ====
section
/-! DEFINITION. The Pin Unit's operations (08): squelch, fallback of bypass outputs, the schedules of the outputs, and
what a change of Epoch does to them. -/
namespace Sys2Proof.Machine
open Sys2Proof

/-! ## Functions and states -/

/-- PPS_OUT and FREQ_OUT. -/
def isOutput (f : PinFunction) : Bool := f = .ppsOut || f = .freqOut

/-- An output that is enabled. -/
def Pin.outputOn (x : Pin) : Bool := isOutput x.cfg.function && x.cfg.outEnabled

/-- Output State ACTIVE (R158). -/
def Pin.active (x : Pin) : Bool := x.outputOn && !x.squelched

/-- The bypass reference of a FREQ_OUT pin, if it has one (R163). -/
def Pin.bypassRef (x : Pin) : Option Ref :=
  if x.cfg.function = .freqOut then
    match x.cfg.source with
    | .counter => none
    | .bypass r => some r
  else none

/-! ## Periods (R162, R163) -/

/-- Period of a rate in fraction units; whole at every allowed rate (R162). -/
def periodUnits (rate : Nat) : Nat := secUnits / rate

/-- Oscillator time of one LO second, in 2^-17 ns. -/
def oscSecond : Nat := 131072000000000

/-- Numerator of the bypass period in oscillator time; the denominator is `bypassDen`. -/
def bypassNum : Nat := oscSecond * 1000000000000

/-- Denominator of the bypass period: Rate times 10^12 plus the Bypass Offset (R163). -/
def bypassDen (rate : Nat) (offset : Int) : Nat := rate * rateOf offset

/-- The Bypass Offset a cycle runs at; 0 stands in where it is absent, which Fallback excludes. -/
def Pin.offsetNow (x : Pin) : Int := x.bypassOffset.getD 0

/-- The cycle start after `next`, with its remainder (R163). -/
def Pin.bypassAfter (x : Pin) (next rem : Nat) (cycles : Nat) : Nat × Nat :=
  let den := bypassDen x.cfg.rate x.offsetNow
  (next + (cycles * bypassNum + rem) / den, (cycles * bypassNum + rem) % den)

/-- Let a bypass schedule run on to its first cycle start that does not lie before an oscillator time (R164). -/
def Pin.bypassCatchUp (x : Pin) (osc next rem : Nat) : Nat × Nat :=
  if osc ≤ next then (next, rem)
  else x.bypassAfter next rem (ceilDiv ((osc - next) * bypassDen x.cfg.rate x.offsetNow - rem) bypassNum)

/-! ## Starting and resuming outputs -/

/-- The schedule of an output as it leaves SQUELCHED (R164): it has run on, so a bypass schedule stands at its first
cycle start that is not behind, and what was placed on the counter goes on from there. An instant of this very moment
is open if it was not taken while the output was squelched. -/
def Pin.resume (x : Pin) (c : Clock) : Pin :=
  { x with phase := match x.phase with
    | .onBypass next rem => FreqPhase.onBypass (x.bypassCatchUp c.osc next rem).1 (x.bypassCatchUp c.osc next rem).2
    | .onCounter done => FreqPhase.onCounter done
    | .leavingCounter done => FreqPhase.leavingCounter done
    | .leavingBypass finish => FreqPhase.leavingBypass finish }

/-- Start a FREQ_OUT or PPS_OUT output as Output Enabled becomes true (R157, R161, R162). A bypass output starts at a
free phase of its period (log 37). -/
def Pin.start (x : Pin) (c : Clock) (freePhase : Nat) : Pin :=
  let phase :=
    if x.bypassRef.isSome && !x.fallback then
      FreqPhase.onBypass (c.osc + freePhase % (bypassNum / bypassDen x.cfg.rate x.offsetNow + 1)) 0
    else FreqPhase.onCounter c.counter
  { x with ppsFrom := c.counter, phase := phase, high := none, riseRes := none }

/-- Stop an output: driven low at once (R157). -/
def Pin.stop (x : Pin) : Pin := { x with high := none, riseRes := none, squelched := false }

/-! ## Squelch (R164) -/

/-- Compare the Announced Grade with a pin's Squelch Grade. -/
def Pin.squelchEval (grade : Nat) (c : Clock) (x : Pin) : Pin :=
  if !x.outputOn then { x with squelched := false }
  else if grade < x.cfg.squelch then
    if x.squelched then x
    else { x with squelched := true, ctr := { x.ctr with squelches := bump x.ctr.squelches } }
  else if x.squelched then { (x.resume c) with squelched := false }
  else x

/-- The Announced Grade is delivered to the Pin Unit (R132, R164). -/
def State.deliverSquelch (s : State) : State :=
  allPins.foldl (fun t k => t.updPin k (Pin.squelchEval s.holdover.announced s.clock)) s

/-! ## Fallback (R163) -/

/-- Where the cycles go when Fallback becomes true: the cycle in progress completes at the bypass period. -/
def fallbackPhase : FreqPhase → FreqPhase
  | .onBypass next _ => .leavingBypass next
  | .leavingCounter done => .onCounter done
  | .onCounter done => .onCounter done
  | .leavingBypass finish => .leavingBypass finish

/-- Where the cycles go when Fallback becomes false: the cycle in progress completes on the counter. A bypass cycle
still in progress is followed by the next at the bypass period; in the gap between its end and the first counter
instant, that instant ends what is in progress (log 54). `done` is the counter as it stands, less one unit. -/
def bypassPhaseOf (osc done : Nat) : FreqPhase → FreqPhase
  | .onCounter taken => .leavingCounter taken
  | .leavingBypass finish => if osc ≤ finish then .onBypass finish 0 else .leavingCounter done
  | .onBypass next rem => .onBypass next rem
  | .leavingCounter taken => .leavingCounter taken

/-- Evaluate Fallback of a bypass pin from whether its reference is QUALIFIED. -/
def Pin.fallbackEval (qualified : Bool) (c : Clock) (x : Pin) : Pin :=
  let osc := c.osc
  let now := !(qualified && x.bypassOffset.isSome)
  if now = x.fallback then x
  else if now then
    let phase := match x.phase with
      | .onBypass next rem =>
        if x.active then x.phase else FreqPhase.onBypass (x.bypassCatchUp osc next rem).1 (x.bypassCatchUp osc next rem).2
      | .onCounter done => FreqPhase.onCounter done
      | .leavingBypass finish => FreqPhase.leavingBypass finish
      | .leavingCounter done => FreqPhase.leavingCounter done
    { x with
      fallback := true, phase := fallbackPhase phase
      ctr := { x.ctr with fallbackEntries := bump x.ctr.fallbackEntries } }
  else { x with fallback := false, phase := bypassPhaseOf osc (c.counter - 1) x.phase }

/-- Evaluate Fallback of every pin in bypass of a reference (R163). -/
def State.pinsFallback (s : State) (r : Ref) : State :=
  allPins.foldl (fun t k => t.updPin k fun x =>
    if x.bypassRef = some r then x.fallbackEval ((s.ref r).state = .qualified) s.clock else x) s

/-- Rescale the cycle in progress to a new Bypass Offset: it applies from the window end that produces it. -/
def Pin.takeOffset (osc : Nat) (d : Int) (x : Pin) : Pin :=
  let phase := match x.phase with
    | .onBypass next rem =>
      let at' := if x.active then next else (x.bypassCatchUp osc next rem).1
      FreqPhase.onBypass (osc + (at' - osc) * rateOf x.offsetNow / rateOf d) 0
    | .onCounter done => FreqPhase.onCounter done
    | .leavingBypass finish => FreqPhase.leavingBypass finish
    | .leavingCounter done => FreqPhase.leavingCounter done
  { x with bypassOffset := some d, phase := phase }

/-- The Pin Unit takes a window result of a reference, d_osc, as the Bypass Offset of its pins (R163). -/
def State.pinsOffset (s : State) (r : Ref) (dOsc : Int) : State :=
  allPins.foldl (fun t k => t.updPin k fun x =>
    if x.bypassRef = some r then x.takeOffset s.clock.osc dOsc else x) s

/-- The Bypass Offset of the pins of a reference is discarded (R163). -/
def State.pinsDiscardOffset (s : State) (r : Ref) : State :=
  allPins.foldl (fun t k => t.updPin k fun x =>
    if x.bypassRef = some r then { x with bypassOffset := none } else x) s

/-! ## A change of Epoch (R165) -/

/-- Residence Clock units left of the half-cycle in progress of a counter-placed output. -/
def Pin.halfLeft (res : Nat) (x : Pin) : Nat :=
  match x.riseRes with
  | none => 0
  | some rise =>
    let period := periodUnits x.cfg.rate
    if res < rise + period / 2 then rise + period / 2 - res else rise + period - res

/-- A pin takes a change of Epoch: schedules on the counter start again against the new counter (log 41). So does the end
of a counter cycle that a bypass output is leaving (log 69). -/
def Pin.epoch (c : Clock) (x : Pin) : Pin :=
  let phase := match x.phase with
    | .onCounter _ => FreqPhase.onCounter (c.counter + x.halfLeft c.residence)
    | .leavingCounter _ => FreqPhase.leavingCounter (c.counter + x.halfLeft c.residence)
    | .onBypass next rem => FreqPhase.onBypass next rem
    | .leavingBypass finish => FreqPhase.leavingBypass finish
  { x with ppsLast := none, ppsFrom := c.counter, phase := phase }

/-- The Pin Unit takes a change of Epoch (R94). -/
def State.pinsEpoch (s : State) : State := allPins.foldl (fun t k => t.updPin k (Pin.epoch s.clock)) s

/-! ## Output edges -/

/-- The second whose PPS edge comes next, and its instant on the Time Counter (R161). -/
def Pin.nextPps (x : Pin) (counter : Nat) : Nat × Nat :=
  let offset := x.cfg.offset * nsUnits
  let least := ((max (x.ppsFrom + 1) counter : Nat) : Int) - offset
  let s0 := ceilDiv least.toNat secUnits
  let sec := match x.ppsLast with
    | none => s0
    | some l => max s0 (l + 1)
  (sec, ((sec * secUnits : Nat) + offset).toNat)

/-- The instant of a PPS edge passes while the output is squelched: no edge, and the instant is not taken again
(R164; log 65). -/
def Pin.ppsPass (instant : Nat) (x : Pin) : Pin := { x with ppsFrom := instant }

/-- A rising PPS edge for second `sec` (R161). -/
def Pin.ppsRise (sec res : Nat) (x : Pin) : Pin :=
  { x with
    high := some (.atResidence (res + x.cfg.pulseWidth * usUnits))
    ppsLast := some sec
    ctr := { x.ctr with pulsesSent := bump x.ctr.pulsesSent } }

/-- A cycle of a FREQ_OUT pin begins at this moment, its high part ending at `fall`; `then'` is the phase that follows.
While the output is squelched the schedule runs on and no edge is produced (R162, R164; log 65). -/
def Pin.cycle (res : Nat) (fall : Fall) (then' : FreqPhase) (x : Pin) : Pin :=
  if x.squelched then { x with phase := then' } else { x with high := some fall, riseRes := some res, phase := then' }

/-- A cycle placed on the counter begins: high for half a period (R162). -/
def Pin.counterRise (res : Nat) (then' : FreqPhase) (x : Pin) : Pin :=
  x.cycle res (.atResidence (res + periodUnits x.cfg.rate / 2)) then'

/-- A bypass cycle begins (R163): high for half the bypass period in force at its start (log 55). -/
def Pin.bypassRise (res osc next rem : Nat) (x : Pin) : Pin :=
  x.cycle res (.atOsc (osc + bypassNum / (2 * bypassDen x.cfg.rate x.offsetNow)))
    (.onBypass (x.bypassAfter next rem 1).1 (x.bypassAfter next rem 1).2)

end Sys2Proof.Machine
end

