-- ==== Sys2Proof/Machine/HoldoverOps.lean ====
section
/-! DEFINITION. The Holdover Unit's operations (06): entering and running a holdover, the Announced Grade, and what a
change of Epoch does to the History Ring. -/
namespace Sys2Proof.Machine
open Sys2Proof

/-! ## The Announced Grade (R130 to R134) -/

/-- The servo is in a holdover state: HOLDOVER, or FREQ_TRACK with Phase Valid (06, "Holdover"). -/
def holdoverState (state : ServoState) (phaseValid : Bool) : Bool :=
  state = .holdover || (state = .freqTrack && phaseValid)

/-- Elapsed stays at 2^32 - 1 s once it reaches it (R122). -/
def holdElapsed (r : HoldoverRec) (res : Nat) : Nat := min (timerElapsed r.elapsed res) (counterMax * secUnits)

/-- The Elapsed a grade is read at; 0 with no Holdover record. -/
def Holdover.elapsedNow (x : Holdover) (res : Nat) : Nat :=
  match x.record with
  | some r => holdElapsed r res
  | none => 0

/-- The last Budget Table entry whose threshold is at most the elapsed time (R130). -/
def budgetRow (budget : List BudgetEntry) (elapsed : Nat) : Option BudgetEntry :=
  (budget.filter fun b => b.threshold * secUnits ≤ elapsed).getLast?

/-- The table grade (R130): 2 with the Budget Table empty. -/
def tableGrade (budget : List BudgetEntry) (elapsed : Nat) (assisted : Bool) : Nat :=
  match budgetRow budget elapsed with
  | some b => if assisted then b.assisted else b.unassisted
  | none => 2

/-- The grade of a holdover state: the smallest of the table grade, the Entry Grade, and History-Short Grade when Short
(R130). -/
def Holdover.holdGrade (x : Holdover) (res : Nat) (assisted : Bool) : Nat :=
  let table := tableGrade x.budget (x.elapsedNow res) assisted
  match x.record with
  | some r => min (min table r.entryGrade) (if r.short then x.grades.historyShort else table)
  | none => table

/-- The Received Grade of the selected phase reference (R130). -/
def State.phaseGrade (s : State) : Option Nat :=
  match s.selector.phase with
  | some r => (s.ref r).grade
  | none => none

/-- The Announced Grade before the slewing cap (R130). -/
def State.baseGrade (s : State) : Nat :=
  let g := s.holdover.grades
  match s.servo.state with
  | .locked =>
    match s.phaseGrade with
    | some r => r - g.hopDecrement
    | none => g.acquiring
  | .acquiring => if s.servo.acqFromHold = some true then s.holdover.frozen.getD g.acquiring else g.acquiring
  | .holdover => s.holdover.holdGrade s.res false
  | .freqTrack => if s.servo.phaseValid then s.holdover.holdGrade s.res true else g.frequencyOnly
  | .freerun => g.freerun

/-- The Announced Grade (R130): capped by Slewing Grade while a Slew record is present. -/
def State.gradeNow (s : State) : Nat :=
  if s.realign.slew.isSome then min s.baseGrade s.holdover.grades.slewing else s.baseGrade

/-- Whether BUDGET_LOW is present (R134). -/
def State.budgetLow (s : State) : Bool :=
  holdoverState s.servo.state s.servo.phaseValid && decide (s.holdover.announced < s.holdover.grades.budgetAlarm)

/-- Recompute the Announced Grade, deliver a change, and evaluate BUDGET_LOW (R132, R134). -/
def State.regrade (s : State) : State :=
  let g := s.gradeNow
  let s1 :=
    if g = s.holdover.announced then s
    else
      ((s.updHold fun x =>
        { x with announced := g, ctr := { x.ctr with gradeChanges := bump x.ctr.gradeChanges } }).deliverGrade).deliverSquelch
  s1.report recBudgetLow s1.budgetLow

/-! ## Entering and running a holdover (R123 to R128) -/

/-- The usable entries averaged: past the newest Guard Minutes entries, among the next Averaging Depth (R124). Oldest
first. -/
def keptEntries (p : HoldoverParams) (ring : List RingEntry) : List RingEntry :=
  (((ring.reverse.drop p.guardMinutes).take p.averagingDepth).filter fun e => e.lockedSeconds = 60).reverse

/-- Sum of the Mean Frequencies of entries. -/
def sumFreq (l : List RingEntry) : Int := (l.map fun e => e.meanFreq.getD 0).sum

/-- The drift D (R125). -/
def driftOf (p : HoldoverParams) (kept : List RingEntry) : Int :=
  let n := kept.length
  let half := n / 2
  if p.driftEstimation ∧ p.driftMinimum ≤ n then
    clampMag p.driftLimit
      (roundDiv ((sumFreq (kept.drop (n - half)) - sumFreq (kept.take half)) * 60) ((half * half : Nat) : Int))
  else 0

/-- The record of a new holdover (R124 to R126): `i` is the I standing, `entryGrade` the grade before the event. -/
def newHoldover (x : Holdover) (i : Int) (at' : Stamp) (res entryGrade : Nat) : HoldoverRec :=
  let kept := keptEntries x.params x.ring
  let n := kept.length
  { enteredAt := at'
    enteredRes := res
    n := n
    h := if x.params.minimumEntries ≤ n then roundDiv (sumFreq kept) n else i
    d := driftOf x.params kept
    entryGrade := entryGrade
    short := decide (n < x.params.minimumEntries)
    elapsed := timerStart res
    minuteMark := 0 }

/-- The holdover frequency for an elapsed time, before the clamp (R127). -/
def holdFreq (r : HoldoverRec) (elapsed : Nat) : Int :=
  r.h + roundDiv (r.d * ((elapsed / (60 * secUnits) : Nat) : Int)) 60

/-- Give the Time Engine the frequency for the current Elapsed; it applies it clamped and sets I to it (R112, R127). -/
def State.giveHoldFreq (s : State) : State :=
  match s.holdover.record with
  | none => s
  | some r =>
    let f := clampMag s.servo.params.pullRange (holdFreq r (holdElapsed r s.res))
    s.updServo fun x => { x with f := f, i := f }

/-- Enter a new holdover or resume the one present (R123). -/
def State.enterHoldover (s : State) (entryGrade : Nat) : State :=
  match s.holdover.record with
  | none =>
    let r := newHoldover s.holdover s.servo.i s.stamp s.res entryGrade
    let s1 := s.updHold fun x =>
      { x with
        record := some r
        ctr := { x.ctr with
          holdoversEntered := bump x.ctr.holdoversEntered
          shortHoldovers := if r.short then bump x.ctr.shortHoldovers else x.ctr.shortHoldovers } }
    if r.short then s1.report recHistoryShort true else s1
  | some r =>
    s.updHold fun x =>
      { x with
        record := some { r with
          elapsed := timerResume r.elapsed s.res, minuteMark := holdElapsed r s.res / (60 * secUnits) }
        ctr := { x.ctr with holdoversResumed := bump x.ctr.holdoversResumed } }

/-- Pause the holdover (R128). -/
def State.pauseHoldover (s : State) : State :=
  s.updHold fun x => { x with record := x.record.map fun r => { r with elapsed := timerStop r.elapsed s.res } }

/-- Discard the Holdover record (R128). -/
def State.endHoldover (s : State) : State :=
  match s.holdover.record with
  | none => s
  | some r =>
    let s1 := s.updHold fun x => { x with record := none }
    if r.short then s1.report recHistoryShort false else s1

/-- What the Holdover Unit does on a servo state change, before it recomputes the grade (R118, R123, R128, R131):
`prev` and `new` are the states, `entryGrade` the Announced Grade before the event. -/
def State.holdoverChange (s : State) (prev new : ServoState) (entryGrade : Nat) : State :=
  let pv := s.servo.phaseValid
  let frozen :=
    if new = .acquiring then (if holdoverState prev pv then some s.holdover.announced else none) else none
  let s0 := s.updHold fun x => { x with settle := none, frozen := frozen }
  match new with
  | .acquiring => if holdoverState prev pv then s0.pauseHoldover else s0
  | .locked => s0.endHoldover
  | .freerun => s0
  | .holdover =>
    if prev = .acquiring ∨ prev = .locked then (s0.enterHoldover entryGrade).giveHoldFreq
    else if prev = .freqTrack then s0.giveHoldFreq
    else s0
  | .freqTrack =>
    if (prev = .acquiring ∨ prev = .locked) ∧ pv = true then s0.enterHoldover entryGrade else s0

/-! ## A change of Epoch and the History Ring (R120) -/

/-- Stamp of the minute in progress (R119). -/
def minuteInProgress (counter : Nat) : Nat := secondsOf counter / 60 + 1

/-- The Holdover Unit takes a change of Epoch with the counter before it (R120). -/
def State.ringEpoch (s : State) (before : Nat) : State :=
  let old := minuteInProgress before
  let new := minuteInProgress s.clock.counter
  let s1 :=
    if old < new then s.appendMinute old
    else if new < old then
      s.updHold fun x => { x with ring := [], ctr := { x.ctr with ringClears := bump x.ctr.ringClears } }
    else s
  s1.updHold fun x => { x with acc := { count := 0, iSum := 0, firstVoid := true } }

end Sys2Proof.Machine
end

