-- ==== Sys2Proof/Machine/ServoOps.lean ====
section
/-! DEFINITION. The Time Engine's servo (05): its changes of state, the loop, the lock runs and the frequency updates. -/
namespace Sys2Proof.Machine
open Sys2Proof

/-! ## Changes of state (R99 to R103) -/

/-- ACQUIRING and LOCKED: the states in which a phase reference is selected (R99). -/
def ServoState.tracking : ServoState → Bool
  | .acquiring => true | .locked => true
  | .freerun => false | .holdover => false | .freqTrack => false

/-- Report PHASE_TRANSIENT absent (R106). -/
def State.clearTransient (s : State) : State :=
  (s.updServo fun x => { x with transient := false }).report recTransient false

/-- Report PHASE_TRANSIENT present (R106). -/
def State.raiseTransient (s : State) : State :=
  (s.updServo fun x => { x with transient := true }).report recTransient true

/-- On entry to FREERUN, TOD_MISMATCH leaves the GNSS defect set at that moment (R53); the monitor answers for what
follows from it in the same event. -/
def State.dropMismatch (s : State) : State :=
  s.updRef .gnss fun x => { x with defects := putDefect .todMismatch false x.defects }

/-- The two conditions the Time Engine reports (R103). -/
def State.servoConditions (s : State) : State :=
  (s.report recHoldover (holdoverState s.servo.state s.servo.phaseValid)).report recFreerun (s.servo.state = .freerun)

/-- A change of servo state with its reports (R103); `entryGrade` is the Announced Grade before the event (R126). The
Holdover Unit acts before FREQ_TRACK sets I to F (log 33). -/
def State.setServo (s : State) (new : ServoState) (entryGrade : Nat) : State :=
  let prev := s.servo.state
  if new = prev then s
  else
    let s1 := s.updServo fun x =>
      { x with state := new, ctr := { x.ctr with stateChanges := bump x.ctr.stateChanges } }
    let s2 := if new.tracking then s1 else s1.clearTransient
    let s3 := s2.holdoverChange prev new entryGrade
    let s4 := if new = .freqTrack then s3.updServo (fun x => { x with i := x.f }) else s3
    let s5 := if new = .freerun then s4.dropMismatch else s4
    s5.regrade.servoConditions

/-- Lock Run, Unlock Run and Last e_loop start afresh (R101). -/
def Servo.clearRuns (x : Servo) : Servo := { x with lockRun := 0, unlockRun := 0, lastLoop := none }

/-- The state a loss of both roles leads to (R101, R102, R115). -/
def Servo.restState (x : Servo) : ServoState := if x.phaseValid then .holdover else .freerun

/-- Phase role gained (R101). -/
def State.servoPhaseGained (s : State) (entryGrade : Nat) : State :=
  (s.updServo fun x =>
    { x.clearRuns with acqFromHold := some (holdoverState x.state x.phaseValid) }).setServo .acquiring entryGrade

/-- Phase role switched (R101). -/
def State.servoPhaseSwitched (s : State) : State := s.updServo Servo.clearRuns

/-- Phase role lost (R101); `s.selector.freq` is the frequency reference selected at that moment. -/
def State.servoPhaseLost (s : State) (entryGrade : Nat) : State :=
  let next := if s.selector.freq.isSome then ServoState.freqTrack else s.servo.restState
  (s.updServo fun x => { x.clearRuns with acqFromHold := none }).setServo next entryGrade

/-- Frequency role gained (R102). -/
def State.servoFreqGained (s : State) (entryGrade : Nat) : State :=
  match s.servo.state with
  | .freerun => s.setServo .freqTrack entryGrade
  | .holdover => s.setServo .freqTrack entryGrade
  | .acquiring => s
  | .locked => s
  | .freqTrack => s

/-- Frequency role switched: F and I stay, the Settle Value goes (R102, R118). -/
def State.servoFreqSwitched (s : State) : State := s.updHold fun x => { x with settle := none }

/-- Frequency role lost (R102). -/
def State.servoFreqLost (s : State) (entryGrade : Nat) : State :=
  match s.servo.state with
  | .freqTrack => s.setServo s.servo.restState entryGrade
  | .freerun => s
  | .acquiring => s
  | .locked => s
  | .holdover => s

/-! ## The loop (R106 to R108) -/

/-- Proportional term (R107). -/
def propTerm (gain : Nat) (e : Int) : Int := roundDiv (e * 1000 * gain) 256

/-- Integral step (R107). -/
def intTerm (gain : Nat) (e : Int) : Int := roundDiv (e * 1000 * gain) 65536

/-- The gains of the state that stands at the start of the run (R107). -/
def Servo.gains (x : Servo) : Nat × Nat :=
  if x.state = .locked then (x.params.lockedPg, x.params.lockedIg) else (x.params.acquiringPg, x.params.acquiringIg)

/-- Whether an error is beyond Phase Clamp (R106). -/
def Servo.clamps (x : Servo) (e : Int) : Bool := decide (x.params.phaseClamp < e.natAbs)

/-- Anti-windup (R108): the output clamped from `raw` to `f`, and the integral step has the sign of the clamp. -/
def windupHeld (raw f step : Int) : Bool := (decide (f < raw) && decide (0 < step)) || (decide (raw < f) && decide (step < 0))

/-- One loop run on `e_loop`: the Servo Context after R106 to R108. -/
def Servo.loop (e : Int) (x : Servo) : Servo :=
  let clamped := x.clamps e
  let ec := clampMag x.params.phaseClamp e
  let step := intTerm x.gains.2 ec
  let i1 := clampMag x.params.pullRange (x.i + step)
  let raw := i1 + propTerm x.gains.1 ec
  let f := clampMag x.params.pullRange raw
  let held := windupHeld raw f step
  { x with
    f := f
    i := if held then x.i else i1
    lastLoop := some ⟨e, clamped⟩
    ctr := { x.ctr with
      clampedSamples := if clamped then bump x.ctr.clampedSamples else x.ctr.clampedSamples
      outputClamps := if raw = f then x.ctr.outputClamps else bump x.ctr.outputClamps
      windupHolds := if held then bump x.ctr.windupHolds else x.ctr.windupHolds } }

/-- What a loop input does to Lock Run and Unlock Run (R109, R110); runs are 0..255 (R96). -/
def Servo.countRuns (e : Int) (x : Servo) : Servo :=
  if x.state = .acquiring then
    { x with lockRun := if e.natAbs ≤ x.params.lockWindow then min (x.lockRun + 1) 255 else 0 }
  else { x with unlockRun := if x.params.unlockWindow < e.natAbs then min (x.unlockRun + 1) 255 else 0 }

/-- Lock Run has reached Lock Count: LOCKED (R109). -/
def State.enterLocked (s : State) (entryGrade : Nat) : State :=
  (s.updServo fun x =>
    { x with
      phaseValid := true, lockRun := 0, unlockRun := 0, acqFromHold := none
      ctr := { x.ctr with locks := bump x.ctr.locks } }).setServo .locked entryGrade

/-- Unlock Run has reached Unlock Count: ACQUIRING (R110). -/
def State.leaveLocked (s : State) (entryGrade : Nat) : State :=
  (s.updServo fun x =>
    { x with
      lockRun := 0, unlockRun := 0, acqFromHold := some false
      ctr := { x.ctr with unlocks := bump x.ctr.unlocks } }).setServo .acquiring entryGrade

/-- Take a lock whose Lock Run stands at Lock Count (R109). -/
def State.takeLock (s : State) : State :=
  if s.servo.state = .acquiring ∧ s.servo.params.lockCount ≤ s.servo.lockRun then s.enterLocked s.holdover.announced
  else s

/-- Take an unlock whose Unlock Run stands at Unlock Count (R110). -/
def State.takeUnlock (s : State) : State :=
  if s.servo.state = .locked ∧ s.servo.params.unlockCount ≤ s.servo.unlockRun then s.leaveLocked s.holdover.announced
  else s

/-- Whether an input extends the run of the state (R98, R109, R110): only such an input can bring it to its count. -/
def Servo.extends (e : Int) (x : Servo) : Bool :=
  if x.state = .acquiring then decide (e.natAbs ≤ x.params.lockWindow) else decide (x.params.unlockWindow < e.natAbs)

/-- A loop input: the loop runs, PHASE_TRANSIENT is moved, then the lock runs (R104, R106, R109, R110). -/
def State.loopInput (s : State) (e : Int) : State :=
  let clamped := s.servo.clamps e
  let s1 := s.updServo (Servo.loop e)
  let s2 := if clamped then s1.raiseTransient else s1.clearTransient
  let extended := s2.servo.extends e
  let s3 := s2.updServo (Servo.countRuns e)
  if !extended then s3
  else if s3.servo.state = .acquiring then s3.takeLock
  else s3.takeUnlock

/-- A boundary without a loop input (R105, R106). -/
def State.missingSample (s : State) : State :=
  (s.countServo fun c => { c with missingSamples := bump c.missingSamples }).clearTransient

/-! ## Following a frequency reference (R111) -/

/-- A frequency update on `d` (R111). -/
def Servo.freqUpdate (d : Int) (x : Servo) : Servo :=
  let raw := x.f + roundDiv (d * x.params.fg) 256
  let f := clampMag x.params.pullRange raw
  { x with
    f := f
    i := f
    ctr := { x.ctr with
      frequencyUpdates := bump x.ctr.frequencyUpdates
      outputClamps := if raw = f then x.ctr.outputClamps else bump x.ctr.outputClamps } }

/-- The window result of the frequency role is handed on: the update, and the Settle Value (R111, R118). A void window
hands on none, and the Settle Value is absent after it. -/
def State.freqResult (s : State) (d : Option Int) : State :=
  if s.servo.state = .freqTrack then
    let s1 := s.updHold fun x => { x with settle := d }
    match d with
    | some v => s1.updServo (Servo.freqUpdate v)
    | none => s1
  else s

/-! ## Pull Range (R98) -/

/-- A write of Pull Range clamps F and I at once (R98). -/
def Servo.writePull (limit : Nat) (x : Servo) : Servo :=
  let f := clampMag limit x.f
  let i := clampMag limit x.i
  { x with
    params := { x.params with pullRange := limit }
    f := f
    i := i
    ctr := { x.ctr with
      pullRangeClamps := if f = x.f ∧ i = x.i then x.ctr.pullRangeClamps else bump x.ctr.pullRangeClamps } }

end Sys2Proof.Machine
end

