-- ==== Sys2Proof/Machine/RealignOps.lean ====
section
/-! DEFINITION. The Realignment Unit's operations (04): the start of a decision, the loss or switch of a reference, slew
progress, and the cases of the decision. -/
namespace Sys2Proof.Machine
open Sys2Proof

/-- Change the Slew record and report it to the Holdover Unit (R80, R132). -/
def State.putSlew (s : State) (slew : Option Bool) : State := (s.updReal fun x => { x with slew := slew }).regrade

/-- A decision starts for a reference: PENDING with B at 0 (R81). -/
def startDecision (r : Ref) (x : Realign) : Realign :=
  { x with decision := .pending, decisionRef := some r, b := 0, buildOut := false }

/-- Phase role gained (R81). -/
def State.realGained (s : State) (r : Ref) : State := s.updReal (startDecision r)

/-- Phase role switched to a reference: a slew is abandoned and a decision starts (R86). -/
def State.realSwitched (s : State) (r : Ref) : State :=
  match s.realign.slew with
  | none => s.updReal (startDecision r)
  | some _ =>
    (s.updReal fun x =>
      { startDecision r x with ctr := { x.ctr with slewsAbandoned := bump x.ctr.slewsAbandoned } }).putSlew none

/-- The values of NONE (R86, R89). -/
def endDecision (x : Realign) : Realign := { x with decision := .none, decisionRef := none, b := 0, buildOut := false }

/-- Phase role lost by a reference: a slew is suspended (R86). -/
def State.realLost (s : State) (r : Ref) : State :=
  match s.realign.slew with
  | none => s.updReal endDecision
  | some held =>
    (s.updReal fun x =>
      { endDecision x with
        suspended := some ⟨r, x.b, s.res, held⟩
        ctr := { x.ctr with slewsSuspended := bump x.ctr.slewsSuspended } }).putSlew none

/-- Move B toward zero by at most `rate` (R84). -/
def slewMove (rate : Nat) (b : Int) : Int :=
  if b.natAbs ≤ rate then 0 else if 0 ≤ b then b - rate else b + rate

/-- Slew progress at a second boundary (R84). -/
def State.slewProgress (s : State) : State :=
  if s.realign.slew = some false then
    let b := slewMove s.realign.params.slewRate s.realign.b
    let s1 := s.updReal fun x => { x with b := b }
    if b = 0 then
      (s1.updReal fun x => { x with ctr := { x.ctr with slewsCompleted := bump x.ctr.slewsCompleted } }).putSlew none
    else s1
  else s

/-- The age of a Suspended Slew record (R87). -/
def Suspended.age (u : Suspended) (res : Nat) : Nat := res - u.at'

/-- Whether a Suspended Slew record is resumed by a decision on `e` (R82, case 1). -/
def State.resumes (s : State) (u : Suspended) (e : Int) : Bool :=
  s.realign.decisionRef = some u.ref && decide (u.age s.res ≤ s.realign.params.resumeWindow * secUnits) &&
    decide ((e - u.b).natAbs ≤ s.realign.params.resumeTolerance)

/-- Whether the decision steps the counter (R82, case 2). -/
def State.steps (s : State) (e : Int) : Bool :=
  let p := s.realign.params
  !s.servo.phaseValid && (p.stepPolicy = .always || (p.stepPolicy = .beforeServe && !s.servingSince)) &&
    decide (p.stepThreshold < e.natAbs)

/-- Whether the decision finds the reference too far (R82, case 3). -/
def State.isTooFar (s : State) (e : Int) : Bool := decide (s.realign.params.maxOffset < e.natAbs)

/-- Discard a Suspended Slew record, counted under Suspended Discarded (R87). -/
def State.discardSuspended (s : State) : State :=
  match s.realign.suspended with
  | none => s
  | some _ =>
    s.updReal fun x =>
      { x with suspended := none, ctr := { x.ctr with suspendedDiscarded := bump x.ctr.suspendedDiscarded } }

/-- Discard a Suspended Slew record whose age has reached Resume Window (R87). -/
def State.expireSuspended (s : State) : State :=
  match s.realign.suspended with
  | none => s
  | some _ =>
    s.updReal fun x =>
      { x with suspended := none, ctr := { x.ctr with suspendedExpired := bump x.ctr.suspendedExpired } }

/-- Resume the suspended slew (R82, case 1). -/
def State.resume (s : State) (u : Suspended) : State :=
  (s.updReal fun x =>
    { x with
      decision := .decided, b := u.b, suspended := none
      ctr := { x.ctr with resumes := bump x.ctr.resumes } }).putSlew (some u.held)

/-- Whether E is absorbed by a fixed build-out: the Realign Policy of the Decision Reference (R82, case 4). -/
def State.buildsOut (s : State) : Bool :=
  match s.realign.decisionRef with
  | some r => (s.ref r).cfg.policy = .buildOut
  | none => false

/-- B becomes E, as a build-out or a slew (R82, case 4). -/
def State.absorb (s : State) (e : Int) : State :=
  let s1 := s.updReal fun x => { x with decision := .decided, b := e }
  if s.buildsOut then
    s1.updReal fun x => { x with buildOut := true, ctr := { x.ctr with buildOuts := bump x.ctr.buildOuts } }
  else if e = 0 then s1
  else
    (s1.updReal fun x => { x with ctr := { x.ctr with slewsStarted := bump x.ctr.slewsStarted } }).putSlew (some false)

/-- A Max Offset write clamps B and B_susp (R79). -/
def writeMaxOffset (limit : Nat) (x : Realign) : Realign :=
  { x with
    params := { x.params with maxOffset := limit }
    b := clampMag limit x.b
    suspended := x.suspended.map fun u => { u with b := clampMag limit u.b } }

/-- The Realignment Unit takes a change of Epoch (R87). -/
def State.realEpoch (s : State) : State := s.discardSuspended

end Sys2Proof.Machine
end

