-- ==== Sys2Proof/Machine/SelectorOps.lean ====
section
/-! DEFINITION. The Selector's operations (04): candidates, the re-evaluation of both roles, and the reports of a change
of role to the Time Engine and the Realignment Unit. -/
namespace Sys2Proof.Machine
open Sys2Proof

/-! ## Candidates (R72) -/

/-- Whether a reference is a candidate of a role with a given preference list. -/
def State.isCandidate (s : State) (list : List Ref) (r : Ref) : Bool := list.contains r && (s.ref r).state = .qualified

/-- The candidates of a list, most preferred first. -/
def State.candidates (s : State) (list : List Ref) : List Ref := list.filter fun r => (s.ref r).state = .qualified

/-- Rank of a Received Grade; an absent one ranks below every present one (R72). -/
def gradeRank : Option Nat → Nat
  | none => 0
  | some g => g + 1

/-- The earliest reference of a list with the highest rank. -/
def highest (rank : Ref → Nat) : List Ref → Option Ref
  | [] => none
  | r :: rest =>
    match highest rank rest with
    | none => some r
    | some x => if rank r < rank x then some x else some r

/-- The best candidate of the frequency role. -/
def State.bestFreq (s : State) : Option Ref := (s.candidates s.selector.cfg.freqList).head?

/-- The best candidate of the phase role. -/
def State.bestPhase (s : State) : Option Ref :=
  let c := s.candidates s.selector.cfg.phaseList
  if s.selector.cfg.ranking then highest (fun r => gradeRank (s.ref r).grade) c else c.head?

/-! ## Evaluating a role (R73, R77) -/

/-- What the evaluation of a role gives: its selection, its Forced field, and whether a force lapsed. -/
structure RoleResult where
  selected : Option Ref
  forced   : Bool
  lapsed   : Bool
deriving DecidableEq, Repr

/-- The three steps of R73 for one role. -/
def evalRole (candidate : Ref → Bool) (best : Option Ref) (revertive forced : Bool) (current : Option Ref) : RoleResult :=
  match current with
  | none => ⟨best, false, forced⟩
  | some r =>
    if candidate r then if forced then ⟨some r, true, false⟩ else ⟨if revertive then best else some r, false, false⟩
    else ⟨best, false, forced⟩

/-- Evaluate the phase role. -/
def State.evalPhase (s : State) : RoleResult :=
  let x := s.selector
  evalRole (s.isCandidate x.cfg.phaseList) s.bestPhase x.cfg.revertive x.phaseForced x.phase

/-- Evaluate the frequency role. -/
def State.evalFreq (s : State) : RoleResult :=
  let x := s.selector
  evalRole (s.isCandidate x.cfg.freqList) s.bestFreq x.cfg.revertive x.freqForced x.freq

/-! ## Reporting a choice (R78) -/

/-- Change Phase Selected and report it; the Time Engine acts before the Realignment Unit (log 11). -/
def State.applyPhase (s : State) (new : Option Ref) (entryGrade : Nat) : State :=
  let s1 := s.updSel fun x =>
    { x with phase := new, ctr := { x.ctr with phaseChanges := bump x.ctr.phaseChanges } }
  match s.selector.phase, new with
  | none, none => s
  | none, some r => (s1.servoPhaseGained entryGrade).realGained r
  | some r, none => (s1.servoPhaseLost entryGrade).realLost r
  | some old, some r => if old = r then s else s1.servoPhaseSwitched.realSwitched r

/-- Change Frequency Selected and report it. -/
def State.applyFreq (s : State) (new : Option Ref) (entryGrade : Nat) : State :=
  let s1 := s.updSel fun x =>
    { x with freq := new, ctr := { x.ctr with frequencyChanges := bump x.ctr.frequencyChanges } }
  match s.selector.freq, new with
  | none, none => s
  | none, some _ => s1.servoFreqGained entryGrade
  | some _, none => s1.servoFreqLost entryGrade
  | some old, some r => if old = r then s else s1.servoFreqSwitched

/-- Give both roles their results. When both change, which is reported first is free (R102, log 10). -/
def State.applyRoles (s : State) (p f : RoleResult) : State :=
  let g := s.holdover.announced
  let s1 := s.updSel fun x =>
    { x with
      phaseForced := p.forced
      freqForced := f.forced
      ctr := { x.ctr with
        forcesLapsed := bumpBy ((if p.lapsed then 1 else 0) + (if f.lapsed then 1 else 0)) x.ctr.forcesLapsed } }
  if s.selector.phase ≠ p.selected ∧ s.selector.freq ≠ f.selected then
    if Config.frequencyFirst s.free then (s1.useFree.applyFreq f.selected g).applyPhase p.selected g
    else (s1.useFree.applyPhase p.selected g).applyFreq f.selected g
  else (s1.applyPhase p.selected g).applyFreq f.selected g

/-- A re-evaluation of both roles (R73), without what an entry to FREERUN does to GNSS. -/
def State.reevaluateRoles (s : State) : State := s.applyRoles s.evalPhase s.evalFreq

end Sys2Proof.Machine
end

