-- ==== Sys2Proof/Machine/MonitorOps.lean ====
section
/-! DEFINITION. The Reference Monitor's operations (03): the five-state machine, judging, enabling and disabling, satellite
edges, the time-of-day line, and what the sessions, links and frequency edges report. -/
namespace Sys2Proof.Machine
open Sys2Proof

/-! ## The state machine (R64 to R67) -/

/-- Whether a reference has a measurement (R64). -/
def hasMeasure (r : Ref) (x : Reference) : Bool := if phaseCapable r then x.lastE.isSome else x.lastD.isSome

/-- Entry to QUALIFIED: every timer stands at 0 (log 32). -/
def Reference.toQualified (x : Reference) : Reference :=
  { x with state := .qualified, qualify := timerZero, holdOff := timerZero, restore := timerZero }

/-- Entry to FAILED (R65, R66, R67). -/
def Reference.toFailed (x : Reference) : Reference :=
  { x with
    state := .failed, holdOff := timerZero, restore := timerZero
    ctr := { x.ctr with failures := bump x.ctr.failures } }

/-- Entry to RESTORING, or straight to QUALIFIED under Restore Wait 0 s (R66). -/
def Reference.toRestoring (res : Nat) (x : Reference) : Reference :=
  if x.cfg.restoreWait = 0 then x.toQualified else { x with state := .restoring, restore := timerStart res }

/-- Whether PHASE_FAR has just become present (R62). -/
def newlyFar (was now : List Defect) : Bool := now.contains .phaseFar && !was.contains .phaseFar

/-- What a change of the defect set from `was` does to a reference (R64 to R66). -/
def Reference.react (res : Nat) (was : List Defect) (x : Reference) : Reference :=
  let empty := x.defects.isEmpty
  match x.state with
  | .disabled => x
  | .monitoring =>
    if empty then if was.isEmpty then x else { x with qualify := timerStart res }
    else { x with qualify := timerZero }
  | .qualified =>
    if empty then { x with holdOff := timerZero }
    else if newlyFar was x.defects then x.toFailed
    else if was.isEmpty then
      if x.cfg.holdOff = 0 then x.toFailed else { x with holdOff := timerStart res }
    else x
  | .failed => if empty then x.toRestoring res else x
  | .restoring => if empty then x else x.toFailed

/-- Report a reference's REF_FAIL record as it stands (R67). -/
def State.refReport (s : State) (r : Ref) : State :=
  s.reportRef r ((s.ref r).state = .failed) (s.ref r).defects

/-- Report a change of state: to the Alarm Unit, to the Selector, and to the Pin Unit (R67, R74, R163). -/
def State.announceWith (reeval : State → State) (s : State) (r : Ref) : State :=
  (reeval (s.refReport r)).pinsFallback r

/-- Let a reference react to a change of its defect set from `was`, with the reports of R67. -/
def State.reactWith (reeval : State → State) (s : State) (r : Ref) (was : List Defect) : State :=
  let x := s.ref r
  let y := x.react s.res was
  let s1 := s.updRef r fun _ => y
  if y.state ≠ x.state then s1.announceWith reeval r
  else if y.state = .failed then s1.refReport r
  else s1

/-- What an entry to FREERUN within a re-evaluation did to the GNSS defect set is answered in the same event (R53); the
re-evaluation this can bring about cannot lead back to FREERUN. -/
def State.answerFreerun (s : State) (was : List Defect) : State :=
  if (s.ref .gnss).defects = was then s else s.reactWith State.reevaluateRoles .gnss was

/-- A re-evaluation of both roles (R73). -/
def State.reevaluate (s : State) : State := s.reevaluateRoles.answerFreerun (s.ref .gnss).defects

/-- Report a change of state. -/
def State.announce (s : State) (r : Ref) : State := s.announceWith State.reevaluate r

/-- Whether GRADE_LOW is present (R60). -/
def gradeIsLow (grade : Option Nat) (least : Nat) : Bool :=
  match grade with
  | none => false
  | some g => decide (g < least)

/-- Give an enabled reference a Received Grade and a change of its defect set, taken as one; GRADE_LOW follows (R60,
R51, R67; log 12). A SIGNAL_LOST within it voids a frequency-only window (R58). -/
def State.judge (s : State) (r : Ref) (grade : Option Nat) (f : List Defect → List Defect) : State :=
  let x := s.ref r
  if x.state = .disabled then s
  else
    let ds := putDefect .gradeLow (phaseCapable r && gradeIsLow grade x.cfg.minGrade) (f x.defects)
    let s1 := s.updRef r fun y =>
      { y with grade := grade, defects := ds, winVoid := y.winVoid || ds.contains .signalLost }
    let s2 := if ds = x.defects then s1 else s1.reactWith State.reevaluate r x.defects
    if grade ≠ x.grade ∧ s2.selector.cfg.ranking = true then s2.reevaluate else s2

/-- Change the defect set of a reference, its Received Grade as it stands. -/
def State.setDefects (s : State) (r : Ref) (f : List Defect → List Defect) : State := s.judge r (s.ref r).grade f

/-- A MONITORING reference that waits at Qualify Time: its set is empty and its timer has stopped (R64),
at whatever Qualify Time stood then (log 59). -/
def Reference.waits (x : Reference) : Bool := x.state = .monitoring && x.defects.isEmpty && !timerRuns x.qualify

/-- Move a reference to QUALIFIED and report it. -/
def State.qualifyRef (s : State) (r : Ref) : State := (s.updRef r Reference.toQualified).announce r

/-- A measurement has arrived: a reference that waits for one goes to QUALIFIED (R64). -/
def State.measured (s : State) (r : Ref) : State :=
  let x := s.ref r
  if x.waits && hasMeasure r x then s.qualifyRef r else s

/-- The qualify timer is at Qualify Time (R64). -/
def State.qualifyExpired (s : State) (r : Ref) : State :=
  let x := s.ref r
  if hasMeasure r x then s.qualifyRef r
  else s.updRef r fun y => { y with qualify := { base := y.cfg.qualifyTime * secUnits, since := none } }

/-- The hold-off timer is at Hold-off with defects present (R65). -/
def State.holdOffExpired (s : State) (r : Ref) : State := (s.updRef r Reference.toFailed).announce r

/-- The restore timer is at Restore Wait (R66). -/
def State.restoreExpired (s : State) (r : Ref) : State := s.qualifyRef r

/-! ## Enabling and disabling (R63) -/

/-- The Client Session of a PKT reference. -/
def refClient? : Ref → Option Client
  | .pkt0 => some .pkt0 | .pkt1 => some .pkt1
  | .gnss => none | .line0 => none | .line1 => none | .ext => none

/-- The line clock of a LINE reference. -/
def refLine? : Ref → Option Client
  | .line0 => some .pkt0 | .line1 => some .pkt1
  | .gnss => none | .pkt0 => none | .pkt1 => none | .ext => none

/-- The Received Grade of a reference on enabling (R63). -/
def State.enableGrade (s : State) (r : Ref) : Option Nat :=
  match refClient? r with
  | some c => (s.client c).master.map (·.grade)
  | none => none

/-- SIGNAL_LOST of a reference on enabling (R49, R54, R58, R63). -/
def State.enableLost (s : State) (r : Ref) : Bool :=
  match refClient? r, refLine? r with
  | some c, _ => (s.client c).state ≠ .exchanging
  | none, some c => !(s.port (clientPort c)).linkUp
  | none, none => true

/-- NOTICE_MISSING of a reference on enabling. -/
def State.enableNotice (s : State) (r : Ref) : Bool :=
  match refClient? r with
  | some c => (s.client c).noticeMissing
  | none => false

/-- The defect set of a reference on enabling (R63). -/
def State.enableDefects (s : State) (r : Ref) : List Defect :=
  allDefects.filter fun d =>
    match d with
    | .signalLost => s.enableLost r
    | .todMissing => r = .gnss
    | .noticeMissing => s.enableNotice r
    | .gradeLow => phaseCapable r && gradeIsLow (s.enableGrade r) (s.ref r).cfg.minGrade
    | .freqRange => false
    | .wander => false
    | .phaseJump => false
    | .starved => false
    | .todMismatch => false
    | .phaseFar => false

/-- The record of a reference with nothing in it: its configuration and counters stay (R48, R63). No previous accepted
edge is kept either, so the first edge after enabling is accepted (R49; log 67). -/
def Reference.blank (x : Reference) : Reference := { cfg := x.cfg, ctr := x.ctr, winVoid := true }

/-- The GNSS part of a disabled reference: nothing held, and the receiver hunting (R48, R63, R207). -/
def Gnss.blank (g : Gnss) : Gnss := { lastByteAt := g.lastByteAt, ctr := g.ctr }

/-- Clear the GNSS part when the reference is GNSS. -/
def State.blankGnss (s : State) (r : Ref) : State := if r = .gnss then s.updGnss Gnss.blank else s

/-- The record of a reference that has just been enabled (R63). -/
def State.enabledRecord (s : State) (r : Ref) : Reference :=
  let ds := s.enableDefects r
  { (s.ref r).blank with
    state := .monitoring
    defects := ds
    grade := s.enableGrade r
    qualify := if ds.isEmpty then timerStart s.res else timerZero }

/-- Enabled written true on a DISABLED reference. -/
def State.refEnable (s : State) (r : Ref) : State :=
  ((s.updRef r fun _ => s.enabledRecord r).blankGnss r).announce r

/-- Enabled written false: DISABLED from any state, and the bypass pins lose its window result (R63, R163). -/
def State.refDisable (s : State) (r : Ref) : State :=
  (((s.updRef r Reference.blank).blankGnss r).pinsDiscardOffset r).announce r

/-! ## Satellite edges (R49 to R53) -/

/-- The counter's time at an edge in whole nanoseconds, rounded (R52). -/
def edgeNanos (counter : Nat) : Nat := (2 * counter + nsUnits) / (2 * nsUnits)

/-- The nearest second of a time in nanoseconds (R52). -/
def nearestSecond (n : Nat) : Nat := (n + 499999999) / 1000000000

/-- The uncompensated phase of an edge for the second it is taken to mark (R52). -/
def edgePhase (second n : Nat) : Int := (second : Int) * 1000000000 - n

/-- Whether an edge is accepted (R49). -/
def Reference.acceptsEdge (x : Reference) (res : Nat) : Bool :=
  match x.lastEdge with
  | none => true
  | some t => decide (500 * msUnits ≤ res - t)

/-- Hold a pending sample; one of the same second is replaced (R52). -/
def Gnss.hold (g : Gnss) (x : GnssSample) : Gnss :=
  { g with
    samples := g.samples.filter (fun y => y.second ≠ x.second) ++ [x]
    ctr := { g.ctr with
      replacedEdges :=
        if g.samples.any (fun y => y.second = x.second) then bump g.ctr.replacedEdges else g.ctr.replacedEdges } }

/-- TOD_MISMATCH after a labelled edge (R53). -/
def State.mismatch (s : State) (label nearest : Nat) : Bool :=
  s.servo.state ≠ .freerun && decide (label ≠ nearest)

/-- An edge handed to the Reference Monitor at this moment (R49, R51, R52, R53). -/
def State.gnssEdge (s : State) : State :=
  let x := s.ref .gnss
  if x.state = .disabled then s
  else if !x.acceptsEdge s.res then s.countGnss fun c => { c with spuriousEdges := bump c.spuriousEdges }
  else
    let n := edgeNanos s.clock.counter
    let nearest := nearestSecond n
    let label := s.gnss.held.map (·.label)
    let s1 := s.updGnss fun g =>
      { g with
        held := none
        ctr := { g.ctr with
          unlabelledEdges := if label.isSome then g.ctr.unlabelledEdges else bump g.ctr.unlabelledEdges } }
    let s2 := s1.updGnss fun g => g.hold ⟨nearest, edgePhase (label.getD nearest) n, s.clock.epoch⟩
    let s3 := s2.updRef .gnss fun y => { y with lastEdge := some s.res }
    s3.setDefects .gnss fun ds =>
      let ds1 := putDefect .signalLost false ds
      match label with
      | some l => putDefect .todMismatch (s.mismatch l nearest) ds1
      | none => ds1

/-- A partial record is discarded and counted under Bad Record (R207). -/
def Gnss.dropPartial (g : Gnss) : Gnss :=
  if g.partialRecord.isEmpty then g
  else { g with partialRecord := [], ctr := { g.ctr with badRecord := bump g.ctr.badRecord } }

/-- The GNSS signal interval is at 2 s (R49, R207). -/
def State.gnssLost (s : State) : State :=
  (s.updGnss fun g => { g.dropPartial with held := none }).setDefects .gnss (putDefect .signalLost true)

/-! ## The time-of-day line (R50, R51, R207) -/

/-- The low byte of the sum of the first eleven bytes (R50). -/
def todSum (bs : List Byte) : Nat := ((bs.take 11).map BitVec.toNat).sum % 256

/-- The contents of a record of twelve bytes (11, "The time-of-day record"). -/
def todInfo (bs : List Byte) : TodInfo :=
  { label := beNat (slice 1 6 bs)
    fixStatus := beNat (slice 7 1 bs)
    satellites := beNat (slice 8 1 bs)
    receiverGrade := beNat (slice 9 1 bs) }

/-- Whether a record falls in the window of R50. -/
def State.todInWindow (s : State) : Bool :=
  match (s.ref .gnss).lastEdge with
  | none => false
  | some t => decide (100 * msUnits ≤ s.res - t)

/-- Take a valid record (R50, R51). -/
def State.todTake (s : State) (i : TodInfo) : State :=
  let s1 := s.updGnss fun g =>
    { g with
      todStart := some s.res
      held := some i
      last := some i
      ctr := { g.ctr with
        validRecords := bump g.ctr.validRecords
        replacedRecords := if g.held.isSome then bump g.ctr.replacedRecords else g.ctr.replacedRecords } }
  s1.judge .gnss (some (min i.receiverGrade (s.ref .gnss).cfg.gradeCap)) (putDefect .todMissing false)

/-- Judge a record at its twelfth byte (R50). -/
def State.todJudge (s : State) (bs : List Byte) : State :=
  let i := todInfo bs
  if beNat (slice 11 1 bs) ≠ todSum bs then s.countGnss fun c => { c with badChecksum := bump c.badChecksum }
  else if i.fixStatus ≠ 1 then s.countGnss fun c => { c with noFix := bump c.noFix }
  else if 15 < i.receiverGrade ∨ 63 < i.satellites then s.countGnss fun c => { c with badRecord := bump c.badRecord }
  else if !s.todInWindow then s.countGnss fun c => { c with outOfWindow := bump c.outOfWindow }
  else s.todTake i

/-- The largest gap between two bytes of one record (R207). -/
def todGap : Nat := 20 * msUnits

/-- Discard a partial record whose gap has run beyond 20 ms (R207, log 49). -/
def State.todGapCheck (s : State) : State :=
  if todGap < s.res - s.gnss.lastByteAt then s.updGnss Gnss.dropPartial else s

/-- A byte of the time-of-day line (R207): hunting for 0xA5, assembling, and the record at its twelfth byte. -/
def State.todByte (s : State) (b : Byte) : State :=
  if (s.ref .gnss).state = .disabled then s
  else
    let s1 := s.todGapCheck.updGnss fun g => { g with lastByteAt := s.res }
    let have' := s1.gnss.partialRecord
    if have'.isEmpty then
      if b = 0xA5 then s1.updGnss fun g => { g with partialRecord := [b] } else s1
    else if have'.length < 11 then s1.updGnss fun g => { g with partialRecord := have' ++ [b] }
    else (s1.updGnss fun g => { g with partialRecord := [] }).todJudge (have' ++ [b])

/-- A byte with a framing error (R207). -/
def State.todFraming (s : State) : State :=
  if (s.ref .gnss).state = .disabled then s else s.updGnss Gnss.dropPartial

/-- The time-of-day interval is at 3 s (R51). -/
def State.todMissing (s : State) : State := s.judge .gnss none (putDefect .todMissing true)

/-! ## What the sessions, the links and the frequency input report -/

/-- A Client Session's report: its state, NOTICE_MISSING and its Master Grade (R54). -/
def State.syncPkt (s : State) (c : Client) : State :=
  let x := s.client c
  s.judge (clientRef c) (x.master.map (·.grade)) fun ds =>
    putDefect .noticeMissing x.noticeMissing (putDefect .signalLost (x.state ≠ .exchanging) ds)

/-- The link state of a network port reaches its LINE reference (R58). -/
def State.syncLine (s : State) (c : Client) : State :=
  s.setDefects (lineRef c) (putDefect .signalLost (!(s.port (clientPort c)).linkUp))

/-- Edges of the FREQ_IN pin reach EXT (R58, R160). -/
def State.extEdge (s : State) : State :=
  if (s.ref .ext).state = .disabled then s
  else (s.updRef .ext fun y => { y with lastEdge := some s.res }).setDefects .ext (putDefect .signalLost false)

/-- EXT has had no edge for 1 s (R58). -/
def State.extLost (s : State) : State := s.setDefects .ext (putDefect .signalLost true)

/-- STARVED from the running count (R54). -/
def Reference.isStarved (x : Reference) : Bool := decide (x.cfg.starveSeconds ≤ x.starve)

/-- Evaluate STARVED of a PKT reference (R47, R54). -/
def State.starveCheck (s : State) (c : Client) : State :=
  s.setDefects (clientRef c) (putDefect .starved (s.ref (clientRef c)).isStarved)

/-! ## A change of Epoch (R61) -/

/-- Void a reference's window in progress and discard its last e_raw. -/
def Reference.epoch (x : Reference) : Reference :=
  { x with lastE := none, pStart := none, capStart := none, winVoid := true }

/-- The Reference Monitor takes a change of Epoch. -/
def State.monitorEpoch (s : State) : State :=
  (allRefs.foldl (fun t r => t.updRef r Reference.epoch) s).updGnss fun g => { g with samples := [] }

end Sys2Proof.Machine
end

