-- ==== Sys2Proof/Machine/SessionOps.lean ====
section
/-! DEFINITION. The Upstream Session Unit's operations (02): states of a Client Session, sorting received timing frames, the
TIME_MARK pair, queries, replies and exchanges. -/
namespace Sys2Proof.Machine
open Sys2Proof

/-! ## States (R30, R43) -/

/-- The list, the pair and the best exchange emptied (R43). -/
def ClientSession.emptied (x : ClientSession) : ClientSession :=
  { x with outstanding := [], pair := none, best := none }

/-- The master released and the session emptied (R43). -/
def ClientSession.released (x : ClientSession) : ClientSession := { x.emptied with master := none }

/-- IDLE; NOTICE_MISSING goes absent (R30, R33). -/
def ClientSession.toIdle (x : ClientSession) : ClientSession :=
  { x.released with state := .idle, noticeMissing := false }

/-- LISTENING; NOTICE_MISSING stays as it was. -/
def ClientSession.toListening (x : ClientSession) : ClientSession := { x.released with state := .listening }

/-- Change a session and report it to the Reference Monitor (R54). -/
def State.moveClient (s : State) (c : Client) (f : ClientSession → ClientSession) : State :=
  (s.updClient c f).syncPkt c

/-- Enabled written true, or link-up of an enabled session (R30). -/
def State.clientStart (s : State) (c : Client) : State :=
  let x := s.client c
  if x.state = .idle ∧ x.cfg.enabled = true ∧ (s.port (clientPort c)).linkUp = true then
    s.moveClient c ClientSession.toListening
  else s

/-- Enabled written false, or link-down (R30, R43). -/
def State.clientStop (s : State) (c : Client) : State :=
  if (s.client c).state = .idle then s else s.moveClient c ClientSession.toIdle

/-- Domain or Query VLAN changed (R29, R30). -/
def State.clientRetune (s : State) (c : Client) : State :=
  if (s.client c).state = .idle then s else s.moveClient c ClientSession.toListening

/-- The notice interval is at Notice Timeout (R33). -/
def State.noticeExpired (s : State) (c : Client) : State :=
  s.moveClient c fun x => { x.toListening with noticeMissing := true }

/-! ## Notices (R32 to R34) -/

/-- The master a notice names (R32). -/
def noticeMaster (h : Header) (body : List Byte) : Master :=
  { addr := BitVec.ofNat 48 (beNat (slice 0 6 body)), grade := h.grade, epoch := h.epoch }

/-- Accept a master (R32). -/
def State.acceptMaster (s : State) (c : Client) (m : Master) : State :=
  s.moveClient c fun x =>
    { x with
      state := .exchanging, master := some m, noticeStart := s.res, noticeMissing := false
      queryDone := s.clock.counter }

/-- A serving notice from the master (R33, R34). -/
def ClientSession.masterNotice (res : Nat) (m : Master) (x : ClientSession) : ClientSession :=
  let y := { x with noticeStart := res, master := some m }
  if (x.master.map (·.epoch)) = some m.epoch then y
  else
    { y with
      pair := none
      best := none
      ctr := { y.ctr with masterEpochChanges := bump y.ctr.masterEpochChanges } }

/-- A QUALITY_NOTICE reaches a session that is not IDLE (R32, R33). -/
def State.clientNotice (s : State) (c : Client) (h : Header) (body : List Byte) : State :=
  let m := noticeMaster h body
  match (s.client c).master with
  | none =>
    if h.serving then s.acceptMaster c m else s.countClient c fun k => { k with notServing := bump k.notServing }
  | some old =>
    if m.addr ≠ old.addr then s.countClient c fun k => { k with foreignNotices := bump k.foreignNotices }
    else if !h.serving then s.countClient c fun k => { k with notServing := bump k.notServing }
    else s.moveClient c (ClientSession.masterNotice s.res m)

/-! ## Exchanges (R35, R38, R40, R41) -/

/-- Replace the TIME_MARK pair, unless the mark is stale (R35). -/
def State.takeMark (s : State) (c : Client) (h : Header) (stamps : Ingress) : State :=
  if stamps.epoch ≠ s.clock.epoch then s.countClient c fun k => { k with staleMarks := bump k.staleMarks }
  else
    s.updClient c fun x =>
      { x with pair := some { t1 := h.time, c1 := h.correction, t2 := stamps.counter, epoch := stamps.epoch } }

/-- The exchange of a pair and a reply (R40): phase sample in ns and round trip in fraction units. -/
def exchangeOf (asymmetry : Int) (p : MarkPair) (t3 : Nat) (t4 : Nat) (c4 : Int) : Exchange :=
  let forward := ((p.t2 : Int) - p.t1) - p.c1
  let reverse := ((t4 : Int) - t3) - c4
  { sample := -(roundDiv (forward - reverse - asymmetry * nsUnits) (2 * nsUnits))
    roundTrip := forward + reverse }

/-- Let an exchange compete for the best-exchange record (R41). -/
def ClientSession.compete (e : Exchange) (x : ClientSession) : ClientSession :=
  if e.roundTrip < 0 then { x with ctr := { x.ctr with negativeDelay := bump x.ctr.negativeDelay } }
  else
    match x.best with
    | none => { x with best := some e }
    | some b => if e.roundTrip ≤ b.roundTrip then { x with best := some e } else x

/-- The record of a Sequence, if one is in the list. -/
def ClientSession.findQuery (x : ClientSession) (seq : Nat) : Option QueryRec := x.outstanding.find? fun q => q.seq = seq

/-- Remove the record of a Sequence. -/
def ClientSession.dropQuery (seq : Nat) (x : ClientSession) : ClientSession :=
  { x with outstanding := x.outstanding.filter fun q => q.seq ≠ seq }

/-- A DELAY_REPLY is looked up, and a matching one completes its exchange (R38, R40). -/
def ClientSession.reply (h : Header) (x : ClientSession) : ClientSession :=
  match (x.findQuery h.seq).bind (·.t3) with
  | none => { x with ctr := { x.ctr with stray := bump x.ctr.stray } }
  | some t3 =>
    let y := { x.dropQuery h.seq with ctr := { x.ctr with repliesMatched := bump x.ctr.repliesMatched } }
    match x.pair with
    | none => { y with ctr := { y.ctr with noPair := bump y.ctr.noPair } }
    | some p => y.compete (exchangeOf x.cfg.asymmetry p t3 h.time h.correction)

/-! ## Sorting (R31) -/

/-- A TIME_MARK or DELAY_REPLY reaches an EXCHANGING session with master `m` (R31, tests 6 to 8). -/
def State.clientExchange (s : State) (c : Client) (m : Master) (f : Frame) (h : Header) (stamps : Ingress) : State :=
  if f.src ≠ m.addr ∨ (h.type = typeDelayReply ∧ f.dst ≠ s.mgmt.station) then
    s.countClient c fun k => { k with foreignFrames := bump k.foreignFrames }
  else if h.epoch ≠ m.epoch then s.countClient c fun k => { k with masterEpochMismatch := bump k.masterEpochMismatch }
  else if h.type = typeTimeMark then s.takeMark c h stamps
  else s.updClient c (ClientSession.reply h)

/-- A Client Session sorts a timing frame (R31). -/
def State.clientSort (s : State) (c : Client) (f : Frame) (stamps : Ingress) : State :=
  let h := readHeader f.payload
  let x := s.client c
  if x.state = .idle then s.countClient c fun k => { k with idleDiscards := bump k.idleDiscards }
  else if h.domain ≠ x.cfg.domain then s.countClient c fun k => { k with otherDomain := bump k.otherDomain }
  else if h.type = typeDelayQuery then s.countClient c fun k => { k with unusedTypes := bump k.unusedTypes }
  else if h.type = typeQualityNotice then s.clientNotice c h (bodyOf f.payload)
  else
    match x.master with
    | none =>
      if h.type = typeTimeMark then s.countClient c fun k => { k with noMaster := bump k.noMaster }
      else s.countClient c fun k => { k with stray := bump k.stray }
    | some m => s.clientExchange c m f h stamps

/-! ## Queries (R36, R37, R39) -/

/-- Capacity of the Outstanding Query List (R37). -/
def listCapacity : Nat := 8

/-- The due instant of the next query (R36). -/
def ClientSession.nextQuery (x : ClientSession) (counter : Nat) : Nat :=
  nextDue (periodUnits x.rate) x.queryDone counter

/-- The DELAY_QUERY of a session with master `m` (R25, R28, R37). -/
def State.queryFrame (s : State) (c : Client) (m : Master) : Frame :=
  let x := s.client c
  builtFrame m.addr s.mgmt.station (builtTag x.cfg.queryVlan) s.mgmt.partEther
    { cls := classTiming, type := typeDelayQuery, domain := x.cfg.domain, seq := x.nextSeq, epoch := s.clock.epoch } []

/-- Build and offer a query (R37). -/
def State.sendQuery (s : State) (c : Client) (m : Master) : State :=
  let x := s.client c
  if listCapacity ≤ x.outstanding.length then s.countClient c fun k => { k with skipped := bump k.skipped }
  else
    let s1 := s.updClient c fun y =>
      { y with
        outstanding := y.outstanding ++ [{ seq := y.nextSeq, t3 := none, epoch := s.clock.epoch, created := s.res }]
        nextSeq := (y.nextSeq + 1) % 65536 }
    match s1.offer (clientPort c) .timing ⟨s.queryFrame c m, .delayQuery x.nextSeq⟩ with
    | (s2, true) => s2
    | (s2, false) =>
      s2.updClient c fun y =>
        { y.dropQuery x.nextSeq with ctr := { y.ctr with queryDiscards := bump y.ctr.queryDiscards } }

/-- The capture of a query's egress moment becomes t3 of its record (R37). -/
def ClientSession.captureT3 (seq counter : Nat) (x : ClientSession) : ClientSession :=
  { x with
    outstanding := x.outstanding.map fun q => if q.seq = seq then { q with t3 := some counter } else q
    ctr := { x.ctr with queriesSent := bump x.ctr.queriesSent } }

/-- Reply Timeout in fraction units. -/
def ClientSession.timeoutUnits (x : ClientSession) : Nat := x.cfg.replyTimeout * msUnits

/-- The oldest record times out (R39). -/
def ClientSession.loseOldest (x : ClientSession) : ClientSession :=
  { x with outstanding := x.outstanding.drop 1, ctr := { x.ctr with lost := bump x.ctr.lost } }

/-- Every record whose age is at Reply Timeout times out, as a write of Reply Timeout can bring about (R29, R39). -/
def ClientSession.loseAged (res : Nat) (x : ClientSession) : ClientSession :=
  let aged := x.outstanding.filter fun q => x.timeoutUnits ≤ res - q.created
  { x with
    outstanding := x.outstanding.filter fun q => ¬x.timeoutUnits ≤ res - q.created
    ctr := { x.ctr with lost := bumpBy aged.length x.ctr.lost } }

/-! ## A change of Epoch and a second boundary -/

/-- The sessions take a change of Epoch (R43, R94); due instants start again after the new counter (R36). -/
def State.sessionsEpoch (s : State) : State :=
  allClients.foldl (fun t c => t.updClient c fun x => { x.emptied with queryDone := t.clock.counter }) s

/-- A session reports its second and empties the best-exchange record (R42); a new Query Rate governs from here (R29,
R36), one written while the session was IDLE too (log 56). -/
def ClientSession.boundary (counter : Nat) (x : ClientSession) : ClientSession :=
  { x with
    best := none
    rate := x.cfg.queryRate
    queryDone := if x.rate = x.cfg.queryRate then x.queryDone else counter
    ctr := { x.ctr with samples := if x.best.isSome then bump x.ctr.samples else x.ctr.samples } }

end Sys2Proof.Machine
end

