-- ==== Sys2Proof/Machine/TimeOps.lean ====
section
/-! DEFINITION. Discontinuities of the Time Counter (05): the Time Step, TIME_SET, the carry beyond the last second, and the
change of Epoch each of them hands to the other blocks. -/
namespace Sys2Proof.Machine
open Sys2Proof

/-- The largest value of the Time Counter (R90). -/
def counterTop : Nat := secRange * secUnits - 1

/-- The counter moved by `v` ns, kept within its range (R93). -/
def stepCounter (counter : Nat) (v : Int) : Nat := min (((counter : Int) + v * nsUnits).toNat) counterTop

/-- The clock with a new counter value and the next Epoch (R92). A second boundary the counter stood at is left behind. -/
def Clock.moveTo (counter : Nat) (c : Clock) : Clock :=
  { c with counter := counter, epoch := (c.epoch + 1) % 256, boundaryDue := false }

/-- A change of Epoch reaches the blocks of R94; `before` is the counter before it. -/
def State.epochChange (s : State) (before : Nat) : State :=
  (((((s.sessionsEpoch).monitorEpoch).realEpoch).ringEpoch before).sitesEpoch).pinsEpoch

/-- Move the counter, in one event with the change of Epoch. -/
def State.moveCounter (s : State) (counter : Nat) : State :=
  { s with clock := s.clock.moveTo counter }.epochChange s.clock.counter

/-- A Time Step of `v` ns (R93). -/
def State.timeStep (s : State) (v : Int) : State :=
  (s.countServo fun c => { c with timeSteps := bump c.timeSteps }).moveCounter (stepCounter s.clock.counter v)

/-- A TIME_SET taken in FREERUN (R95). -/
def State.timeSet (s : State) (seconds nanos : Nat) : State :=
  (s.countServo fun c => { c with timeSets := bump c.timeSets }).moveCounter (timeOf seconds nanos 0)

/-- The clock run up to the carry beyond the last second, if it stands in that second (R91). -/
def Clock.toWrap (f : Int) (c : Clock) : Option Clock :=
  if c.boundaryDue = false ∧ secondsOf c.counter + 1 = secRange then some (c.run f c.room) else none

/-- The carry beyond the last second (R91, log 53): the counter, standing at 2^48 s, returns to 0. -/
def State.counterCarry (s : State) : State :=
  { (s.countServo fun c => { c with counterWraps := bump c.counterWraps }) with
    clock := s.clock.moveTo 0 }.epochChange counterTop

end Sys2Proof.Machine
end

