-- ==== Sys2Proof/Machine/BoundaryOps.lean ====
section
/-! DEFINITION. The per-second work of a second boundary (03, 04, 05, 06, 07): samples, the realignment decision, the loop,
the frequency windows, the grade and the notices. -/
namespace Sys2Proof.Machine
open Sys2Proof

/-! ## What is gathered as the boundary is reached -/

/-- Whether a reference is enabled. -/
def Reference.enabled (x : Reference) : Bool := x.state ≠ .disabled

/-- The pending GNSS sample of the second just ended, of the current Epoch (R55); `b` is the second that begins. -/
def State.gnssSample (s : State) (b : Nat) : Option Int :=
  ((s.gnss.samples.find? fun x => x.second + 1 = b ∧ x.epoch = s.clock.epoch)).map (·.p)

/-- The uncompensated sample p of a phase-capable reference for the second just ended (R42, R52, R55). -/
def State.sampleOf (s : State) (b : Nat) (r : Ref) : Option Int :=
  if !(s.ref r).enabled then none
  else
    match r with
    | .gnss => s.gnssSample b
    | .pkt0 => (s.client .pkt0).best.map (·.sample)
    | .pkt1 => (s.client .pkt1).best.map (·.sample)
    | .line0 => none
    | .line1 => none
    | .ext => none

/-- Units of reference time in one cycle of a nominal rate (R58). -/
def cycleUnits (rate : Nat) : Nat := secUnits / rate

/-- The FREQ_IN pin, if one holds the function (R160). -/
def State.freqPin (s : State) : Option (Fin 4) := allPins.find? fun k => (s.tpin k).cfg.function = .freqIn

/-- A phase capture from a cycle count and the stamp of its latest edge, if that is of the current Epoch (R58). -/
def State.captureFrom (s : State) (rate cycles : Nat) (edge : Option Stamp) : Option Nat :=
  match edge with
  | none => none
  | some e =>
    if e.epoch = s.clock.epoch then some (cycles * cycleUnits rate + (s.clock.counter - e.counter))
    else none

/-- Nominal rate of the line clocks (R58). -/
def lineRate : Nat := 125000000

/-- The phase capture of a frequency-only reference at this boundary (R58). -/
def State.captureOf (s : State) (r : Ref) : Option Nat :=
  match refLine? r with
  | some c => s.captureFrom lineRate (s.port (clientPort c)).lineCycles (s.port (clientPort c)).lineEdge
  | none =>
    if r = .ext then
      match s.freqPin with
      | some k => s.captureFrom (s.ref .ext).cfg.declaredRate (s.tpin k).cycles (s.tpin k).lastInput
      | none => none
    else none

/-- The result d of a phase window from its two samples (R57). -/
def phaseWindow (pStart pEnd : Int) : Int := roundDiv ((pEnd - pStart) * 1000) 16

/-- The result d of a frequency window from its two captures (R58). -/
def captureWindow (capStart capEnd : Nat) : Int :=
  roundDiv (((capEnd : Int) - capStart - 16 * secUnits) * 1000) (16 * nsUnits)

/-- The result of a reference's window that ends at the boundary into second `b`, or none if it is void (R57, R58). -/
def State.windowResult (s : State) (b : Nat) (r : Ref) : Option Int :=
  let x := s.ref r
  if phaseCapable r then
    match x.pStart, s.sampleOf b r with
    | some p0, some p1 => some (phaseWindow p0 p1)
    | _, _ => none
  else if x.winVoid then none
  else
    match x.capStart, s.captureOf r with
    | some c0, some c1 => some (captureWindow c0 c1)
    | _, _ => none

/-- What the work of one boundary is done with: the second that begins, the Epoch as it was reached, the samples p, the
window results, the captures, the mean F of the window, and whether a window ends and whether one may begin here. -/
structure Gathered where
  second  : Nat
  epoch   : Nat
  samples : Ref → Option Int
  results : Ref → Option Int
  caps    : Ref → Option Nat
  meanF   : Int
  atMark  : Bool
  ending  : Bool

/-- Gather at the boundary into second `b`. -/
def State.gather (s : State) (b : Nat) : Gathered :=
  { second := b
    epoch := s.clock.epoch
    samples := s.sampleOf b
    results := s.windowResult b
    caps := s.captureOf
    meanF := roundDiv s.window.fSum 16
    atMark := b % 16 = 0
    ending := decide (b % 16 = 0) && s.window.isOpen }

/-- The window result of a reference, voided by a change of Epoch since the boundary was reached (R58, R61). -/
def Gathered.result (g : Gathered) (s : State) (r : Ref) : Option Int :=
  if s.clock.epoch = g.epoch then g.results r else none

/-! ## Samples (R54 to R56, R62) -/

/-- Starve Count and STARVED follow the second's report of a PKT reference (R54). -/
def starveAfter (r : Ref) (sample : Option Int) (x : Reference) : Nat :=
  if (refClient? r).isNone then x.starve
  else if sample.isSome then 0
  else bump x.starve

/-- Whether a new e_raw raises PHASE_JUMP (R56). -/
def Reference.jumps (x : Reference) (e : Option Int) : Bool :=
  match e, x.lastE with
  | some v, some l => decide (x.cfg.jumpLimit < (v - l).natAbs)
  | _, _ => false

/-- PHASE_FAR after a boundary's sample (R62). -/
def farAfter (limit : Nat) (e : Option Int) (was : Bool) : Bool :=
  match e with
  | some v => was && decide (limit < v.natAbs)
  | none => was

/-- The defect set of a reference after the second's sample (R54, R56, R62; log 12). -/
def sampleDefects (limit : Nat) (r : Ref) (jump starved : Bool) (e : Option Int) (ds : List Defect) : List Defect :=
  let d1 := putDefect .phaseJump jump (putDefect .phaseFar (farAfter limit e (ds.contains .phaseFar)) ds)
  if (refClient? r).isSome then putDefect .starved starved d1 else d1

/-- Form and judge the sample of one reference (R54 to R56, R62, R64). -/
def State.judgeSample (s : State) (sample : Option Int) (r : Ref) : State :=
  let x := s.ref r
  if !x.enabled then s
  else
    let e := sample.map fun p => p + x.cfg.compensation
    let jump := x.jumps e
    let starve := starveAfter r sample x
    let s1 := s.updRef r fun y =>
      { y with
        lastE := e.or y.lastE
        starve := starve
        ctr := { y.ctr with phaseJumps := if jump then bump y.ctr.phaseJumps else y.ctr.phaseJumps } }
    let starved := (s1.ref r).isStarved
    (s1.setDefects r (sampleDefects s.realign.params.maxOffset r jump starved e)).measured r

/-- The sample the selected phase reference hands on: only a QUALIFIED reference hands on, and only in the Epoch of its
samples (R55, R74). -/
def State.handedOn (s : State) (g : Gathered) : Option Int :=
  match s.selector.phase with
  | none => none
  | some r =>
    let x := s.ref r
    if x.state = .qualified ∧ s.clock.epoch = g.epoch then (g.samples r).map fun p => p + x.cfg.compensation else none

/-! ## The decision and the loop (R82, R83, R104, R105) -/

/-- The boundary gives the Time Engine no loop input (R105). -/
def State.noInput (s : State) : State := if s.servo.state.tracking then s.missingSample else s

/-- Give the Time Engine a loop input (R83, R104). -/
def State.giveInput (s : State) (e : Int) : State := if s.servo.state.tracking then s.loopInput e else s

/-- Cases 2 to 4 of the decision (R82). -/
def State.decideFresh (s : State) (e : Int) : State :=
  if s.steps e then
    ((s.updReal fun x =>
      { x with decision := .decided, ctr := { x.ctr with steps := bump x.ctr.steps } }).timeStep e).noInput
  else if s.isTooFar e then
    let s1 := (s.countReal fun c => { c with tooFar := bump c.tooFar }).noInput
    match s.realign.decisionRef with
    | some r => s1.setDefects r (putDefect .phaseFar true)
    | none => s1
  else (s.absorb e).giveInput 0

/-- The decision on E (R82). -/
def State.takeDecision (s : State) (e : Int) : State :=
  let s0 := s.countReal fun c => { c with decisions := bump c.decisions }
  match s0.realign.suspended with
  | none => s0.decideFresh e
  | some u => if s0.resumes u e then (s0.resume u).giveInput (e - u.b) else s0.discardSuspended.decideFresh e

/-- The Realignment Unit and the Time Engine take the boundary's sample, or its absence (R82 to R84, R104, R105). -/
def State.followSample (s : State) (e : Option Int) : State :=
  let s1 := s.slewProgress
  match e with
  | none => s1.noInput
  | some v =>
    match s1.realign.decision with
    | .pending => s1.takeDecision v
    | .decided => s1.giveInput (v - s1.realign.b)
    | .none => s1.noInput

/-- Pending GNSS samples of older seconds, and the one handed on, are gone after the boundary (R55). -/
def State.dropSamples (s : State) (b : Nat) : State :=
  s.updGnss fun g => { g with samples := g.samples.filter fun x => b ≤ x.second }

/-- The samples work. -/
def State.samplesWork (s : State) (g : Gathered) : State :=
  let s1 := [Ref.gnss, Ref.pkt0, Ref.pkt1].foldl (fun t r => t.judgeSample (g.samples r) r) s
  (s1.dropSamples g.second).followSample (s1.handedOn g)

/-! ## Windows (R57 to R59, R61) -/

/-- WANDER of a window result (R59). -/
def Reference.wanders (x : Reference) (d : Int) : Bool :=
  match x.prevD with
  | some p => decide (x.cfg.wanderLimit < (d - p).natAbs)
  | none => false

/-- Judge the window of one enabled reference (R59, R163). Of a reference that is disabled at its end no window is judged
or counted, so one that the disabling voided (R63) is not counted (log 60). A result that moves the reference's state
is stored as the Bypass Offset after that change is taken (log 70). -/
def State.judgeWindow (s : State) (meanF : Int) (d : Option Int) (r : Ref) : State :=
  let x := s.ref r
  if !x.enabled then s
  else
    match d with
    | none =>
      s.updRef r fun y => { y with prevD := none, ctr := { y.ctr with windowsVoid := bump y.ctr.windowsVoid } }
    | some v =>
      let dOsc := v + meanF
      let s1 := s.updRef r fun y => { y with lastD := some v, prevD := some v }
      let s2 := s1.setDefects r fun ds =>
        putDefect .wander (x.wanders v) (putDefect .freqRange (decide (x.cfg.acceptRange < dOsc.natAbs)) ds)
      ((s2.measured r).pinsOffset r dOsc).pinsFallback r

/-- Begin a reference's window with the sample and the capture of this boundary (R57, R58). -/
def beginWindow (p : Option Int) (cap : Option Nat) (x : Reference) : Reference :=
  { x with pStart := p, capStart := cap, winVoid := x.defects.contains .signalLost }

/-- The windows work: the windows that end here are judged, and the next begin, unless the counter has been stepped since
the boundary was reached (R57, R61). -/
def State.windowsWork (s : State) (g : Gathered) : State :=
  if !g.atMark then s
  else
    let s1 := if g.ending then allRefs.foldl (fun t r => t.judgeWindow g.meanF (g.result t r) r) s else s
    if s1.clock.epoch = g.epoch then
      { (allRefs.foldl (fun t r => t.updRef r (beginWindow (g.samples r) (g.caps r))) s1) with
        window := { s1.window with isOpen := true } }
    else { s1 with window := { s1.window with isOpen := false } }

/-- The tracking work: the result of the reference in the frequency role goes to the Time Engine (R59, R111, R118). -/
def State.trackingWork (s : State) (g : Gathered) : State :=
  if !g.ending then s
  else
    match s.selector.freq with
    | none => s
    | some r => s.freqResult (g.result s r)

/-! ## The boundary as a whole -/

/-- The default order of the works whose order the manual leaves open. -/
def allWork : List BoundaryWork := [.samples, .windows, .tracking, .grade, .notices]

/-- One of the works (R74, R104, R111, R132, R147; log 8). -/
def State.work (g : Gathered) (s : State) : BoundaryWork → State
  | .samples => s.samplesWork g
  | .windows => s.windowsWork g
  | .tracking => s.trackingWork g
  | .grade => s.regrade
  | .notices => allSites.foldl State.offerNotice s

/-- The order of the works: as commanded, then those the command leaves out. -/
def workOrder (order : List BoundaryWork) : List BoundaryWork :=
  order.eraseDups ++ allWork.filter fun w => !order.contains w

/-- Each site's second begins: its query count starts again and the Mark Rate stored governs (R145, R150). -/
def Site.boundary (x : Site) : Site := { x with queries := 0, rate := x.cfg.markRate }

/-- Sessions and sites turn to the new second (R42, R145, R150). -/
def State.turnSecond (s : State) : State :=
  let s1 := allClients.foldl (fun t c => t.updClient c (ClientSession.boundary t.clock.counter)) s
  allSites.foldl (fun t k => t.updSite k Site.boundary) s1

/-- The sum of F over the window's seconds takes the F that stands once the boundary's work is done (R59, R90). -/
def State.addMeanF (s : State) (b : Nat) : State :=
  { s with window := { s.window with fSum := if b % 16 = 0 then s.servo.f else s.window.fSum + s.servo.f } }

/-- The work of the boundary into second `b`, the counter standing at it and the second that ended there closed
(R117). -/
def State.boundary (s : State) (b : Nat) (order : List BoundaryWork) : State :=
  ((workOrder order).foldl (State.work (s.gather b)) s.turnSecond).addMeanF b

/-- The state with a new clock. -/
def State.withClock (s : State) (c : Clock) : State := { s with clock := c }

/-- The relay at the second boundary that comes next: the second that ends there is closed, if it was not when the
clocks came to it, and the boundary's work is about to be taken (R90, R117). -/
def State.atBoundary (s : State) : Option State :=
  (s.clock.toBoundary s.servo.f).map fun c => (s.arrive c).withClock c.settle

/-- The second boundary that comes next, its work in the order given (R90; log 8). -/
def State.secondBoundary (s : State) (order : List BoundaryWork) : State :=
  match s.atBoundary with
  | some u => u.boundary (secondsOf u.clock.counter) order
  | none => s

end Sys2Proof.Machine
end

