-- ==== Sys2Proof/Machine/ClassifyOps.lean ====
section
/-! DEFINITION. The traffic path (01): matching a frame, the overlap test, acting on a frame, judging and accepting received
frames (10, 11), and the egress moment. -/
namespace Sys2Proof.Machine
open Sys2Proof

/-! ## Reading a frame (R4, R204) -/

/-- Whether a frame carries the Part EtherType. -/
def isPart (part : Nat) (f : Frame) : Bool := f.etherType.toNat = part

/-- The Class byte of a frame of the Part EtherType, when it has one (log 17). -/
def frameClass (part : Nat) (f : Frame) : Option Nat :=
  if isPart part f && 0 < f.payload.length then some (beNat (slice 0 1 f.payload)) else none

/-- Whether the common header is long enough to hold Class and Domain (R4, R204). -/
def holdsDomain (f : Frame) : Bool := decide (3 ≤ f.payload.length)

/-- The Domain byte (R204). -/
def frameDomain (f : Frame) : Nat := beNat (slice 2 1 f.payload)

/-! ## Matching (R4) -/

/-- VLAN match. -/
def FlowEntry.matchVlan (e : FlowEntry) (f : Frame) : Bool :=
  match e.vlan, f.tag with
  | .any, _ => true
  | .untagged, none => true
  | .untagged, some _ => false
  | .tagged, none => false
  | .tagged, some t => decide (e.vStart ≤ t.vid.toNat ∧ t.vid.toNat ≤ e.vStop)

/-- The EtherType value an entry stands for under the Part EtherType in force (R9). -/
def EtherMatch.value (part : Nat) : EtherMatch → Option Nat
  | .any => none
  | .part => some part
  | .literal v => some v

/-- EtherType match. -/
def FlowEntry.matchEther (part : Nat) (e : FlowEntry) (f : Frame) : Bool :=
  match e.etherType.value part with
  | none => true
  | some v => f.etherType.toNat = v

/-- Class and Domain match. -/
def FlowEntry.matchClass (part : Nat) (e : FlowEntry) (f : Frame) : Bool :=
  match e.cls with
  | .any => true
  | .timing =>
    holdsDomain f && frameClass part f = some classTiming &&
      decide (e.dStart ≤ frameDomain f ∧ frameDomain f ≤ e.dStop)
  | .management => holdsDomain f && frameClass part f = some classManagement

/-- Destination match. -/
def FlowEntry.matchDest (station : Addr) (e : FlowEntry) (f : Frame) : Bool :=
  match e.dest with
  | .any => true
  | .station => f.dst = station
  | .timingGroup => f.dst = timingGroup

/-- Whether a frame matches an enabled entry (R4). -/
def FlowEntry.matchesFrame (part : Nat) (station : Addr) (p : Port) (f : Frame) (e : FlowEntry) : Bool :=
  e.enabled && inPorts e.ingress p && e.matchVlan f && e.matchEther part f && e.matchClass part f &&
    e.matchDest station f

/-! ## Overlap (R6) -/

/-- Two windows share a value. -/
def windowsMeet (a b c d : Nat) : Bool := decide (a ≤ d ∧ c ≤ b)

/-- VLAN matches intersect. -/
def vlanMeet (x y : FlowEntry) : Bool :=
  match x.vlan, y.vlan with
  | .any, _ => true
  | _, .any => true
  | .untagged, .untagged => true
  | .untagged, .tagged => false
  | .tagged, .untagged => false
  | .tagged, .tagged => windowsMeet x.vStart x.vStop y.vStart y.vStop

/-- Two enabled entries overlap under a Part EtherType (R6, R9). -/
def flowOverlap (part : Nat) (x y : FlowEntry) : Bool :=
  (x.ingress &&& y.ingress) ≠ 0 && vlanMeet x y &&
    ((x.etherType.value part).isNone || (y.etherType.value part).isNone ||
      x.etherType.value part = y.etherType.value part) &&
    (x.cls = .any || y.cls = .any || x.cls = y.cls) &&
    (!(x.cls = .timing && y.cls = .timing) || windowsMeet x.dStart x.dStop y.dStart y.dStop) &&
    (x.dest = .any || y.dest = .any || x.dest = y.dest)

/-! ## Classifying (R5, R12) -/

/-- Every index of the Flow Table. -/
def flowIndices : List (Fin 64) := List.finRange 64

/-- The winning entry of a frame: the matching entry of lowest Priority (R5). -/
def State.winner (s : State) (p : Port) (f : Frame) : Option (Fin 64) :=
  (flowIndices.filter fun i => (s.flow.get i).matchesFrame s.mgmt.partEther s.mgmt.station p f).foldl
    (fun best i =>
      match best with
      | none => some i
      | some b => if (s.flow.get i).priority < (s.flow.get b).priority then some i else some b) none

/-- Ports of an egress set before the ingress port is removed (R12). -/
def State.uplinkPorts (s : State) (e : EgressSet) (q : Port) : Bool :=
  inPorts e.ports q ||
    (e.uplink &&
      (if (s.port .n0).linkUp then q = .n0 else if (s.port .n1).linkUp then q = .n1 else false))

/-- The resolved egress ports of a frame, in index order (R12). -/
def State.resolve (s : State) (e : EgressSet) (ingress : Port) : List Port :=
  allPorts.filter fun q => s.uplinkPorts e q && q ≠ ingress

/-- VLAN translation of a copy (R13). -/
def translate (offset : Nat) (f : Frame) : Frame :=
  { f with tag := f.tag.map fun t => { t with vid := BitVec.ofNat 12 (t.vid.toNat + offset) } }

/-- Forward a frame to its resolved ports, or count it under No Egress (R13, R15). -/
def State.forward (s : State) (p : Port) (e : EgressSet) (q : QueueClass) (x : QFrame) : State :=
  match s.resolve e p with
  | [] => s.countPort p fun c => { c with noEgress := bump c.noEgress }
  | ports => ports.foldl (fun t k => (t.offer k q x).1) s

/-! ## Judging and accepting (R189, R206) -/

/-- Bytes of body a management frame of a Type has to hold (R206): of a command the Tag and the fixed arguments, of a
RESPONSE its Tag, Type and Status, of an ALARM_NOTICE its body up to the Cause count (log 18). -/
def managementBody (type : Nat) : Nat :=
  match type with
  | 0x10 => 6 | 0x11 => 4 | 0x12 => 6 | 0x13 => 5 | 0x14 => 4 | 0x15 => 4 | 0x16 => 4 | 0x17 => 3
  | 0x1A => 12 | 0x1B => 3 | 0x1F => 3 | 0x20 => 4 | 0x21 => 20
  | _ => 2

/-- Bytes of body a Type has to hold (R206). -/
def leastBody (cls type : Nat) : Nat :=
  if cls = classTiming then if type = typeQualityNotice then 6 else 0 else managementBody type

/-- Outcome of the judging of a received frame (R206). -/
inductive Judged where
  | pass | short | badHeader
deriving DecidableEq, Repr

/-- Judge the bytes after the EtherType of a frame of Class TIMING or MANAGEMENT (R206). -/
def judgeFrame (payload : List Byte) : Judged :=
  let h := readHeader payload
  if payload.length < 28 then .short
  else if payload.length - 28 < h.bodyLen then .short
  else if h.cls = classTiming ∧ (h.type < 1 ∨ 4 < h.type ∨ 127 < h.domain ∨ 15 < h.grade) then .badHeader
  else if h.bodyLen < leastBody h.cls h.type then .short
  else .pass

/-- Hand a judged frame on, or count it (R206). -/
def State.judgedThen (s : State) (p : Port) (f : Frame) (next : State → State) : State :=
  match judgeFrame f.payload with
  | .pass => next s
  | .short => s.countPort p fun c => { c with shortFrames := bump c.shortFrames }
  | .badHeader => s.countPort p fun c => { c with badHeader := bump c.badHeader }

/-- Capacity of the Command Queue (R191). -/
def commandCapacity : Nat := 4

/-- The command of an accepted frame (R189). -/
def commandOf (p : Port) (f : Frame) : Command :=
  let h := readHeader f.payload
  let body := bodyOf f.payload
  { ingress := p, src := f.src, vlan := f.tag, tag := beNat (slice 0 2 body), seq := h.seq, type := h.type
    args := body.drop 2 }

/-- The five tests of R189. -/
def State.acceptCommand (s : State) (p : Port) (f : Frame) : State :=
  let h := readHeader f.payload
  if frameClass s.mgmt.partEther f ≠ some classManagement then
    s.countMgmt fun c => { c with wrongClass := bump c.wrongClass }
  else if f.dst ≠ s.mgmt.station then s.countMgmt fun c => { c with wrongDestination := bump c.wrongDestination }
  else if !inPorts s.mgmt.permitted p then s.countMgmt fun c => { c with portNotPermitted := bump c.portNotPermitted }
  else if h.type = typeResponse ∨ h.type = typeAlarmNotice then
    s.countMgmt fun c => { c with notACommand := bump c.notACommand }
  else if s.mgmt.queue.length < commandCapacity then
    s.updMgmt fun m => { m with queue := m.queue ++ [commandOf p f] }
  else s.countMgmt fun c => { c with queueFullDrops := bump c.queueFullDrops }

/-- A MANAGE frame: judged when its Class is TIMING or MANAGEMENT, then tested (R14, R189, R206). -/
def State.manage (s : State) (p : Port) (f : Frame) : State :=
  match frameClass s.mgmt.partEther f with
  | some c =>
    if c = classTiming ∨ c = classManagement then s.judgedThen p f fun t => t.acceptCommand p f
    else s.acceptCommand p f
  | none => s.acceptCommand p f

/-- The owner of a timing frame terminated on a port takes it (R14, R31, R149). -/
def State.ownerTakes (s : State) (p : Port) (f : Frame) (stamps : Ingress) : State :=
  match portClient? p, portSite? p with
  | some c, _ => s.clientSort c f stamps
  | none, some k => s.siteSort k f stamps
  | none, none => s

/-- A TERMINATE frame (R14). -/
def State.terminate (s : State) (p : Port) (f : Frame) (stamps : Ingress) : State :=
  if frameClass s.mgmt.partEther f = some classTiming then s.judgedThen p f fun t => t.ownerTakes p f stamps
  else s.countPort p fun c => { c with unclaimedTerminations := bump c.unclaimedTerminations }

/-! ## Acting on a frame (R5, R11, R13 to R15) -/

/-- Act on a frame by its winning entry. -/
def State.actOn (s : State) (p : Port) (f : Frame) (stamps : Ingress) (e : FlowEntry) : State :=
  match e.action with
  | .forward => s.forward p e.egress e.queueClass ⟨translate e.vlanOffset f, .passing false p stamps⟩
  | .correct => s.forward p e.egress .timing ⟨translate e.vlanOffset f, .passing true p stamps⟩
  | .terminate => s.terminate p f stamps
  | .manage => s.manage p f
  | .drop => s.countPort p fun c => { c with flowDrops := bump c.flowDrops }

/-- Classify a frame and act on it (R5, R11). -/
def State.classify (s : State) (p : Port) (f : Frame) (stamps : Ingress) : State :=
  match s.winner p f with
  | some i =>
    let s1 := { s with flow := updAt s.flow i fun e => { e with hitCount := bump e.hitCount } }
    s1.actOn p f stamps (s.flow.get i)
  | none =>
    (s.countPort p fun c => { c with unmatchedFrames := bump c.unmatchedFrames }).forward p
      (s.portMap.get (portIdx p)).egress .bulk ⟨f, .passing false p stamps⟩

/-- The three ingress stamps at this moment (R1). -/
def State.stamps (s : State) : Ingress := ⟨s.clock.counter, s.clock.epoch, s.res⟩

/-- A Port Unit has received a frame (R1). -/
def State.receive (s : State) (p : Port) (fcsOk : Bool) (f : Frame) : State :=
  if fcsOk then
    (s.countPort p fun c => { c with receivedFrames := bump c.receivedFrames }).classify p f s.stamps
  else s.countPort p fun c => { c with receiveErrors := bump c.receiveErrors }

/-! ## The egress moment (R3, R17, R22, R26, R37) -/

/-- Whether a frame carries a Correction field (R22). -/
def hasCorrection (part : Nat) (f : Frame) : Bool :=
  frameClass part f = some classTiming && decide (26 ≤ f.payload.length)

/-- What R22 adds to the Correction field, in fraction units. -/
def State.correctionOf (s : State) (egress ingress : Port) (stamps : Ingress) : Int :=
  ((s.res : Int) - stamps.residence) +
    ((s.portMap.get (portIdx ingress)).ingressComp + (s.portMap.get (portIdx egress)).egressComp) * nsUnits

/-- The least value of the Correction field (R22). -/
def correctionMin : Int := -9223372036854775808

/-- The largest value of the Correction field (R22). -/
def correctionMax : Int := 9223372036854775807

/-- The Correction field of a frame. -/
def readCorrection (f : Frame) : Int := beInt (slice 18 8 f.payload)

/-- Write the Correction field of a frame. -/
def writeCorrection (v : Int) (f : Frame) : Frame := { f with payload := overwrite 18 (beBytesInt 8 v) f.payload }

/-- Correct a CORRECT copy at its egress moment (R22). -/
def State.correct (s : State) (p ingress : Port) (stamps : Ingress) (f : Frame) : State × Frame :=
  if hasCorrection s.mgmt.partEther f then
    let sum := readCorrection f + s.correctionOf p ingress stamps
    let v := clampInt correctionMin correctionMax sum
    (if v = sum then s else s.countPort p fun c => { c with correctionSaturated := bump c.correctionSaturated },
      writeCorrection v f)
  else (s.countPort p fun c => { c with notCorrectable := bump c.notCorrectable }, f)

/-- Write a TIME_MARK's Timestamp and Correction from a time (R26, R146); its seconds are the low 48 bits (log 62). -/
def writeMark (t : Nat) (f : Frame) : Frame :=
  { f with
    payload := overwrite 8 (beBytes 6 (secondsOf t) ++ beBytes 4 (nanosOf t) ++ beBytesInt 8 (fractionOf t)) f.payload }

/-- Path Compensation of a port's site. -/
def State.pathComp (s : State) (p : Port) : Int :=
  match portSite? p with
  | some k => (s.site k).cfg.pathComp
  | none => 0

/-- What the egress moment does for a frame leaving by port `p` (R3). -/
def State.atEgress (s : State) (p : Port) (x : QFrame) : State × Frame :=
  match x.role with
  | .passing true ingress stamps => s.correct p ingress stamps x.frame
  | .passing false _ _ => (s, x.frame)
  | .timeMark => (s, writeMark (addNanos s.clock.counter (s.pathComp p)) x.frame)
  | .delayQuery seq =>
    match portClient? p with
    | some c => (s.updClient c (ClientSession.captureT3 seq s.clock.counter), x.frame)
    | none => (s, x.frame)
  | .qualityNotice => (s, x.frame)
  | .delayReply => (s, x.frame)
  | .response _ => (s, x.frame)
  | .alarmNotice => (s, x.frame)

/-- The frame the Egress Scheduler gives next (R17). -/
def PortState.next? (x : PortState) : Option QFrame := x.timingQ.head?.or x.bulkQ.head?

/-- Take that frame out of its queue. -/
def PortState.takeNext (x : PortState) : PortState :=
  match x.timingQ with
  | _ :: rest => { x with timingQ := rest }
  | [] => { x with bulkQ := x.bulkQ.drop 1 }

/-- The egress moment of the next frame of a port (R3, R17). -/
def State.egress (s : State) (p : Port) : State :=
  let x := s.port p
  match x.next? with
  | none => s
  | some q =>
    if x.linkUp = true ∧ x.tx = none then
      let (s1, f) := (s.updPort p PortState.takeNext).atEgress p q
      s1.updPort p fun y => { y with tx := some { item := { q with frame := f }, counted := true } }
    else s

end Sys2Proof.Machine
end

