-- ==== Sys2Proof/Machine/RestartOps.lean ====
section
/-! DEFINITION. Power-on, the restarts (R201, R202 and the reset rules of each chapter), the clearing of counters, and the
link events. -/
namespace Sys2Proof.Machine
open Sys2Proof

/-! ## Counters (R200) -/

/-- Every counter of the Counters table and every Hit Count at 0 (R200). -/
def State.zeroCounters (s : State) : State :=
  { s with
    ports := s.ports.map fun x => { x with ctr := {} }
    flow := s.flow.map fun e => { e with hitCount := 0 }
    sessions := s.sessions.map fun x => { x with ctr := {} }
    refs := s.refs.map fun x => { x with ctr := {} }
    gnss := { s.gnss with ctr := {} }
    selector := { s.selector with ctr := {} }
    realign := { s.realign with ctr := {} }
    servo := { s.servo with ctr := {} }
    holdover := { s.holdover with ctr := {} }
    sites := s.sites.map fun x => { x with ctr := {} }
    pins := s.pins.map fun x => { x with ctr := {} }
    alarm := { s.alarm with ctr := {} }
    mgmt := { s.mgmt with ctr := {} } }

/-! ## Power-on (R202) -/

/-- The state after power-on, the reset pin and RESTART FULL, the straps as read (R10, R24, R45, R69, R89, R115, R136,
R155, R167, R188, R190, R202). The commands that wait and the index of the next free value are not the relay's. -/
def State.powerUp (s : State) (straps : BitVec 4) : State :=
  { State.reset with
    mgmt := { straps := straps, station := strapAddress straps }
    free := s.free
    pending := s.pending }

/-! ## RESTART DATAPATH, block by block (log 52) -/

/-- The traffic path (R18, R24): queues emptied; a frame in transmission completes uncounted. -/
def restartPort (x : PortState) : PortState :=
  { x with
    timingQ := [], bulkQ := [], quiet := none
    tx := x.tx.map fun t => { t with counted := false } }

/-- Every port restarts and reports TIMING_LOSS absent (R24). -/
def State.restartTraffic (s : State) : State :=
  allPorts.foldl (fun t p => (t.updPort p restartPort).report (recTimingLoss p) false) s

/-- The Client Sessions (R45). -/
def State.restartSessions (s : State) : State :=
  allClients.foldl (fun t c => t.updClient c fun x =>
    if x.cfg.enabled && (t.port (clientPort c)).linkUp then { x.toListening with noticeMissing := false }
    else x.toIdle) s

/-- The Selector and the Realignment Unit (R71, R77, R89): nothing counted. -/
def State.restartSelection (s : State) : State :=
  (s.updSel fun x => { x with phase := none, phaseForced := false, freq := none, freqForced := false }).updReal
    fun x => { endDecision x with slew := none, suspended := none }

/-- The Time Engine (R115), with the Announced Grade before the restart as Entry Grade (R126). -/
def State.restartServo (s : State) (entryGrade : Nat) : State :=
  (((s.updServo fun x => { x.clearRuns with acqFromHold := none }).clearTransient).setServo s.servo.restState
    entryGrade).servoConditions

/-- The references (R69): each enabled one as if just enabled, and its state and REF_FAIL reported. -/
def State.restartRef (s : State) (r : Ref) : State :=
  if (s.ref r).state = .disabled then s
  else
    ((((s.updRef r fun _ => s.enabledRecord r).blankGnss r).pinsDiscardOffset r).refReport r).pinsFallback r

/-- The Reference Monitor. -/
def State.restartMonitor (s : State) : State := allRefs.foldl State.restartRef s

/-- The Holdover Unit (R136): the ring, the accumulator and a record stay. -/
def State.restartHoldover (s : State) : State :=
  let s1 := s.updHold fun x => { x with settle := none, frozen := none }
  (s1.report recHistoryShort (match s1.holdover.record with
    | some r => r.short
    | none => false)).regrade

/-- A Delivery Session after the restart, before its timer is evaluated (R155). -/
def restartSite (x : Site) : Site :=
  if x.state = .disabled then { x with nextMark := 0, nextNotice := 0 }
  else
    { disabledSite x with
      state := .muted, muteReason := some .restart, nextMark := 0, nextNotice := 0 }

/-- The Delivery Unit (R142, R155). -/
def State.restartSites (s : State) : State :=
  let s1 := allSites.foldl (fun t k => t.updSite k restartSite) { s with servingSince := false }
  allSites.foldl (fun t k => (t.serveCheck k).siteConditions k) s1

/-- The Management Unit (R195, R201). -/
def State.restartMgmt (s : State) : State :=
  s.updMgmt fun m => { m with queue := [], waiting := none, cursors := Vector.replicate 26 none }

/-- The restart event of RESTART(DATAPATH): every block's actions, the counters last (R201). -/
def State.restartDatapath (s : State) : State :=
  let g := s.holdover.announced
  ((((((((s.restartTraffic).restartSessions).restartSelection).restartServo g).restartMonitor).restartHoldover
    ).restartSites).deliverSquelch.restartMgmt).zeroCounters

/-- The restart event of either scope (R201, R202): FULL reads the straps as the pins stand. -/
def State.restart (s : State) : RestartScope → State
  | .datapath => s.restartDatapath
  | .full => s.powerUp s.mgmt.straps

/-- The response of a RESTART was refused, flushed or lost: it is counted and the restart follows (R201). -/
def State.restartAfterLoss (s : State) : Option RestartScope → State
  | none => s
  | some scope => (s.countMgmt fun c => { c with responsesDiscarded := bump c.responsesDiscarded }).restart scope

/-- The end of a frame's transmission (R3, R24, R201). -/
def State.endTransmit (s : State) (p : Port) (t : TxFrame) : State :=
  let s1 := s.updPort p fun x => { x with tx := none }
  let s2 := if t.counted then s1.countPort p (fun c => { c with transmittedFrames := bump c.transmittedFrames }) else s1
  match restartOf t.item.role with
  | some scope => if t.counted then s2.restart scope else s2
  | none => s2

/-! ## Link events (R2) -/

/-- The sessions and references a link event reaches. -/
def State.linkClient (s : State) (p : Port) (up : Bool) : State :=
  match portClient? p with
  | none => s
  | some c => if up then (s.clientStart c).syncLine c else (s.clientStop c).syncLine c

/-- The Delivery Session a link event reaches. -/
def State.linkSite (s : State) (p : Port) (up : Bool) : State :=
  match portSite? p with
  | none => s
  | some k => if up then s.siteLinkUp k else s.siteLinkDown k

/-- A link comes up (R2); its effects in the order port, Client Session, site, LINK_DOWN report (log 66). -/
def State.linkUp (s : State) (p : Port) : State :=
  (((s.updPort p fun x => { x with linkUp := true }).linkClient p true).linkSite p true).report (recLinkDown p) false

/-- The RESTART whose response a link-down of a port loses, if one waits there or is in transmission (R201). A frame in
transmission that a RESTART DATAPATH has taken out of the counts restarts nothing (log 50). -/
def lostRestart (x : PortState) : Option RestartScope :=
  (x.timingQ ++ x.bulkQ ++ ((x.tx.filter TxFrame.counted).map (·.item)).toList).findSome? fun f => restartOf f.role

/-- A link goes down (R2, R19), with its effects in the order of `State.linkUp` (log 66); a RESTART whose response is lost
follows in the same event. -/
def State.linkDown (s : State) (p : Port) : State :=
  let lost := if s.mgmt.waiting.isSome then lostRestart (s.port p) else none
  ((((((s.updPort p fun x => { x with linkUp := false }).flush p).linkClient p false).linkSite p false).report
    (recLinkDown p) true)).restartAfterLoss lost

end Sys2Proof.Machine
end

