-- ==== Sys2Proof/Machine/Tables.lean ====
section
/-! DEFINITION. The management tables as they are read (10 R193, R194, R200; 11 "Table entries"): the fields of each entry in
the order of its rule, each encoded by its kind. -/
namespace Sys2Proof.Machine
open Sys2Proof

/-! ## Positions in listed sets (11, "Table entries") -/

/-- Query Rates (R29). -/
def queryRates : List Nat := [1, 2, 4, 8, 16, 32, 64]
/-- Mark Rates (R137). -/
def markRates : List Nat := [1, 2, 4, 8, 16, 32, 64, 128]
/-- Declared Rates (R46). -/
def declaredRates : List Nat := [1000000, 2048000, 5000000, 10000000, 25000000]
/-- TOD Bauds (R46). -/
def todBauds : List Nat := [9600, 115200]
/-- FREQ_OUT Rates (R156). -/
def pinRates : List Nat := [1, 1000, 8000, 1000000, 2048000, 10000000, 25000000]
/-- VLAN kinds. -/
def vlanKinds : List VlanKind := [.any, .untagged, .tagged]
/-- Class matches. -/
def classMatches : List ClassMatch := [.any, .timing, .management]
/-- Destination matches. -/
def destMatches : List DestMatch := [.any, .station, .timingGroup]
/-- Actions. -/
def actions : List Action := [.forward, .correct, .terminate, .manage, .drop]
/-- Queue Classes. -/
def queueClasses : List QueueClass := [.timing, .bulk]
/-- Session states (R30). -/
def clientStates : List ClientState := [.idle, .listening, .exchanging]
/-- Realign Policies (R46). -/
def policies : List RealignPolicy := [.slew, .buildOut]
/-- Reference states (R48). -/
def refStates : List RefState := [.disabled, .monitoring, .qualified, .failed, .restoring]
/-- Step Policies (R79). -/
def stepPolicies : List StepPolicy := [.never, .beforeServe, .always]
/-- Decision values (R80). -/
def decisionValues : List Decision := [.none, .pending, .decided]
/-- Servo states (R96). -/
def servoStates : List ServoState := [.freerun, .acquiring, .locked, .holdover, .freqTrack]
/-- Delivery Session states (R139). -/
def siteStates : List SiteState := [.disabled, .muted, .serving]
/-- Mute Reasons (R139). -/
def muteReasons : List MuteReason := [.enabled, .link, .grade, .restart]
/-- Pin Functions (R156). -/
def pinFunctions : List PinFunction := [.unused, .ppsIn, .freqIn, .ppsOut, .freqOut]
/-- Severities (R168). -/
def severities : List Severity := [.off, .warning, .minor, .major, .critical]
/-- Routes (R168). -/
def routes : List Route := [.none, .notice, .pin, .both]
/-- Alarm record states (R170). -/
def alarmStates : List AlarmState := [.clear, .raising, .raised, .clearing]

/-- A value of a listed set: its position. -/
def encIn {α : Type} [BEq α] (set : List α) (a : α) : List Byte := encEnum (set.idxOf a)

/-- A two-valued set whose first value is the one that holds, such as {on, off} (log 26). -/
def encFirst (b : Bool) : List Byte := encEnum (if b then 0 else 1)

/-! ## Entries -/

/-- Flow Table entry; an EtherType following the Part EtherType shows the value in force (R9). -/
def encFlow (part : Nat) (e : FlowEntry) : List Byte :=
  encBool e.enabled ++ encBool e.pinned ++ encNum e.priority ++ encPorts ⟨e.ingress, false⟩ ++
    encIn vlanKinds e.vlan ++ encNum e.vStart ++ encNum e.vStop ++ encOptNum (e.etherType.value part) ++
    encIn classMatches e.cls ++ encNum e.dStart ++ encNum e.dStop ++ encIn destMatches e.dest ++
    encIn actions e.action ++ encPorts e.egress ++ encNum e.vlanOffset ++ encIn queueClasses e.queueClass ++
    encNum e.hitCount

/-- Port Map entry. -/
def encPortMap (e : PortMapEntry) : List Byte := encPorts e.egress ++ encNum e.ingressComp ++ encNum e.egressComp

/-- Management Settings (R190). -/
def encMgmt (m : Mgmt) : List Byte := encAddr m.station ++ encPorts ⟨m.permitted, false⟩ ++ encNum m.partEther

/-- Client Session Configuration (R29). -/
def encClientCfg (c : ClientCfg) : List Byte :=
  encBool c.enabled ++ encNum c.domain ++ encIn queryRates c.queryRate ++ encNum c.replyTimeout ++
    encNum c.asymmetry ++ encOptNum c.queryVlan ++ encNum c.noticeTimeout

/-- Client Session Runtime (R44). -/
def encClientRun (x : ClientSession) : List Byte :=
  encIn clientStates x.state ++ encOpt 6 encAddr (x.master.map (·.addr)) ++ encOptNum (x.master.map (·.grade)) ++
    encOptNum (x.master.map (·.epoch)) ++ encNum x.outstanding.length ++ encBool x.pair.isSome ++ encNum x.nextSeq

/-- Reference Table entry (R46). -/
def encRefCfg (c : RefCfg) : List Byte :=
  encBool c.enabled ++ encIn declaredRates c.declaredRate ++ encNum c.acceptRange ++ encNum c.holdOff ++
    encNum c.qualifyTime ++ encNum c.restoreWait ++ encNum c.jumpLimit ++ encNum c.wanderLimit ++
    encNum c.minGrade ++ encNum c.starveSeconds ++ encNum c.compensation ++ encIn policies c.policy ++
    encNum c.gradeCap ++ encIn todBauds c.todBaud

/-- Reference Runtime entry (R48); the fields named for some references only are absent in the others.
Fix Status is an optional number that holds the raw byte (log 26). -/
def State.encRefRun (s : State) (r : Ref) : List Byte :=
  let x := s.ref r
  let starve := if (refClient? r).isSome then some x.starve else none
  let tod := if r = .gnss then s.gnss.last else none
  encIn refStates x.state ++ encCause x.defects ++ encTimer x.qualify s.res ++ encTimer x.holdOff s.res ++
    encTimer x.restore s.res ++ encOptInt x.lastE ++ encOptInt x.lastD ++ encOptNum x.grade ++ encOptNum starve ++
    encOptNum (tod.map (·.label)) ++ encOptNum (tod.map (·.satellites)) ++ encOptNum (tod.map (·.fixStatus)) ++
    encOptNum (tod.map (·.receiverGrade))

/-- Selector Configuration (R70). -/
def encSelectorCfg (c : SelectorCfg) : List Byte :=
  encList encRef c.phaseList ++ encList encRef c.freqList ++ encFirst c.revertive ++ encFirst c.ranking

/-- Selection (R71). -/
def encSelection (x : Selector) : List Byte :=
  encOpt 1 encRef x.phase ++ encBool x.phaseForced ++ encOpt 1 encRef x.freq ++ encBool x.freqForced

/-- Realignment Parameters (R79). -/
def encRealignParams (p : RealignParams) : List Byte :=
  encIn stepPolicies p.stepPolicy ++ encNum p.stepThreshold ++ encNum p.maxOffset ++ encNum p.slewRate ++
    encNum p.resumeWindow ++ encNum p.resumeTolerance

/-- A Suspended Slew record (R80): Reference, B_susp, Suspended At. The Held flag it carries (R86) is no field of that row. -/
def encSuspended (u : Suspended) : List Byte := encRef u.ref ++ encNum u.b ++ encRes u.at'

/-- Realignment Runtime (R80). -/
def encRealignRun (x : Realign) : List Byte :=
  encIn decisionValues x.decision ++ encOpt 1 encRef x.decisionRef ++ encNum x.b ++ encBool x.buildOut ++
    encOpt 1 encBool x.slew ++ encOpt 21 encSuspended x.suspended

/-- Servo Parameters (R97). -/
def encServoParams (p : ServoParams) : List Byte :=
  encNum p.phaseClamp ++ encNum p.pullRange ++ encNum p.acquiringPg ++ encNum p.acquiringIg ++ encNum p.lockedPg ++
    encNum p.lockedIg ++ encNum p.fg ++ encNum p.lockWindow ++ encNum p.lockCount ++ encNum p.unlockWindow ++
    encNum p.unlockCount

/-- Whole seconds of the holdover in progress (R96, R122, R199). -/
def State.holdSeconds (s : State) : Option Nat := s.holdover.record.map fun r => secondsOf (holdElapsed r s.res)

/-- Servo Runtime (R96), then the Time Counter with the Epoch (R193). -/
def State.encServoRun (s : State) : List Byte :=
  let x := s.servo
  encIn servoStates x.state ++ encNum x.f ++ encNum x.i ++ encBool x.phaseValid ++ encNum x.lockRun ++
    encNum x.unlockRun ++ encOptInt (x.lastLoop.map (·.e)) ++ encOpt 1 encBool (x.lastLoop.map (·.clamped)) ++
    encOpt 1 encBool x.acqFromHold ++ encOptNum s.holdSeconds ++ encTime s.stamp

/-- Holdover Parameters: R121, then R133. -/
def encHoldoverParams (p : HoldoverParams) (g : GradeParams) : List Byte :=
  encNum p.guardMinutes ++ encNum p.averagingDepth ++ encNum p.minimumEntries ++ encFirst p.driftEstimation ++
    encNum p.driftMinimum ++ encNum p.driftLimit ++ encNum p.settleLimit ++ encNum g.hopDecrement ++
    encNum g.acquiring ++ encNum g.slewing ++ encNum g.historyShort ++ encNum g.frequencyOnly ++ encNum g.freerun ++
    encNum g.budgetAlarm

/-- Holdover Runtime (R122, R193). -/
def State.encHoldoverRun (s : State) : List Byte :=
  let x := s.holdover
  let r := x.record
  encOpt 25 (fun (y : HoldoverRec) => encTime y.enteredAt ++ encRes y.enteredRes) r ++ encOptNum (r.map (·.n)) ++
    encOptInt (r.map (·.h)) ++ encOptInt (r.map (·.d)) ++ encOptNum (r.map (·.entryGrade)) ++
    encOpt 1 encBool (r.map (·.short)) ++
    encOpt 13 (fun (y : HoldoverRec) => encElapsed (holdElapsed y s.res) (timerRuns y.elapsed)) r ++
    encOpt 1 encBool (r.map fun y => timerRuns y.elapsed) ++ encNum x.acc.count ++ encNum x.acc.iSum ++
    encBool x.acc.firstVoid ++ encOptInt x.settle ++ encOptNum x.frozen ++ encNum x.announced

/-- History Ring entry (R116). Count stands in no entry: R193 lists no field for it (log 61). -/
def encRing (e : RingEntry) : List Byte :=
  encNum e.stamp ++ encNum e.lockedSeconds ++ encOptInt e.meanFreq ++ encOpt 1 encRef e.source ++
    encIn servoStates e.servoState

/-- Budget Table entry (R129). -/
def encBudget (b : BudgetEntry) : List Byte := encNum b.threshold ++ encNum b.unassisted ++ encNum b.assisted

/-- Site Table entry (R137). -/
def encSiteCfg (c : SiteCfg) : List Byte :=
  encBool c.enabled ++ encNum c.domain ++ encOptNum c.vlan ++ encIn markRates c.markRate ++ encNum c.pathComp ++
    encNum c.minGrade ++ encNum c.serveDelay ++ encNum c.queryLimit ++ encNum c.queryTimeout

/-- Delivery Runtime entry (R139). -/
def State.encSiteRun (s : State) (x : Site) : List Byte :=
  encIn siteStates x.state ++ encOpt 1 (encIn muteReasons) x.muteReason ++ encTimer x.serve s.res ++
    encEnum (if x.present then 1 else 0) ++ encOpt 12 encRes x.lastQuery ++ encNum x.queries ++ encNum x.nextMark ++
    encNum x.nextNotice ++ encBool x.epochPending ++ encBool s.servingSince

/-- Source of a pin: a kind with a reference id. -/
def encSource : FreqSource → List Byte
  | .counter => [0, 0]
  | .bypass r => [1] ++ encRef r

/-- Pin Table entry (R156). -/
def encPinCfg (c : PinCfg) : List Byte :=
  encIn pinFunctions c.function ++ encBool c.outEnabled ++ encNum c.squelch ++ encNum c.pulseWidth ++
    encNum c.offset ++ encIn pinRates c.rate ++ encSource c.source

/-- Output State of a pin (R158): 0 DISABLED, 1 SQUELCHED, 2 ACTIVE; absent for inputs. -/
def Pin.outputState (x : Pin) : Option Nat :=
  if !isOutput x.cfg.function then none
  else if !x.cfg.outEnabled then some 0
  else if x.squelched then some 1
  else some 2

/-- Whether a pin is an input whose edges are taken. -/
def isInput (f : PinFunction) : Bool := f = .ppsIn || f = .freqIn

/-- Pin Runtime entry (R158). -/
def encPinRun (x : Pin) : List Byte :=
  encOpt 1 encEnum x.outputState ++ encOpt 1 encBool (x.bypassRef.map fun _ => x.fallback) ++
    encOptInt (x.bypassRef.bind fun _ => x.bypassOffset) ++
    encOpt 13 encTime (if isInput x.cfg.function then x.lastInput else none)

/-- Alarm Config entry (R168). -/
def encAlarmCfg (c : AlarmCfg) : List Byte :=
  encIn severities c.severity ++ encIn routes c.route ++ encNum c.raiseHold ++ encNum c.clearDelay

/-- Alarm Settings (R179). -/
def encAlarmSet (x : AlarmSettings) : List Byte :=
  encFirst x.notify ++ encNum x.rate ++ encOpt 6 encAddr x.collector ++ encEnum (portIdx x.collectorPort).val ++
    encOptNum x.vlan ++ encEnum (if x.ackOnRead then 1 else 0) ++ encEnum (if x.pulseMode then 1 else 0) ++
    encNum x.pulseWidth

/-- Alarm Table record (R170). -/
def encAlarmRec (res : Nat) (x : AlarmRecord) : List Byte :=
  encIn alarmStates x.state ++ encBool x.present ++ encBool x.acked ++ encBool x.pending ++ encNum x.raiseCount ++
    encOpt 13 encTime x.first ++ encOpt 13 encTime x.last ++ encCause x.cause ++
    encOpt 13 (fun start => encElapsed (res - start) true) x.timer

/-- Units left of an interval that started at a Residence Clock value; 0 and stopped when none runs (log 47). -/
def encLeft (res span : Nat) (start : Option Nat) : List Byte :=
  match start with
  | some t => encElapsed (span - (res - t)) (res - t < span)
  | none => encElapsed 0 false

/-- The test interval (R186). -/
def testUnits : Nat := secUnits

/-- Alarm Runtime (R187). The state of ALARM_N is a boolean, 1 for asserted (log 72). -/
def encAlarmRun (res : Nat) (a : Alarm) : List Byte :=
  encNum a.queue.length ++ encList (fun (n : Notice) => encNum n.record.val) a.queue ++
    encNum (allRecords.filter fun i => (a.record i).pending).length ++ encLeft res a.spacingUnits a.spacing ++
    encNum a.nextSeq ++ encBool a.asserted ++ encLeft res testUnits a.test

/-! ## Counters (R200) -/

/-- A run of counters. -/
def encCounts (l : List Nat) : List Byte := l.flatMap fun (n : Nat) => encNum n

/-- Port counters: R23, then R206. -/
def portCounts (c : PortCounters) : List Nat :=
  [c.receivedFrames, c.receiveErrors, c.transmittedFrames, c.unmatchedFrames, c.unclaimedTerminations, c.flowDrops,
   c.noEgress, c.timingDiscards, c.bulkDiscards, c.linkDownDiscards, c.flushed, c.correctionSaturated,
   c.notCorrectable, c.shortFrames, c.badHeader]

/-- Client Session counters (R44). -/
def clientCounts (c : ClientCounters) : List Nat :=
  [c.idleDiscards, c.otherDomain, c.unusedTypes, c.noMaster, c.foreignFrames, c.masterEpochMismatch, c.notServing,
   c.foreignNotices, c.masterEpochChanges, c.staleMarks, c.skipped, c.queryDiscards, c.queriesSent, c.repliesMatched,
   c.stray, c.lost, c.noPair, c.negativeDelay, c.samples]

/-- GNSS counters (R68). -/
def gnssCounts (c : GnssCounters) : List Nat :=
  [c.spuriousEdges, c.unlabelledEdges, c.replacedEdges, c.validRecords, c.badChecksum, c.noFix, c.badRecord,
   c.outOfWindow, c.replacedRecords]

/-- Reference counters (R68): those kept for the reference, in the order of the rule; the others are left out (log 73). -/
def State.refCounts (s : State) (r : Ref) : List Nat :=
  let c := (s.ref r).ctr
  (if r = .gnss then gnssCounts s.gnss.ctr else []) ++ (if phaseCapable r then [c.phaseJumps] else []) ++
    [c.windowsVoid, c.failures]

/-- Selector and Realignment Unit counters (R88). -/
def selectionCounts (a : SelectorCounters) (b : RealignCounters) : List Nat :=
  [a.phaseChanges, a.frequencyChanges, a.forcesLapsed, b.decisions, b.resumes, b.steps, b.tooFar, b.buildOuts,
   b.slewsStarted, b.slewsCompleted, b.slewsSuspended, b.slewsAbandoned, b.suspendedDiscarded, b.suspendedExpired]

/-- Time Engine counters (R114). -/
def servoCounts (c : ServoCounters) : List Nat :=
  [c.timeSteps, c.timeSets, c.counterWraps, c.stateChanges, c.missingSamples, c.clampedSamples, c.outputClamps,
   c.windupHolds, c.locks, c.unlocks, c.frequencyUpdates, c.pullRangeClamps]

/-- Holdover Unit counters (R135). -/
def holdoverCounts (c : HoldoverCounters) : List Nat :=
  [c.entriesAppended, c.ringOverwrites, c.ringClears, c.holdoversEntered, c.holdoversResumed, c.shortHoldovers,
   c.gradeChanges]

/-- Delivery Session counters (R154). -/
def siteCounts (c : SiteCounters) : List Nat :=
  [c.serveEntries, c.mutes, c.marksQueued, c.marksSkipped, c.marksWithdrawn, c.noticesQueued, c.noticesSkipped,
   c.disabledDiscards, c.unusedTypes, c.otherDomain, c.epochDiscards, c.mutedQueries, c.overLimit, c.queriesAnswered,
   c.repliesSkipped]

/-- Pin counters (R166). -/
def pinCounts (c : PinCounters) : List Nat := [c.inputEdges, c.pulsesSent, c.squelches, c.fallbackEntries]

/-- Alarm Unit counters (R187). -/
def alarmCounts (c : AlarmCounters) : List Nat :=
  [c.noticesRewritten, c.noticesDeferred, c.noticesDropped, c.noticesSent, c.noticesDiscarded,
   c.acknowledgementsGiven, c.pinPulses]

/-- Management Unit counters (R203). -/
def mgmtCounts (c : MgmtCounters) : List Nat :=
  [c.wrongClass, c.wrongDestination, c.portNotPermitted, c.notACommand, c.queueFullDrops, c.commandsExecuted,
   c.responsesDiscarded]

/-- The Counters entries, 0 to 30, in the order of R200. -/
def State.counterEntries (s : State) : List (List Nat) :=
  s.ports.toList.map (fun x => portCounts x.ctr) ++ s.sessions.toList.map (fun x => clientCounts x.ctr) ++
    allRefs.map s.refCounts ++ [selectionCounts s.selector.ctr s.realign.ctr, servoCounts s.servo.ctr,
      holdoverCounts s.holdover.ctr] ++ s.sites.toList.map (fun x => siteCounts x.ctr) ++
    s.pins.toList.map (fun x => pinCounts x.ctr) ++ [alarmCounts s.alarm.ctr, mgmtCounts s.mgmt.ctr]

/-! ## The tables (R193) -/

/-- The entry bytes of one index of a table, without Index and Length. -/
def State.entryAt (s : State) (table index : Nat) : List Byte :=
  match table with
  | 0 => (s.flow[index]?).elim [] (encFlow s.mgmt.partEther)
  | 1 => (s.portMap[index]?).elim [] encPortMap
  | 2 => encMgmt s.mgmt
  | 3 => (s.sessions[index]?).elim [] fun x => encClientCfg x.cfg
  | 4 => (s.sessions[index]?).elim [] encClientRun
  | 5 => (s.refs[index]?).elim [] fun x => encRefCfg x.cfg
  | 6 => (refOfNat? index).elim [] s.encRefRun
  | 7 => encSelectorCfg s.selector.cfg
  | 8 => encSelection s.selector
  | 9 => encRealignParams s.realign.params
  | 10 => encRealignRun s.realign
  | 11 => encServoParams s.servo.params
  | 12 => s.encServoRun
  | 13 => encHoldoverParams s.holdover.params s.holdover.grades
  | 14 => s.encHoldoverRun
  | 15 => (s.holdover.ring[index]?).elim [] encRing
  | 16 => (s.holdover.budget[index]?).elim [] encBudget
  | 17 => (s.sites[index]?).elim [] fun x => encSiteCfg x.cfg
  | 18 => (s.sites[index]?).elim [] s.encSiteRun
  | 19 => (s.pins[index]?).elim [] fun x => encPinCfg x.cfg
  | 20 => (s.pins[index]?).elim [] encPinRun
  | 21 => (s.alarm.cfg[index]?).elim [] encAlarmCfg
  | 22 => encAlarmSet s.alarm.set
  | 23 => (s.alarm.recs[index]?).elim [] (encAlarmRec s.res)
  | 24 => encAlarmRun s.res s.alarm
  | 25 => (s.counterEntries[index]?).elim [] encCounts
  | _ => []

/-- Number of entries of a table (R193). -/
def State.entryCount (s : State) (table : Nat) : Nat :=
  match table with
  | 0 => 64 | 1 => 8 | 3 => 2 | 4 => 2 | 5 => 6 | 6 => 6
  | 15 => s.holdover.ring.length
  | 16 => s.holdover.budget.length
  | 17 => 6 | 18 => 6 | 19 => 4 | 20 => 4 | 21 => 12 | 23 => 41 | 25 => 31
  | _ => 1

/-- Number of tables (R193). -/
def tableCount : Nat := 26

/-- Whether a table's access includes write (R193). -/
def writable (table : Nat) : Bool := [0, 1, 2, 3, 5, 7, 9, 11, 13, 16, 17, 19, 21, 22].contains table

/-- Write block size of a table (R193). -/
def blockSize (table : Nat) : Nat :=
  match table with
  | 0 => 16 | 1 => 8 | 3 => 2 | 5 => 6 | 16 => 8 | 17 => 6 | 19 => 4 | 21 => 12
  | _ => 1

/-- One entry as it goes into a body: Index, Entry Length, fields (11, "Table entries"). -/
def State.encEntry (s : State) (table index : Nat) : List Byte :=
  let fields := s.entryAt table index
  beBytes 2 index ++ beBytes 2 fields.length ++ fields

end Sys2Proof.Machine
end

