-- ==== Sys2Proof/Machine/Writes.lean ====
section
/-! DEFINITION. PUT (10 R196, 11 R205): decoding an entry, the checks of its table's rule, and the effects of the write. -/
namespace Sys2Proof.Machine
open Sys2Proof

/-! ## Status codes (10, "Status codes") -/

/-- OK. -/
def stOk : Nat := 0
/-- ADJUSTED. -/
def stAdjusted : Nat := 1
/-- UNKNOWN_COMMAND. -/
def stUnknown : Nat := 2
/-- BAD_TABLE. -/
def stBadTable : Nat := 3
/-- BAD_INDEX. -/
def stBadIndex : Nat := 4
/-- BAD_VALUE. -/
def stBadValue : Nat := 5
/-- READ_ONLY. -/
def stReadOnly : Nat := 6
/-- PROTECTED. -/
def stProtected : Nat := 7
/-- OVERLAP. -/
def stOverlap : Nat := 8
/-- CONFLICT. -/
def stConflict : Nat := 9
/-- STATE. -/
def stState : Nat := 10
/-- NOT_QUALIFIED. -/
def stNotQualified : Nat := 11

/-- OK or ADJUSTED. -/
def stDone (adjusted : Bool) : Nat := if adjusted then stAdjusted else stOk

/-- What one entry of a PUT run comes to (R196). -/
inductive EntryResult where
  | refused (status : Nat)
  | written (s : State) (adjusted : Bool)
deriving DecidableEq, Repr

/-! ## Clamping (00_scope.md, "Conventions") -/

/-- A number clamped to a range of naturals. -/
def clampN (lo hi : Nat) (v : Int) : Nat := (clampInt lo hi v).toNat

/-- Whether a number lies outside a range. -/
def outside (lo hi v : Int) : Bool := decide (v < lo ∨ hi < v)

/-- Whether an optional number lies outside a range. -/
def outsideOpt (lo hi : Int) (v : Option Int) : Bool := v.elim false (outside lo hi)

/-! ## Decoding (R205) -/

/-- Read a value of a listed set; a byte beyond the set fails. -/
def takeIn {α : Type} (set : List α) : Reader α := fun bs =>
  match takeByte bs with
  | some (k, rest) => (set[k]?).map fun a => (a, rest)
  | none => none

/-- Read a two-valued set whose first value is the one that holds. -/
def takeFirst : Reader Bool := takeIn [true, false]

/-- Read an optional number. -/
def takeOptNum : Reader (Option Int) := takeOpt 8 takeNum

/-- Read a list of reference ids. -/
def takeRefs : Reader (List Ref) := fun bs =>
  match takeByteList bs with
  | some (l, rest) => (l.mapM refOfNat?).map fun r => (r, rest)
  | none => none

/-! ## Flow Table (R7, R9) -/

/-- A Flow entry as decoded: its numbers not yet clamped (R205). -/
structure RawFlow where
  enabled : Bool
  priority : Int
  ingress : PortSet
  vlan : VlanKind
  vStart : Int
  vStop : Int
  ether : Option Int
  cls : ClassMatch
  dStart : Int
  dStop : Int
  dest : DestMatch
  action : Action
  egress : EgressSet
  offset : Int
  queue : QueueClass
deriving DecidableEq, Repr

/-- Read a Flow entry; Pinned and Hit Count, which PUT does not write, are read past (R8, R205, log 24). -/
def takeFlow : Reader RawFlow := fun b0 => do
  let (enabled, b1) ← takeBool b0
  let (_, b2) ← takeByte b1
  let (priority, b3) ← takeNum b2
  let (ingress, b4) ← takePorts false b3
  let (vlan, b5) ← takeIn vlanKinds b4
  let (vStart, b6) ← takeNum b5
  let (vStop, b7) ← takeNum b6
  let (ether, b8) ← takeOptNum b7
  let (cls, b9) ← takeIn classMatches b8
  let (dStart, b10) ← takeNum b9
  let (dStop, b11) ← takeNum b10
  let (dest, b12) ← takeIn destMatches b11
  let (action, b13) ← takeIn actions b12
  let (egress, b14) ← takePorts true b13
  let (offset, b15) ← takeNum b14
  let (queue, b16) ← takeIn queueClasses b15
  let (_, b17) ← takeNum b16
  some (⟨enabled, priority, ingress.ports, vlan, vStart, vStop, ether, cls, dStart, dStop, dest, action, egress,
    offset, queue⟩, b17)

/-- The EtherType an entry stores for a written value (R7, R9). -/
def storeEther (part : Nat) : Option Int → EtherMatch
  | none => .any
  | some v => if clampN 0x0600 0xFFFF v = part then .part else .literal (clampN 0x0600 0xFFFF v)

/-- The entry a decoded one stores, its numbers clamped (R7, check 3). -/
def RawFlow.store (part : Nat) (x : RawFlow) : FlowEntry :=
  { enabled := x.enabled, pinned := false, priority := clampN 0 3 x.priority, ingress := x.ingress
    vlan := x.vlan, vStart := clampN 0 4095 x.vStart, vStop := clampN 0 4095 x.vStop
    etherType := storeEther part x.ether, cls := x.cls, dStart := clampN 0 127 x.dStart
    dStop := clampN 0 127 x.dStop, dest := x.dest, action := x.action, egress := x.egress
    vlanOffset := clampN 0 4095 x.offset, queueClass := x.queue, hitCount := 0 }

/-- Whether a Flow entry was clamped. -/
def RawFlow.adjusted (x : RawFlow) : Bool :=
  outside 0 3 x.priority || outside 0 4095 x.vStart || outside 0 4095 x.vStop || outside 0 127 x.dStart ||
    outside 0 127 x.dStop || outside 0 4095 x.offset || outsideOpt 0x0600 0xFFFF x.ether

/-- A window stands the wrong way round (R7, check 4). -/
def FlowEntry.badWindow (e : FlowEntry) : Bool :=
  (e.vlan = .tagged && decide (e.vStop < e.vStart)) || decide (e.dStop < e.dStart)

/-- A Class with an EtherType other than the Part EtherType (R7, check 5). -/
def FlowEntry.badClass (part : Nat) (e : FlowEntry) : Bool :=
  e.cls ≠ .any && (e.etherType.value part).isSome && e.etherType.value part ≠ some part

/-- Whether an entry overlaps another enabled entry of its Priority (R6; R7, check 6). -/
def State.overlaps (s : State) (i : Fin 64) (e : FlowEntry) : Bool :=
  flowIndices.any fun j =>
    j ≠ i && (s.flow.get j).enabled && (s.flow.get j).priority = e.priority &&
      flowOverlap s.mgmt.partEther e (s.flow.get j)

/-- PUT of a Flow entry: an entry that does not decode, an enumeration beyond its set among it (R205 before the table's
checks, and so check 2 of R7), then the other checks of R7 and the write (log 23). -/
def State.putFlow (s : State) (i : Fin 64) (bs : List Byte) : EntryResult :=
  match readWhole takeFlow bs with
  | none => .refused stBadValue
  | some x =>
    let e := x.store s.mgmt.partEther
    if (s.flow.get i).pinned then .refused stProtected
    else if e.badWindow || e.badClass s.mgmt.partEther then .refused stBadValue
    else if e.enabled && s.overlaps i e then .refused stOverlap
    else .written { s with flow := s.flow.set i.val e i.isLt } x.adjusted

/-! ## Port Map (R11) and Management Settings (R190) -/

/-- PUT of a Port Map entry. -/
def State.putPortMap (s : State) (i : Fin 8) (bs : List Byte) : EntryResult :=
  let read : Reader (EgressSet × Int × Int) := fun b0 => do
    let (e, b1) ← takePorts true b0
    let (a, b2) ← takeNum b1
    let (b, b3) ← takeNum b2
    some ((e, a, b), b3)
  match readWhole read bs with
  | none => .refused stBadValue
  | some (e, a, b) =>
    .written { s with portMap := s.portMap.set i.val ⟨e, clampMag 10000 a, clampMag 10000 b⟩ i.isLt }
      (outside (-10000) 10000 a || outside (-10000) 10000 b)

/-- The group bit of a station address. -/
def groupBit (a : Addr) : Bool := a.getLsbD 40

/-- Whether some Flow entry holds a literal EtherType (R9). -/
def State.flowHolds (s : State) (v : Nat) : Bool := flowIndices.any fun j => (s.flow.get j).etherType = .literal v

/-- PUT of the Management Settings by a command from port `p` (R190). The new Station Address is the source only of
frames built after the command's response. -/
def State.putMgmt (s : State) (p : Port) (bs : List Byte) : EntryResult :=
  let read : Reader (Addr × EgressSet × Int) := fun b0 => do
    let (a, b1) ← takeAddr b0
    let (e, b2) ← takePorts false b1
    let (v, b3) ← takeNum b2
    some ((a, e, v), b3)
  match readWhole read bs with
  | none => .refused stBadValue
  | some (a, e, v) =>
    let part := clampN 0x0600 0xFFFF v
    if groupBit a then .refused stBadValue
    else if !inPorts e.ports p then .refused stState
    else if s.flowHolds part then .refused stConflict
    else
      .written (s.updMgmt fun m => { m with station := a, permitted := e.ports, partEther := part })
        (outside 0x0600 0xFFFF v)

/-! ## Client Sessions (R29) -/

/-- Read a Client Session Configuration, with whether it was clamped. -/
def takeClientCfg : Reader (ClientCfg × Bool) := fun b0 => do
  let (enabled, b1) ← takeBool b0
  let (domain, b2) ← takeNum b1
  let (rate, b3) ← takeIn queryRates b2
  let (timeout, b4) ← takeNum b3
  let (asym, b5) ← takeNum b4
  let (vlan, b6) ← takeOptNum b5
  let (notice, b7) ← takeNum b6
  some (({ enabled := enabled, domain := clampN 0 127 domain, queryRate := rate
           replyTimeout := clampN 100 2000 timeout, asymmetry := clampMag 100000 asym
           queryVlan := vlan.map (clampN 0 4095), noticeTimeout := clampN 2 16 notice },
         outside 0 127 domain || outside 100 2000 timeout || outside (-100000) 100000 asym ||
           outsideOpt 0 4095 vlan || outside 2 16 notice), b7)

/-- A Notice Timeout that the running interval has already reached expires at once (R29). -/
def State.noticeCheck (s : State) (c : Client) : State :=
  let x := s.client c
  if x.state = .exchanging ∧ x.cfg.noticeTimeout * secUnits ≤ s.res - x.noticeStart then s.noticeExpired c else s

/-- What a changed configuration does to a session (R29, R30, R43): Enabled, Domain and VLAN first, then Reply Timeout,
then Notice Timeout (log 57). -/
def State.clientChanged (s : State) (c : Client) (old : ClientCfg) : State :=
  let new := (s.client c).cfg
  let s1 :=
    if old.enabled && !new.enabled then s.clientStop c
    else if !old.enabled && new.enabled then s.clientStart c
    else if old.domain ≠ new.domain ∨ old.queryVlan ≠ new.queryVlan then s.clientRetune c
    else s
  let s2 := if old.replyTimeout = new.replyTimeout then s1 else s1.updClient c (ClientSession.loseAged s.res)
  if old.noticeTimeout = new.noticeTimeout then s2 else s2.noticeCheck c

/-- PUT of a Client Session Configuration. -/
def State.putClient (s : State) (c : Client) (bs : List Byte) : EntryResult :=
  match readWhole takeClientCfg bs with
  | none => .refused stBadValue
  | some (cfg, adjusted) =>
    .written ((s.updClient c fun x => { x with cfg := cfg }).clientChanged c (s.client c).cfg) adjusted

/-! ## References (R46, R47) -/

/-- Read a Reference Table entry, with whether it was clamped. -/
def takeRefCfg : Reader (RefCfg × Bool) := fun b0 => do
  let (enabled, b1) ← takeBool b0
  let (rate, b2) ← takeIn declaredRates b1
  let (accept, b3) ← takeNum b2
  let (holdOff, b4) ← takeNum b3
  let (qualify, b5) ← takeNum b4
  let (restore, b6) ← takeNum b5
  let (jump, b7) ← takeNum b6
  let (wander, b8) ← takeNum b7
  let (grade, b9) ← takeNum b8
  let (starve, b10) ← takeNum b9
  let (comp, b11) ← takeNum b10
  let (policy, b12) ← takeIn policies b11
  let (cap, b13) ← takeNum b12
  let (baud, b14) ← takeIn todBauds b13
  some (({ enabled := enabled, declaredRate := rate, acceptRange := clampN 1000 50000000 accept
           holdOff := clampN 0 10 holdOff, qualifyTime := clampN 10 600 qualify
           restoreWait := clampN 0 720 restore, jumpLimit := clampN 10 100000 jump
           wanderLimit := clampN 10 10000 wander, minGrade := clampN 0 15 grade
           starveSeconds := clampN 2 60 starve, compensation := clampMag 1000000 comp, policy := policy
           gradeCap := clampN 0 15 cap, todBaud := baud },
         outside 1000 50000000 accept || outside 0 10 holdOff || outside 10 600 qualify || outside 0 720 restore ||
           outside 10 100000 jump || outside 10 10000 wander || outside 0 15 grade || outside 2 60 starve ||
           outside (-1000000) 1000000 comp || outside 0 15 cap), b14)

/-- TOD Baud written: the partial record and the held record are discarded (R47, R207). -/
def State.baudChanged (s : State) : State := s.updGnss fun g => { g with partialRecord := [], held := none }

/-- The Received Grade of a reference under its configuration as it stands (R47, R51). -/
def State.gradeAgain (s : State) (r : Ref) : Option Nat :=
  let x := s.ref r
  if r = .gnss then
    match x.grade, s.gnss.last with
    | some _, some i => some (min i.receiverGrade x.cfg.gradeCap)
    | g, _ => g
  else x.grade

/-- Timers that a write has brought to their ends (R47). A Qualify Timer that had stopped at the old Qualify Time stays
where it stopped (log 59). -/
def State.timersCheck (s : State) (r : Ref) : State :=
  let x := s.ref r
  match x.state with
  | .monitoring =>
    if timerRuns x.qualify ∧ x.cfg.qualifyTime * secUnits ≤ timerElapsed x.qualify s.res then s.qualifyExpired r else s
  | .qualified =>
    if timerRuns x.holdOff ∧ x.cfg.holdOff * secUnits ≤ timerElapsed x.holdOff s.res then s.holdOffExpired r else s
  | .restoring =>
    if timerRuns x.restore ∧ x.cfg.restoreWait * secUnits ≤ timerElapsed x.restore s.res then s.restoreExpired r else s
  | .disabled => s
  | .failed => s

/-- What a changed configuration does to a reference that stays enabled (R47): the baud rate, the compensation or rate,
the grade, STARVED, then the timers; the grade and STARVED are two changes of its set (log 58). -/
def State.refChanged (s : State) (r : Ref) (old : RefCfg) : State :=
  let new := (s.ref r).cfg
  let s1 := if r = .gnss ∧ old.todBaud ≠ new.todBaud then s.baudChanged else s
  let s2 := s1.updRef r fun x =>
    { x with
      lastE := if old.compensation = new.compensation then x.lastE else none
      winVoid := x.winVoid || (r = .ext && old.declaredRate ≠ new.declaredRate) }
  let s3 := if old.minGrade = new.minGrade ∧ old.gradeCap = new.gradeCap then s2 else s2.judge r (s2.gradeAgain r) id
  let s4 := match refClient? r with
    | some c => if old.starveSeconds = new.starveSeconds then s3 else s3.starveCheck c
    | none => s3
  if old.holdOff = new.holdOff ∧ old.qualifyTime = new.qualifyTime ∧ old.restoreWait = new.restoreWait then s4
  else s4.timersCheck r

/-- PUT of a Reference Table entry. -/
def State.putRef (s : State) (r : Ref) (bs : List Byte) : EntryResult :=
  match readWhole takeRefCfg bs with
  | none => .refused stBadValue
  | some (cfg, adjusted) =>
    let old := (s.ref r).cfg
    let s1 := s.updRef r fun x => { x with cfg := cfg }
    .written
      (if old.enabled && !cfg.enabled then s1.refDisable r
       else if !old.enabled && cfg.enabled then s1.refEnable r
       else if cfg.enabled then s1.refChanged r old
       else s1) adjusted

/-! ## Selector (R70) and Realignment (R79) -/

/-- Whether a list may be stored: no id twice, each capable of the role, at most the capacity (R70). -/
def goodList (capable : Ref → Bool) (capacity : Nat) (l : List Ref) : Bool :=
  decide (l.Nodup) && l.all capable && decide (l.length ≤ capacity)

/-- Read a Selector Configuration. -/
def takeSelectorCfg : Reader SelectorCfg := fun b0 => do
  let (phase, b1) ← takeRefs b0
  let (freq, b2) ← takeRefs b1
  let (revertive, b3) ← takeFirst b2
  let (ranking, b4) ← takeFirst b3
  some (⟨phase, freq, revertive, ranking⟩, b4)

/-- PUT of the Selector Configuration (R70, R73, R75). -/
def State.putSelector (s : State) (bs : List Byte) : EntryResult :=
  match readWhole takeSelectorCfg bs with
  | none => .refused stBadValue
  | some cfg =>
    if !goodList phaseCapable 3 cfg.phaseList || !goodList (fun _ => true) 6 cfg.freqList then .refused stBadValue
    else if cfg = s.selector.cfg then .written s false
    else .written (s.updSel fun x => { x with cfg := cfg }).reevaluate false

/-- Read Realignment Parameters, with whether they were clamped. -/
def takeRealignParams : Reader (RealignParams × Bool) := fun b0 => do
  let (policy, b1) ← takeIn stepPolicies b0
  let (threshold, b2) ← takeNum b1
  let (maxOff, b3) ← takeNum b2
  let (rate, b4) ← takeNum b3
  let (window, b5) ← takeNum b4
  let (tolerance, b6) ← takeNum b5
  some (({ stepPolicy := policy, stepThreshold := clampN 100 1000000000 threshold
           maxOffset := clampN 1000 1000000000 maxOff, slewRate := clampN 1 1000 rate
           resumeWindow := clampN 1 86400 window, resumeTolerance := clampN 10 100000 tolerance },
         outside 100 1000000000 threshold || outside 1000 1000000000 maxOff || outside 1 1000 rate ||
           outside 1 86400 window || outside 10 100000 tolerance), b6)

/-- A Suspended Slew record whose age is at the Resume Window expires (R79, R87). -/
def State.suspendedCheck (s : State) : State :=
  match s.realign.suspended with
  | none => s
  | some u => if s.realign.params.resumeWindow * secUnits ≤ u.age s.res then s.expireSuspended else s

/-- PUT of the Realignment Parameters (R79). -/
def State.putRealign (s : State) (bs : List Byte) : EntryResult :=
  match readWhole takeRealignParams bs with
  | none => .refused stBadValue
  | some (p, adjusted) =>
    let s1 := s.updReal fun x => { x with params := p }
    let s2 := if p.maxOffset = s.realign.params.maxOffset then s1 else s1.updReal (writeMaxOffset p.maxOffset)
    .written (if p.resumeWindow = s.realign.params.resumeWindow then s2 else s2.suspendedCheck) adjusted

/-! ## Servo (R97, R98) and Holdover Unit (R121, R133) -/

/-- Read Servo Parameters, with whether they were clamped. -/
def takeServoParams : Reader (ServoParams × Bool) := fun b0 => do
  let (clamp, b1) ← takeNum b0
  let (pull, b2) ← takeNum b1
  let (apg, b3) ← takeNum b2
  let (aig, b4) ← takeNum b3
  let (lpg, b5) ← takeNum b4
  let (lig, b6) ← takeNum b5
  let (fg, b7) ← takeNum b6
  let (lw, b8) ← takeNum b7
  let (lc, b9) ← takeNum b8
  let (uw, b10) ← takeNum b9
  let (uc, b11) ← takeNum b10
  some (({ phaseClamp := clampN 10 100000 clamp, pullRange := clampN 1000 5000000 pull
           acquiringPg := clampN 0 255 apg, acquiringIg := clampN 0 255 aig, lockedPg := clampN 0 255 lpg
           lockedIg := clampN 0 255 lig, fg := clampN 0 255 fg, lockWindow := clampN 10 10000 lw
           lockCount := clampN 1 255 lc, unlockWindow := clampN 100 100000 uw, unlockCount := clampN 1 255 uc },
         outside 10 100000 clamp || outside 1000 5000000 pull || outside 0 255 apg || outside 0 255 aig ||
           outside 0 255 lpg || outside 0 255 lig || outside 0 255 fg || outside 10 10000 lw || outside 1 255 lc ||
           outside 100 100000 uw || outside 1 255 uc), b11)

/-- PUT of the Servo Parameters. -/
def State.putServo (s : State) (bs : List Byte) : EntryResult :=
  match readWhole takeServoParams bs with
  | none => .refused stBadValue
  | some (p, adjusted) =>
    .written (s.updServo fun x =>
      let y := { x with params := p }
      if p.pullRange = x.params.pullRange then y else y.writePull p.pullRange) adjusted

/-- Read Holdover Parameters and grade parameters, with whether they were clamped. -/
def takeHoldoverParams : Reader (HoldoverParams × GradeParams × Bool) := fun b0 => do
  let (guard, b1) ← takeNum b0
  let (depth, b2) ← takeNum b1
  let (least, b3) ← takeNum b2
  let (drift, b4) ← takeFirst b3
  let (driftMin, b5) ← takeNum b4
  let (driftLimit, b6) ← takeNum b5
  let (settle, b7) ← takeNum b6
  let (hop, b8) ← takeNum b7
  let (acq, b9) ← takeNum b8
  let (slewing, b10) ← takeNum b9
  let (short, b11) ← takeNum b10
  let (freqOnly, b12) ← takeNum b11
  let (free, b13) ← takeNum b12
  let (budget, b14) ← takeNum b13
  some (({ guardMinutes := clampN 0 60 guard, averagingDepth := clampN 1 1440 depth
           minimumEntries := clampN 1 1440 least, driftEstimation := drift, driftMinimum := clampN 2 1440 driftMin
           driftLimit := clampN 0 1000 driftLimit, settleLimit := clampN 0 10000 settle },
         { hopDecrement := clampN 0 15 hop, acquiring := clampN 0 15 acq, slewing := clampN 0 15 slewing
           historyShort := clampN 0 15 short, frequencyOnly := clampN 0 15 freqOnly, freerun := clampN 0 15 free
           budgetAlarm := clampN 0 15 budget },
         outside 0 60 guard || outside 1 1440 depth || outside 1 1440 least || outside 2 1440 driftMin ||
           outside 0 1000 driftLimit || outside 0 10000 settle || outside 0 15 hop || outside 0 15 acq ||
           outside 0 15 slewing || outside 0 15 short || outside 0 15 freqOnly || outside 0 15 free ||
           outside 0 15 budget), b14)

/-- PUT of the Holdover Parameters. -/
def State.putHoldover (s : State) (bs : List Byte) : EntryResult :=
  match readWhole takeHoldoverParams bs with
  | none => .refused stBadValue
  | some (p, g, adjusted) =>
    let s1 := s.updHold fun x => { x with params := p, grades := g }
    .written (if g = s.holdover.grades then s1 else s1.regrade) adjusted

/-! ## Budget Table (R129) -/

/-- Capacity of the Budget Table. -/
def budgetCapacity : Nat := 8

/-- The order test of a threshold at an index (R129, check 3). -/
def budgetFits (t : List BudgetEntry) (i threshold : Nat) : Bool :=
  if i = 0 then threshold = 0
  else
    ((t[i - 1]?).all fun b => decide (b.threshold < threshold)) && ((t[i + 1]?).all fun b => decide (threshold < b.threshold))

/-- Read a Budget Table entry, with whether it was clamped. -/
def takeBudget : Reader (BudgetEntry × Bool) := fun b0 => do
  let (t, b1) ← takeNum b0
  let (u, b2) ← takeNum b1
  let (a, b3) ← takeNum b2
  some ((⟨clampN 0 31536000 t, clampN 0 15 u, clampN 0 15 a⟩,
         outside 0 31536000 t || outside 0 15 u || outside 0 15 a), b3)

/-- PUT of a Budget Table entry: an index equal to Count appends. -/
def State.putBudget (s : State) (i : Nat) (bs : List Byte) : EntryResult :=
  let t := s.holdover.budget
  match readWhole takeBudget bs with
  | none => .refused stBadValue
  | some (b, adjusted) =>
    if t.length < i ∨ budgetCapacity ≤ i then .refused stBadIndex
    else if !budgetFits t i b.threshold then .refused stBadValue
    else
      .written (s.updHold fun x => { x with budget := if i = t.length then t ++ [b] else t.set i b }).regrade adjusted

/-! ## Site Table (R137, R138) -/

/-- Read a Site Table entry, with whether it was clamped. -/
def takeSiteCfg : Reader (SiteCfg × Bool) := fun b0 => do
  let (enabled, b1) ← takeBool b0
  let (domain, b2) ← takeNum b1
  let (vlan, b3) ← takeOptNum b2
  let (rate, b4) ← takeIn markRates b3
  let (path, b5) ← takeNum b4
  let (grade, b6) ← takeNum b5
  let (delay, b7) ← takeNum b6
  let (limit, b8) ← takeNum b7
  let (timeout, b9) ← takeNum b8
  some (({ enabled := enabled, domain := clampN 0 127 domain, vlan := vlan.map (clampN 0 4095), markRate := rate
           pathComp := clampMag 100000 path, minGrade := clampN 0 15 grade, serveDelay := clampN 0 60 delay
           queryLimit := clampN 1 256 limit, queryTimeout := clampN 1 60 timeout },
         outside 0 127 domain || outsideOpt 0 4095 vlan || outside (-100000) 100000 path || outside 0 15 grade ||
           outside 0 60 delay || outside 1 256 limit || outside 1 60 timeout), b9)

/-- Presence is lost (R152, R153). -/
def State.siteAbsent (s : State) (k : Fin 6) : State :=
  (s.updSite k fun x => { x with present := false }).siteConditions k

/-- Whether the presence interval has run for the Query Timeout (R138, R152). -/
def Site.queryStale (x : Site) (res : Nat) : Bool :=
  match x.lastQuery with
  | some t => x.present && decide (x.cfg.queryTimeout * secUnits ≤ res - t)
  | none => false

/-- Whether a running Serve Delay timer has run for the Serve Delay (R138). -/
def Site.serveElapsed (x : Site) (res : Nat) : Bool :=
  x.state = .muted && timerRuns x.serve && decide (x.cfg.serveDelay * secUnits ≤ timerElapsed x.serve res)

/-- What a changed configuration does to a session that stays enabled (R138): Minimum Grade, then Serve Delay, then
Query Timeout (log 68). -/
def State.siteChanged (s : State) (k : Fin 6) (old : SiteCfg) : State :=
  let new := (s.site k).cfg
  let s1 := if old.minGrade = new.minGrade then s else s.siteGrade k
  let s2 := if old.serveDelay ≠ new.serveDelay ∧ (s1.site k).serveElapsed s.res = true then s1.enterServing k else s1
  if old.queryTimeout ≠ new.queryTimeout ∧ (s2.site k).queryStale s.res = true then s2.siteAbsent k else s2

/-- PUT of a Site Table entry. -/
def State.putSite (s : State) (k : Fin 6) (bs : List Byte) : EntryResult :=
  match readWhole takeSiteCfg bs with
  | none => .refused stBadValue
  | some (cfg, adjusted) =>
    let x := s.site k
    let old := x.cfg
    if x.state = .serving ∧ cfg.enabled = true ∧
        (cfg.domain ≠ old.domain ∨ cfg.vlan ≠ old.vlan ∨ cfg.markRate ≠ old.markRate) then .refused stState
    else
      let s1 := s.updSite k fun y => { y with cfg := cfg }
      .written
        (if old.enabled && !cfg.enabled then s1.siteDisable k
         else if !old.enabled && cfg.enabled then s1.siteEnable k
         else if cfg.enabled then s1.siteChanged k old
         else s1) adjusted

/-! ## Pin Table (R156, R157) -/

/-- Read a Source: a kind with a reference id, read for BYPASS only. -/
def takeSource : Reader FreqSource := fun b0 => do
  let (kind, b1) ← takeByte b0
  let (id, b2) ← takeByte b1
  match kind with
  | 0 => some (.counter, b2)
  | 1 => (refOfNat? id).map fun r => (.bypass r, b2)
  | _ => none

/-- Read a Pin Table entry, with whether it was clamped. -/
def takePinCfg : Reader (PinCfg × Bool) := fun b0 => do
  let (function, b1) ← takeIn pinFunctions b0
  let (enabled, b2) ← takeBool b1
  let (squelch, b3) ← takeNum b2
  let (width, b4) ← takeNum b3
  let (offset, b5) ← takeNum b4
  let (rate, b6) ← takeIn pinRates b5
  let (source, b7) ← takeSource b6
  some (({ function := function, outEnabled := enabled, squelch := clampN 0 15 squelch
           pulseWidth := clampN 1 999999 width, offset := clampMag 1000000 offset, rate := rate, source := source },
         outside 0 15 squelch || outside 1 999999 width || outside (-1000000) 1000000 offset), b7)

/-- A running output may not be changed beneath its user (R156, check 3). -/
def pinHeld (old new : PinCfg) : Bool :=
  isOutput old.function && old.outEnabled && new.outEnabled &&
    (old.function ≠ new.function || old.rate ≠ new.rate || old.source ≠ new.source || old.pulseWidth ≠ new.pulseWidth)

/-- Another pin already holds an input function (R156, check 4). -/
def State.pinTaken (s : State) (k : Fin 4) (f : PinFunction) : Bool :=
  isInput f && allPins.any fun j => j ≠ k && (s.tpin j).cfg.function = f

/-- The pin with a new entry stored: what its input and bypass parts become (R157, R158, R160, R163).
The Bypass Offset and the Last Input Edge do not outlive a change of Function (log 63, log 64). -/
def Pin.rewrite (c : Clock) (new : PinCfg) (x : Pin) : Pin :=
  let moved := x.cfg.function ≠ new.function
  let y := { x with
    cfg := new
    lastInput := if moved then none else x.lastInput
    cycles := if moved ∧ new.function = .freqIn then 0 else x.cycles }
  if y.bypassRef = x.bypassRef ∧ x.cfg.source = new.source then y
  else if x.bypassRef.isSome && y.bypassRef.isSome then { y with bypassOffset := none }.fallbackEval false c
  else { y with bypassOffset := none, fallback := true }

/-- Start, stop or go on with the output of a pin whose entry has been stored (R157). -/
def State.pinDrive (s : State) (k : Fin 4) (was : Bool) : State :=
  let x := s.tpin k
  if x.outputOn then
    if was then s
    else
      let s1 := s.updPin k fun y => y.start s.clock (Config.bypassPhase s.free)
      if x.bypassRef.isSome && !x.fallback then s1.useFree else s1
  else s.updPin k Pin.stop

/-- A FREQ_IN count that restarts voids the EXT window in progress (R160). -/
def State.freqInTaken (s : State) (old new : PinFunction) : State :=
  if old ≠ new ∧ new = .freqIn then s.updRef .ext fun x => { x with winVoid := true } else s

/-- PUT of a Pin Table entry. -/
def State.putPin (s : State) (k : Fin 4) (bs : List Byte) : EntryResult :=
  match readWhole takePinCfg bs with
  | none => .refused stBadValue
  | some (cfg, adjusted) =>
    let x := s.tpin k
    if pinHeld x.cfg cfg then .refused stState
    else if s.pinTaken k cfg.function then .refused stConflict
    else
      let s1 := (s.updPin k (Pin.rewrite s.clock cfg)).freqInTaken x.cfg.function cfg.function
      let s2 := (s1.pinDrive k x.outputOn).updPin k (Pin.squelchEval s.holdover.announced s.clock)
      .written s2 adjusted

/-! ## Alarm Config (R168, R169) and Alarm Settings (R179 to R185) -/

/-- Read an Alarm Config entry, with whether it was clamped. -/
def takeAlarmCfg : Reader (AlarmCfg × Bool) := fun b0 => do
  let (severity, b1) ← takeIn severities b0
  let (route, b2) ← takeIn routes b1
  let (hold, b3) ← takeNum b2
  let (delay, b4) ← takeNum b3
  some ((⟨severity, route, clampN 0 255 hold, clampN 0 255 delay⟩, outside 0 255 hold || outside 0 255 delay), b4)

/-- Whether a record's timer has run for a number of seconds. -/
def AlarmRecord.ran (x : AlarmRecord) (res seconds : Nat) : Bool :=
  match x.timer with
  | some t => decide (seconds * secUnits ≤ res - t)
  | none => false

/-- Let a record whose hold-off or delay has been written at or below what it has run reach its expiry (R169). -/
def Alarm.ripe (now : Stamp) (res : Nat) (raise clear : Bool) (a : Alarm) (i : Fin 41) : Alarm :=
  let x := a.record i
  let c := a.cfgOf i
  if raise && x.state = .raising && x.ran res c.raiseHold then a.raiseExpired now res i
  else if clear && x.state = .clearing && x.ran res c.clearDelay then a.clearExpired now res i
  else a

/-- An accepted Alarm Config entry takes effect (R169). -/
def Alarm.writeCfg (now : Stamp) (res : Nat) (c : Fin 12) (new : AlarmCfg) (a : Alarm) : Alarm :=
  let old := a.cfg.get c
  let a1 := { a with cfg := a.cfg.set c.val new c.isLt }.evalPin
  (allRecords.filter fun i => conditionOf i = c).foldl
    (Alarm.ripe now res (decide (old.raiseHold ≠ new.raiseHold)) (decide (old.clearDelay ≠ new.clearDelay))) a1

/-- PUT of an Alarm Config entry. -/
def State.putAlarmCfg (s : State) (c : Fin 12) (bs : List Byte) : EntryResult :=
  match readWhole takeAlarmCfg bs with
  | none => .refused stBadValue
  | some (cfg, adjusted) => .written (s.updAlarm (Alarm.writeCfg s.stamp s.res c cfg)) adjusted

/-- Read Alarm Settings, with whether they were clamped. -/
def takeAlarmSet : Reader (AlarmSettings × Bool) := fun b0 => do
  let (notify, b1) ← takeFirst b0
  let (rate, b2) ← takeNum b1
  let (collector, b3) ← takeOpt 6 takeAddr b2
  let (port, b4) ← takeIn allPorts b3
  let (vlan, b5) ← takeOptNum b4
  let (ack, b6) ← takeIn [false, true] b5
  let (pulse, b7) ← takeIn [false, true] b6
  let (width, b8) ← takeNum b7
  some (({ notify := notify, rate := clampN 1 64 rate, collector := collector, collectorPort := port
           vlan := vlan.map (clampN 0 4095), ackOnRead := ack, pulseMode := pulse, pulseWidth := clampN 10 1000 width },
         outside 1 64 rate || outsideOpt 0 4095 vlan || outside 10 1000 width), b8)

/-- Notices turned off: the queue is emptied into Pending (R180). -/
def Alarm.notifyOff (a : Alarm) : Alarm :=
  { (a.queue.foldl (fun b n => b.updRec n.record fun r => { r with pending := true }) a) with
    queue := []
    spacing := none
    ctr := { a.ctr with noticesDropped := bumpBy a.queue.length a.ctr.noticesDropped } }

/-- Notices turned on or off (R180). -/
def Alarm.notifyChange (now : Stamp) (res : Nat) (was : Bool) (a : Alarm) : Alarm :=
  if was = a.set.notify then a
  else if a.set.notify then { a with spacing := none }.drain now res
  else a.notifyOff

/-- Pulse width in fraction units (R185). -/
def Alarm.pulseUnits (a : Alarm) : Nat := a.set.pulseWidth * msUnits

/-- The pulse in progress ends (R185). -/
def Alarm.endPulse (a : Alarm) : Alarm := { a with pulse := none, asserted := false }

/-- A pulse that has run for the width in force ends (R185). -/
def Alarm.pulseCheck (res : Nat) (a : Alarm) : Alarm :=
  match a.pulse with
  | some t => if a.pulseUnits ≤ res - t then a.endPulse else a
  | none => a

/-- A change of Pin Mode (R185). -/
def Alarm.modeChange (was : Bool) (a : Alarm) : Alarm :=
  if was = a.set.pulseMode then a
  else if a.set.pulseMode then a.endPulse
  else { a with pulse := none }.evalPin

/-- A send spacing that has run out at the rate in force is over: a later write of Notice Rate applies to a spacing in
progress only (R181). -/
def Alarm.endSpacing (res : Nat) (a : Alarm) : Alarm :=
  match a.spacing with
  | some t => if a.spacingUnits ≤ res - t then { a with spacing := none } else a
  | none => a

/-- Accepted Alarm Settings take effect (R180, R181, R185), in the order Pin Mode, Pin Pulse Width, Notify Enable
(log 71). -/
def Alarm.writeSet (now : Stamp) (res : Nat) (new : AlarmSettings) (a : Alarm) : Alarm :=
  ((({ a.endSpacing res with set := new }.modeChange a.set.pulseMode).pulseCheck res).notifyChange now res a.set.notify)

/-- PUT of the Alarm Settings. -/
def State.putAlarmSet (s : State) (bs : List Byte) : EntryResult :=
  match readWhole takeAlarmSet bs with
  | none => .refused stBadValue
  | some (set, adjusted) =>
    if set.notify && set.collector.isNone then .refused stState
    else .written (s.updAlarm (Alarm.writeSet s.stamp s.res set)) adjusted

/-! ## The run (R193, R196) -/

/-- One entry written at an index of a table by a command from port `p`. -/
def State.putEntry (s : State) (p : Port) (table index : Nat) (bs : List Byte) : EntryResult :=
  match table with
  | 0 => if h : index < 64 then s.putFlow ⟨index, h⟩ bs else .refused stBadIndex
  | 1 => if h : index < 8 then s.putPortMap ⟨index, h⟩ bs else .refused stBadIndex
  | 2 => s.putMgmt p bs
  | 3 => s.putClient (if index = 0 then .pkt0 else .pkt1) bs
  | 5 => match refOfNat? index with
    | some r => s.putRef r bs
    | none => .refused stBadIndex
  | 7 => s.putSelector bs
  | 9 => s.putRealign bs
  | 11 => s.putServo bs
  | 13 => s.putHoldover bs
  | 16 => s.putBudget index bs
  | 17 => if h : index < 6 then s.putSite ⟨index, h⟩ bs else .refused stBadIndex
  | 19 => if h : index < 4 then s.putPin ⟨index, h⟩ bs else .refused stBadIndex
  | 21 => if h : index < 12 then s.putAlarmCfg ⟨index, h⟩ bs else .refused stBadIndex
  | 22 => s.putAlarmSet bs
  | _ => .refused stReadOnly

/-- What a PUT run comes to: the state, whether an entry was clamped, the entries as stored, and the refused index with
its status. -/
structure RunResult where
  state    : State
  adjusted : Bool
  count    : Nat
  stored   : List Byte
  refused  : Option (Nat × Nat)
deriving DecidableEq, Repr

/-- The index that follows in a run: the block wraps (R196). -/
def nextInBlock (table index : Nat) : Nat :=
  let size := blockSize table
  index / size * size + (index + 1) % size

/-- Split the next entry off a PUT body: its fields and the bytes after it (R205). -/
def splitEntry (bs : List Byte) : Option (List Byte × List Byte) :=
  let len := beNat (slice 2 2 bs)
  if bs.length < 4 + len then none else some (slice 4 len bs, bs.drop (4 + len))

/-- Take the entries of a run in order; the first refused entry ends it (R196). -/
def State.putRun (p : Port) (table : Nat) : Nat → Nat → List Byte → RunResult → RunResult
  | 0, _, _, acc => acc
  | n + 1, index, bs, acc =>
    match splitEntry bs with
    | none => { acc with refused := some (index, stBadValue) }
    | some (fields, rest) =>
      match acc.state.putEntry p table index fields with
      | .refused status => { acc with refused := some (index, status) }
      | .written s adjusted =>
        State.putRun p table n (nextInBlock table index) rest
          { acc with
            state := s
            adjusted := acc.adjusted || adjusted
            count := acc.count + 1
            stored := acc.stored ++ s.encEntry table index }

end Sys2Proof.Machine
end

