-- ==== Sys2Proof/Machine/Commands.lean ====
section
/-! DEFINITION. The Management Unit (10): the completion of the command at the head of the Command Queue, its effects and its
response. Each command's arguments are those of the queued command (log 13). -/
namespace Sys2Proof.Machine
open Sys2Proof

/-! ## Responses (R191, R192) -/

/-- What a command comes to: the state after its effects, its status and results, and the RESTART it asks for. -/
structure Reply where
  state   : State
  status  : Nat
  results : List Byte := []
  restart : Option RestartScope := none
deriving DecidableEq, Repr

/-- A command refused: nothing changed. -/
def refuse (s : State) (status : Nat) : Reply := { state := s, status := status }

/-- A command answered OK without results. -/
def done (s : State) : Reply := { state := s, status := stOk }

/-- The RESPONSE to a command (R192), from a source address. -/
def State.responseFrame (s : State) (station : Addr) (c : Command) (status : Nat) (results : List Byte) : Frame :=
  builtFrame c.src station c.vlan s.mgmt.partEther
    { cls := classManagement, type := typeResponse, flags := (Config.managementFlags s.free).toNat, seq := c.seq
      grade := s.holdover.announced, epoch := s.clock.epoch }
    (beBytes 2 c.tag ++ beBytes 1 c.type ++ beBytes 1 status ++ results)

/-- The completed command leaves the queue, or holds its head as a RESTART that waits (R191, R201). -/
def Mgmt.finish (restart : Option RestartScope) (m : Mgmt) : Mgmt :=
  let n := { m with ctr := { m.ctr with commandsExecuted := bump m.ctr.commandsExecuted } }
  match restart with
  | none => { n with queue := n.queue.drop 1 }
  | some scope => { n with waiting := some scope }

/-- Offer the response of a command and end its execution (R191, R192, R201): the source is the Station Address that
stood when the completion began (R190). The results are built before Commands Executed counts the command (log 74). -/
def State.answer (s : State) (c : Command) (x : Reply) : State :=
  let t := x.state
  let f := t.responseFrame s.mgmt.station c x.status x.results
  let t1 := t.useFree.updMgmt (Mgmt.finish x.restart)
  match t1.offer c.ingress .bulk ⟨f, .response x.restart⟩ with
  | (t2, true) => t2
  | (t2, false) =>
    match x.restart with
    | some scope => t2.restartAfterLoss (some scope)
    | none => t2.countMgmt fun k => { k with responsesDiscarded := bump k.responsesDiscarded }

/-- The completion of the head command, `dt` of oscillator time after the last event, if the head is of the kind
expected and no RESTART waits (R191; log 5). -/
def State.complete (s : State) (dt : Nat) (kind : Command → Bool) (run : State → Command → Reply) : State :=
  match s.mgmt.queue with
  | [] => s
  | c :: _ =>
    if kind c && s.mgmt.waiting.isNone then
      let s1 := s.pass dt
      s1.answer c (run s1 c)
    else s

/-! ## GET and CONTINUE (R183, R194, R195) -/

/-- The count a read uses: clamped to 1..32, then to the table's number of entries (R194). -/
def usedCount (count entries : Nat) : Nat := min (max 1 (min count 32)) entries

/-- The indices a read returns (R194). -/
def readIndices (start used entries : Nat) : List Nat := (List.range used).map fun k => (start + k) % entries

/-- Acknowledge the alarm records a read returns, in Acknowledge Mode ON_READ (R183). -/
def State.ackRead (s : State) (table : Nat) (indices : List Nat) : State :=
  if table = 23 ∧ s.alarm.set.ackOnRead = true then
    s.updAlarm (Alarm.ackAll (indices.filterMap fun i => if h : i < 41 then some ⟨i, h⟩ else none))
  else s

/-- Set a table's Read Cursor (R194). -/
def Mgmt.setCursor (table index : Nat) (m : Mgmt) : Mgmt :=
  if h : table < 26 then { m with cursors := m.cursors.set table (some index) h } else m

/-- Read entries of a table from a start that is one of its entries (R194). -/
def State.readFrom (s : State) (table start count : Nat) : Reply :=
  let entries := s.entryCount table
  let used := usedCount count entries
  let indices := readIndices start used entries
  { state := (s.ackRead table indices).updMgmt (Mgmt.setCursor table ((start + used) % entries))
    status := stDone (decide (used ≠ count))
    results := beBytes 1 used ++ indices.flatMap (s.encEntry table) }

/-- An argument of a command: `len` bytes at an offset after the Tag. -/
def Command.arg (c : Command) (off len : Nat) : Nat := beNat (slice off len c.args)

/-- GET (R194). -/
def runGet (s : State) (c : Command) : Reply :=
  let table := c.arg 0 1
  let start := c.arg 1 2
  if tableCount ≤ table then refuse s stBadTable
  else if s.entryCount table ≤ start then refuse s stBadIndex
  else s.readFrom table start (c.arg 3 1)

/-- The index a CONTINUE starts at (R195). -/
def State.cursorStart (s : State) (table : Nat) : Nat :=
  match (s.mgmt.cursors[table]?).bind id with
  | some i => if i < s.entryCount table then i else 0
  | none => 0

/-- CONTINUE (R195). -/
def runContinue (s : State) (c : Command) : Reply :=
  let table := c.arg 0 1
  if tableCount ≤ table then refuse s stBadTable
  else if s.entryCount table = 0 then refuse s stBadIndex
  else s.readFrom table (s.cursorStart table) (c.arg 1 1)

/-! ## PUT (R193, R196) -/

/-- Results of a PUT: number written, refused index, stored entries (11). -/
def putResults (count : Nat) (refused : Option Nat) (stored : List Byte) : List Byte :=
  beBytes 1 count ++ beBytes 2 (refused.getD 0xFFFF) ++ stored

/-- Indices a PUT may start at: the Budget Table takes Count too, within its block (R129, R193; log 31). -/
def State.putStarts (s : State) (table : Nat) : Nat :=
  if table = 16 then min (s.entryCount 16 + 1) budgetCapacity else s.entryCount table

/-- Reply of a run. -/
def RunResult.reply (x : RunResult) : Reply :=
  { state := x.state
    status := match x.refused with
      | some (_, status) => status
      | none => stDone x.adjusted
    results := putResults x.count (x.refused.map (·.1)) x.stored }

/-- PUT refused by its arguments: nothing written. -/
def refusePut (s : State) (status : Nat) : Reply := { state := s, status := status, results := putResults 0 none [] }

/-- PUT (R196). -/
def runPut (s : State) (c : Command) : Reply :=
  let table := c.arg 0 1
  let start := c.arg 1 2
  let count := c.arg 3 1
  if tableCount ≤ table then refusePut s stBadTable
  else if !writable table then refusePut s stReadOnly
  else if s.putStarts table ≤ start then refusePut s stBadIndex
  else if count = 0 ∨ blockSize table < count then refusePut s stBadValue
  else (State.putRun c.ingress table count start (c.args.drop 4) ⟨s, false, 0, [], none⟩).reply

/-! ## CLEAR, PIN, UNPIN (R8, R129, R197) -/

/-- CLEAR of a Flow entry (R8). -/
def clearFlow (s : State) (index : Nat) : Reply :=
  if h : index < 64 then
    let i : Fin 64 := ⟨index, h⟩
    if (s.flow.get i).pinned then refuse s stProtected
    else
      let t := { s with flow := updAt s.flow i fun e => { e with enabled := false, hitCount := 0 } }
      { state := t, status := stOk, results := t.encEntry 0 index }
  else refuse s stBadIndex

/-- CLEAR of a Budget Table entry (R129). -/
def clearBudget (s : State) (index : Nat) : Reply :=
  let t := s.holdover.budget
  if t.length ≤ index then refuse s stBadIndex
  else if index = 0 ∧ 1 < t.length then refuse s stBadValue
  else
    { state := (s.updHold fun x => { x with budget := t.eraseIdx index }).regrade
      status := stOk
      results := beBytes 1 (t.length - 1) }

/-- CLEAR (R193, R197). -/
def runClear (s : State) (c : Command) : Reply :=
  let table := c.arg 0 1
  let index := c.arg 1 2
  if tableCount ≤ table then refuse s stBadTable
  else if table = 0 then clearFlow s index
  else if table = 16 then clearBudget s index
  else if writable table then refuse s stBadTable
  else refuse s stReadOnly

/-- PIN or UNPIN of a Flow entry (R8). -/
def pinFlow (s : State) (pinned : Bool) (index : Nat) : Reply :=
  if h : index < 64 then
    let t := { s with flow := updAt s.flow ⟨index, h⟩ fun e => { e with pinned := pinned } }
    { state := t, status := stOk, results := t.encEntry 0 index }
  else refuse s stBadIndex

/-- PIN. -/
def runPin (s : State) (c : Command) : Reply := pinFlow s true (c.arg 0 2)

/-- UNPIN. -/
def runUnpin (s : State) (c : Command) : Reply := pinFlow s false (c.arg 0 2)

/-! ## Commands of other blocks (R198) -/

/-- Force a role onto a reference, then re-evaluate (R76). -/
def State.force (s : State) (phase : Bool) (r : Ref) : State :=
  let g := s.holdover.announced
  if phase then ((s.updSel fun x => { x with phaseForced := true }).applyPhase (some r) g).reevaluate
  else ((s.updSel fun x => { x with freqForced := true }).applyFreq (some r) g).reevaluate

/-- FORCE_SELECT (R76). -/
def runForce (s : State) (c : Command) : Reply :=
  let role := c.arg 0 1
  if 1 < role then refuse s stBadValue
  else
    match refOfNat? (c.arg 1 1) with
    | none => refuse s stBadValue
    | some r =>
      let list := if role = 0 then s.selector.cfg.phaseList else s.selector.cfg.freqList
      if !list.contains r then refuse s stBadValue
      else if (s.ref r).state ≠ .qualified then refuse s stNotQualified
      else done (s.force (role = 0) r)

/-- RELEASE (R77). -/
def runRelease (s : State) (c : Command) : Reply :=
  match c.arg 0 1 with
  | 0 => done (if s.selector.phaseForced then (s.updSel fun x => { x with phaseForced := false }).reevaluate else s)
  | 1 => done (if s.selector.freqForced then (s.updSel fun x => { x with freqForced := false }).reevaluate else s)
  | _ => refuse s stBadValue

/-- Set or clear Held on a present Slew record (R85). -/
def runHold (held : Bool) (s : State) (_ : Command) : Reply :=
  done (s.updReal fun x => { x with slew := x.slew.map fun _ => held })

/-- The stored values of an ADJUSTED TIME_SET, laid out as its arguments are (R95; log 20). -/
def timeSetStored (seconds nanos : Nat) : List Byte := beBytes 6 seconds ++ beBytes 4 nanos

/-- TIME_SET (R95). The 6 bytes of the seconds cannot spell a value out of range. -/
def runTimeSet (s : State) (c : Command) : Reply :=
  let seconds := min (c.arg 0 6) (secRange - 1)
  let nanos := min (c.arg 6 4) 999999999
  if s.servo.state ≠ .freerun then refuse s stState
  else if seconds = c.arg 0 6 ∧ nanos = c.arg 6 4 then done (s.timeSet seconds nanos)
  else { state := s.timeSet seconds nanos, status := stAdjusted, results := timeSetStored seconds nanos }

/-- ACK (R182). -/
def runAck (s : State) (c : Command) : Reply :=
  let index := c.arg 0 1
  if index = 0xFF then done (s.updAlarm (Alarm.ackAll allRecords))
  else if h : index < 41 then done (s.updAlarm (Alarm.ackAll [⟨index, h⟩]))
  else refuse s stBadIndex

/-- TEST_ALARM (R186). -/
def runTest (s : State) (_ : Command) : Reply :=
  done ((s.report recTest true).updAlarm fun a => { a with test := some s.res })

/-- The Slew field of STATUS: ACTIVE, HELD, SUSPENDED, NONE (R199). -/
def Realign.slewStatus (x : Realign) : Nat :=
  match x.slew with
  | some false => 0
  | some true => 1
  | none => if x.suspended.isSome then 2 else 3

/-- The fields of STATUS (R199). -/
def State.statusFields (s : State) : List Byte :=
  encIn servoStates s.servo.state ++ encBool s.servo.phaseValid ++ encSelection s.selector ++
    encNum s.holdover.announced ++ encNum s.clock.epoch ++ encRes s.clock.counter ++
    encEnum s.realign.slewStatus ++ encOptNum s.holdSeconds

/-- STATUS (R199). -/
def runStatus (s : State) (_ : Command) : Reply := { state := s, status := stOk, results := s.statusFields }

/-- COUNTERS_CLEAR (R200). -/
def runCountersClear (s : State) (_ : Command) : Reply := done s.zeroCounters

/-! ## RESTART (R201, R202) -/

/-- RESTART of scope DATAPATH, or of one out of the set: the response first, the restart once it has left the part. -/
def runRestart (s : State) (c : Command) : Reply :=
  match c.arg 0 1 with
  | 0 => { state := s, status := stOk, restart := some .datapath }
  | 1 => { state := s, status := stOk, restart := some .full }
  | _ => refuse s stBadValue

/-- RESTART of scope FULL, with the levels the ADDR pins hold from now on: the restart reads them (R190, R202). -/
def runRestartFull (straps : BitVec 4) (s : State) (c : Command) : Reply :=
  runRestart (s.updMgmt fun m => { m with straps := straps }) c

/-- A Type that is not a command (R198). -/
def runUnknown (s : State) (_ : Command) : Reply := refuse s stUnknown

/-- Whether a command has a Type. -/
def ofType (type : Nat) (c : Command) : Bool := c.type = type

/-- A RESTART that is not of scope FULL: scope DATAPATH, or one out of its set (log 13). -/
def isRestartDatapath (c : Command) : Bool := c.type = 0x1F && c.arg 0 1 ≠ 1

/-- A RESTART of scope FULL. -/
def isRestartFull (c : Command) : Bool := c.type = 0x1F && c.arg 0 1 = 1

/-- A command of a Type outside 0x10 to 0x1F. -/
def isUnknown (c : Command) : Bool := decide (c.type < 0x10 ∨ 0x1F < c.type)

end Sys2Proof.Machine
end

