-- ==== Sys2Proof/Machine/AlarmEvents.lean ====
section
/-! DEFINITION. Meanings of the Alarm Unit's events: RAISE_HOLD_OFF_EXPIRES, CLEAR_DELAY_EXPIRES, NOTICE_OFFER,
TEST_INTERVAL_EXPIRES, PIN_PULSE_END (09). -/
namespace Sys2Proof.Machine
open Sys2Proof

/-- Act when an interval that started at a Residence Clock value has run for `span` units. -/
def State.afterSpan (s : State) (start : Option Nat) (span : Nat) (act : State → State) : State :=
  match start with
  | some t => s.atInstant (s.reachRes (t + span)) act
  | none => s

/-- RAISE_HOLD_OFF_EXPIRES (R172). -/
def execRaiseHoldOffExpires (record : Fin 41) (s : State) : Host.Outcome State Fault Refusal :=
  let x := s.alarm.record record
  .next (if x.state = .raising then
      s.afterSpan x.timer ((s.alarm.cfgOf record).raiseHold * secUnits) fun u =>
        u.updAlarm (Alarm.raiseExpired u.stamp u.res record)
    else s)

/-- CLEAR_DELAY_EXPIRES (R172). -/
def execClearDelayExpires (record : Fin 41) (s : State) : Host.Outcome State Fault Refusal :=
  let x := s.alarm.record record
  .next (if x.state = .clearing then
      s.afterSpan x.timer ((s.alarm.cfgOf record).clearDelay * secUnits) fun u =>
        u.updAlarm (Alarm.clearExpired u.stamp u.res record)
    else s)

/-- The body of an ALARM_NOTICE (11). -/
def noticeBody (n : Notice) : List Byte :=
  beBytes 1 n.record.val ++ beBytes 1 (conditionOf n.record).val ++ beBytes 1 (instanceOf n.record) ++
    encIn alarmStates n.state ++ encIn severities n.severity ++ beBytes 1 n.raiseCount ++
    (n.time.elim (List.replicate 13 0) encTime) ++ encCause n.cause

/-- The ALARM_NOTICE frame of a notice (R181); header fields the manual gives no value are free (log 19). -/
def State.noticeFrame (s : State) (collector : Addr) (n : Notice) : Frame :=
  builtFrame collector s.mgmt.station (builtTag s.alarm.set.vlan) s.mgmt.partEther
    { cls := classManagement, type := typeAlarmNotice, flags := (Config.managementFlags s.free).toNat
      seq := s.alarm.nextSeq, grade := (Config.noticeGrade s.free).toNat, epoch := (Config.noticeEpoch s.free).toNat
      seconds := (Config.noticeSeconds s.free).toNat, nanos := (Config.noticeNanos s.free).toNat % 1000000000
      correction := (Config.noticeCorrection s.free).toInt }
    (noticeBody n)

/-- The head leaves the Notice Queue, the spacing starts, and pending records drain (R178, R181). -/
def Alarm.takeHead (now : Stamp) (res : Nat) (a : Alarm) : Alarm :=
  { a with queue := a.queue.drop 1, spacing := some res, nextSeq := (a.nextSeq + 1) % 65536 }.drain now res

/-- Offer the head notice to the collector (R181). -/
def State.offerHead (s : State) (collector : Addr) (n : Notice) : State :=
  let f := s.noticeFrame collector n
  match (s.useFree.updAlarm (Alarm.takeHead s.stamp s.res)).offer s.alarm.set.collectorPort .bulk ⟨f, .alarmNotice⟩ with
  | (t, true) => t.updAlarm fun a => { a with ctr := { a.ctr with noticesSent := bump a.ctr.noticesSent } }
  | (t, false) => t.updAlarm fun a => { a with ctr := { a.ctr with noticesDiscarded := bump a.ctr.noticesDiscarded } }

/-- Offer the head notice once the send spacing has run out, at once when none runs (R181). -/
def State.sendNotice (s : State) (collector : Addr) (n : Notice) : State :=
  match s.alarm.spacing with
  | some t => s.atInstant (s.reachRes (t + s.alarm.spacingUnits)) fun u => u.offerHead collector n
  | none => s.offerHead collector n

/-- NOTICE_OFFER (R181). -/
def execNoticeOffer (s : State) : Host.Outcome State Fault Refusal :=
  .next (match s.alarm.queue, s.alarm.set.collector with
    | n :: _, some collector => if s.alarm.set.notify then s.sendNotice collector n else s
    | _, _ => s)

/-- TEST_INTERVAL_EXPIRES (R186). -/
def execTestIntervalExpires (s : State) : Host.Outcome State Fault Refusal :=
  .next (s.afterSpan s.alarm.test testUnits fun u =>
    (u.updAlarm fun a => { a with test := none }).report recTest false)

/-- PIN_PULSE_END (R185). -/
def execPinPulseEnd (s : State) : Host.Outcome State Fault Refusal :=
  .next (s.afterSpan s.alarm.pulse s.alarm.pulseUnits fun u => u.updAlarm Alarm.endPulse)

end Sys2Proof.Machine
end

