-- ==== Sys2Proof/Machine/Inputs.lean ====
section
/-! DEFINITION. Meanings of the events of the input pins, the line clocks and the time-of-day line (03, 08, 11). -/
namespace Sys2Proof.Machine
open Sys2Proof

/-- A rising edge of a PPS_IN pin (R159). -/
def State.ppsEdge (s : State) (k : Fin 4) : State :=
  (s.updPin k fun x =>
    { x with lastInput := some s.stamp, ctr := { x.ctr with inputEdges := bump x.ctr.inputEdges } }).gnssEdge

/-- PPS_INPUT_EDGE (R159, R49). -/
def execPpsInputEdge (dt : Nat) (pin : Fin 4) (s : State) : Host.Outcome State Fault Refusal :=
  .next (if (s.tpin pin).cfg.function = .ppsIn then (s.pass dt).ppsEdge pin else s)

/-- Rising edges of a FREQ_IN pin, the last of them at this moment (R160; log 38). -/
def State.freqEdges (s : State) (k : Fin 4) (edges : Nat) : State :=
  (s.updPin k fun x => { x with lastInput := some s.stamp, cycles := x.cycles + edges }).extEdge

/-- FREQ_INPUT_EDGE (R160, R58). -/
def execFreqInputEdge (dt : Nat) (pin : Fin 4) (edges : Nat) (s : State) : Host.Outcome State Fault Refusal :=
  .next (if (s.tpin pin).cfg.function = .freqIn ∧ 0 < edges then (s.pass dt).freqEdges pin edges else s)

/-- Cycles of a recovered line clock, the last of them at this moment (R58; log 38). -/
def State.lineCycle (s : State) (c : Client) (cycles : Nat) : State :=
  s.updPort (clientPort c) fun x => { x with lineCycles := x.lineCycles + cycles, lineEdge := some s.stamp }

/-- LINE_CLOCK_CYCLE (R58): a clock is recovered while the link is UP. -/
def execLineClockCycle (dt : Nat) (line : Client) (cycles : Nat) (s : State) : Host.Outcome State Fault Refusal :=
  .next (if (s.port (clientPort line)).linkUp ∧ 0 < cycles then (s.pass dt).lineCycle line cycles else s)

/-- TOD_BYTE_RECEIVED (R207). -/
def execTodByteReceived (dt : Nat) (byte : Byte) (s : State) : Host.Outcome State Fault Refusal :=
  .next ((s.pass dt).todByte byte)

/-- TOD_RECORD (R50): the twelfth byte of the record being assembled. -/
def execTodRecord (dt : Nat) (byte : Byte) (s : State) : Host.Outcome State Fault Refusal :=
  .next (if s.gnss.partialRecord.length = 11 then (s.pass dt).todByte byte else s)

/-- TOD_FRAMING_ERROR (R207). -/
def execTodFramingError (dt : Nat) (s : State) : Host.Outcome State Fault Refusal := .next ((s.pass dt).todFraming)

/-- TOD_BYTE_GAP (R207): the gap after the last byte runs beyond 20 ms. -/
def execTodByteGap (s : State) : Host.Outcome State Fault Refusal :=
  .next (if s.gnss.partialRecord.isEmpty then s
    else s.atInstant (s.reachRes (s.gnss.lastByteAt + todGap + 1)) fun u => u.updGnss Gnss.dropPartial)

/-- The instant an interval of a reference ends, when it runs: the reference is enabled, the interval has started, and
the defect it raises is absent. -/
def Reference.runsTo (x : Reference) (start : Option Nat) (d : Defect) (span : Nat) : Option Nat :=
  if x.enabled && !x.defects.contains d then start.map fun t => t + span else none

/-- Act at the end of an interval, if one runs. -/
def State.atEnd (s : State) (instant : Option Nat) (act : State → State) : State :=
  match instant with
  | some t => s.atInstant (s.reachRes t) act
  | none => s

/-- GNSS_SIGNAL_TIMEOUT (R49): the signal interval reaches 2 s. -/
def execGnssSignalTimeout (s : State) : Host.Outcome State Fault Refusal :=
  let x := s.ref .gnss
  .next (s.atEnd (x.runsTo x.lastEdge .signalLost (2 * secUnits)) State.gnssLost)

/-- TOD_INTERVAL_TIMEOUT (R51): the time-of-day interval reaches 3 s. -/
def execTodIntervalTimeout (s : State) : Host.Outcome State Fault Refusal :=
  .next (s.atEnd ((s.ref .gnss).runsTo s.gnss.todStart .todMissing (3 * secUnits)) State.todMissing)

/-- EXT_EDGE_TIMEOUT (R58): 1 s without an edge on the FREQ_IN pin. -/
def execExtEdgeTimeout (s : State) : Host.Outcome State Fault Refusal :=
  let x := s.ref .ext
  .next (s.atEnd (x.runsTo x.lastEdge .signalLost secUnits) State.extLost)

end Sys2Proof.Machine
end

