-- ==== Sys2Proof/Machine/Management.lean ====
section
/-! DEFINITION. Meanings of the management commands: the completion of each (10 R191), of the command at the head of the
Command Queue. -/
namespace Sys2Proof.Machine
open Sys2Proof

/-- Completion of GET (R194). -/
def execGet (dt : Nat) (s : State) : Host.Outcome State Fault Refusal :=
  .next (s.complete dt (ofType 0x10) runGet)

/-- Completion of CONTINUE (R195). -/
def execContinueRead (dt : Nat) (s : State) : Host.Outcome State Fault Refusal :=
  .next (s.complete dt (ofType 0x11) runContinue)

/-- Completion of PUT (R196). -/
def execPut (dt : Nat) (s : State) : Host.Outcome State Fault Refusal :=
  .next (s.complete dt (ofType 0x12) runPut)

/-- Completion of CLEAR (R197). -/
def execClear (dt : Nat) (s : State) : Host.Outcome State Fault Refusal :=
  .next (s.complete dt (ofType 0x13) runClear)

/-- Completion of PIN (R8, R197). -/
def execPin (dt : Nat) (s : State) : Host.Outcome State Fault Refusal :=
  .next (s.complete dt (ofType 0x14) runPin)

/-- Completion of UNPIN (R8, R197). -/
def execUnpin (dt : Nat) (s : State) : Host.Outcome State Fault Refusal :=
  .next (s.complete dt (ofType 0x15) runUnpin)

/-- Completion of FORCE_SELECT (R76). -/
def execForceSelect (dt : Nat) (s : State) : Host.Outcome State Fault Refusal :=
  .next (s.complete dt (ofType 0x16) runForce)

/-- Completion of RELEASE (R77). -/
def execRelease (dt : Nat) (s : State) : Host.Outcome State Fault Refusal :=
  .next (s.complete dt (ofType 0x17) runRelease)

/-- Completion of SLEW_HOLD (R85). -/
def execSlewHold (dt : Nat) (s : State) : Host.Outcome State Fault Refusal :=
  .next (s.complete dt (ofType 0x18) (runHold true))

/-- Completion of SLEW_RELEASE (R85). -/
def execSlewRelease (dt : Nat) (s : State) : Host.Outcome State Fault Refusal :=
  .next (s.complete dt (ofType 0x19) (runHold false))

/-- Completion of TIME_SET (R95). -/
def execTimeSet (dt : Nat) (s : State) : Host.Outcome State Fault Refusal :=
  .next (s.complete dt (ofType 0x1A) runTimeSet)

/-- Completion of ACK (R182). -/
def execAck (dt : Nat) (s : State) : Host.Outcome State Fault Refusal :=
  .next (s.complete dt (ofType 0x1B) runAck)

/-- Completion of TEST_ALARM (R186). -/
def execTestAlarm (dt : Nat) (s : State) : Host.Outcome State Fault Refusal :=
  .next (s.complete dt (ofType 0x1C) runTest)

/-- Completion of STATUS (R199). -/
def execStatus (dt : Nat) (s : State) : Host.Outcome State Fault Refusal :=
  .next (s.complete dt (ofType 0x1D) runStatus)

/-- Completion of COUNTERS_CLEAR (R200). -/
def execCountersClear (dt : Nat) (s : State) : Host.Outcome State Fault Refusal :=
  .next (s.complete dt (ofType 0x1E) runCountersClear)

/-- Completion of RESTART(DATAPATH) (R201). -/
def execRestartDatapath (dt : Nat) (s : State) : Host.Outcome State Fault Refusal :=
  .next (s.complete dt isRestartDatapath runRestart)

/-- Completion of RESTART(FULL), and the levels of the ADDR pins that the restart will read (R190, R202). -/
def execRestartFull (input : FullRestart) (s : State) : Host.Outcome State Fault Refusal :=
  .next (s.complete input.dt isRestartFull (runRestartFull input.straps))

/-- Completion of a Type that is not a command (R198). -/
def execUnknownCommand (dt : Nat) (s : State) : Host.Outcome State Fault Refusal :=
  .next (s.complete dt isUnknown runUnknown)

end Sys2Proof.Machine
end

