-- ==== Sys2Proof/Machine/PinOutputs.lean ====
section
/-! DEFINITION. Meanings of the output pins' events: PPS_OUTPUT_EDGE, PPS_PULSE_END, FREQ_OUTPUT_EDGE, HALF_CYCLE_END (08). -/
namespace Sys2Proof.Machine
open Sys2Proof

/-- PPS_OUTPUT_EDGE (R161, R164): the next instant of an enabled PPS_OUT pin, with an edge while it is ACTIVE and
without one while it is SQUELCHED (log 65). -/
def execPpsOutputEdge (pin : Fin 4) (s : State) : Host.Outcome State Fault Refusal :=
  let x := s.tpin pin
  let next := x.nextPps s.clock.counter
  .next (if x.cfg.function = .ppsOut ∧ x.outputOn = true then
      s.atInstant (s.reachCounter next.2) fun u =>
        u.updPin pin (if x.squelched then Pin.ppsPass next.2 else Pin.ppsRise next.1 u.res)
    else s)

/-- Bring the relay to the end of a high part. -/
def State.reachFall (s : State) : Fall → Option State
  | .atResidence t => s.reachRes t
  | .atOsc t => s.reachOsc t

/-- The pin goes low at the end of its high part. -/
def State.fallAt (s : State) (k : Fin 4) : State :=
  match (s.tpin k).high with
  | some fall => s.atInstant (s.reachFall fall) fun u => u.updPin k fun x => { x with high := none }
  | none => s

/-- PPS_PULSE_END (R161). -/
def execPpsPulseEnd (pin : Fin 4) (s : State) : Host.Outcome State Fault Refusal :=
  .next (if (s.tpin pin).cfg.function = .ppsOut then s.fallAt pin else s)

/-- HALF_CYCLE_END (R162, R163). -/
def execHalfCycleEnd (pin : Fin 4) (s : State) : Host.Outcome State Fault Refusal :=
  .next (if (s.tpin pin).cfg.function = .freqOut then s.fallAt pin else s)

/-- A cycle begins at the next counter instant of a schedule (R162). -/
def State.counterEdge (s : State) (k : Fin 4) (done : Nat) : State :=
  let due := nextDue (periodUnits (s.tpin k).cfg.rate) done s.clock.counter
  s.atInstant (s.reachCounter due) fun u => u.updPin k (Pin.counterRise u.res (.onCounter due))

/-- The next counter instant ends the cycle in progress, and a bypass cycle starts there (R163). -/
def State.leaveCounterEdge (s : State) (k : Fin 4) (done : Nat) : State :=
  let due := nextDue (periodUnits (s.tpin k).cfg.rate) done s.clock.counter
  s.atInstant (s.reachCounter due) fun u => u.updPin k (Pin.bypassRise u.res u.clock.osc u.clock.osc 0)

/-- A cycle begins at the next bypass cycle start (R163). -/
def State.bypassEdge (s : State) (k : Fin 4) (next rem : Nat) : State :=
  s.atInstant (s.reachOsc next) fun u => u.updPin k (Pin.bypassRise u.res u.clock.osc next rem)

/-- The bypass cycle in progress ends, and a cycle begins at the first counter instant that does not lie before its end
(R163; log 54). -/
def State.leaveBypassEdge (s : State) (k : Fin 4) (finish : Nat) : State :=
  match s.reachOsc finish with
  | some u => s.atInstant (u.reachCounter (nextMultiple (periodUnits (s.tpin k).cfg.rate) u.clock.counter))
      fun v => v.updPin k (Pin.counterRise v.res (.onCounter v.clock.counter))
  | none => s

/-- The next cycle start of a FREQ_OUT pin, wherever its cycles are placed (R162, R163). -/
def State.freqEdge (s : State) (k : Fin 4) : State :=
  match (s.tpin k).phase with
  | .onCounter done => s.counterEdge k done
  | .leavingCounter done => s.leaveCounterEdge k done
  | .onBypass next rem => s.bypassEdge k next rem
  | .leavingBypass finish => s.leaveBypassEdge k finish

/-- FREQ_OUTPUT_EDGE (R162 to R164): the next cycle start of an enabled FREQ_OUT pin, with a rising edge while it is
ACTIVE and without one while it is SQUELCHED (log 65). -/
def execFreqOutputEdge (pin : Fin 4) (s : State) : Host.Outcome State Fault Refusal :=
  let x := s.tpin pin
  .next (if x.cfg.function = .freqOut ∧ x.outputOn = true then s.freqEdge pin else s)

end Sys2Proof.Machine
end

