-- ==== Sys2Proof/Machine/References.lean ====
section
/-! DEFINITION. Meanings of the timers of the references, of the suspended slew, of the lock runs and of the holdover
minute (03 to 06). -/
namespace Sys2Proof.Machine
open Sys2Proof

/-- Act when a running timer reaches a number of seconds. -/
def State.atTimer (s : State) (t : Timer) (seconds : Nat) (act : State → State) : State :=
  match t.since with
  | some start => s.atInstant (s.reachRes (start + (seconds * secUnits - t.base))) act
  | none => s

/-- QUALIFY_TIME_REACHED (R64). -/
def execQualifyTimeReached (ref : Ref) (s : State) : Host.Outcome State Fault Refusal :=
  let x := s.ref ref
  .next (if x.state = .monitoring then s.atTimer x.qualify x.cfg.qualifyTime fun u => u.qualifyExpired ref else s)

/-- HOLD_OFF_EXPIRES (R65). -/
def execHoldOffExpires (ref : Ref) (s : State) : Host.Outcome State Fault Refusal :=
  let x := s.ref ref
  .next (if x.state = .qualified ∧ x.defects.isEmpty = false then
      s.atTimer x.holdOff x.cfg.holdOff fun u => u.holdOffExpired ref
    else s)

/-- RESTORE_WAIT_REACHED (R66). -/
def execRestoreWaitReached (ref : Ref) (s : State) : Host.Outcome State Fault Refusal :=
  let x := s.ref ref
  .next (if x.state = .restoring then s.atTimer x.restore x.cfg.restoreWait fun u => u.restoreExpired ref else s)

/-- SUSPENDED_SLEW_EXPIRES (R87). -/
def execSuspendedSlewExpires (s : State) : Host.Outcome State Fault Refusal :=
  .next (match s.realign.suspended with
    | some u => s.atInstant (s.reachRes (u.at' + s.realign.params.resumeWindow * secUnits)) State.expireSuspended
    | none => s)

/-- The second boundary that comes next, if the servo stands in a state and leaves that boundary as `reached` tells: a
run reaches its count at a loop input, and so at a boundary (R98, R109, R110; log 14). -/
def State.boundaryWhere (s : State) (state : ServoState) (reached : Servo → Bool) : State :=
  if s.servo.state = state ∧ reached (s.secondBoundary []).servo = true then s.secondBoundary [] else s

/-- LOCK_COUNT_REACHED (R109): the boundary whose loop input brings Lock Run to Lock Count. -/
def execLockCountReached (s : State) : Host.Outcome State Fault Refusal :=
  .next (s.boundaryWhere .acquiring fun x => x.state = .locked)

/-- UNLOCK_COUNT_REACHED (R110): the boundary whose loop input brings Unlock Run to Unlock Count. An unlock alone sets
Acquiring From Holdover false in ACQUIRING with Phase Valid true. -/
def execUnlockCountReached (s : State) : Host.Outcome State Fault Refusal :=
  .next (s.boundaryWhere .locked fun x => x.state = .acquiring && x.acqFromHold = some false)

/-- A whole minute of Elapsed: in HOLDOVER it gives the Time Engine a frequency (R127). -/
def State.minutePassed (s : State) : State :=
  let s1 := s.updHold fun x => { x with record := x.record.map fun r => { r with minuteMark := r.minuteMark + 1 } }
  if s.servo.state = .holdover then s1.giveHoldFreq else s1

/-- HOLDOVER_MINUTE (R127): Elapsed reaches the next whole minute, while it still counts (R122). -/
def execHoldoverMinute (s : State) : Host.Outcome State Fault Refusal :=
  .next (match s.holdover.record with
    | some r =>
      let seconds := (r.minuteMark + 1) * 60
      if seconds ≤ counterMax then s.atTimer r.elapsed seconds State.minutePassed else s
    | none => s)

end Sys2Proof.Machine
end

