-- ==== Sys2Proof/Machine/Resets.lean ====
section
/-! DEFINITION. Meanings of the resets: POWER_ON, RESET_PIN. -/
namespace Sys2Proof.Machine
open Sys2Proof

/-- POWER_ON (R202): every block takes its power-on state. -/
def execPowerOn (straps : BitVec 4) (s : State) : Host.Outcome State Fault Refusal := .next (s.powerUp straps)

/-- RESET_PIN (R202): as power-on; a waiting RESTART response goes with the queues. -/
def execResetPin (straps : BitVec 4) (s : State) : Host.Outcome State Fault Refusal := .next (s.powerUp straps)

end Sys2Proof.Machine
end

