-- ==== Sys2Proof/Machine/Seconds.lean ====
section
/-! DEFINITION. Meanings of the counter's events: SECOND_BOUNDARY, COUNTER_WRAP (05). -/
namespace Sys2Proof.Machine
open Sys2Proof

/-- SECOND_BOUNDARY (R90). -/
def execSecondBoundary (order : List BoundaryWork) (s : State) : Host.Outcome State Fault Refusal :=
  .next (s.secondBoundary order)

/-- COUNTER_WRAP (R91). -/
def execCounterWrap (s : State) : Host.Outcome State Fault Refusal :=
  .next (match s.clock.toWrap s.servo.f with
    | some c => (s.withClock c).counterCarry
    | none => s)

end Sys2Proof.Machine
end

