-- ==== Sys2Proof/Machine/Sessions.lean ====
section
/-! DEFINITION. Meanings of the Client Sessions' events: QUERY_DUE, REPLY_TIMEOUT, NOTICE_INTERVAL_EXPIRES,
STARVE_COUNT_REACHED (02, 03). -/
namespace Sys2Proof.Machine
open Sys2Proof

/-- Take the query due at a counter value (R36, R37). -/
def State.queryAt (s : State) (c : Client) (m : Master) (due : Nat) : State :=
  (s.updClient c fun x => { x with queryDone := due }).sendQuery c m

/-- QUERY_DUE (R36, R37): an EXCHANGING session's next due instant. -/
def execQueryDue (client : Client) (s : State) : Host.Outcome State Fault Refusal :=
  .next (match (s.client client).master with
    | some m =>
      let due := (s.client client).nextQuery s.clock.counter
      s.atInstant (s.reachCounter due) fun u => u.queryAt client m due
    | none => s)

/-- REPLY_TIMEOUT (R39): the oldest record's age reaches Reply Timeout. -/
def execReplyTimeout (client : Client) (s : State) : Host.Outcome State Fault Refusal :=
  let x := s.client client
  .next (match x.outstanding with
    | q :: _ =>
      s.atInstant (s.reachRes (q.created + x.timeoutUnits)) fun u => u.updClient client ClientSession.loseOldest
    | [] => s)

/-- NOTICE_INTERVAL_EXPIRES (R33). -/
def execNoticeIntervalExpires (client : Client) (s : State) : Host.Outcome State Fault Refusal :=
  let x := s.client client
  .next (if x.state = .exchanging then
      s.atInstant (s.reachRes (x.noticeStart + x.cfg.noticeTimeout * secUnits)) fun u => u.noticeExpired client
    else s)

/-- STARVE_COUNT_REACHED (R54): the count is at Starve Seconds (log 14). -/
def execStarveCountReached (client : Client) (s : State) : Host.Outcome State Fault Refusal :=
  .next (if (s.ref (clientRef client)).isStarved then s.starveCheck client else s)

end Sys2Proof.Machine
end

