-- ==== Sys2Proof/Machine/Sites.lean ====
section
/-! DEFINITION. Meanings of the Delivery Sessions' events: SERVE_DELAY_EXPIRES, PRESENCE_TIMEOUT, MARK_DUE (07). -/
namespace Sys2Proof.Machine
open Sys2Proof

/-- SERVE_DELAY_EXPIRES (R141). -/
def execServeDelayExpires (site : Fin 6) (s : State) : Host.Outcome State Fault Refusal :=
  let x := s.site site
  .next (if x.state = .muted then s.atTimer x.serve x.cfg.serveDelay fun u => u.enterServing site else s)

/-- PRESENCE_TIMEOUT (R152). -/
def execPresenceTimeout (site : Fin 6) (s : State) : Host.Outcome State Fault Refusal :=
  let x := s.site site
  .next (match x.lastQuery with
    | some t =>
      if x.present then s.atInstant (s.reachRes (t + x.cfg.queryTimeout * secUnits)) fun u => u.siteAbsent site else s
    | none => s)

/-- Take the mark due at a counter value (R145, R146). -/
def State.markAt (s : State) (k : Fin 6) (due : Nat) : State :=
  (s.updSite k fun x => { x with markDone := due }).offerMark k

/-- MARK_DUE (R145, R146): a SERVING session's next due instant. -/
def execMarkDue (site : Fin 6) (s : State) : Host.Outcome State Fault Refusal :=
  let x := s.site site
  let due := nextDue (periodUnits x.rate) x.markDone s.clock.counter
  .next (if x.state = .serving then s.atInstant (s.reachCounter due) fun u => u.markAt site due else s)

end Sys2Proof.Machine
end

