-- ==== Sys2Proof/Machine/Traffic.lean ====
section
/-! DEFINITION. Meanings of the traffic path's events: FRAME_RECEIVED, LINK_UP, LINK_DOWN, EGRESS_MOMENT, TRANSMIT_END,
QUIET_INTERVAL_EXPIRES (01). -/
namespace Sys2Proof.Machine
open Sys2Proof

/-- FRAME_RECEIVED (R1): a port whose link is DOWN receives no frames (R2). -/
def execFrameReceived (dt : Nat) (port : Port) (fcsOk : Bool) (frame : Frame) (s : State) :
    Host.Outcome State Fault Refusal :=
  .next (if (s.port port).linkUp then (s.pass dt).receive port fcsOk frame else s)

/-- LINK_UP (R2). -/
def execLinkUp (dt : Nat) (port : Port) (s : State) : Host.Outcome State Fault Refusal :=
  .next (if (s.port port).linkUp then s else (s.pass dt).linkUp port)

/-- LINK_DOWN (R2, R19). -/
def execLinkDown (dt : Nat) (port : Port) (s : State) : Host.Outcome State Fault Refusal :=
  .next (if (s.port port).linkUp then (s.pass dt).linkDown port else s)

/-- EGRESS_MOMENT (R3, R17): taken at once when a transmit side is free and a frame waits. -/
def execEgressMoment (port : Port) (s : State) : Host.Outcome State Fault Refusal := .next (s.egress port)

/-- TRANSMIT_END (R3, R201). -/
def execTransmitEnd (dt : Nat) (port : Port) (s : State) : Host.Outcome State Fault Refusal :=
  .next (match (s.port port).tx with
    | some t => (s.pass dt).endTransmit port t
    | none => s)

/-- The quiet interval of R18 in fraction units: 10 s. -/
def quietUnits : Nat := 10 * secUnits

/-- TIMING_LOSS of a port goes absent (R18). -/
def State.quietOver (s : State) (p : Port) : State :=
  (s.updPort p fun x => { x with quiet := none }).report (recTimingLoss p) false

/-- QUIET_INTERVAL_EXPIRES (R18). -/
def execQuietIntervalExpires (port : Port) (s : State) : Host.Outcome State Fault Refusal :=
  .next (match (s.port port).quiet with
    | some t => s.atInstant (s.reachRes (t + quietUnits)) fun u => u.quietOver port
    | none => s)

end Sys2Proof.Machine
end

