-- ==== Sys2Proof/Machine/Dispatch.lean ====
section
/-! DEFINITION. The dispatch: one arm per command, each one direct call of its meaning. -/
namespace Sys2Proof.Machine
open Sys2Proof

def exec (i : Instr) (s : State) : Host.Outcome State Fault Refusal :=
  match i with
  | .powerOn straps => Sys2Proof.Machine.execPowerOn straps s
  | .resetPin straps => Sys2Proof.Machine.execResetPin straps s
  | .frameReceived dt port fcsOk frame => Sys2Proof.Machine.execFrameReceived dt port fcsOk frame s
  | .linkUp dt port => Sys2Proof.Machine.execLinkUp dt port s
  | .linkDown dt port => Sys2Proof.Machine.execLinkDown dt port s
  | .egressMoment port => Sys2Proof.Machine.execEgressMoment port s
  | .transmitEnd dt port => Sys2Proof.Machine.execTransmitEnd dt port s
  | .secondBoundary order => Sys2Proof.Machine.execSecondBoundary order s
  | .counterWrap => Sys2Proof.Machine.execCounterWrap s
  | .ppsInputEdge dt pin => Sys2Proof.Machine.execPpsInputEdge dt pin s
  | .freqInputEdge dt pin edges => Sys2Proof.Machine.execFreqInputEdge dt pin edges s
  | .todRecord dt byte => Sys2Proof.Machine.execTodRecord dt byte s
  | .todFramingError dt => Sys2Proof.Machine.execTodFramingError dt s
  | .todByteGap => Sys2Proof.Machine.execTodByteGap s
  | .quietIntervalExpires port => Sys2Proof.Machine.execQuietIntervalExpires port s
  | .queryDue client => Sys2Proof.Machine.execQueryDue client s
  | .replyTimeout client => Sys2Proof.Machine.execReplyTimeout client s
  | .noticeIntervalExpires client => Sys2Proof.Machine.execNoticeIntervalExpires client s
  | .gnssSignalTimeout => Sys2Proof.Machine.execGnssSignalTimeout s
  | .todIntervalTimeout => Sys2Proof.Machine.execTodIntervalTimeout s
  | .extEdgeTimeout => Sys2Proof.Machine.execExtEdgeTimeout s
  | .starveCountReached client => Sys2Proof.Machine.execStarveCountReached client s
  | .qualifyTimeReached ref => Sys2Proof.Machine.execQualifyTimeReached ref s
  | .holdOffExpires ref => Sys2Proof.Machine.execHoldOffExpires ref s
  | .restoreWaitReached ref => Sys2Proof.Machine.execRestoreWaitReached ref s
  | .suspendedSlewExpires => Sys2Proof.Machine.execSuspendedSlewExpires s
  | .lockCountReached => Sys2Proof.Machine.execLockCountReached s
  | .unlockCountReached => Sys2Proof.Machine.execUnlockCountReached s
  | .holdoverMinute => Sys2Proof.Machine.execHoldoverMinute s
  | .serveDelayExpires site => Sys2Proof.Machine.execServeDelayExpires site s
  | .presenceTimeout site => Sys2Proof.Machine.execPresenceTimeout site s
  | .markDue site => Sys2Proof.Machine.execMarkDue site s
  | .ppsOutputEdge pin => Sys2Proof.Machine.execPpsOutputEdge pin s
  | .ppsPulseEnd pin => Sys2Proof.Machine.execPpsPulseEnd pin s
  | .raiseHoldOffExpires record => Sys2Proof.Machine.execRaiseHoldOffExpires record s
  | .clearDelayExpires record => Sys2Proof.Machine.execClearDelayExpires record s
  | .noticeOffer => Sys2Proof.Machine.execNoticeOffer s
  | .testIntervalExpires => Sys2Proof.Machine.execTestIntervalExpires s
  | .pinPulseEnd => Sys2Proof.Machine.execPinPulseEnd s
  | .get dt => Sys2Proof.Machine.execGet dt s
  | .continueRead dt => Sys2Proof.Machine.execContinueRead dt s
  | .put dt => Sys2Proof.Machine.execPut dt s
  | .clear dt => Sys2Proof.Machine.execClear dt s
  | .pin dt => Sys2Proof.Machine.execPin dt s
  | .unpin dt => Sys2Proof.Machine.execUnpin dt s
  | .forceSelect dt => Sys2Proof.Machine.execForceSelect dt s
  | .release dt => Sys2Proof.Machine.execRelease dt s
  | .slewHold dt => Sys2Proof.Machine.execSlewHold dt s
  | .slewRelease dt => Sys2Proof.Machine.execSlewRelease dt s
  | .timeSet dt => Sys2Proof.Machine.execTimeSet dt s
  | .ack dt => Sys2Proof.Machine.execAck dt s
  | .testAlarm dt => Sys2Proof.Machine.execTestAlarm dt s
  | .status dt => Sys2Proof.Machine.execStatus dt s
  | .countersClear dt => Sys2Proof.Machine.execCountersClear dt s
  | .restartDatapath dt => Sys2Proof.Machine.execRestartDatapath dt s
  | .restartFull input => Sys2Proof.Machine.execRestartFull input s
  | .unknownCommand dt => Sys2Proof.Machine.execUnknownCommand dt s
  | .todByteReceived dt byte => Sys2Proof.Machine.execTodByteReceived dt byte s
  | .freqOutputEdge pin => Sys2Proof.Machine.execFreqOutputEdge pin s
  | .halfCycleEnd pin => Sys2Proof.Machine.execHalfCycleEnd pin s
  | .lineClockCycle dt line cycles => Sys2Proof.Machine.execLineClockCycle dt line cycles s

end Sys2Proof.Machine
end

