-- ==== Sys2Proof/Safety.lean ====
section
/-! DEFINITION. What a lawful state of the relay is, in the terms the statements use: the laws that the rules of spec/ put
on its state, and how two states compare. -/
namespace Sys2Proof.Machine
open Sys2Proof

/-! ## Laws of a state -/

/-- The egress queues of a port hold no more than their capacities (R16). -/
def PortState.withinRoom (x : PortState) : Prop :=
  x.timingQ.length ≤ queueCapacity .timing ∧ x.bulkQ.length ≤ queueCapacity .bulk

/-- The Outstanding Query List holds at most its capacity, every record sent in the Epoch given (R37). -/
def ClientSession.withinRoom (epoch : Nat) (x : ClientSession) : Prop :=
  x.outstanding.length ≤ listCapacity ∧ ∀ q, q ∈ x.outstanding → q.epoch = epoch

/-- The Budget Table is in strictly increasing order of threshold, entry 0 at threshold 0 s (R129). -/
def budgetInOrder (l : List BudgetEntry) : Prop :=
  l.Pairwise (fun a b => a.threshold < b.threshold) ∧ ∀ b, l.head? = some b → b.threshold = 0

/-- The History Ring and the Budget Table hold at most their capacities, and the table is in order (R116, R129). -/
def Holdover.withinRoom (x : Holdover) : Prop :=
  x.ring.length ≤ ringCapacity ∧ x.budget.length ≤ budgetCapacity ∧ budgetInOrder x.budget

/-- The law of the Notice Queue: at most its capacity and one notice per record, none of a record that is pending (R176);
with notices on nothing is pending while there is room (R178), with notices off nothing is queued (R180). -/
structure Alarm.noticesLaw (a : Alarm) : Prop where
  room  : a.queue.length ≤ noticeCapacity
  once  : (a.queue.map Notice.record).Nodup
  free  : ∀ n, n ∈ a.queue → (a.record n.record).pending = false
  drawn : a.set.notify = true → a.queue.length < noticeCapacity → ∀ i, (a.record i).pending = false
  off   : a.set.notify = false → a.queue = []

/-- Every queue, list and ring of the relay is within its capacity and under its law (R16, R37, R50, R116, R129, R176,
R191). -/
structure State.WithinRoom (s : State) : Prop where
  ports   : ∀ p, (s.port p).withinRoom
  clients : ∀ c, (s.client c).withinRoom s.clock.epoch
  hold    : s.holdover.withinRoom
  notices : s.alarm.noticesLaw
  command : s.mgmt.queue.length ≤ commandCapacity
  tod     : s.gnss.partialRecord.length ≤ 11

/-- ALARM_N follows the records in LEVEL mode and the pulse in PULSE mode (R184, R185). -/
def Alarm.pinLaw (a : Alarm) : Prop :=
  if a.set.pulseMode then a.asserted = a.pulse.isSome else a.pulse = none ∧ a.asserted = a.levelPin

/-- F and I lie within the Pull Range, which is at most 5,000,000 ppt, and the runs within a byte (R96, R98, R107). -/
def Servo.inRange (x : Servo) : Prop :=
  x.f.natAbs ≤ x.params.pullRange ∧ x.i.natAbs ≤ x.params.pullRange ∧ x.lockRun ≤ 255 ∧ x.unlockRun ≤ 255 ∧
    x.params.pullRange ≤ 5000000

/-- The Time Counter is within its range, the Epoch a byte, and a boundary that is due stands at a whole second (R90,
R92). -/
def Clock.inRange (c : Clock) : Prop :=
  c.counter ≤ counterTop ∧ c.epoch < 256 ∧ (c.boundaryDue = true → c.counter % secUnits = 0)

/-- The servo state and the selected references match (R99): ACQUIRING and LOCKED have a phase reference, FREQ_TRACK a
frequency reference alone, HOLDOVER and FREERUN none, and HOLDOVER and LOCKED have Phase Valid where FREERUN has not. -/
def State.rolesMatch (s : State) : Prop :=
  match s.servo.state with
  | .acquiring => s.selector.phase.isSome = true
  | .locked => s.selector.phase.isSome = true ∧ s.servo.phaseValid = true
  | .freqTrack => s.selector.phase = none ∧ s.selector.freq.isSome = true
  | .holdover => s.selector.phase = none ∧ s.selector.freq = none ∧ s.servo.phaseValid = true
  | .freerun => s.selector.phase = none ∧ s.selector.freq = none ∧ s.servo.phaseValid = false

/-- A selected reference is a candidate of its role: in the role's list and QUALIFIED (R72, R73). -/
def State.selectedAreCandidates (s : State) : Prop :=
  (∀ r, s.selector.phase = some r → s.isCandidate s.selector.cfg.phaseList r = true) ∧
    (∀ r, s.selector.freq = some r → s.isCandidate s.selector.cfg.freqList r = true)

/-- The law of the Realignment Unit (R80): the decision concerns the selected phase reference, and is NONE exactly with
none selected; B is 0 with no build-out and no slew until it is DECIDED; a slew never stands beside a build-out or a
Suspended Slew record; B and B_susp are within Max Offset. -/
structure State.realignLaw (s : State) : Prop where
  subject   : s.realign.decisionRef = s.selector.phase
  idle      : s.realign.decision = .none ↔ s.selector.phase = none
  undecided : s.realign.decision ≠ .decided →
    s.realign.b = 0 ∧ s.realign.buildOut = false ∧ s.realign.slew = none
  single    : s.realign.slew ≠ none → s.realign.buildOut = false ∧ s.realign.suspended = none
  bound     : s.realign.b.natAbs ≤ s.realign.params.maxOffset
  suspended : ∀ u, s.realign.suspended = some u → u.b.natAbs ≤ s.realign.params.maxOffset

/-- There is a Holdover record, and the Announced Grade does not exceed its Entry Grade. -/
def Holdover.withinEntry (x : Holdover) : Prop := ∃ r, x.record = some r ∧ x.announced ≤ r.entryGrade

/-- While the servo is in a holdover state the Announced Grade never exceeds the Entry Grade recorded when that holdover
began (R130). -/
def State.entryLaw (s : State) : Prop :=
  holdoverState s.servo.state s.servo.phaseValid = true → s.holdover.withinEntry

/-- No two enabled Flow entries of one Priority overlap (R6). -/
def State.flowDisjoint (s : State) : Prop :=
  ∀ i j : Fin 64, i ≠ j → (s.flow.get i).enabled = true → (s.flow.get j).enabled = true →
    (s.flow.get i).priority = (s.flow.get j).priority →
    flowOverlap s.mgmt.partEther (s.flow.get i) (s.flow.get j) = false

/-! ## Comparing two states -/

/-- What management writes and nothing else does: the configuration of every block but the Flow Table, the Port Map and
the Management Settings (R196). -/
structure SameSettings (s t : State) : Prop where
  clients : ∀ c, (t.client c).cfg = (s.client c).cfg
  refs    : ∀ r, (t.ref r).cfg = (s.ref r).cfg
  sites   : ∀ k, (t.site k).cfg = (s.site k).cfg
  pins    : ∀ k, (t.tpin k).cfg = (s.tpin k).cfg
  select  : t.selector.cfg = s.selector.cfg
  realign : t.realign.params = s.realign.params
  servo   : t.servo.params = s.servo.params
  hold    : t.holdover.params = s.holdover.params
  grades  : t.holdover.grades = s.holdover.grades
  budget  : t.holdover.budget = s.holdover.budget
  alarms  : t.alarm.cfg = s.alarm.cfg
  notices : t.alarm.set = s.alarm.set

/-- The alarm records that the blocks downstream of the references report (Time Engine, Holdover Unit, Delivery Unit), and
NOTICE_OVERFLOW (R168). -/
def isDownstream (i : Fin 41) : Bool := decide ((6 ≤ i.val ∧ i.val ≤ 10) ∨ (27 ≤ i.val ∧ i.val ≤ 39))

/-- A port after the withdrawal of its site's TIME_MARKs (R20). -/
def PortState.withoutMarks (x : PortState) : PortState :=
  { x with timingQ := x.timingQ.filter fun f => f.role ≠ .timeMark }

/-- A pin after grades, and changes of state of a bypass reference, have reached it (R163, R164): only the squelch,
Fallback and the place of its cycles can have moved, with the two counters that count them. Its entry, its input and
what it drives at the moment are as they were. -/
def Pin.steady (x y : Pin) : Prop :=
  y = { x with
    squelched := y.squelched, fallback := y.fallback, phase := y.phase
    ctr := { x.ctr with squelches := y.ctr.squelches, fallbackEntries := y.ctr.fallbackEntries } }

/-- The frame of an event that changes the references `own` and the Client Sessions `ownC`: a re-evaluation of the roles and
all that follows from it reaches the blocks downstream, the state machine of GNSS (whose TOD_MISMATCH an entry to FREERUN
drops, R53) and the TIME_MARKs that a mute withdraws (R143), and leaves everything else as it was, a pin but for its
squelch and fallback. -/
structure UpstreamKept (own : List Ref) (ownC : List Client) (s t : State) : Prop where
  clock    : t.clock = s.clock
  flow     : t.flow = s.flow
  portMap  : t.portMap = s.portMap
  mgmt     : t.mgmt = s.mgmt
  pending  : t.pending = s.pending
  receiver : t.gnss = s.gnss
  window   : t.window = s.window
  sessions : ∀ c, c ∉ ownC → t.client c = s.client c
  refs     : ∀ r, r ∉ own → r ≠ .gnss → t.ref r = s.ref r
  gnss     : Ref.gnss ∉ own → t.ref .gnss = { s.ref .gnss with
    state := (t.ref .gnss).state, defects := (t.ref .gnss).defects, qualify := (t.ref .gnss).qualify
    holdOff := (t.ref .gnss).holdOff, restore := (t.ref .gnss).restore, ctr := (t.ref .gnss).ctr }
  ports    : ∀ p, t.port p = s.port p ∨ ((portSite? p).isSome = true ∧ t.port p = (s.port p).withoutMarks)
  recs     : ∀ i, isDownstream i = false → (∀ r, r ∈ own ∨ r = .gnss → i ≠ recRefFail r) →
    t.alarm.record i = s.alarm.record i
  pins     : ∀ k, (s.tpin k).steady (t.tpin k)

/-- Whether an instant `d` units ahead can be reached: no second boundary comes before it, and the carry of R91 neither
before nor with it (log 4, log 5). -/
def State.canReach (s : State) (d : Nat) : Prop :=
  d = 0 ∨ d < s.clock.room ∨ (d = s.clock.room ∧ secondsOf s.clock.counter + 1 < secRange)

/-- The Time Counter and the Residence Clock have both advanced by `d` units, in one Epoch (R21, R90). -/
def advanced (s t : State) (d : Nat) : Prop :=
  t.clock.counter = s.clock.counter + d ∧ t.clock.residence = s.clock.residence + d ∧ t.clock.epoch = s.clock.epoch

/-- The head command of the Command Queue that can be completed now: its Type, and no RESTART waits (R191, R201). -/
def State.headIs (s : State) (c : Command) (rest : List Command) : Prop :=
  s.mgmt.queue = c :: rest ∧ s.mgmt.waiting = none

/-! ## Frames on their way -/

/-- A port after a frame has been offered to one of its queues, by the table of R16; `res` is the Residence Clock. -/
def PortState.offered (res : Nat) (q : QueueClass) (f : QFrame) (x : PortState) : PortState :=
  if x.linkUp = false then { x with ctr := { x.ctr with linkDownDiscards := bump x.ctr.linkDownDiscards } }
  else
    match q with
    | .timing =>
      if x.timingQ.length < 16 then { x with timingQ := x.timingQ ++ [f] }
      else { x with quiet := some res, ctr := { x.ctr with timingDiscards := bump x.ctr.timingDiscards } }
    | .bulk =>
      if x.bulkQ.length < 48 then { x with bulkQ := x.bulkQ ++ [f] }
      else { x with ctr := { x.ctr with bulkDiscards := bump x.ctr.bulkDiscards } }

/-- The relay once a frame that passed its check has been received, before it is classified (R1). -/
def State.received (s : State) (dt : Nat) (p : Port) : State :=
  (s.pass dt).countPort p fun c => { c with receivedFrames := bump c.receivedFrames }

/-- The relay once a Flow entry has won a frame (R5). -/
def State.hit (s : State) (i : Fin 64) : State :=
  { s with flow := updAt s.flow i fun e => { e with hitCount := bump e.hitCount } }

/-- A Flow entry matches a frame that arrives at a port (R4). -/
def State.entryMatches (s : State) (p : Port) (f : Frame) (i : Fin 64) : Prop :=
  (s.flow.get i).matchesFrame s.mgmt.partEther s.mgmt.station p f = true

/-- What FORWARD and CORRECT do to the queues: every port of the resolved set takes a copy by the table of R16, no
other port changes, and beside the ports only alarm records of TIMING_LOSS and NOTICE_OVERFLOW can move. -/
structure Forwarded (s t : State) (ports : List Port) (q : QueueClass) (x : QFrame) : Prop where
  frame  : t = { s with ports := t.ports, alarm := t.alarm }
  inside : ∀ k, k ∈ ports → t.port k = (s.port k).offered s.res q x
  others : ∀ k, k ∉ ports → t.port k = s.port k
  recs   : ∀ i, (∀ k, k ∈ ports → i ≠ recTimingLoss k) → i ≠ recOverflow → t.alarm.record i = s.alarm.record i
  loss   : ∀ k, k ∈ ports → (s.port k).linkUp = true → q = .timing → 16 ≤ (s.port k).timingQ.length →
    (t.alarm.record (recTimingLoss k)).present = true

/-! ## A change of Epoch (R94) -/

/-- What a change of Epoch leaves in the blocks it is handed to: `s` is the state it is taken in and `before` the counter
before it. The servo is named by each statement. -/
structure EpochChanged (before : Nat) (s t : State) : Prop where
  frame   : t = { s with
    clock := t.clock, sessions := t.sessions, refs := t.refs, gnss := { s.gnss with samples := [] }
    realign := t.realign, servo := t.servo, holdover := t.holdover, sites := t.sites, pins := t.pins }
  clock   : t.clock = { s.clock with
    counter := t.clock.counter, epoch := (s.clock.epoch + 1) % 256, boundaryDue := false }
  clients : ∀ c, t.client c = { s.client c with
    outstanding := [], pair := none, best := none, queryDone := t.clock.counter }
  refs    : ∀ r, t.ref r = { s.ref r with lastE := none, pStart := none, capStart := none, winVoid := true }
  realign : t.realign = { s.realign with
    suspended := none
    ctr := { s.realign.ctr with
      suspendedDiscarded :=
        if s.realign.suspended.isSome then bump s.realign.ctr.suspendedDiscarded
        else s.realign.ctr.suspendedDiscarded } }
  minute  : t.holdover = { s.holdover with
    ring := t.holdover.ring, acc := { count := 0, iSum := 0, firstVoid := true }, ctr := t.holdover.ctr }
  ring    :
    let old := secondsOf before / 60 + 1
    let new := secondsOf t.clock.counter / 60 + 1
    (old = new → t.holdover.ring = s.holdover.ring) ∧ (new < old → t.holdover.ring = []) ∧
    (old < new → ∃ e, e.stamp = old ∧ e.lockedSeconds = s.holdover.acc.count ∧
      t.holdover.ring = (if 1440 ≤ s.holdover.ring.length then s.holdover.ring.drop 1 else s.holdover.ring) ++ [e])
  sites   : ∀ k, t.site k = { s.site k with
    epochPending := (s.site k).epochPending || decide ((s.site k).state ≠ .disabled), queries := 0
    markDone := t.clock.counter }
  pins    : ∀ k,
    let x := s.tpin k
    let half := 65536000000000 / x.cfg.rate / 2
    ∃ left : Nat, (x.riseRes = none → left = 0) ∧
      (∀ rise, x.riseRes = some rise → left =
        if s.clock.residence < rise + half then rise + half - s.clock.residence
        else rise + 65536000000000 / x.cfg.rate - s.clock.residence) ∧
      t.tpin k = { x with
        ppsLast := none, ppsFrom := t.clock.counter
        phase := match x.phase with
          | .onCounter _ => .onCounter (t.clock.counter + left)
          | .leavingCounter _ => .leavingCounter (t.clock.counter + left)
          | .onBypass next rem => .onBypass next rem
          | .leavingBypass finish => .leavingBypass finish }

/-! ## The drain of pending records (R178) -/

/-- What the drain of R178 makes of the Alarm Unit `a` with `rest` in its queue: the pending records give up their flags
in increasing index order until 16 notices are queued, each told to the collector adding the notice of its present
state; with the last flag gone NOTICE_OVERFLOW is reported absent, and a notice of its own can follow. -/
def Drained (rest : List Notice) (a b : Alarm) : Prop :=
  let waiting := (List.finRange 41).filter fun i => (a.record i).pending
  let cfg (i : Fin 41) := a.cfg.get (conditionOf i)
  let told (i : Fin 41) : Bool := ((cfg i).route = .notice || (cfg i).route = .both) && (cfg i).severity ≠ .off
  let notice (i : Fin 41) : Notice :=
    ⟨i, (a.record i).state, (cfg i).severity, (a.record i).raiseCount, (a.record i).last, (a.record i).cause⟩
  ∃ k, k ≤ waiting.length ∧
    let drained := waiting.take k
    let queue := rest ++ (drained.filter told).map notice
    queue.length ≤ 16 ∧ (k < waiting.length → queue.length = 16) ∧
    (∀ i, i ≠ recOverflow → b.record i =
      { a.record i with pending := (a.record i).pending && !drained.contains i }) ∧
    (k < waiting.length → b.queue = queue ∧ b.record recOverflow =
      { a.record recOverflow with pending := (a.record recOverflow).pending && !drained.contains recOverflow }) ∧
    (k = waiting.length → 0 < k → told recOverflow = false ∨ queue.length < 16 →
      (b.record recOverflow).present = false) ∧
    (k = waiting.length → (a.record recOverflow).present = false → b.queue = queue)

/-! ## Commands answered (R191, R192) -/

/-- A port takes one more Bulk frame: its link is UP and its Bulk Queue has room (R16). -/
def PortState.bulkOpen (x : PortState) : Bool := x.linkUp && decide (x.bulkQ.length < 48)

/-- The RESPONSE to a command, built in state `u` from a source address, with the flag bits the manual leaves free (R192;
log 19). -/
def State.responseTo (u : State) (station : Addr) (c : Command) (status flags : Nat) (results : List Byte) : Frame :=
  { dst := c.src, src := station, tag := c.vlan, etherType := BitVec.ofNat 16 u.mgmt.partEther
    payload :=
      headerBytes { cls := 2, type := 0x20, flags := flags, seq := c.seq, grade := u.holdover.announced
                    epoch := u.clock.epoch, bodyLen := 4 + results.length } ++
        (beBytes 2 c.tag ++ beBytes 1 c.type ++ beBytes 1 status ++ results) }

/-- The completion of the command at the head of the queue: `u` is the state its effects leave, and `t` differs from it
by the head's removal, the two counts, the next free value, and the response in the Bulk Queue of the command's ingress
port, or its discard there by the table of R16. -/
structure Answered (u t : State) (station : Addr) (c : Command) (status : Nat) (results : List Byte) : Prop where
  frame  : t = { u with ports := t.ports, mgmt := t.mgmt, free := u.free + 1 }
  mgmt   : t.mgmt = { u.mgmt with
    queue := u.mgmt.queue.drop 1
    ctr := { u.mgmt.ctr with
      commandsExecuted := bump u.mgmt.ctr.commandsExecuted
      responsesDiscarded :=
        if (u.port c.ingress).bulkOpen then u.mgmt.ctr.responsesDiscarded else bump u.mgmt.ctr.responsesDiscarded } }
  others : ∀ q, q ≠ c.ingress → t.port q = u.port q
  offer  : ∃ flags, flags < 4 ∧ t.port c.ingress =
    (u.port c.ingress).offered u.res .bulk ⟨u.responseTo station c status flags results, .response none⟩

/-! ## Entries written (R193, R196, R205) -/

/-- A number that the eight bytes of a field can carry (11, "Table entries"). -/
def isField (a : Int) : Prop := -(2 ^ 63) ≤ a ∧ a < 2 ^ 63

/-- An optional number that its field can carry. -/
def isOptField (a : Option Int) : Prop := ∀ x, a = some x → isField x

/-- The value a field of range `lo` to `hi` stores for a written number (00_scope.md, "Parameters and enumerations"). -/
def held (lo hi : Nat) (a : Int) : Nat := (max (lo : Int) (min (hi : Int) a)).toNat

/-- The value a field of range plus or minus `limit` stores for a written number. -/
def heldMag (limit : Nat) (a : Int) : Int := max (-(limit : Int)) (min (limit : Int) a)

/-- A written number is stored as it was written. -/
def kept (lo hi a : Int) : Prop := lo ≤ a ∧ a ≤ hi

/-- The command at the head of the queue is a PUT of one entry, at an index of a table, with the bytes of its fields. -/
def State.putsOne (s : State) (c : Command) (table index : Nat) (fields : List Byte) : Prop :=
  (∃ rest, s.headIs c rest) ∧ c.type = 0x12 ∧
    c.args = beBytes 1 table ++ beBytes 2 index ++ [1] ++ beBytes 2 index ++ beBytes 2 fields.length ++ fields

/-- The numbers of a decoded Flow entry are such as its fields can carry. -/
def RawFlow.numbersFit (x : RawFlow) : Prop :=
  isField x.priority ∧ isField x.vStart ∧ isField x.vStop ∧ isOptField x.ether ∧ isField x.dStart ∧ isField x.dStop ∧
    isField x.offset

/-- The fields of a Flow entry as a PUT carries them, in the order of the rows of R3: its enumerations and Pinned as the
bytes given, and a Hit Count, which is read past (R8, R205). -/
def flowFields (x : RawFlow) (pin vlan cls dest action queue : Byte) (hits : Int) : List Byte :=
  encBool x.enabled ++ [pin] ++ encNum x.priority ++ encPorts ⟨x.ingress, false⟩ ++ [vlan] ++ encNum x.vStart ++
    encNum x.vStop ++ encOptInt x.ether ++ [cls] ++ encNum x.dStart ++ encNum x.dStop ++ [dest, action] ++
    encPorts x.egress ++ encNum x.offset ++ [queue] ++ encNum hits

/-- The completion of a PUT that has written one entry, `u` being the state its effects leave: OK, or ADJUSTED where a
number was clamped; one entry written, no refused index, and the entry as stored. -/
def PutStored (u t : State) (station : Addr) (c : Command) (table index : Nat) (exact : Prop) : Prop :=
  ∃ status : Nat, (exact → status = 0) ∧ (¬ exact → status = 1) ∧
    Answered u t station c status
      ([1, 0xFF, 0xFF] ++ beBytes 2 index ++ beBytes 2 (u.entryAt table index).length ++ u.entryAt table index)

/-- The completion of a PUT whose first entry is refused with a status: nothing changed, nothing written, the refused
index given. -/
def PutRefused (v t : State) (station : Addr) (c : Command) (index status : Nat) : Prop :=
  Answered v t station c status ([0] ++ beBytes 2 index)

end Sys2Proof.Machine
end

