-- ==== Sys2Proof/Certificates/Slice0/Obligations.lean ====
section
/-! DEFINITION. The statements for the provers. Each docstring says what the statement states and which chapter of spec/
it rests on. -/
open Sys2Proof Sys2Proof.Machine

/-- A step runs the command at the front of the queue. For every state and command: with the command at the front of
the queue, the step is exec of that command on the state with the queue's rest. With no command waiting the relay
idles, which is the model's choice (log 1). Rests on 00_scope.md, Three paths through the part;
95_what_each_step_holds.md. -/
def Obligations.StepTakesFront : Prop :=
  ∀ (s : State),
    (∀ (c : Instr) (rest : List Instr), s.pending = c :: rest → step s = exec c { s with pending := rest }) ∧
    (s.pending = [] → step s = .next s)

/-- What reset leaves in every block, every parameter at its default. After reset the clocks and the Epoch are 0;
every link is DOWN with empty queues; Flow entry 0 is the management entry and the others are disabled; the Port Map,
the Budget Table and every parameter of every block hold the defaults of their rules, written out; the Client Sessions
are IDLE; the references, sites and pins are DISABLED, DISABLED and UNUSED; nothing is selected and no decision, slew,
holdover record or ring entry is present; the servo is in FREERUN with F, I and Phase Valid at 0, 0 and false; the
Announced Grade is 1; the Command Queue and the Read Cursors are empty; every counter is 0. The rest is the model's
choice or reading, where the manual names no value: oscillator time and left-over 0 (log 3), no boundary due (log 4),
the free value's index not stated (log 19), windows 0 and 4095 of the entries that match any VLAN (log 27), the marks
of instants taken at 0 or none (queryDone, markDone, phase, ppsFrom, ppsLast; log 36), straps reading 0 (log 39), the
line clocks and the last TOD byte's moment at 0 or none (log 51). That the FREERUN record stands RAISED and the
LINK_DOWN records RAISING with ALARM_N asserted is the model's reading of the first reports (log 40). Rests on
01_traffic_path_classification_queues_and_relay_cor.md, Counting (R24); 02_timing_messages_and_upstream_sessions.md,
Sessions across resets (R29, R45); 03_reference_monitoring_and_qualification.md, References across resets (R46, R69);
04_reference_selection_and_phase_realignment.md, Selection and realignment across resets (R70, R79, R89);
05_time_engine_and_servo.md, Time Engine across resets (R97, R115); 06_frequency_history_holdover_and_grade.md,
Holdover Unit across resets (R121, R129, R133, R136); 07_site_delivery.md, Delivery across resets (R137, R155);
08_timing_pins.md, Pins across resets (R156, R167); 09_alarms_and_notices.md, Alarms across resets (R168, R179, R188);
10_in_band_management.md, Management across resets (R190, R202);
01_traffic_path_classification_queues_and_relay_cor.md, The Flow Table (R10);
01_traffic_path_classification_queues_and_relay_cor.md, The Port Map (R11). -/
def Obligations.ResetValues : Prop :=
  let s := State.reset
  s.clock = { counter := 0, residence := 0, residue := 0, osc := 0, boundaryDue := false, epoch := 0 } ∧
  (∀ p, s.port p =
    { linkUp := false, timingQ := [], bulkQ := [], tx := none, quiet := none, lineCycles := 0, lineEdge := none
      ctr := (s.port p).ctr }) ∧
  s.flow.get 0 =
    { enabled := true, pinned := true, priority := 0, ingress := 3, vlan := .any, vStart := 0, vStop := 4095
      etherType := .part, cls := .management, dStart := 0, dStop := 127, dest := .station, action := .manage
      egress := ⟨0, false⟩, vlanOffset := 0, queueClass := .bulk, hitCount := 0 } ∧
  (∀ i : Fin 64, i ≠ 0 → s.flow.get i =
    { enabled := false, pinned := false, priority := 3, ingress := 0, vlan := .any, vStart := 0, vStop := 4095
      etherType := .any, cls := .any, dStart := 0, dStop := 127, dest := .any, action := .drop
      egress := ⟨0, false⟩, vlanOffset := 0, queueClass := .bulk, hitCount := 0 }) ∧
  (∀ p, s.portMap.get (portIdx p) =
    ⟨if (portSite? p).isSome then ⟨0, true⟩ else ⟨0xFC, false⟩, 0, 0⟩) ∧
  (∀ c, s.client c =
    { cfg := { enabled := false, domain := 0, queryRate := 8, replyTimeout := 1000, asymmetry := 0, queryVlan := none
               noticeTimeout := 3 }
      state := .idle, master := none, noticeStart := 0, noticeMissing := false, outstanding := [], pair := none
      best := none, nextSeq := 0, rate := 8, queryDone := 0, ctr := (s.client c).ctr }) ∧
  (∀ r, s.ref r =
    { cfg := { enabled := false, declaredRate := 10000000, acceptRange := 10000000, holdOff := 2, qualifyTime := 30
               restoreWait := 300, jumpLimit := 200, wanderLimit := 500, minGrade := 6, starveSeconds := 8
               compensation := 0, policy := .slew, gradeCap := 15, todBaud := 9600 }
      state := .disabled, defects := [], qualify := ⟨0, none⟩, holdOff := ⟨0, none⟩, restore := ⟨0, none⟩
      lastE := none, lastD := none, grade := none, starve := 0, lastEdge := none, pStart := none, capStart := none
      winVoid := false, prevD := none, ctr := (s.ref r).ctr } ∧ (s.ref r).ctr.phaseJumps = 0) ∧
  s.gnss =
    { todStart := none, held := none, last := none, samples := [], partialRecord := [], lastByteAt := 0
      ctr := s.gnss.ctr } ∧
  s.window = { isOpen := false, fSum := 0 } ∧
  s.selector =
    { cfg := { phaseList := [], freqList := [], revertive := false, ranking := false }
      phase := none, phaseForced := false, freq := none, freqForced := false, ctr := s.selector.ctr } ∧
  s.realign =
    { params := { stepPolicy := .beforeServe, stepThreshold := 1000, maxOffset := 1000000, slewRate := 10
                  resumeWindow := 600, resumeTolerance := 500 }
      decision := .none, decisionRef := none, b := 0, buildOut := false, slew := none, suspended := none
      ctr := s.realign.ctr } ∧
  s.servo =
    { params := { phaseClamp := 1000, pullRange := 2000000, acquiringPg := 128, acquiringIg := 32, lockedPg := 32
                  lockedIg := 8, fg := 64, lockWindow := 100, lockCount := 16, unlockWindow := 1000, unlockCount := 4 }
      state := .freerun, f := 0, i := 0, phaseValid := false, lockRun := 0, unlockRun := 0, lastLoop := none
      acqFromHold := none, transient := false, ctr := s.servo.ctr } ∧
  s.holdover =
    { params := { guardMinutes := 2, averagingDepth := 60, minimumEntries := 10, driftEstimation := false
                  driftMinimum := 120, driftLimit := 50, settleLimit := 50 }
      grades := { hopDecrement := 1, acquiring := 3, slewing := 6, historyShort := 4, frequencyOnly := 2, freerun := 1
                  budgetAlarm := 8 }
      ring := [], acc := { count := 0, iSum := 0, firstVoid := false }, settle := none, record := none, frozen := none
      budget := [⟨0, 12, 13⟩, ⟨3600, 10, 12⟩, ⟨14400, 8, 11⟩, ⟨28800, 6, 10⟩, ⟨86400, 4, 8⟩]
      announced := 1, ctr := s.holdover.ctr } ∧
  (∀ k, s.site k =
    { cfg := { enabled := false, domain := 0, vlan := none, markRate := 16, pathComp := 0, minGrade := 6
               serveDelay := 5, queryLimit := 128, queryTimeout := 10 }
      state := .disabled, muteReason := none, serve := ⟨0, none⟩, present := false, lastQuery := none, queries := 0
      nextMark := 0, nextNotice := 0, epochPending := false, rate := 16, markDone := 0, ctr := (s.site k).ctr }) ∧
  s.servingSince = false ∧
  (∀ k, s.tpin k =
    { cfg := { function := .unused, outEnabled := false, squelch := 0, pulseWidth := 100000, offset := 0
               rate := 10000000, source := .counter }
      squelched := false, fallback := true, bypassOffset := none, lastInput := none, cycles := 0, high := none
      riseRes := none, phase := .onCounter 0, ppsLast := none, ppsFrom := 0, ctr := (s.tpin k).ctr }) ∧
  s.alarm.cfg =
    #v[⟨.major, .both, 0, 5⟩, ⟨.minor, .both, 0, 10⟩, ⟨.major, .both, 0, 10⟩, ⟨.warning, .notice, 0, 0⟩,
       ⟨.major, .both, 0, 60⟩, ⟨.warning, .notice, 0, 10⟩, ⟨.minor, .notice, 2, 2⟩, ⟨.minor, .notice, 0, 0⟩,
       ⟨.minor, .notice, 30, 0⟩, ⟨.major, .both, 0, 0⟩, ⟨.warning, .pin, 0, 0⟩, ⟨.warning, .both, 0, 0⟩] ∧
  s.alarm.set =
    { notify := false, rate := 8, collector := none, collectorPort := .n0, vlan := none, ackOnRead := false
      pulseMode := false, pulseWidth := 100 } ∧
  s.alarm.queue = [] ∧ s.alarm.spacing = none ∧ s.alarm.nextSeq = 0 ∧ s.alarm.pulse = none ∧ s.alarm.test = none ∧
  s.alarm.asserted = true ∧
  s.alarm.record recFreerun =
    { state := .raised, present := true, acked := false, pending := true, raiseCount := 1, first := some ⟨0, 0⟩
      last := some ⟨0, 0⟩, cause := [], timer := none } ∧
  (∀ p, s.alarm.record (recLinkDown p) =
    { state := .raising, present := true, acked := false, pending := false, raiseCount := 0, first := none
      last := some ⟨0, 0⟩, cause := [], timer := some 0 }) ∧
  (∀ i : Fin 41, i.val < 7 ∨ (7 < i.val ∧ i.val < 11) ∨ 18 < i.val → s.alarm.record i =
    { state := .clear, present := false, acked := false, pending := false, raiseCount := 0, first := none
      last := none, cause := [], timer := none }) ∧
  s.mgmt.straps = 0 ∧ s.mgmt.station = 0x024D44000000 ∧ s.mgmt.permitted = 3 ∧ s.mgmt.partEther = 0x88B5 ∧
  s.mgmt.queue = [] ∧ s.mgmt.waiting = none ∧ (∀ k : Fin 26, s.mgmt.cursors.get k = none) ∧
  (∀ l, l ∈ s.counterEntries → ∀ n, n ∈ l → n = 0) ∧ s.pending = []

/-- POWER_ON and RESET_PIN give the state after reset with the straps read. From every state, POWER_ON and RESET_PIN
complete in the state after reset, the Station Address carrying the straps' digit. The queue of waiting commands and
the index of the next free value are the model's own and stay. Rests on 10_in_band_management.md, Management across
resets (R202); 00_scope.md, Kinds of reset. -/
def Obligations.ResetsRestoreEverything : Prop :=
  ∀ (s : State) (straps : BitVec 4),
    let t : State := { State.reset with
      mgmt := { straps := straps, station := 0x024D44000000 + straps.zeroExtend 48 }
      free := s.free, pending := s.pending }
    exec (.powerOn straps) s = .next t ∧ exec (.resetPin straps) s = .next t

/-- The state after reset meets every law of a state. State.reset meets the laws that the StepKeeps statements carry
on: capacities, ALARM_N, the ranges of the clock and the servo, the match of roles and servo state, selected
references are candidates, the laws of the Realignment Unit (R80) and of the Entry Grade (R130), no two Flow entries
of one Priority overlap, and the Station Address has its group bit clear. Rests on 00_scope.md, Kinds of reset;
09_alarms_and_notices.md, Driving ALARM_N (R184); 05_time_engine_and_servo.md, Servo states (R99);
04_reference_selection_and_phase_realignment.md, Realignment (R80); 06_frequency_history_holdover_and_grade.md, The
Announced Grade (R130). -/
def Obligations.ResetIsLawful : Prop :=
  State.reset.WithinRoom ∧ State.reset.alarm.pinLaw ∧ State.reset.servo.inRange ∧ State.reset.clock.inRange ∧
    State.reset.rolesMatch ∧ State.reset.selectedAreCandidates ∧ State.reset.realignLaw ∧ State.reset.entryLaw ∧
    State.reset.flowDisjoint ∧ groupBit State.reset.mgmt.station = false

/-- No step overfills a queue, list, ring or table, or breaks the law of one. In every step from a state within its
capacities and under the laws of its lists, the next state is so: Timing Queues 16, Bulk Queues 48, the Outstanding
Query List 8 with every record of the current Epoch, the History Ring 1,440, the Budget Table 8 in strictly increasing
order of threshold with entry 0 at 0 s, the Notice Queue 16 with at most one notice per record and none of a record
that is Pending, nothing Pending with notices on while there is room, nothing queued with notices off, the Command
Queue 4, and the partial time-of-day record 11 bytes. And where the records of an Outstanding Query List have distinct
sequences, none of them the next one, they are distinct after the step (R37 gives the reason why the next one is free:
65,536 queries lie between). Rests on 01_traffic_path_classification_queues_and_relay_cor.md, The egress queues (R16);
02_timing_messages_and_upstream_sessions.md, Sending a query (R37); 06_frequency_history_holdover_and_grade.md, The
History Ring (R116); 06_frequency_history_holdover_and_grade.md, The Budget Table (R129); 09_alarms_and_notices.md,
Queuing a notice (R176); 10_in_band_management.md, The Command Queue (R191); 11_frame_and_record_formats.md, The time-
of-day record (R207). -/
def Obligations.StepKeepsCapacities : Prop :=
  ∀ (s t : State), step s = .next t →
    (s.WithinRoom → t.WithinRoom) ∧
    ∀ c, ((s.client c).outstanding.map QueryRec.seq).Nodup →
      (s.client c).nextSeq ∉ (s.client c).outstanding.map QueryRec.seq →
      ((t.client c).outstanding.map QueryRec.seq).Nodup

/-- ALARM_N follows the alarm records through every step. In every step: where ALARM_N follows the records in LEVEL
mode and the pulse in PULSE mode before, it does so after. Rests on 09_alarms_and_notices.md, Driving ALARM_N (R184,
R185). -/
def Obligations.StepKeepsAlarmPin : Prop :=
  ∀ (s t : State), s.alarm.pinLaw → step s = .next t → t.alarm.pinLaw

/-- F and I stay within the Pull Range, and the clocks run at the rate of R90 within their ranges. In every step: |F|
and |I| stay at most the Pull Range and that at most 5,000,000 ppt, the lock runs within a byte, the Time Counter
below 2^48 s, the Epoch a byte, and a boundary that is due stands at a whole second. And wherever time passes, before
an event from outside or up to an instant that is reached, the Time Counter and the Residence Clock advance by the
same number of fraction units: the oscillator's time multiplied by (10^12 + F) / 10^12, with the parts of a unit left
over before added and those left over now, less than one unit, kept. Of the oscillator time given for an event no more
is taken than was given, and less only where a second boundary comes first (log 6). That oscillator time counts half
fraction units and the left-over parts of 1 / (2 10^12) is the model's form (log 3). Rests on
05_time_engine_and_servo.md, The Time Counter (R90); 05_time_engine_and_servo.md, The Servo Context (R96);
05_time_engine_and_servo.md, Running the loop (R107); 01_traffic_path_classification_queues_and_relay_cor.md, Relay
correction (R21). -/
def Obligations.StepKeepsRanges : Prop :=
  (∀ (s t : State), step s = .next t →
    (s.servo.inRange → t.servo.inRange) ∧ (s.clock.inRange → t.clock.inRange)) ∧
  (∀ (s : State), s.servo.inRange → s.clock.residue < 2000000000000 →
    let ran (t : State) (units osc : Nat) : Prop :=
      t.clock = { s.clock with
        counter := s.clock.counter + units, residence := s.clock.residence + units, osc := s.clock.osc + osc
        residue := t.clock.residue, boundaryDue := t.clock.boundaryDue } ∧
      2000000000000 * (units : Int) + t.clock.residue = osc * (1000000000000 + s.servo.f) + s.clock.residue ∧
      t.clock.residue < 2000000000000
    (∀ dt, ∃ units osc, ran (s.pass dt) units osc ∧ osc ≤ dt ∧
      (osc < dt → s.clock.boundaryDue = true ∨ units + 1 = s.clock.room)) ∧
    (∀ units t, s.reach units = some t → ∃ osc, ran t units osc) ∧
    ∀ target t, s.reachOsc target = some t → ∃ units osc, ran t units osc ∧
      (s.clock.osc ≤ target → t.clock.osc = target))

/-- Every step keeps the servo state matched to the roles, the selected references candidates, and the laws of R80 and
R130. In every step each of these holds after the step where it held before: the servo state and Phase Valid match the
selected references as R99 gives them; each selected reference is in its role's preference list and QUALIFIED; the
decision concerns the selected phase reference, B is 0 with no build-out and no slew until it is DECIDED, a slew never
stands beside a build-out or a Suspended Slew record, and |B| and |B_susp| are at most Max Offset (R80); and, where
the servo state matches the roles, in a holdover state there is a Holdover record and the Announced Grade does not
exceed its Entry Grade (R130). Rests on 04_reference_selection_and_phase_realignment.md, Choosing a reference (R72,
R73); 05_time_engine_and_servo.md, Servo states (R99); 04_reference_selection_and_phase_realignment.md, Realignment
(R80); 06_frequency_history_holdover_and_grade.md, The Announced Grade (R130). -/
def Obligations.StepKeepsRolesAndServo : Prop :=
  ∀ (s t : State), step s = .next t →
    (s.rolesMatch → t.rolesMatch) ∧ (s.selectedAreCandidates → t.selectedAreCandidates) ∧
    (s.realignLaw → t.realignLaw) ∧ (s.rolesMatch → s.entryLaw → t.entryLaw)

/-- No step makes two enabled Flow entries of one Priority overlap. In every step: where no two enabled Flow entries
of one Priority overlap, none do afterwards, under every write of the table and of the Part EtherType; and the Station
Address keeps its group bit clear. Rests on 01_traffic_path_classification_queues_and_relay_cor.md, The Flow Table
(R6); 01_traffic_path_classification_queues_and_relay_cor.md, Writing a Flow entry (R7, R9); 10_in_band_management.md,
The Management Settings (R190). -/
def Obligations.StepKeepsFlowTableLaw : Prop :=
  ∀ (s t : State), step s = .next t →
    (s.flowDisjoint → t.flowDisjoint) ∧
    (groupBit s.mgmt.station = false → groupBit t.mgmt.station = false)

/-- Two entries that match one frame never share a Priority. In every state that meets the law of the Flow Table, with
the group bit of the Station Address clear: if two enabled entries match one frame at one port and have the same
Priority, they are the same entry. So the overlap test of R6 misses no frame, and the winner of R5 is unique. Rests on
01_traffic_path_classification_queues_and_relay_cor.md, Matching a frame (R4, R5);
01_traffic_path_classification_queues_and_relay_cor.md, The Flow Table (R6). -/
def Obligations.MatchingEntriesHaveDifferentPriorities : Prop :=
  ∀ (s : State) (p : Port) (f : Frame) (i j : Fin 64),
    s.flowDisjoint → groupBit s.mgmt.station = false → s.entryMatches p f i → s.entryMatches p f j →
    (s.flow.get i).priority = (s.flow.get j).priority → i = j

/-- Only PUT, CLEAR, the resets and the restarts write a setting. Every command other than POWER_ON, RESET_PIN, PUT,
CLEAR, RESTART(FULL) and the two events that can carry a RESTART out (TRANSMIT_END and LINK_DOWN) leaves the
configuration of every block as it was: sessions, references, sites, pins, Selector, realignment, servo, holdover and
grade parameters, the Budget Table, Alarm Config and Alarm Settings, the Port Map, the Management Settings and the
levels on the ADDR pins as last given (log 39). Rests on 10_in_band_management.md, Writing a table (R196);
10_in_band_management.md, Clearing and pinning (R197); 10_in_band_management.md, Restarting (R201, R202). -/
def Obligations.SettingsKept : Prop :=
  ∀ (s t : State) (c : Instr), exec c s = .next t →
    (match c with
      | .powerOn _ | .resetPin _ | .put _ | .clear _ | .restartFull _ | .transmitEnd _ _ | .linkDown _ _ => False
      | _ => True) →
    SameSettings s t ∧ t.portMap = s.portMap ∧ t.mgmt.station = s.mgmt.station ∧
      t.mgmt.permitted = s.mgmt.permitted ∧ t.mgmt.partEther = s.mgmt.partEther ∧ t.mgmt.straps = s.mgmt.straps

/-- A frame that fails its check sequence is counted and changes nothing else. At a port whose link is UP, a frame
that fails its check sequence is counted under Receive Errors on that port once the time before it has passed, and
nothing else changes. At a port whose link is DOWN no frame is received: the command changes nothing (log 5). Rests on
01_traffic_path_classification_queues_and_relay_cor.md, Receiving a frame (R1, R2). -/
def Obligations.FrameCheckDecides : Prop :=
  ∀ (s : State) (dt : Nat) (p : Port) (ok : Bool) (f : Frame),
    ((s.port p).linkUp = true → exec (.frameReceived dt p false f) s =
      .next ((s.pass dt).countPort p fun c => { c with receiveErrors := min (c.receiveErrors + 1) 4294967295 })) ∧
    ((s.port p).linkUp = false → exec (.frameReceived dt p ok f) s = .next s)

/-- The winning entry matches and has the lowest Priority of all that match. For every state, port and frame: the
winning entry matches the frame and no matching entry has a lower Priority value; and there is no winning entry
exactly when no entry matches. Rests on 01_traffic_path_classification_queues_and_relay_cor.md, Matching a frame (R5).
-/
def Obligations.ClassifierPicksLowestPriority : Prop :=
  ∀ (s : State) (p : Port) (f : Frame),
    (∀ i, s.winner p f = some i →
      s.entryMatches p f i ∧ ∀ j, s.entryMatches p f j → (s.flow.get i).priority ≤ (s.flow.get j).priority) ∧
    (s.winner p f = none ↔ ∀ j, ¬ s.entryMatches p f j)

/-- The egress ports of a frame. A port is in the resolved egress set of a frame exactly when it is not the ingress
port and is either named by the set or is what ACTIVE_UPLINK stands for: N0 with N0's link UP, N1 with N0's link DOWN
and N1's UP, nothing with both DOWN. Rests on 01_traffic_path_classification_queues_and_relay_cor.md, The Port Map
(R12). -/
def Obligations.EgressSetResolves : Prop :=
  ∀ (s : State) (e : EgressSet) (p q : Port),
    q ∈ s.resolve e p ↔ q ≠ p ∧ (inPorts e.ports q = true ∨ (e.uplink = true ∧
      (((s.port .n0).linkUp = true ∧ q = .n0) ∨
        ((s.port .n0).linkUp = false ∧ (s.port .n1).linkUp = true ∧ q = .n1))))

/-- FRAME_RECEIVED: a FORWARD, CORRECT or unmatched frame gives every egress port its copy. At a port whose link is
UP, a good frame that a FORWARD or CORRECT entry wins, and one that no entry matches, completes as follows where its
resolved egress set is not empty. The frame is counted under Received Frames, and the winning entry's Hit Count or
Unmatched Frames by one; every port of the set takes one copy with the ingress stamps of that moment by the table of
R16 (FORWARD by the entry's Queue Class, CORRECT by the Timing Queue, an unmatched one by the Bulk Queue), its vid
moved by the VLAN Offset modulo 4,096 (an unmatched one untranslated); every other port and every alarm record but
TIMING_LOSS of those ports and NOTICE_OVERFLOW is as it was, and nothing else changes. Rests on
01_traffic_path_classification_queues_and_relay_cor.md, Acting on a frame (R13);
01_traffic_path_classification_queues_and_relay_cor.md, The Port Map (R11);
01_traffic_path_classification_queues_and_relay_cor.md, The egress queues (R16). -/
def Obligations.MatchedFrameIsForwarded : Prop :=
  ∀ (s : State) (dt : Nat) (p : Port) (f : Frame), (s.port p).linkUp = true →
    let u := s.received dt p
    let stamps : Ingress := ⟨u.clock.counter, u.clock.epoch, u.clock.residence⟩
    (∀ (i : Fin 64) (q : QueueClass) (correct : Bool), s.winner p f = some i →
      let e := s.flow.get i
      ((e.action = .forward ∧ q = e.queueClass ∧ correct = false) ∨ (e.action = .correct ∧ q = .timing ∧ correct = true)) →
      s.resolve e.egress p ≠ [] →
      ∃ t, exec (.frameReceived dt p true f) s = .next t ∧
        Forwarded (u.hit i) t (s.resolve e.egress p) q
          ⟨{ f with tag := f.tag.map fun g => { g with vid := BitVec.ofNat 12 ((g.vid.toNat + e.vlanOffset) % 4096) } },
            .passing correct p stamps⟩) ∧
    (s.winner p f = none →
      let e := (s.portMap.get (portIdx p)).egress
      s.resolve e p ≠ [] →
      ∃ t, exec (.frameReceived dt p true f) s = .next t ∧
        Forwarded (u.countPort p fun c => { c with unmatchedFrames := bump c.unmatchedFrames }) t (s.resolve e p) .bulk
          ⟨f, .passing false p stamps⟩)

/-- FRAME_RECEIVED: DROP and an empty egress set only count. At a port whose link is UP, a good frame won by a DROP
entry is counted under Flow Drops on its ingress port, and one won by a FORWARD or CORRECT entry, or unmatched, whose
resolved egress set is empty is counted under No Egress there; beyond that only the receipt itself is counted
(Received Frames, and the Hit Count or Unmatched Frames), so no queue takes a copy and no condition becomes present.
Rests on R15. -/
def Obligations.DropAndNoEgressAreCounted : Prop :=
  ∀ (s : State) (dt : Nat) (p : Port) (f : Frame), (s.port p).linkUp = true →
    let u := s.received dt p
    (∀ i, s.winner p f = some i → (s.flow.get i).action = .drop →
      exec (.frameReceived dt p true f) s =
        .next ((u.hit i).countPort p fun c => { c with flowDrops := bump c.flowDrops })) ∧
    (∀ i, s.winner p f = some i → ((s.flow.get i).action = .forward ∨ (s.flow.get i).action = .correct) →
      s.resolve (s.flow.get i).egress p = [] →
      exec (.frameReceived dt p true f) s =
        .next ((u.hit i).countPort p fun c => { c with noEgress := bump c.noEgress })) ∧
    (s.winner p f = none → s.resolve (s.portMap.get (portIdx p)).egress p = [] →
      exec (.frameReceived dt p true f) s =
        .next ((u.countPort p fun c => { c with unmatchedFrames := bump c.unmatchedFrames }).countPort p
          fun c => { c with noEgress := bump c.noEgress }))

/-- FRAME_RECEIVED: the judging of a MANAGE frame and the five tests of a command, in order. A good frame won by a
MANAGE entry: one whose Class is neither TIMING nor MANAGEMENT (or that has none, log 17) counts under Wrong Class.
Any other is judged first: fewer than 28 bytes, or fewer than its Body Length after the header, counts under Short
Frames on the port; of Class TIMING a Type outside 1 to 4, a Domain above 127 or a Grade above 15 under Bad Header; a
body shorter than the fixed part of its Type under Short Frames (a QUALITY_NOTICE 6 bytes; a command its Tag and fixed
arguments; a RESPONSE 4 and an ALARM_NOTICE 20, the model's reading, log 18). One that passes is tested in order:
Class TIMING counts under Wrong Class, another destination than the Station Address under Wrong Destination, a port
outside the Management Port Set under Port Not Permitted, Type RESPONSE or ALARM_NOTICE under Not A Command, a Command
Queue that holds 4 under Queue Full Drops; one that passes all joins the tail of the Command Queue with its port,
source, outermost tag, Tag, Sequence, Type and arguments. Nothing else changes but the counts of its receipt. Rests on
10_in_band_management.md, Accepting a command (R189); 11_frame_and_record_formats.md, Judging a received frame (R206);
01_traffic_path_classification_queues_and_relay_cor.md, Acting on a frame (R14); 11_frame_and_record_formats.md,
Command and response bodies. -/
def Obligations.ManagementFrameIsQueued : Prop :=
  ∀ (s : State) (dt : Nat) (p : Port) (f : Frame) (i : Fin 64), (s.port p).linkUp = true → s.winner p f = some i →
    (s.flow.get i).action = .manage →
    let u := (s.received dt p).hit i
    let h := readHeader f.payload
    let body := slice 28 h.bodyLen f.payload
    let least : Nat :=
      if h.cls = 1 then if h.type = 2 then 6 else 0
      else if h.type = 0x10 ∨ h.type = 0x12 then 6
      else if h.type = 0x13 then 5
      else if h.type = 0x11 ∨ h.type = 0x14 ∨ h.type = 0x15 ∨ h.type = 0x16 ∨ h.type = 0x20 then 4
      else if h.type = 0x17 ∨ h.type = 0x1B ∨ h.type = 0x1F then 3
      else if h.type = 0x1A then 12
      else if h.type = 0x21 then 20
      else 2
    let short := f.payload.length < 28 ∨ f.payload.length < 28 + h.bodyLen
    let badHeader := h.cls = 1 ∧ (h.type = 0 ∨ 4 < h.type ∨ 127 < h.domain ∨ 15 < h.grade)
    let counted (g : PortCounters → PortCounters) := exec (.frameReceived dt p true f) s = .next (u.countPort p g)
    let refused (g : MgmtCounters → MgmtCounters) := exec (.frameReceived dt p true f) s = .next (u.countMgmt g)
    (frameClass s.mgmt.partEther f ≠ some 1 → frameClass s.mgmt.partEther f ≠ some 2 →
      refused fun c => { c with wrongClass := bump c.wrongClass }) ∧
    (frameClass s.mgmt.partEther f = some 1 ∨ frameClass s.mgmt.partEther f = some 2 →
      (short → counted fun c => { c with shortFrames := bump c.shortFrames }) ∧
      (¬ short → badHeader → counted fun c => { c with badHeader := bump c.badHeader }) ∧
      (¬ short → ¬ badHeader → h.bodyLen < least → counted fun c => { c with shortFrames := bump c.shortFrames }) ∧
      (¬ short → ¬ badHeader → least ≤ h.bodyLen →
        (frameClass s.mgmt.partEther f = some 1 → refused fun c => { c with wrongClass := bump c.wrongClass }) ∧
        (frameClass s.mgmt.partEther f = some 2 → exec (.frameReceived dt p true f) s = .next (
          if f.dst ≠ s.mgmt.station then u.countMgmt fun c => { c with wrongDestination := bump c.wrongDestination }
          else if inPorts s.mgmt.permitted p = false then
            u.countMgmt fun c => { c with portNotPermitted := bump c.portNotPermitted }
          else if h.type = 0x20 ∨ h.type = 0x21 then
            u.countMgmt fun c => { c with notACommand := bump c.notACommand }
          else if 4 ≤ s.mgmt.queue.length then
            u.countMgmt fun c => { c with queueFullDrops := bump c.queueFullDrops }
          else { u with mgmt := { u.mgmt with queue := u.mgmt.queue ++
            [{ ingress := p, src := f.src, vlan := f.tag, tag := beNat (body.take 2), seq := h.seq, type := h.type
               args := body.drop 2 }] } }))))

/-- FRAME_RECEIVED: who takes a TERMINATE frame. A good frame won by a TERMINATE entry: one that is not of the Part
EtherType with Class TIMING is counted under Unclaimed Terminations on its ingress port; one that is, and is
malformed, is counted there under Short Frames or Bad Header; one that is well formed is taken by the Client Session
of the port (N0, N1) or by the Delivery Session of the port (S0 to S5). Nothing else changes but the counts of its
receipt and what the owner does. Rests on 01_traffic_path_classification_queues_and_relay_cor.md, Acting on a frame
(R14); 11_frame_and_record_formats.md, Judging a received frame (R206); 02_timing_messages_and_upstream_sessions.md,
Receiving a timing frame (R31); 07_site_delivery.md, Answering a site (R149). -/
def Obligations.TerminatedFrameHasAnOwner : Prop :=
  ∀ (s : State) (dt : Nat) (p : Port) (f : Frame) (i : Fin 64), (s.port p).linkUp = true → s.winner p f = some i →
    (s.flow.get i).action = .terminate →
    let u := (s.received dt p).hit i
    let stamps : Ingress := ⟨u.clock.counter, u.clock.epoch, u.clock.residence⟩
    (frameClass s.mgmt.partEther f ≠ some 1 → exec (.frameReceived dt p true f) s =
      .next (u.countPort p fun c => { c with unclaimedTerminations := bump c.unclaimedTerminations })) ∧
    (frameClass s.mgmt.partEther f = some 1 →
      (judgeFrame f.payload = .short → exec (.frameReceived dt p true f) s =
        .next (u.countPort p fun c => { c with shortFrames := bump c.shortFrames })) ∧
      (judgeFrame f.payload = .badHeader → exec (.frameReceived dt p true f) s =
        .next (u.countPort p fun c => { c with badHeader := bump c.badHeader })) ∧
      (judgeFrame f.payload = .pass →
        (∀ c, clientPort c = p → exec (.frameReceived dt p true f) s = .next (u.clientSort c f stamps)) ∧
        (∀ k, sitePort k = p → exec (.frameReceived dt p true f) s = .next (u.siteSort k f stamps))))

/-- EGRESS_MOMENT: the Timing Queue goes first, and what the moment writes. With the transmit side free, the link UP
and a frame waiting, EGRESS_MOMENT takes the head of the Timing Queue, or of the Bulk Queue where the Timing Queue is
empty, out of its queue and into transmission. The other queue, every other port and everything else stay, but for
what the frame asks for: a TIME_MARK takes its Timestamp and Correction from the Time Counter plus the Path
Compensation of the port's site; a DELAY_QUERY of a network port gives its session the Time Counter as t3 and counts
Queries Sent; a CORRECT copy is corrected, and only it can change a counter of the port; every other frame leaves as
it is. A time of 2^48 s or more is written modulo 2^48 s, the model's choice (log 62). With nothing to take, or the
link DOWN, or the transmit side busy, nothing changes (log 5). Rests on
01_traffic_path_classification_queues_and_relay_cor.md, The egress queues (R17);
01_traffic_path_classification_queues_and_relay_cor.md, Receiving a frame (R3);
02_timing_messages_and_upstream_sessions.md, Sending a query (R37); 07_site_delivery.md, Sending TIME_MARK (R146). -/
def Obligations.EgressTakesTimingFirst : Prop :=
  ∀ (s : State) (p : Port),
    let x := s.port p
    (x.linkUp = false ∨ x.tx.isSome = true ∨ (x.timingQ = [] ∧ x.bulkQ = []) →
      exec (.egressMoment p) s = .next s) ∧
    (∀ (q : QFrame) (tq bq : List QFrame), x.linkUp = true → x.tx = none →
      ((x.timingQ = q :: tq ∧ x.bulkQ = bq) ∨ (x.timingQ = [] ∧ tq = [] ∧ x.bulkQ = q :: bq)) →
      ∃ (t : State) (g : Frame) (ctr : PortCounters), exec (.egressMoment p) s = .next t ∧
        t = { s with ports := t.ports, sessions := t.sessions } ∧
        t.port p = { x with timingQ := tq, bulkQ := bq, tx := some ⟨⟨g, q.role⟩, true⟩, ctr := ctr } ∧
        (∀ k, k ≠ p → t.port k = s.port k) ∧
        (match q.role with
          | .passing true _ _ => t.sessions = s.sessions
          | .timeMark =>
            let time := addNanos s.clock.counter (s.pathComp p)
            g = { q.frame with payload := overwrite 8 (beBytes 6 (time / secUnits) ++
              beBytes 4 (time % secUnits / 65536) ++ beBytesInt 8 (time % 65536 : Nat)) q.frame.payload } ∧
            ctr = x.ctr ∧ t.sessions = s.sessions
          | .delayQuery seq =>
            g = q.frame ∧ ctr = x.ctr ∧
            (∀ c, clientPort c ≠ p → t.client c = s.client c) ∧
            (∀ c, clientPort c = p → t.client c = { s.client c with
              outstanding := (s.client c).outstanding.map fun r =>
                if r.seq = seq then { r with t3 := some s.clock.counter } else r
              ctr := { (s.client c).ctr with queriesSent := bump (s.client c).ctr.queriesSent } })
          | _ => g = q.frame ∧ ctr = x.ctr ∧ t.sessions = s.sessions))

/-- EGRESS_MOMENT: what the Relay Correction Unit adds to a CORRECT copy. At the egress moment of a CORRECT copy: if
the frame is of the Part EtherType and Class TIMING with 26 bytes of header, its Correction field becomes the sum of
itself, the residence on the Residence Clock and both compensations times 65,536, held within -2^63 to 2^63 - 1, with
Correction Saturated on the egress port one higher when the sum lies outside; every other byte and field of the frame
stays. Otherwise the frame leaves unchanged and Not Correctable on the egress port is one higher. Rests on R22. -/
def Obligations.CorrectionAtEgress : Prop :=
  ∀ (s : State) (p ingress : Port) (q : QFrame) (stamps : Ingress),
    (s.port p).linkUp = true → (s.port p).tx = none →
    ((s.port p).timingQ.head? = some q ∨ ((s.port p).timingQ = [] ∧ (s.port p).bulkQ.head? = some q)) →
    q.role = .passing true ingress stamps →
    let f := q.frame
    let sum : Int := beInt (slice 18 8 f.payload) + ((s.clock.residence : Int) - stamps.residence) +
      (s.portMap.get (portIdx ingress)).ingressComp * 65536 + (s.portMap.get (portIdx p)).egressComp * 65536
    let carries := f.etherType.toNat = s.mgmt.partEther ∧ beNat (f.payload.take 1) = 1 ∧ 26 ≤ f.payload.length
    ∃ (t : State) (g : Frame), exec (.egressMoment p) s = .next t ∧
      (t.port p).tx = some ⟨⟨g, q.role⟩, true⟩ ∧
      (carries →
        beInt (slice 18 8 g.payload) =
          (if 9223372036854775807 < sum then 9223372036854775807
           else if sum < -9223372036854775808 then -9223372036854775808 else sum) ∧
        g.payload.length = f.payload.length ∧
        (∀ i, i < 18 ∨ 26 ≤ i → g.payload[i]? = f.payload[i]?) ∧ { g with payload := f.payload } = f ∧
        (t.port p).ctr = { (s.port p).ctr with correctionSaturated :=
          if sum < -9223372036854775808 ∨ 9223372036854775807 < sum then bump (s.port p).ctr.correctionSaturated
          else (s.port p).ctr.correctionSaturated }) ∧
      (¬ carries →
        g = f ∧ (t.port p).ctr = { (s.port p).ctr with notCorrectable := bump (s.port p).ctr.notCorrectable })

/-- TRANSMIT_END: the frame is counted, and a RESTART follows its response. At the end of a transmission the transmit
side is free and the frame is counted under Transmitted Frames unless a RESTART DATAPATH has taken it out of the
counts; that is all, unless the frame is the counted response of a RESTART: then the restart of its scope is taken on
that state in the same event. That the end of an uncounted RESTART response brings no restart is the model's reading
(log 50), and that with nothing in transmission nothing changes is too (log 5). Rests on
01_traffic_path_classification_queues_and_relay_cor.md, Receiving a frame (R3);
01_traffic_path_classification_queues_and_relay_cor.md, Counting (R24); 10_in_band_management.md, Restarting (R201).
-/
def Obligations.TransmitEndCountsAndRestarts : Prop :=
  ∀ (s : State) (dt : Nat) (p : Port),
    ((s.port p).tx = none → exec (.transmitEnd dt p) s = .next s) ∧
    (∀ x, (s.port p).tx = some x →
      let u := (s.pass dt).updPort p fun y =>
        { y with
          tx := none
          ctr := { y.ctr with transmittedFrames :=
            if x.counted then bump y.ctr.transmittedFrames else y.ctr.transmittedFrames } }
      exec (.transmitEnd dt p) s =
        match x.item.role, x.counted with
        | .response (some scope), true => .next (u.restart scope)
        | _, _ => .next u)

/-- What the restart event of RESTART(DATAPATH) leaves. The restart event of RESTART(DATAPATH) keeps every setting,
the clocks and the Epoch, the Port Map, the Flow Table but for its Hit Counts, the link states and the Management
Settings. It empties every egress queue (a frame in transmission goes on uncounted) and the Command Queue, unsets the
Read Cursors, selects nothing, ends the decision and drops a slew and a suspended slew, puts the servo into HOLDOVER
or FREERUN by Phase Valid (F and I holding where that is FREERUN), puts every enabled reference into MONITORING and
leaves every other DISABLED, keeps the History Ring, the minute accumulator and the Budget Table, with no Settle Value
and no Frozen Grade; a Holdover record stays with its Elapsed, is resumed from ACQUIRING, or is entered from LOCKED or
ACQUIRING with the Announced Grade before it as Entry Grade, and into HOLDOVER from another state F and I are given
for its Elapsed (R123, R127); the grade is computed again. An enabled site is MUTED with reason RESTART, ABSENT with
no Last Query Time, its timer running from 0 where link and grade allow (SERVING at once under a Serve Delay of 0),
both sequences 0; the Serving-since-restart flag is false unless a site so serves. The outputs run on: what is high,
the instants taken and the input counts stay; a bypass output of an enabled reference loses its Bypass Offset and has
Fallback; squelch follows the grade. The Alarm Unit keeps the spacing, the sequence, the test interval, and the
LINK_DOWN and TEST records; it stops the quiet intervals with TIMING_LOSS absent, and sets every counter to 0.
RESTART(FULL) gives the state after reset with the straps read again: they are the levels the ADDR pins were last said
to hold, by POWER_ON, RESET_PIN or the RESTART_FULL command itself, which is the model's form of a reading (log 39).
Rests on 01_traffic_path_classification_queues_and_relay_cor.md, Counting (R24);
02_timing_messages_and_upstream_sessions.md, Sessions across resets (R45);
03_reference_monitoring_and_qualification.md, References across resets (R69);
04_reference_selection_and_phase_realignment.md, Selection and realignment across resets (R89);
05_time_engine_and_servo.md, Time Engine across resets (R115); 06_frequency_history_holdover_and_grade.md, Holdover
Unit across resets (R136); 07_site_delivery.md, Delivery across resets (R155); 08_timing_pins.md, Pins across resets
(R167); 09_alarms_and_notices.md, Alarms across resets (R188); 10_in_band_management.md, Restarting (R201, R202). -/
def Obligations.RestartDatapathLeaves : Prop :=
  ∀ (s : State),
    let t := s.restart .datapath
    SameSettings s t ∧ t.clock = s.clock ∧ t.portMap = s.portMap ∧ t.pending = s.pending ∧
    t.mgmt = { s.mgmt with queue := [], waiting := none, cursors := Vector.replicate 26 none, ctr := {} } ∧
    (∀ i, t.flow.get i = { s.flow.get i with hitCount := 0 }) ∧
    (∀ p, t.port p = { s.port p with
      timingQ := [], bulkQ := [], quiet := none, tx := (s.port p).tx.map fun x => { x with counted := false }, ctr := {} }) ∧
    (∀ p, (t.alarm.record (recTimingLoss p)).present = false) ∧
    t.selector = { s.selector with phase := none, phaseForced := false, freq := none, freqForced := false, ctr := {} } ∧
    t.realign = { params := s.realign.params } ∧
    t.servo.phaseValid = s.servo.phaseValid ∧
    t.servo.state = (if s.servo.phaseValid then .holdover else .freerun) ∧
    (s.servo.phaseValid = false → t.servo.f = s.servo.f ∧ t.servo.i = s.servo.i) ∧ t.servo.ctr = {} ∧
    (∀ r, (t.ref r).state = (if (s.ref r).state = .disabled then .disabled else .monitoring) ∧ (t.ref r).ctr = {}) ∧
    t.holdover = { s.holdover with
      settle := none, frozen := none, record := t.holdover.record, announced := t.gradeNow, ctr := {} } ∧
    (s.servo.phaseValid = false ∨ (s.servo.state ≠ .acquiring ∧ s.servo.state ≠ .locked) →
      t.holdover.record = s.holdover.record) ∧
    (s.servo.phaseValid = true → (s.servo.state = .acquiring ∨ s.servo.state = .locked) → ∃ q,
      t.holdover.record = some q ∧
      (s.holdover.record = none → q.entryGrade = s.holdover.announced ∧ q.elapsed = ⟨0, some s.clock.residence⟩ ∧
        q.enteredAt = ⟨s.clock.counter, s.clock.epoch⟩) ∧
      ∀ r, s.holdover.record = some r → q = { r with
        elapsed := { r.elapsed with since := some s.clock.residence }, minuteMark := q.minuteMark }) ∧
    (s.servo.phaseValid = true → s.servo.state = .holdover → t.servo.f = s.servo.f ∧ t.servo.i = s.servo.i) ∧
    (∀ q, s.servo.phaseValid = true → s.servo.state ≠ .holdover → s.servo.state ≠ .freerun →
      t.holdover.record = some q →
      let k := min (timerElapsed q.elapsed s.clock.residence) (4294967295 * secUnits) / (60 * secUnits)
      t.servo.f = heldMag s.servo.params.pullRange (q.h + roundDiv (q.d * k) 60) ∧ t.servo.i = t.servo.f) ∧
    (∀ k, let x := s.site k
      let may := (s.port (sitePort k)).linkUp = true ∧ x.cfg.minGrade ≤ t.holdover.announced
      t.site k = { x with
        state := (t.site k).state, muteReason := (t.site k).muteReason, serve := (t.site k).serve
        present := if x.state = .disabled then x.present else false
        lastQuery := if x.state = .disabled then x.lastQuery else none
        queries := if x.state = .disabled then x.queries else 0
        epochPending := if x.state = .disabled then x.epochPending else false
        nextMark := 0, nextNotice := 0, markDone := (t.site k).markDone, ctr := {} } ∧
      (x.state = .disabled → (t.site k).state = .disabled) ∧
      (x.state ≠ .disabled → may → x.cfg.serveDelay = 0 →
        (t.site k).state = .serving ∧ (t.site k).muteReason = none ∧ (t.site k).serve = ⟨0, none⟩) ∧
      (x.state ≠ .disabled → ¬ (may ∧ x.cfg.serveDelay = 0) →
        (t.site k).state = .muted ∧ (t.site k).muteReason = some .restart ∧
        (may → (t.site k).serve = ⟨0, some s.clock.residence⟩) ∧ (¬ may → (t.site k).serve = ⟨0, none⟩))) ∧
    (t.servingSince = true ↔ ∃ k, (t.site k).state = .serving) ∧
    (∀ c, (t.client c).outstanding = [] ∧ (t.client c).master = none ∧ (t.client c).ctr = {} ∧
      (t.client c).state = (if (s.client c).cfg.enabled && (s.port (clientPort c)).linkUp then .listening else .idle)) ∧
    (∀ k, let x := s.tpin k
      let lost := ∃ r, x.bypassRef = some r ∧ (s.ref r).state ≠ .disabled
      t.tpin k = { x with
        squelched := (t.tpin k).squelched, fallback := (t.tpin k).fallback, bypassOffset := (t.tpin k).bypassOffset
        phase := (t.tpin k).phase, ctr := {} } ∧
      (lost → (t.tpin k).fallback = true ∧ (t.tpin k).bypassOffset = none) ∧
      (¬ lost → (t.tpin k).bypassOffset = x.bypassOffset) ∧
      ((t.tpin k).squelched = true ↔ (x.cfg.function = .ppsOut ∨ x.cfg.function = .freqOut) ∧
        x.cfg.outEnabled = true ∧ t.holdover.announced < x.cfg.squelch)) ∧
    t.alarm.ctr = {} ∧ t.alarm.spacing = s.alarm.spacing ∧ t.alarm.nextSeq = s.alarm.nextSeq ∧
    t.alarm.test = s.alarm.test ∧ (∀ p, t.alarm.record (recLinkDown p) = s.alarm.record (recLinkDown p)) ∧
    t.alarm.record recTest = s.alarm.record recTest ∧
    s.restart .full = { State.reset with
      mgmt := { straps := s.mgmt.straps, station := strapAddress s.mgmt.straps }, free := s.free, pending := s.pending }

/-- LINK_UP: what a link-up event reaches. LINK_UP of a port whose link is DOWN makes it UP and reports LINK_DOWN of
the port absent. On N0 and N1 an enabled session in IDLE goes to LISTENING, and the LINE reference of the port, if
enabled, loses SIGNAL_LOST. On S0 to S5 the Delivery Session of the port, where it is MUTED with a Minimum Grade at
most the Announced Grade and a timer not running, starts its Serve Delay timer, or enters SERVING at once under a
Serve Delay of 0. No other Client Session, and no reference but PKT, LINE of the port and GNSS, changes; the clocks
beyond the time passed, the Flow Table, the Port Map, the Management Unit, the satellite receiver, the windows and
what the pins drive stay, and every port's queues but for TIME_MARKs that a mute withdraws. A port already UP takes no
event (log 5). Rests on 01_traffic_path_classification_queues_and_relay_cor.md, Receiving a frame (R2);
02_timing_messages_and_upstream_sessions.md, Session states (R30); 03_reference_monitoring_and_qualification.md,
Measuring frequency (R58); 07_site_delivery.md, Session states (R141); 09_alarms_and_notices.md, Raising and clearing
(R171). -/
def Obligations.LinkUpBringsThePortUp : Prop :=
  ∀ (s : State) (dt : Nat) (p : Port),
    ((s.port p).linkUp = true → exec (.linkUp dt p) s = .next s) ∧
    ((s.port p).linkUp = false → ∃ t, exec (.linkUp dt p) s = .next t ∧
      (t.port p).linkUp = true ∧ (t.alarm.record (recLinkDown p)).present = false ∧
      (∃ v, UpstreamKept
          (match portClient? p with
            | some c => [clientRef c, lineRef c]
            | none => []) (portClient? p).toList ((s.pass dt).updPort p fun x => { x with linkUp := true }) v ∧
        t = { v with alarm := t.alarm } ∧
        ∀ i, i ≠ recLinkDown p → i ≠ recOverflow → t.alarm.record i = v.alarm.record i) ∧
      (∀ c, portClient? p = some c →
        ((s.client c).state = .idle → (s.client c).cfg.enabled = true → (t.client c).state = .listening) ∧
        ((s.ref (lineRef c)).state ≠ .disabled → Defect.signalLost ∉ (t.ref (lineRef c)).defects)) ∧
      (∀ k, portSite? p = some k → (s.site k).state = .muted →
        (s.site k).cfg.minGrade ≤ s.holdover.announced → 0 < (s.site k).cfg.serveDelay →
        (s.site k).serve.since = none → (t.site k).state = .muted ∧ (t.site k).serve = ⟨0, some t.clock.residence⟩) ∧
      (∀ k, portSite? p = some k → (s.site k).state = .muted →
        (s.site k).cfg.minGrade ≤ s.holdover.announced → (s.site k).cfg.serveDelay = 0 →
        (s.site k).serve.since = none →
        (t.site k).state = .serving ∧ (t.site k).serve = ⟨0, none⟩ ∧ (t.site k).muteReason = none ∧
        t.servingSince = true ∧ (t.site k).ctr.serveEntries = bump (s.site k).ctr.serveEntries))

/-- LINK_DOWN: the port is flushed, its session ends, and a RESTART whose response is lost follows. LINK_DOWN of a
port whose link is UP makes it DOWN, empties both queues and loses the frame in transmission, each frame counted under
Flushed (one that a RESTART DATAPATH took out of the counts too, the model's reading, log 50), and reports LINK_DOWN
of the port present. On N0 and N1 the Client Session goes to IDLE with no master, list, pair or best exchange, and the
LINE reference of the port, if enabled, has SIGNAL_LOST. On S0 to S5 an enabled Delivery Session is MUTED with reason
LINK, its timer stopped at 0. No other Client Session and no reference but PKT, LINE of the port and GNSS changes.
With no RESTART waiting, or none of its responses among the frames lost, that is all. Where a RESTART waits and its
response is among them, Responses Discarded counts it and the restart of its scope follows on that state in the same
event. A port already DOWN takes no event (log 5). Rests on 01_traffic_path_classification_queues_and_relay_cor.md,
The egress queues (R19); 01_traffic_path_classification_queues_and_relay_cor.md, Receiving a frame (R2);
02_timing_messages_and_upstream_sessions.md, Session states (R30); 03_reference_monitoring_and_qualification.md,
Measuring frequency (R58); 07_site_delivery.md, Leaving service (R144); 09_alarms_and_notices.md, Raising and clearing
(R171); 10_in_band_management.md, Restarting (R201). -/
def Obligations.LinkDownFlushesThePort : Prop :=
  ∀ (s : State) (dt : Nat) (p : Port),
    let lost : List FrameRole := (s.port p).timingQ.map (fun f => f.role) ++ (s.port p).bulkQ.map (fun f => f.role) ++
      (match (s.port p).tx with
        | some x => if x.counted then [x.item.role] else []
        | none => [])
    ((s.port p).linkUp = false → exec (.linkDown dt p) s = .next s) ∧
    ((s.port p).linkUp = true → ∃ t,
      (∃ v, UpstreamKept
          (match portClient? p with
            | some c => [clientRef c, lineRef c]
            | none => []) (portClient? p).toList
          ((s.pass dt).updPort p fun x =>
            { x with
              linkUp := false, timingQ := [], bulkQ := [], tx := none
              ctr := { x.ctr with
                flushed := bumpBy (x.timingQ.length + x.bulkQ.length + (if x.tx.isSome then 1 else 0)) x.ctr.flushed } })
          v ∧
        t = { v with alarm := t.alarm } ∧
        ∀ i, i ≠ recLinkDown p → i ≠ recOverflow → t.alarm.record i = v.alarm.record i) ∧
      (t.port p).linkUp = false ∧ (t.port p).timingQ = [] ∧ (t.port p).bulkQ = [] ∧ (t.port p).tx = none ∧
      (t.alarm.record (recLinkDown p)).present = true ∧
      (∀ c, portClient? p = some c →
        ((s.client c).state ≠ .idle → (t.client c).state = .idle ∧ (t.client c).master = none ∧
          (t.client c).outstanding = [] ∧ (t.client c).pair = none ∧ (t.client c).best = none) ∧
        ((s.ref (lineRef c)).state ≠ .disabled → Defect.signalLost ∈ (t.ref (lineRef c)).defects)) ∧
      (∀ k, portSite? p = some k → (s.site k).state ≠ .disabled →
        (t.site k).state = .muted ∧ (t.site k).muteReason = some .link ∧ (t.site k).serve = ⟨0, none⟩) ∧
      (s.mgmt.waiting = none ∨ (∀ scope, FrameRole.response (some scope) ∉ lost) →
        exec (.linkDown dt p) s = .next t) ∧
      (∀ scope, s.mgmt.waiting.isSome = true → FrameRole.response (some scope) ∈ lost →
        (∀ k, FrameRole.response (some k) ∈ lost → k = scope) →
        exec (.linkDown dt p) s =
          .next ((t.countMgmt fun k => { k with responsesDiscarded := bump k.responsesDiscarded }).restart scope)))

/-- QUIET_INTERVAL_EXPIRES: TIMING_LOSS goes absent after 10 s of quiet. Where a port's quiet interval runs and its 10
s end can be reached, QUIET_INTERVAL_EXPIRES brings the relay to that instant, stops the interval and reports
TIMING_LOSS of the port absent; nothing else changes but NOTICE_OVERFLOW and the notices, and the close of a second
that the instant ends (R117). With no interval running nothing changes (log 5). Rests on
01_traffic_path_classification_queues_and_relay_cor.md, The egress queues (R18). -/
def Obligations.QuietIntervalClearsTimingLoss : Prop :=
  ∀ (s : State) (p : Port),
    ((s.port p).quiet = none → exec (.quietIntervalExpires p) s = .next s) ∧
    (∀ q, (s.port p).quiet = some q → s.canReach (q + 10 * secUnits - s.clock.residence) →
      ∃ t, exec (.quietIntervalExpires p) s = .next t ∧ advanced s t (q + 10 * secUnits - s.clock.residence) ∧
        t = { s.arrive t.clock with ports := t.ports, alarm := t.alarm } ∧
        t.port p = { s.port p with quiet := none } ∧ (∀ k, k ≠ p → t.port k = s.port k) ∧
        (t.alarm.record (recTimingLoss p)).present = false ∧ t.alarm.set = s.alarm.set ∧ t.alarm.cfg = s.alarm.cfg ∧
        ∀ i, i ≠ recTimingLoss p → i ≠ recOverflow → t.alarm.record i = s.alarm.record i)

/-- A QUALITY_NOTICE in LISTENING and in EXCHANGING. A QUALITY_NOTICE of its Domain reaches a session that is not
IDLE. With no master: a serving one makes the session EXCHANGING with the Master Address of the Source field, the
notice's Grade and Epoch, its notice interval at 0 and NOTICE_MISSING absent (its first query being due at the first
due instant strictly after this moment, which the field queryDone keeps: the model's form of R36, log 36); one that
does not serve is counted under Not Serving. With a master: another Source counts under Foreign Notices, a notice that
does not serve under Not Serving, and a serving one of the master restarts the interval and takes the Grade and Epoch,
an Epoch that differs also discarding the pair and the best exchange and counting under Master Epoch Changes, the list
kept. No other session and no reference but the session's own and GNSS changes. Rests on
02_timing_messages_and_upstream_sessions.md, Accepting a master (R32, R33, R34);
02_timing_messages_and_upstream_sessions.md, Session states (R30); 02_timing_messages_and_upstream_sessions.md, The
query schedule (R36). -/
def Obligations.ServingNoticeMakesAMaster : Prop :=
  ∀ (s : State) (c : Client) (f : Frame) (stamps : Ingress),
    let x := s.client c
    let h := readHeader f.payload
    let source : Addr := BitVec.ofNat 48 (beNat (slice 28 (min 6 h.bodyLen) f.payload))
    x.state ≠ .idle → h.domain = x.cfg.domain → h.type = 2 →
    (x.master = none → h.serving = true →
      UpstreamKept [clientRef c] [c] s (s.clientSort c f stamps) ∧
      (s.clientSort c f stamps).client c = { x with
        state := .exchanging, master := some ⟨source, h.grade, h.epoch⟩, noticeStart := s.clock.residence
        noticeMissing := false, queryDone := s.clock.counter }) ∧
    (x.master = none → h.serving = false →
      s.clientSort c f stamps = s.countClient c fun k => { k with notServing := bump k.notServing }) ∧
    (∀ m, x.master = some m → source ≠ m.addr →
      s.clientSort c f stamps = s.countClient c fun k => { k with foreignNotices := bump k.foreignNotices }) ∧
    (∀ m, x.master = some m → source = m.addr → h.serving = false →
      s.clientSort c f stamps = s.countClient c fun k => { k with notServing := bump k.notServing }) ∧
    (∀ m, x.master = some m → source = m.addr → h.serving = true →
      UpstreamKept [clientRef c] [c] s (s.clientSort c f stamps) ∧
      (s.clientSort c f stamps).client c =
        if h.epoch = m.epoch then
          { x with noticeStart := s.clock.residence, master := some ⟨source, h.grade, h.epoch⟩ }
        else
          { x with
            noticeStart := s.clock.residence, master := some ⟨source, h.grade, h.epoch⟩, pair := none, best := none
            ctr := { x.ctr with masterEpochChanges := bump x.ctr.masterEpochChanges } })

/-- How a Client Session sorts a timing frame, takes a TIME_MARK pair, and completes an exchange with a DELAY_REPLY. A
frame of a Type 1 to 4 meets the tests in order: an IDLE session counts it under Idle Discards; another Domain under
Other Domain; a DELAY_QUERY under Unused Types; in LISTENING a TIME_MARK under No Master and a DELAY_REPLY under
Stray; in EXCHANGING a TIME_MARK or DELAY_REPLY of another source than the master, or a reply to another address than
the Station Address, under Foreign Frames; one of another Epoch than the Master Epoch under Master Epoch Mismatch. A
TIME_MARK that passes and whose ingress Epoch is not the current one counts under Stale Marks, any other becomes the
pair: t1 and c1 of the message, t2 and the Epoch of its stamps. A DELAY_REPLY that passes, with no record of its
Sequence or none whose t3 is present, counts under Stray. Otherwise the record leaves the list and Replies Matched is
one higher; without a TIME_MARK pair the exchange counts under No Pair; with a pair, the round trip is (t2 - t1 - c1)
+ (t4 - t3 - c4), a negative one counts under Negative Delay, and any other enters the best-exchange record unless
that holds a smaller round trip. The phase sample is minus half of (forward - reverse - A) in whole nanoseconds,
rounded to nearest with ties away from zero. Nothing but the session changes. Rests on
02_timing_messages_and_upstream_sessions.md, Receiving a timing frame (R31);
02_timing_messages_and_upstream_sessions.md, The TIME_MARK pair (R35); 02_timing_messages_and_upstream_sessions.md,
Matching a reply (R38); 02_timing_messages_and_upstream_sessions.md, Computing an exchange (R40);
02_timing_messages_and_upstream_sessions.md, The best exchange of a second (R41). -/
def Obligations.ReplyCompletesAnExchange : Prop :=
  (∀ (s : State) (c : Client) (f : Frame) (stamps : Ingress),
    let x := s.client c
    let h := readHeader f.payload
    let counts (g : ClientCounters → ClientCounters) : Prop := s.clientSort c f stamps = s.countClient c g
    let foreign (m : Master) : Prop := f.src ≠ m.addr ∨ (h.type = 4 ∧ f.dst ≠ s.mgmt.station)
    (x.state = .idle → counts fun k => { k with idleDiscards := bump k.idleDiscards }) ∧
    (x.state ≠ .idle → h.domain ≠ x.cfg.domain → counts fun k => { k with otherDomain := bump k.otherDomain }) ∧
    (x.state ≠ .idle → h.domain = x.cfg.domain → h.type = 3 →
      counts fun k => { k with unusedTypes := bump k.unusedTypes }) ∧
    (x.state = .listening → x.master = none → h.domain = x.cfg.domain →
      (h.type = 1 → counts fun k => { k with noMaster := bump k.noMaster }) ∧
      (h.type = 4 → counts fun k => { k with stray := bump k.stray })) ∧
    (∀ m, x.state = .exchanging → x.master = some m → h.domain = x.cfg.domain → (h.type = 1 ∨ h.type = 4) →
      (foreign m → counts fun k => { k with foreignFrames := bump k.foreignFrames }) ∧
      (¬ foreign m → h.epoch ≠ m.epoch → counts fun k => { k with masterEpochMismatch := bump k.masterEpochMismatch }) ∧
      (¬ foreign m → h.epoch = m.epoch → h.type = 1 →
        (stamps.epoch ≠ s.clock.epoch → counts fun k => { k with staleMarks := bump k.staleMarks }) ∧
        (stamps.epoch = s.clock.epoch → s.clientSort c f stamps = s.updClient c fun y =>
          { y with pair := some { t1 := h.seconds * 65536000000000 + h.nanos * 65536, c1 := h.correction
                                  t2 := stamps.counter, epoch := stamps.epoch } })))) ∧
  (∀ (s : State) (c : Client) (m : Master) (f : Frame) (stamps : Ingress),
    let x := s.client c
    let h := readHeader f.payload
    x.state = .exchanging → x.master = some m → h.domain = x.cfg.domain → h.type = 4 → f.src = m.addr →
    f.dst = s.mgmt.station → h.epoch = m.epoch →
    ((∀ r, r ∈ x.outstanding → r.seq ≠ h.seq) → s.clientSort c f stamps =
      s.countClient c fun k => { k with stray := bump k.stray }) ∧
    (∀ r, x.outstanding.find? (fun q => q.seq = h.seq) = some r → r.t3 = none →
      s.clientSort c f stamps = s.countClient c fun k => { k with stray := bump k.stray }) ∧
    (∀ r t3, x.outstanding.find? (fun q => q.seq = h.seq) = some r → r.t3 = some t3 →
      let y : ClientSession := { x with
        outstanding := x.outstanding.filter fun q => q.seq ≠ h.seq
        ctr := { x.ctr with repliesMatched := bump x.ctr.repliesMatched } }
      (x.pair = none → s.clientSort c f stamps = s.updClient c fun _ =>
        { y with ctr := { y.ctr with noPair := bump y.ctr.noPair } }) ∧
      (∀ p, x.pair = some p →
        let t4 : Int := h.seconds * 65536000000000 + h.nanos * 65536
        let forward : Int := p.t2 - p.t1 - p.c1
        let reverse : Int := t4 - t3 - h.correction
        let twice : Int := forward - reverse - x.cfg.asymmetry * 65536
        ∃ sample : Int,
          (131072 * sample + twice).natAbs ≤ 65536 ∧
          ((131072 * sample + twice).natAbs = 65536 → twice.natAbs ≤ (131072 * sample).natAbs) ∧
          s.clientSort c f stamps = s.updClient c fun _ =>
            if forward + reverse < 0 then { y with ctr := { y.ctr with negativeDelay := bump y.ctr.negativeDelay } }
            else
              match x.best with
              | some b =>
                if b.roundTrip < forward + reverse then y else { y with best := some ⟨sample, forward + reverse⟩ }
              | none => { y with best := some ⟨sample, forward + reverse⟩ })))

/-- QUERY_DUE: the next due instant, and the query it sends. The next due instant of a schedule is the first multiple
of its period after every instant already taken that the counter has not passed. Where a session with a master can
reach its own, QUERY_DUE brings the relay there and takes it. With 8 records outstanding the query counts under
Skipped and no sequence is used. Otherwise the next sequence is used; where the port's link is UP and its Timing Queue
holds fewer than 16 frames, the record joins the list with that sequence, no t3, the Epoch and its creation time, and
the DELAY_QUERY joins the Timing Queue, addressed to the Master Address with zero Grade, Flags, Timestamp and
Correction; else no record stays, Query Discards is one higher and the discard follows R16. Other sessions and other
ports stay, and the rest but for the close of a second that the instant ends (R117). That the instants already taken
are kept, and that a session's first is the one strictly after its start, is the model's form (log 36); a session
without a master has none due, and the command changes nothing (log 5). Rests on
02_timing_messages_and_upstream_sessions.md, The query schedule (R36); 02_timing_messages_and_upstream_sessions.md,
Sending a query (R37); 02_timing_messages_and_upstream_sessions.md, The timing messages (R25, R28);
01_traffic_path_classification_queues_and_relay_cor.md, The egress queues (R16). -/
def Obligations.QueryDueSendsAQuery : Prop :=
  (∀ period done counter : Nat, 0 < period →
    let due := nextDue period done counter
    done < due ∧ counter ≤ due ∧ due % period = 0 ∧
      ∀ k, k % period = 0 → done < k → counter ≤ k → due ≤ k) ∧
  (∀ (s : State) (c : Client),
    let x := s.client c
    let due := nextDue (65536000000000 / x.rate) x.queryDone s.clock.counter
    (x.master = none → exec (.queryDue c) s = .next s) ∧
    (∀ m, x.master = some m → s.canReach (due - s.clock.counter) →
      ∃ t, exec (.queryDue c) s = .next t ∧ advanced s t (due - s.clock.counter) ∧
        t = { s.arrive t.clock with ports := t.ports, sessions := t.sessions, alarm := t.alarm } ∧
        (∀ d, d ≠ c → t.client d = s.client d) ∧ (∀ k, k ≠ clientPort c → t.port k = s.port k) ∧
        (∀ i, i ≠ recTimingLoss (clientPort c) → i ≠ recOverflow → t.alarm.record i = s.alarm.record i) ∧
        (8 ≤ x.outstanding.length → t.port (clientPort c) = s.port (clientPort c) ∧
          t.client c = { x with queryDone := due, ctr := { x.ctr with skipped := bump x.ctr.skipped } }) ∧
        (x.outstanding.length < 8 →
          t.port (clientPort c) = (s.port (clientPort c)).offered t.clock.residence .timing
            ⟨{ dst := m.addr, src := s.mgmt.station, tag := builtTag x.cfg.queryVlan
               etherType := BitVec.ofNat 16 s.mgmt.partEther
               payload := headerBytes { cls := 1, type := 3, domain := x.cfg.domain, flags := 0, seq := x.nextSeq
                                        grade := 0, epoch := s.clock.epoch, seconds := 0, nanos := 0, correction := 0
                                        bodyLen := 0 } }, .delayQuery x.nextSeq⟩ ∧
          t.client c =
            if (s.port (clientPort c)).linkUp = true ∧ (s.port (clientPort c)).timingQ.length < 16 then
              { x with
                queryDone := due, nextSeq := (x.nextSeq + 1) % 65536
                outstanding := x.outstanding ++
                  [{ seq := x.nextSeq, t3 := none, epoch := s.clock.epoch, created := t.clock.residence }] }
            else
              { x with
                queryDone := due, nextSeq := (x.nextSeq + 1) % 65536
                outstanding := x.outstanding.filter fun q => q.seq ≠ x.nextSeq
                ctr := { x.ctr with queryDiscards := bump x.ctr.queryDiscards } })))

/-- REPLY_TIMEOUT, NOTICE_INTERVAL_EXPIRES, and a written Client Session Configuration. Where the age of the oldest
record can reach Reply Timeout, REPLY_TIMEOUT brings the relay there and removes that record, counted under Lost, and
nothing else. Where the notice interval of an EXCHANGING session can reach Notice Timeout, NOTICE_INTERVAL_EXPIRES
brings the relay there: the session goes to LISTENING with no master, list, pair or best exchange and NOTICE_MISSING
present, and its reference, if enabled, has SIGNAL_LOST and NOTICE_MISSING; no other session and no reference but that
and GNSS changes. Without a record, or out of EXCHANGING, nothing changes (log 5). A PUT of one Client Session
Configuration stores each field, numbers clamped to their ranges, and is answered ADJUSTED where one was clamped; the
same values change nothing; Enabled to false takes a session to IDLE, and a Domain or Query VLAN changed while it
stays enabled takes one that is not IDLE to LISTENING, either without master, list, pair and best exchange; Enabled to
true takes one that is IDLE to LISTENING where the link is UP. A changed Reply Timeout loses, counted under Lost, the
records whose age has reached it, and a changed Notice Timeout that the running interval has reached expires it at
once, NOTICE_MISSING present. No other session and no reference but the session's own and GNSS changes. (Where several
fields change, the model's order is log 57.) Rests on 02_timing_messages_and_upstream_sessions.md, Matching a reply
(R39); 02_timing_messages_and_upstream_sessions.md, Accepting a master (R33);
02_timing_messages_and_upstream_sessions.md, Configuration (R29); 02_timing_messages_and_upstream_sessions.md,
Emptying a session (R43); 03_reference_monitoring_and_qualification.md, Taking a packet sample (R54);
10_in_band_management.md, Writing a table (R196). -/
def Obligations.SessionTimersRunOut : Prop :=
  (∀ (s : State) (c : Client),
    let x := s.client c
    (x.outstanding = [] → exec (.replyTimeout c) s = .next s) ∧
    (∀ q rest, x.outstanding = q :: rest →
      let d := q.created + x.cfg.replyTimeout * 65536000000 - s.clock.residence
      s.canReach d → ∃ t, exec (.replyTimeout c) s = .next t ∧ advanced s t d ∧
        t = { s.arrive t.clock with sessions := t.sessions } ∧
        t.client c = { x with outstanding := rest, ctr := { x.ctr with lost := bump x.ctr.lost } } ∧
        ∀ k, k ≠ c → t.client k = s.client k) ∧
    (x.state ≠ .exchanging → exec (.noticeIntervalExpires c) s = .next s) ∧
    (let d := x.noticeStart + x.cfg.noticeTimeout * secUnits - s.clock.residence;
      x.state = .exchanging → s.canReach d → ∃ t, exec (.noticeIntervalExpires c) s = .next t ∧ advanced s t d ∧
        UpstreamKept [clientRef c] [c] { s with clock := t.clock } t ∧
        t.client c = { x with
          state := .listening, master := none, outstanding := [], pair := none, best := none, noticeMissing := true } ∧
        ((s.ref (clientRef c)).state ≠ .disabled →
          Defect.signalLost ∈ (t.ref (clientRef c)).defects ∧ Defect.noticeMissing ∈ (t.ref (clientRef c)).defects))) ∧
  (∀ (s : State) (dt : Nat) (c : Command) (q : Client) (enabled : Bool) (domain timeout asym notice : Int) (rate : Nat)
      (vlan : Option Int),
    isField domain → isField timeout → isField asym → isField notice → isOptField vlan → rate ∈ queryRates →
    s.putsOne c 3 (clientIdx q).val (encBool enabled ++ encNum domain ++ encIn queryRates rate ++ encNum timeout ++
      encNum asym ++ encOptInt vlan ++ encNum notice) →
    let v := s.pass dt
    let x := s.client q
    let cfg : ClientCfg :=
      { enabled := enabled, domain := held 0 127 domain, queryRate := rate, replyTimeout := held 100 2000 timeout
        asymmetry := heldMag 100000 asym, queryVlan := vlan.map (held 0 4095), noticeTimeout := held 2 16 notice }
    let exact := kept 0 127 domain ∧ kept 100 2000 timeout ∧ kept (-100000) 100000 asym ∧ kept 2 16 notice ∧
      ∀ y, vlan = some y → kept 0 4095 y
    ∃ u t, exec (.put dt) s = .next t ∧ PutStored u t s.mgmt.station c 3 (clientIdx q).val exact ∧
      UpstreamKept [clientRef q] [q] v u ∧ (u.client q).cfg = cfg ∧ (cfg = x.cfg → u = v) ∧
      (x.cfg.enabled = true → enabled = false → x.state ≠ .idle → (u.client q).state = .idle ∧
        (u.client q).master = none ∧ (u.client q).outstanding = [] ∧ (u.client q).pair = none ∧ (u.client q).best = none) ∧
      (x.cfg.enabled = true → enabled = true → (cfg.domain ≠ x.cfg.domain ∨ cfg.queryVlan ≠ x.cfg.queryVlan) →
        x.state ≠ .idle → (u.client q).state = .listening ∧ (u.client q).master = none ∧
        (u.client q).outstanding = [] ∧ (u.client q).pair = none ∧ (u.client q).best = none) ∧
      (x.cfg.enabled = false → enabled = true → x.state = .idle → (s.port (clientPort q)).linkUp = true →
        (u.client q).state = .listening ∧ (u.client q).master = none) ∧
      (let aged (r : QueryRec) : Bool := decide (cfg.replyTimeout * 65536000000 ≤ v.clock.residence - r.created)
        let kept' := if cfg.replyTimeout = x.cfg.replyTimeout then x.outstanding else x.outstanding.filter fun r => !aged r
        let spent := cfg.noticeTimeout ≠ x.cfg.noticeTimeout ∧ x.state = .exchanging ∧
          cfg.noticeTimeout * secUnits ≤ v.clock.residence - x.noticeStart
        enabled = x.cfg.enabled → cfg.domain = x.cfg.domain → cfg.queryVlan = x.cfg.queryVlan →
        (u.client q).ctr = { x.ctr with
          lost := if cfg.replyTimeout = x.cfg.replyTimeout then x.ctr.lost
            else min (x.ctr.lost + (x.outstanding.length - kept'.length)) 4294967295 } ∧
        (¬ spent → u.client q = { x with cfg := cfg, outstanding := kept', ctr := (u.client q).ctr }) ∧
        (spent → (u.client q).state = .listening ∧ (u.client q).master = none ∧ (u.client q).outstanding = [] ∧
          (u.client q).noticeMissing = true)))

/-- STARVE_COUNT_REACHED, and how a second's sample is judged. Where the Starve Count of an enabled PKT reference
stands at Starve Seconds or above, STARVE_COUNT_REACHED leaves STARVED in its defect set, and no other reference but
GNSS, no session and no port but for withdrawn TIME_MARKs changes. Below Starve Seconds nothing changes. That the
event acts on the count as it stands is the model's reading (log 14). At a boundary the sample p of an enabled phase-
capable reference, or its absence, is judged: e_raw is p plus Compensation and becomes the last e_raw; PHASE_JUMP is
present exactly where e_raw differs from the last e_raw by more than Jump Limit, each such sample counted under Phase
Jumps; PHASE_FAR stays present unless e_raw is within Max Offset; a sample sets the Starve Count of a PKT reference to
0, a second without one adds one, and STARVED is present exactly from Starve Seconds on. Without a sample the last
e_raw stays. No other reference but GNSS changes. A DISABLED reference takes no sample. Defects moved by one sample
are put into the set together (log 12). Rests on 03_reference_monitoring_and_qualification.md, Taking a packet sample
(R54); 03_reference_monitoring_and_qualification.md, Handing samples on (R55, R56);
03_reference_monitoring_and_qualification.md, Judging a reference (R62). -/
def Obligations.StarvedAtItsCount : Prop :=
  (∀ (s : State) (c : Client),
    let x := s.ref (clientRef c)
    (x.starve < x.cfg.starveSeconds → exec (.starveCountReached c) s = .next s) ∧
    (x.cfg.starveSeconds ≤ x.starve → x.state ≠ .disabled → ∃ t, exec (.starveCountReached c) s = .next t ∧
      UpstreamKept [clientRef c] [] s t ∧ Defect.starved ∈ (t.ref (clientRef c)).defects)) ∧
  (∀ (s : State) (r : Ref) (sample : Option Int), phaseCapable r = true →
    let x := s.ref r
    let t := s.judgeSample sample r
    let e := sample.map fun p => p + x.cfg.compensation
    let jumps : Prop := ∃ a b, e = some a ∧ x.lastE = some b ∧ x.cfg.jumpLimit < (a - b).natAbs
    (x.state = .disabled → t = s) ∧
    (x.state ≠ .disabled → UpstreamKept [r] [] s t ∧
      (t.ref r).lastE = e.or x.lastE ∧ (Defect.phaseJump ∈ (t.ref r).defects ↔ jumps) ∧
      (jumps → (t.ref r).ctr.phaseJumps = bump x.ctr.phaseJumps) ∧
      (¬ jumps → (t.ref r).ctr.phaseJumps = x.ctr.phaseJumps) ∧
      (Defect.phaseFar ∈ (t.ref r).defects ↔ Defect.phaseFar ∈ x.defects ∧
        ∀ a, e = some a → s.realign.params.maxOffset < a.natAbs) ∧
      (r ≠ .gnss → (t.ref r).starve = (if sample.isSome then 0 else min (x.starve + 1) 4294967295) ∧
        (Defect.starved ∈ (t.ref r).defects ↔ x.cfg.starveSeconds ≤ (t.ref r).starve))))

/-- PPS_INPUT_EDGE: the pin keeps its stamp, and GNSS takes its sample. An edge of a pin that holds PPS_IN is stamped
in its Last Input and counted under Input Edges; on another pin it is nothing (log 5). With GNSS DISABLED that is all.
With GNSS enabled, an edge less than 500 ms after the last accepted one counts under Spurious Edges alone. An accepted
edge takes the held record as its label, or counts under Unlabelled Edges; it becomes the one pending sample of its
nearest second s, its p being label (or s) times 10^9 less the counter in rounded nanoseconds, a replaced sample of
that second counting under Replaced Edges; a labelled edge leaves TOD_MISMATCH present exactly where the servo is not
in FREERUN and the label is not s, an unlabelled one leaves it as it is (where the edge does not fail GNSS at once:
that can bring FREERUN, which drops it, R53); GNSS loses SIGNAL_LOST and its signal interval starts at this moment;
the pin's record is as just said, and of a pin nothing but squelch, fallback and the place of its cycles can follow
the grades and states that the edge brings about. Nothing upstream but that changes. (Two samples can wait at once,
log 28.) Rests on 08_timing_pins.md, Inputs (R159); 08_timing_pins.md, Pin drive and status (R158);
03_reference_monitoring_and_qualification.md, Taking a satellite edge (R49);
03_reference_monitoring_and_qualification.md, Reading the time-of-day line (R51);
03_reference_monitoring_and_qualification.md, Computing the satellite phase (R52, R53). -/
def Obligations.PpsEdgeIsTaken : Prop :=
  ∀ (s : State) (dt : Nat) (k : Fin 4),
    let v := (s.pass dt).updPin k fun x => { x with
      lastInput := some ⟨(s.pass dt).clock.counter, s.clock.epoch⟩
      ctr := { x.ctr with inputEdges := bump x.ctr.inputEdges } }
    let x := s.ref .gnss
    ((s.tpin k).cfg.function ≠ .ppsIn → exec (.ppsInputEdge dt k) s = .next s) ∧
    ((s.tpin k).cfg.function = .ppsIn → x.state = .disabled → exec (.ppsInputEdge dt k) s = .next v) ∧
    ((s.tpin k).cfg.function = .ppsIn → x.state ≠ .disabled →
      (∀ last, x.lastEdge = some last → v.clock.residence - last < 500 * msUnits →
        exec (.ppsInputEdge dt k) s =
          .next (v.countGnss fun c => { c with spuriousEdges := bump c.spuriousEdges })) ∧
      ((∀ last, x.lastEdge = some last → 500 * msUnits ≤ v.clock.residence - last) →
        let ns := (v.clock.counter + 32768) / 65536
        let near := (ns + 499999999) / 1000000000
        let label := s.gnss.held.map fun i => i.label
        ∃ t, exec (.ppsInputEdge dt k) s = .next t ∧
          UpstreamKept [.gnss] []
            { v with gnss := { s.gnss with
                held := none
                samples := s.gnss.samples.filter (fun y => y.second ≠ near) ++
                  [{ second := near, p := (label.getD near : Int) * 1000000000 - ns, epoch := s.clock.epoch }]
                ctr := { s.gnss.ctr with
                  unlabelledEdges :=
                    if label = none then bump s.gnss.ctr.unlabelledEdges else s.gnss.ctr.unlabelledEdges
                  replacedEdges :=
                    if s.gnss.samples.any (fun y => y.second = near) then bump s.gnss.ctr.replacedEdges
                    else s.gnss.ctr.replacedEdges } } } t ∧
          (let differs : Prop := match label with
              | some l => s.servo.state ≠ .freerun ∧ l ≠ near
              | none => Defect.todMismatch ∈ x.defects
            (Defect.todMismatch ∈ (t.ref .gnss).defects → differs) ∧
            (differs → x.state ≠ .restoring → (x.state = .qualified → 0 < x.cfg.holdOff) →
              Defect.todMismatch ∈ (t.ref .gnss).defects)) ∧
          Defect.signalLost ∉ (t.ref .gnss).defects ∧ (t.ref .gnss).lastEdge = some v.clock.residence ∧
          (t.tpin k).lastInput = some ⟨v.clock.counter, s.clock.epoch⟩ ∧ (t.tpin k).cfg = (s.tpin k).cfg ∧
          (t.tpin k).ctr.inputEdges = bump (s.tpin k).ctr.inputEdges ∧ (t.tpin k).cycles = (s.tpin k).cycles ∧
          (t.tpin k).high = (s.tpin k).high))

/-- FREQ_INPUT_EDGE and LINE_CLOCK_CYCLE, and the frequency windows that are judged on their counts. Edges of a pin
that holds FREQ_IN are added to its cycles and the last is stamped in its Last Input; with EXT enabled they also start
its edge interval and make SIGNAL_LOST of EXT absent, the pin's record being as just said and nothing else upstream
changing; on another pin they are nothing (log 5). Cycles of the recovered clock of a network port whose link is UP
are added to its count and the last is stamped, and nothing else changes; with the link DOWN they are nothing (log 5).
One command stands for one or more edges or cycles (log 38). A window gives d, rounded to nearest with ties away from
zero: for GNSS and PKT (p_end - p_start) 1,000 / 16; for LINE and EXT the excess of the advance between the captures
over 16 s, times 1,000 / (16 65,536), a capture being the cycles in units of reference time plus the counter's
interval since the last of them, if that has the current Epoch (log 30), and without one there is none. A window with
a sample or capture missing at either end, or voided, gives no result; F mean is the sum of F over the sixteen seconds
/ 16, rounded in the same way, each second adding the F that stands once the work of its opening boundary is done.
Judging d for an enabled reference: FREQ_RANGE is present exactly where |d + F mean| exceeds Accept Range, WANDER
where the previous window gave a result that differs by more than Wander Limit; d is the Last Frequency Offset, and d
+ F mean the Bypass Offset of the pins in bypass of it. A void window is counted under Windows Void and leaves defects
and Last Frequency Offset; of a reference that is DISABLED no window is judged or counted, which is the model's choice
(log 60). No other reference but GNSS changes. Rests on 08_timing_pins.md, Inputs (R160); 08_timing_pins.md, Pin drive
and status (R158); 08_timing_pins.md, Frequency outputs (R163); 03_reference_monitoring_and_qualification.md,
Measuring frequency (R57, R58, R59). -/
def Obligations.FrequencyInputsCountTheirCycles : Prop :=
  (∀ (s : State) (dt edges : Nat), 0 < edges →
    let now : Stamp := ⟨(s.pass dt).clock.counter, s.clock.epoch⟩
    (∀ k, (s.tpin k).cfg.function ≠ .freqIn → exec (.freqInputEdge dt k edges) s = .next s) ∧
    (∀ k, (s.tpin k).cfg.function = .freqIn →
      let v := (s.pass dt).updPin k fun x => { x with lastInput := some now, cycles := x.cycles + edges }
      ((s.ref .ext).state = .disabled → exec (.freqInputEdge dt k edges) s = .next v) ∧
      ((s.ref .ext).state ≠ .disabled → ∃ t, exec (.freqInputEdge dt k edges) s = .next t ∧
        UpstreamKept [.ext] [] v t ∧ Defect.signalLost ∉ (t.ref .ext).defects ∧
        (t.ref .ext).lastEdge = some v.clock.residence ∧ (t.tpin k).lastInput = some now ∧
        (t.tpin k).cycles = (s.tpin k).cycles + edges ∧ (t.tpin k).cfg = (s.tpin k).cfg ∧
        (t.tpin k).ctr.inputEdges = (s.tpin k).ctr.inputEdges)) ∧
    (∀ c, (s.port (clientPort c)).linkUp = false → exec (.lineClockCycle dt c edges) s = .next s) ∧
    (∀ c, (s.port (clientPort c)).linkUp = true → exec (.lineClockCycle dt c edges) s =
      .next ((s.pass dt).updPort (clientPort c) fun x =>
        { x with lineCycles := x.lineCycles + edges, lineEdge := some now }))) ∧
  (∀ (s : State) (b : Nat) (r : Ref),
    let x := s.ref r
    let nearest (d whole n : Int) : Prop := 2 * (n * d - whole).natAbs ≤ n.natAbs ∧
      (2 * (n * d - whole).natAbs = n.natAbs → whole.natAbs ≤ (n * d).natAbs)
    let captured (unit cycles : Nat) (edge : Option Stamp) (cap : Nat) : Prop :=
      ∃ e, edge = some e ∧ e.epoch = s.clock.epoch ∧ cap = cycles * unit + (s.clock.counter - e.counter)
    (∀ p0 p1, phaseCapable r = true → x.pStart = some p0 → s.sampleOf b r = some p1 →
      ∃ d, s.windowResult b r = some d ∧ nearest d ((p1 - p0) * 1000) 16) ∧
    (∀ c0 c1 : Nat, phaseCapable r = false → x.winVoid = false → x.capStart = some c0 → s.captureOf r = some c1 →
      ∃ d, s.windowResult b r = some d ∧
        nearest d (((c1 : Int) - c0 - 16 * 65536000000000) * 1000) (16 * 65536)) ∧
    (phaseCapable r = true → x.pStart = none ∨ s.sampleOf b r = none → s.windowResult b r = none) ∧
    (phaseCapable r = false → x.winVoid = true ∨ x.capStart = none ∨ s.captureOf r = none →
      s.windowResult b r = none) ∧
    (∀ c cap, r = lineRef c → (s.captureOf r = some cap ↔
      captured 524288 (s.port (clientPort c)).lineCycles (s.port (clientPort c)).lineEdge cap)) ∧
    (∀ k cap, r = .ext → (s.tpin k).cfg.function = .freqIn → (∀ j, (s.tpin j).cfg.function = .freqIn → j = k) →
      (s.captureOf r = some cap ↔
        captured (65536000000000 / x.cfg.declaredRate) (s.tpin k).cycles (s.tpin k).lastInput cap)) ∧
    (r = .ext → (∀ k, (s.tpin k).cfg.function ≠ .freqIn) → s.captureOf r = none) ∧
    nearest (s.gather b).meanF s.window.fSum 16 ∧
    (s.addMeanF b).window.fSum = (if b % 16 = 0 then s.servo.f else s.window.fSum + s.servo.f)) ∧
  (∀ (s : State) (meanF : Int) (r : Ref),
    let x := s.ref r
    (∀ d, x.state = .disabled → s.judgeWindow meanF d r = s) ∧
    (x.state ≠ .disabled → s.judgeWindow meanF none r = s.updRef r fun y =>
      { y with prevD := none, ctr := { y.ctr with windowsVoid := bump y.ctr.windowsVoid } }) ∧
    (∀ d, x.state ≠ .disabled →
      let t := s.judgeWindow meanF (some d) r
      UpstreamKept [r] [] { s with pins := t.pins } t ∧
      (Defect.freqRange ∈ (t.ref r).defects ↔ x.cfg.acceptRange < (d + meanF).natAbs) ∧
      (Defect.wander ∈ (t.ref r).defects ↔ ∃ p, x.prevD = some p ∧ x.cfg.wanderLimit < (d - p).natAbs) ∧
      (t.ref r).lastD = some d ∧ (t.ref r).prevD = some d ∧
      (∀ k, (s.tpin k).bypassRef = some r → (t.tpin k).bypassOffset = some (d + meanF)) ∧
      ∀ k, (s.tpin k).bypassRef ≠ some r → (s.tpin k).steady (t.tpin k)))

/-- TOD_BYTE_RECEIVED, TOD_FRAMING_ERROR and TOD_BYTE_GAP. With GNSS enabled and no gap beyond 20 ms: a byte taken
while the receiver hunts starts a record if it is 0xA5 and is otherwise ignored; a byte taken with 1 to 10 bytes
assembled joins them; a framing error discards what is assembled, counted under Bad Record. A gap beyond 20 ms
discards what is assembled, counted under Bad Record, before the next byte is taken, or at TOD_BYTE_GAP, which is the
first instant beyond it (log 49). With GNSS DISABLED bytes and framing errors are nothing. With nothing assembled
TOD_BYTE_GAP changes nothing (log 5). Nothing changes but the clocks and the receiver, and by the close of a second
that the gap's end ends (R117). Rests on 11_frame_and_record_formats.md, The time-of-day record (R207). -/
def Obligations.TodLineAssemblesARecord : Prop :=
  ∀ (s : State) (dt : Nat) (b : Byte),
    let u := s.pass dt
    let g := s.gnss
    let dropped : Gnss := if g.partialRecord = [] then g else
      { g with partialRecord := [], ctr := { g.ctr with badRecord := bump g.ctr.badRecord } }
    ((s.ref .gnss).state = .disabled →
      exec (.todByteReceived dt b) s = .next u ∧ exec (.todFramingError dt) s = .next u) ∧
    ((s.ref .gnss).state ≠ .disabled →
      exec (.todFramingError dt) s = .next { u with gnss := dropped } ∧
      (u.clock.residence - g.lastByteAt ≤ 20 * msUnits →
        (g.partialRecord = [] → exec (.todByteReceived dt b) s =
          .next { u with gnss := { g with
            lastByteAt := u.clock.residence, partialRecord := if b = 0xA5 then [0xA5] else [] } }) ∧
        (0 < g.partialRecord.length → g.partialRecord.length < 11 → exec (.todByteReceived dt b) s =
          .next { u with gnss := { g with
            lastByteAt := u.clock.residence, partialRecord := g.partialRecord ++ [b] } })) ∧
      (20 * msUnits < u.clock.residence - g.lastByteAt → exec (.todByteReceived dt b) s =
        .next { u with gnss := { dropped with
          lastByteAt := u.clock.residence, partialRecord := if b = 0xA5 then [0xA5] else [] } })) ∧
    (g.partialRecord = [] → exec .todByteGap s = .next s) ∧
    (g.partialRecord ≠ [] → s.canReach (g.lastByteAt + 20 * msUnits + 1 - s.clock.residence) →
      ∃ t, exec .todByteGap s = .next t ∧ advanced s t (g.lastByteAt + 20 * msUnits + 1 - s.clock.residence) ∧
        t = { s.arrive t.clock with gnss := dropped })

/-- TOD_RECORD: the four tests of a record and what a valid one does. With GNSS enabled, 11 bytes assembled and no gap
beyond 20 ms, the twelfth byte ends the record and the tests are taken in order: a checksum other than the low byte of
the sum of the first eleven counts under Bad Checksum; a fix status other than 1 under No Fix; a receiver grade above
15 or more than 63 satellites under Bad Record; no accepted edge, or one less than 100 ms ago, under Out Of Window. A
valid record is counted, becomes the held one (one already held counting under Replaced Records), starts the time-of-
day interval, and leaves GNSS without TOD_MISSING and with the record's grade, at most Grade Cap, as its Received
Grade; no other reference and nothing else upstream changes. With another number of bytes assembled the command is
nothing (log 5). Rests on 03_reference_monitoring_and_qualification.md, Reading the time-of-day line (R50, R51);
03_reference_monitoring_and_qualification.md, Judging a reference (R60); 11_frame_and_record_formats.md, The time-of-
day record (R207). -/
def Obligations.TodRecordIsJudged : Prop :=
  ∀ (s : State) (dt : Nat) (b : Byte),
    (s.gnss.partialRecord.length ≠ 11 → exec (.todRecord dt b) s = .next s) ∧
    (s.gnss.partialRecord.length = 11 → (s.ref .gnss).state ≠ .disabled →
      (s.pass dt).clock.residence - s.gnss.lastByteAt ≤ 20 * msUnits →
      let bytes := s.gnss.partialRecord ++ [b]
      let sum := ((s.gnss.partialRecord.map BitVec.toNat).sum) % 256
      let info : TodInfo := { label := beNat (slice 1 6 bytes), fixStatus := beNat (slice 7 1 bytes)
                              satellites := beNat (slice 8 1 bytes), receiverGrade := beNat (slice 9 1 bytes) }
      let v : State := { s.pass dt with
        gnss := { s.gnss with lastByteAt := (s.pass dt).clock.residence, partialRecord := [] } }
      let early := match (s.ref .gnss).lastEdge with
        | none => True
        | some e => v.clock.residence - e < 100 * msUnits
      (b.toNat ≠ sum → exec (.todRecord dt b) s =
        .next (v.countGnss fun c => { c with badChecksum := bump c.badChecksum })) ∧
      (b.toNat = sum → info.fixStatus ≠ 1 → exec (.todRecord dt b) s =
        .next (v.countGnss fun c => { c with noFix := bump c.noFix })) ∧
      (b.toNat = sum → info.fixStatus = 1 → (15 < info.receiverGrade ∨ 63 < info.satellites) →
        exec (.todRecord dt b) s = .next (v.countGnss fun c => { c with badRecord := bump c.badRecord })) ∧
      (b.toNat = sum → info.fixStatus = 1 → info.receiverGrade ≤ 15 → info.satellites ≤ 63 →
        (early → exec (.todRecord dt b) s =
          .next (v.countGnss fun c => { c with outOfWindow := bump c.outOfWindow })) ∧
        (¬ early → ∃ t, exec (.todRecord dt b) s = .next t ∧
          UpstreamKept [.gnss] []
            { v with gnss := { v.gnss with
                todStart := some v.clock.residence, held := some info, last := some info
                ctr := { s.gnss.ctr with
                  validRecords := bump s.gnss.ctr.validRecords
                  replacedRecords :=
                    if s.gnss.held.isSome then bump s.gnss.ctr.replacedRecords
                    else s.gnss.ctr.replacedRecords } } } t ∧
          Defect.todMissing ∉ (t.ref .gnss).defects ∧
          (t.ref .gnss).grade = some (min info.receiverGrade (s.ref .gnss).cfg.gradeCap))))

/-- GNSS_SIGNAL_TIMEOUT, TOD_INTERVAL_TIMEOUT and EXT_EDGE_TIMEOUT. With the reference enabled, its interval started
and the defect absent, and the instant within reach: GNSS_SIGNAL_TIMEOUT (2 s after the last accepted edge) leaves
SIGNAL_LOST of GNSS present and no held record; TOD_INTERVAL_TIMEOUT (3 s after the last valid record) leaves
TOD_MISSING present and no Received Grade; EXT_EDGE_TIMEOUT (1 s after the last edge) leaves SIGNAL_LOST of EXT
present. Nothing else upstream changes but the time, and a partial record that the loss of the signal discards. Rests
on 03_reference_monitoring_and_qualification.md, Taking a satellite edge (R49);
03_reference_monitoring_and_qualification.md, Reading the time-of-day line (R51);
03_reference_monitoring_and_qualification.md, Measuring frequency (R58). -/
def Obligations.IntervalsRaiseTheirDefects : Prop :=
  ∀ (s : State) (from' : Nat),
    let g := s.ref .gnss
    let e := s.ref .ext
    (g.state ≠ .disabled → Defect.signalLost ∉ g.defects → g.lastEdge = some from' →
      s.canReach (from' + 2 * secUnits - s.clock.residence) → ∃ t, exec .gnssSignalTimeout s = .next t ∧
        advanced s t (from' + 2 * secUnits - s.clock.residence) ∧ Defect.signalLost ∈ (t.ref .gnss).defects ∧
        UpstreamKept [.gnss] [] { s with clock := t.clock, gnss := t.gnss } t ∧
        t.gnss = { s.gnss with
          held := none, partialRecord := []
          ctr := { s.gnss.ctr with
            badRecord :=
              if s.gnss.partialRecord = [] then s.gnss.ctr.badRecord else bump s.gnss.ctr.badRecord } }) ∧
    (g.state ≠ .disabled → Defect.todMissing ∉ g.defects → s.gnss.todStart = some from' →
      s.canReach (from' + 3 * secUnits - s.clock.residence) → ∃ t, exec .todIntervalTimeout s = .next t ∧
        advanced s t (from' + 3 * secUnits - s.clock.residence) ∧ Defect.todMissing ∈ (t.ref .gnss).defects ∧
        (t.ref .gnss).grade = none ∧ UpstreamKept [.gnss] [] { s with clock := t.clock } t) ∧
    (e.state ≠ .disabled → Defect.signalLost ∉ e.defects → e.lastEdge = some from' →
      s.canReach (from' + secUnits - s.clock.residence) → ∃ t, exec .extEdgeTimeout s = .next t ∧
        advanced s t (from' + secUnits - s.clock.residence) ∧ Defect.signalLost ∈ (t.ref .ext).defects ∧
        UpstreamKept [.ext] [] { s with clock := t.clock } t)

/-- QUALIFY_TIME_REACHED and RESTORE_WAIT_REACHED lead to QUALIFIED. Where the qualify timer of a MONITORING reference
can reach Qualify Time, QUALIFY_TIME_REACHED brings the relay there: with a measurement (a last e_raw, or a last
frequency offset for LINE and EXT) a reference with an empty defect set is QUALIFIED with its timers at 0; without one
it stays MONITORING with its timer stopped at Qualify Time, and nothing else changes but by the close of a second that
the instant ends (R117). Where the restore timer of a RESTORING reference with an empty set can reach Restore Wait,
RESTORE_WAIT_REACHED leaves it QUALIFIED. REF_FAIL of it is reported absent, and no other reference but GNSS changes.
That all three timers stand at 0 in QUALIFIED, and that the wait at Qualify Time is told by an empty set and a stopped
timer, is the model's reading (log 32); in other states nothing changes (log 5). Rests on
03_reference_monitoring_and_qualification.md, Judging a reference (R64, R66);
03_reference_monitoring_and_qualification.md, Reporting (R67). -/
def Obligations.QualifiedAfterItsTimers : Prop :=
  ∀ (s : State) (r : Ref) (start : Nat),
    let x := s.ref r
    let measured := if phaseCapable r then x.lastE.isSome else x.lastD.isSome
    let q := { x with state := .qualified, qualify := ⟨0, none⟩, holdOff := ⟨0, none⟩, restore := ⟨0, none⟩ }
    (x.state ≠ .monitoring → exec (.qualifyTimeReached r) s = .next s) ∧
    (x.state ≠ .restoring → exec (.restoreWaitReached r) s = .next s) ∧
    (x.state = .monitoring → x.defects = [] → x.qualify.since = some start →
      let d := start + (x.cfg.qualifyTime * secUnits - x.qualify.base) - s.clock.residence
      s.canReach d → ∃ t, exec (.qualifyTimeReached r) s = .next t ∧ advanced s t d ∧
        (measured = true → t.ref r = q ∧ (t.alarm.record (recRefFail r)).present = false ∧
          UpstreamKept [r] [] { s with clock := t.clock } t) ∧
        (measured = false → t = { s.arrive t.clock with refs := t.refs } ∧
          t.ref r = { x with qualify := ⟨x.cfg.qualifyTime * secUnits, none⟩ } ∧ ∀ k, k ≠ r → t.ref k = s.ref k)) ∧
    (x.state = .restoring → x.defects = [] → x.restore.since = some start →
      let d := start + (x.cfg.restoreWait * secUnits - x.restore.base) - s.clock.residence
      s.canReach d → ∃ t, exec (.restoreWaitReached r) s = .next t ∧ advanced s t d ∧
        t.ref r = q ∧ (t.alarm.record (recRefFail r)).present = false ∧
        UpstreamKept [r] [] { s with clock := t.clock } t)

/-- HOLD_OFF_EXPIRES: a QUALIFIED reference with defects FAILS; and a written Reference Table entry. Where the hold-
off timer of a QUALIFIED reference with a defect can reach Hold-off, HOLD_OFF_EXPIRES brings the relay there. A
reference other than GNSS, and GNSS without TOD_MISMATCH, is FAILED with its defects as they were, its hold-off and
restore timers at 0 and Failures one higher, its REF_FAIL record is present with the defect set as its cause, and no
other reference but GNSS changes. (GNSS with TOD_MISMATCH can lose that defect in the same event, where the servo
enters FREERUN, R53.) That the hold-off and restore timers stand at 0 in FAILED is the model's reading (log 32); out
of QUALIFIED, or with no defect, nothing changes (log 5). A PUT of one Reference Table entry stores each field,
numbers clamped, and is answered ADJUSTED where one was; the same values change nothing; Enabled to false leaves the
reference DISABLED with no defect, measurement or grade and takes the Bypass Offset from the pins in bypass of it;
Enabled to true on one that was not enabled leaves it MONITORING. No other reference but GNSS changes, and no session.
(Where several fields change, the model's order is log 58.) Rests on 03_reference_monitoring_and_qualification.md,
Judging a reference (R63, R65); 03_reference_monitoring_and_qualification.md, Reporting (R67);
03_reference_monitoring_and_qualification.md, Configuring a reference (R46, R47); 10_in_band_management.md, Writing a
table (R196). -/
def Obligations.HoldOffFailsTheReference : Prop :=
  (∀ (s : State) (r : Ref) (start : Nat),
    let x := s.ref r
    (x.state ≠ .qualified ∨ x.defects = [] → exec (.holdOffExpires r) s = .next s) ∧
    (x.state = .qualified → x.defects ≠ [] → (r ≠ .gnss ∨ Defect.todMismatch ∉ x.defects) →
      x.holdOff.since = some start →
      let d := start + (x.cfg.holdOff * secUnits - x.holdOff.base) - s.clock.residence
      s.canReach d → ∃ t, exec (.holdOffExpires r) s = .next t ∧ advanced s t d ∧
        UpstreamKept [r] [] { s with clock := t.clock } t ∧
        (t.ref r).state = .failed ∧ (∀ e, e ∈ (t.ref r).defects ↔ e ∈ x.defects) ∧
        (t.ref r).holdOff = ⟨0, none⟩ ∧ (t.ref r).restore = ⟨0, none⟩ ∧
        (t.ref r).ctr.failures = bump x.ctr.failures ∧
        (t.alarm.record (recRefFail r)).present = true ∧
        ∀ e, e ∈ (t.alarm.record (recRefFail r)).cause ↔ e ∈ x.defects)) ∧
  (∀ (s : State) (dt : Nat) (c : Command) (r : Ref) (enabled : Bool)
      (accept holdOff qualify restore jump wander grade starve comp cap : Int) (rate baud : Nat)
      (policy : RealignPolicy),
    isField accept → isField holdOff → isField qualify → isField restore → isField jump → isField wander →
    isField grade → isField starve → isField comp → isField cap → rate ∈ declaredRates → baud ∈ todBauds →
    s.putsOne c 5 (refIdx r).val (encBool enabled ++ encIn declaredRates rate ++ encNum accept ++ encNum holdOff ++
      encNum qualify ++ encNum restore ++ encNum jump ++ encNum wander ++ encNum grade ++ encNum starve ++
      encNum comp ++ encIn policies policy ++ encNum cap ++ encIn todBauds baud) →
    let v := s.pass dt
    let x := s.ref r
    let cfg : RefCfg :=
      { enabled := enabled, declaredRate := rate, acceptRange := held 1000 50000000 accept
        holdOff := held 0 10 holdOff, qualifyTime := held 10 600 qualify, restoreWait := held 0 720 restore
        jumpLimit := held 10 100000 jump, wanderLimit := held 10 10000 wander, minGrade := held 0 15 grade
        starveSeconds := held 2 60 starve, compensation := heldMag 1000000 comp, policy := policy
        gradeCap := held 0 15 cap, todBaud := baud }
    let exact := kept 1000 50000000 accept ∧ kept 0 10 holdOff ∧ kept 10 600 qualify ∧ kept 0 720 restore ∧
      kept 10 100000 jump ∧ kept 10 10000 wander ∧ kept 0 15 grade ∧ kept 2 60 starve ∧
      kept (-1000000) 1000000 comp ∧ kept 0 15 cap
    let off := x.cfg.enabled = true ∧ enabled = false
    ∃ u w t, exec (.put dt) s = .next t ∧ PutStored u t s.mgmt.station c 5 (refIdx r).val exact ∧
      w = { v with gnss := if r = .gnss then w.gnss else s.gnss, pins := w.pins } ∧
      (∀ k, w.tpin k =
        if (s.tpin k).bypassRef = some r ∧ off then { s.tpin k with bypassOffset := none } else s.tpin k) ∧
      UpstreamKept [r] [] w u ∧ (u.ref r).cfg = cfg ∧ (cfg = x.cfg → u = v) ∧
      (off → (u.ref r).state = .disabled ∧ (u.ref r).defects = [] ∧ (u.ref r).lastE = none ∧
        (u.ref r).lastD = none ∧ (u.ref r).grade = none) ∧
      (x.cfg.enabled = false → enabled = true → (u.ref r).state = .monitoring))

/-- SECOND_BOUNDARY: the second turns and is closed first, and what its work hands on. Where the counter can reach a
second boundary, SECOND_BOUNDARY brings it there with the Residence Clock, whatever the order of its work, and leaves
no boundary due. Each Client Session has counted its best exchange under Samples and holds none, with the stored Query
Rate in force; each site's query count is 0 with its stored Mark Rate in force. No setting, no Flow entry, no Port Map
entry, no link, nothing of the Management Unit and no waiting command changes. The Epoch stays or grows by one. Under
Step Policy NEVER, or with Phase Valid true, no step can be taken and the counter stands at the boundary in the same
Epoch. However the clocks come to a boundary they did not stand at (by SECOND_BOUNDARY, or by a timer's end that falls
on it, log 4), the second just ended is closed at once: the accumulator takes it if it qualifies (LOCKED, or
FREQ_TRACK with a Settle Value within Settle Limit, and not void), and at a whole minute the History Ring gains one
entry for it with the Source and Servo State that stand, the oldest leaving a ring of 1,440, and the accumulator is
empty. A boundary stood at already is not closed again. Then five works are done, in the order commanded, those left
out after it (log 8), each on the state before it and what was gathered as the boundary was reached. Samples: once
each is judged, the selected phase reference, if QUALIFIED and in the Epoch of the samples, hands on p plus
Compensation. After slew progress a DECIDED one gives the loop input e - B, a PENDING one is decided, and a boundary
without one gives no input. Tracking: at a window end the result of the selected frequency reference, absent after a
change of Epoch. Grade: computed again. Notices: each site its one notice. Rests on 05_time_engine_and_servo.md, The
Time Counter (R90); 02_timing_messages_and_upstream_sessions.md, The best exchange of a second (R42);
06_frequency_history_holdover_and_grade.md, The minute accumulator (R117); 06_frequency_history_holdover_and_grade.md,
Closing a minute (R119); 06_frequency_history_holdover_and_grade.md, The History Ring (R116); 07_site_delivery.md,
Answering a site (R150); 03_reference_monitoring_and_qualification.md, Handing samples on (R55);
04_reference_selection_and_phase_realignment.md, Taking the first sample (R83); 05_time_engine_and_servo.md, Running
the loop (R104, R105); 07_site_delivery.md, Announcing the relay (R147). -/
def Obligations.SecondBoundaryTurnsTheSecond : Prop :=
  (∀ (s : State) (c : Clock),
    let b := secondsOf c.counter
    let acc := s.holdover.acc
    let q := !acc.firstVoid && (s.servo.state = .locked || (s.servo.state = .freqTrack &&
      (match s.holdover.settle with
        | some d => decide (d.natAbs ≤ s.holdover.params.settleLimit)
        | none => false)))
    let n := acc.count + (if q then 1 else 0)
    let sum := acc.iSum + (if q then s.servo.i else 0)
    let full := 1440 ≤ s.holdover.ring.length
    (c.boundaryDue = false ∨ s.clock.boundaryDue = true → s.arrive c = { s with clock := c }) ∧
    (c.boundaryDue = true → s.clock.boundaryDue = false →
      (b % 60 ≠ 0 → s.arrive c = { s with clock := c, holdover := { s.holdover with acc := ⟨n, sum, false⟩ } }) ∧
      (b % 60 = 0 → s.arrive c = { s with
        clock := c
        holdover := { s.holdover with
          acc := ⟨0, 0, false⟩
          ring := (if full then s.holdover.ring.drop 1 else s.holdover.ring) ++
            [{ stamp := b / 60, lockedSeconds := n, meanFreq := if n = 0 then none else some (roundDiv sum n)
               source := s.selector.phase.or (if s.servo.state = .freqTrack then s.selector.freq else none)
               servoState := s.servo.state }]
          ctr := { s.holdover.ctr with
            entriesAppended := bump s.holdover.ctr.entriesAppended
            ringOverwrites :=
              if full then bump s.holdover.ctr.ringOverwrites else s.holdover.ctr.ringOverwrites } } }))) ∧
  (∀ (s : State) (order : List BoundaryWork),
    let at' := if s.clock.boundaryDue then s.clock.counter else (secondsOf s.clock.counter + 1) * secUnits
    (s.clock.boundaryDue = true ∨ secondsOf s.clock.counter + 1 < secRange) →
    ∃ t, exec (.secondBoundary order) s = .next t ∧
      t.clock.boundaryDue = false ∧ t.clock.residence = s.clock.residence + (at' - s.clock.counter) ∧
      (t.clock.epoch = s.clock.epoch ∨ t.clock.epoch = (s.clock.epoch + 1) % 256) ∧
      SameSettings s t ∧ t.flow = s.flow ∧ t.portMap = s.portMap ∧ t.mgmt = s.mgmt ∧ t.pending = s.pending ∧
      (∀ p, (t.port p).linkUp = (s.port p).linkUp) ∧
      (∀ c, (t.client c).best = none ∧ (t.client c).rate = (s.client c).cfg.queryRate ∧ (t.client c).ctr.samples =
        if (s.client c).best.isSome then bump (s.client c).ctr.samples else (s.client c).ctr.samples) ∧
      (∀ k, (t.site k).queries = 0 ∧ (t.site k).rate = (s.site k).cfg.markRate) ∧
      (s.realign.params.stepPolicy = .never ∨ s.servo.phaseValid = true →
        t.clock.counter = at' ∧ t.clock.epoch = s.clock.epoch ∧
        ∃ c : Clock, c.counter = at' ∧ c.boundaryDue = true ∧ t.holdover.ring = (s.arrive c).holdover.ring ∧
          t.holdover.acc = (s.arrive c).holdover.acc)) ∧
  (∀ (s u : State) (order : List BoundaryWork), s.atBoundary = some u →
    let b := secondsOf u.clock.counter
    let works := order.eraseDups ++
      [BoundaryWork.samples, .windows, .tracking, .grade, .notices].filter fun w => !order.contains w
    u.clock.boundaryDue = false ∧ (s.clock.inRange → u.clock.counter % secUnits = 0) ∧
      exec (.secondBoundary order) s = .next ((works.foldl (State.work (u.gather b)) u.turnSecond).addMeanF b)) ∧
  (∀ (v : State) (g : Gathered),
    let j := ([Ref.gnss, .pkt0, .pkt1].foldl (fun t r => t.judgeSample (g.samples r) r) v).dropSamples g.second
    (j.selector.phase = none → v.work g .samples = j.followSample none) ∧
    (∀ r, j.selector.phase = some r → v.work g .samples =
      if (j.ref r).state = .qualified ∧ j.clock.epoch = g.epoch then
        j.followSample ((g.samples r).map fun p => p + (j.ref r).cfg.compensation)
      else j.followSample none) ∧
    (g.ending = false ∨ v.selector.freq = none → v.work g .tracking = v) ∧
    (∀ r, g.ending = true → v.selector.freq = some r →
      v.work g .tracking = if v.clock.epoch = g.epoch then v.freqResult (g.results r) else v.freqResult none) ∧
    v.work g .grade = v.regrade ∧
    ∀ k, (v.work g .notices).site k = (v.offerNotice k).site k ∧
      (v.work g .notices).port (sitePort k) = (v.offerNotice k).port (sitePort k)) ∧
  (∀ (v : State) (e : Option Int),
    let t := v.followSample e
    let w := v.slewProgress
    let follows := v.servo.state = .acquiring ∨ v.servo.state = .locked
    (e = none ∨ w.realign.decision = .none → t.realign = w.realign ∧ t.servo.f = v.servo.f ∧ t.servo.i = v.servo.i ∧
      t.servo.lockRun = v.servo.lockRun ∧ t.servo.unlockRun = v.servo.unlockRun ∧
      t.servo.lastLoop = v.servo.lastLoop ∧
      (follows → t.servo.ctr.missingSamples = bump v.servo.ctr.missingSamples)) ∧
    (∀ x, e = some x → w.realign.decision = .decided → follows →
      let i := x - w.realign.b
      t.realign = w.realign ∧ t.servo.f = (v.servo.loop i).f ∧ t.servo.i = (v.servo.loop i).i ∧
        t.servo.lastLoop = some ⟨i, decide (v.servo.params.phaseClamp < i.natAbs)⟩) ∧
    (∀ x, e = some x → w.realign.decision = .pending → t = w.takeDecision x))

/-- COUNTER_WRAP and TIME_SET: the counter moves and the change of Epoch reaches every block. COUNTER_WRAP in the last
second of the counter's range brings the relay to the carry: the counter returns to 0, Counter Wraps is one higher and
the change of Epoch is handed on; in any other second nothing changes (log 5). That the carry counts under Counter
Wraps alone is the model's reading (log 53). TIME_SET at the head of the queue in FREERUN sets the counter to its
seconds (at most 2^48 - 1) and nanoseconds (at most 999,999,999) with fraction 0, Time Sets one higher, hands on the
change of Epoch, and is answered OK without results, or ADJUSTED with the stored values where an argument was clamped:
six bytes of seconds and four of nanoseconds, laid out as the arguments are, which is the model's choice since chapter
11 gives TIME_SET no results (log 20); in any other state it is answered STATE and changes nothing. A change of Epoch
adds one to it modulo 256, empties the sessions' lists, pairs and best exchanges, discards every last e_raw and
pending sample, voids every window, discards a suspended slew, closes or drops the minutes, marks every enabled site's
next notice, starts the query, mark and PPS schedules from the new counter (log 36) and the cycles of an output placed
on it strictly after the end of the half-cycle in progress (log 41; so too the counter cycle that a bypass output is
leaving, log 69), other bypass cycles going on, and leaves F, I, the lock runs, Phase Valid and the servo state, the
ports, the alarms and every setting alone. Rests on 05_time_engine_and_servo.md, Stepping the counter (R91, R93, R94);
05_time_engine_and_servo.md, Setting the time (R95); 05_time_engine_and_servo.md, The Epoch (R92);
02_timing_messages_and_upstream_sessions.md, Emptying a session (R43); 03_reference_monitoring_and_qualification.md,
Judging a reference (R61); 04_reference_selection_and_phase_realignment.md, Losing and switching references (R87);
06_frequency_history_holdover_and_grade.md, Closing a minute (R120); 07_site_delivery.md, Announcing the relay (R148);
08_timing_pins.md, Steps of the counter (R165). -/
def Obligations.EpochChangesReachEveryBlock : Prop :=
  (∀ s : State, s.clock.boundaryDue = true ∨ secondsOf s.clock.counter + 1 ≠ secRange → exec .counterWrap s = .next s) ∧
  (∀ s : State, s.clock.boundaryDue = false → secondsOf s.clock.counter + 1 = secRange →
    ∃ t c, exec .counterWrap s = .next t ∧ t.clock.counter = 0 ∧
      c.residence = s.clock.residence + (secRange * secUnits - s.clock.counter) ∧ c.epoch = s.clock.epoch ∧
      EpochChanged (secRange * secUnits - 1) { s with clock := c } t ∧
      t.servo = { s.servo with ctr := { s.servo.ctr with counterWraps := bump s.servo.ctr.counterWraps } }) ∧
  (∀ (s : State) (dt : Nat) (c : Command) (rest : List Command), s.headIs c rest → c.type = 0x1A →
    let v := s.pass dt
    let seconds := beNat (c.args.take 6)
    let nanos := beNat ((c.args.drop 6).take 4)
    (s.servo.state ≠ .freerun → ∃ t, exec (.timeSet dt) s = .next t ∧ Answered v t s.mgmt.station c 10 []) ∧
    (s.servo.state = .freerun → ∃ u t, exec (.timeSet dt) s = .next t ∧
      u.clock.counter = min seconds (secRange - 1) * secUnits + min nanos 999999999 * 65536 ∧
      EpochChanged v.clock.counter v u ∧
      u.servo = { s.servo with ctr := { s.servo.ctr with timeSets := bump s.servo.ctr.timeSets } } ∧
      Answered u t s.mgmt.station c (if seconds < secRange ∧ nanos < 1000000000 then 0 else 1)
        (if seconds < secRange ∧ nanos < 1000000000 then []
         else beBytes 6 (min seconds (secRange - 1)) ++ beBytes 4 (min nanos 999999999))))

/-- The four cases of the realignment decision, and the loop input of each. A decision on E for a Decision Reference
counts under Decisions. A Suspended Slew record of that reference, of an age at most Resume Window and with B_susp
within Resume Tolerance of E, is resumed: B is B_susp and the Slew record has its Held flag. Any other such record is
discarded and counted. Then, with Phase Valid false, a Step Policy that allows it and E beyond Step Threshold, the
counter is stepped by E within its range in a new Epoch, B staying, F, I and the runs unchanged; else E beyond Max
Offset counts under Too Far and leaves PHASE_FAR on the reference if it is enabled; else B becomes E, as a build-out
under BUILD_OUT, as an unheld slew under SLEW with E not 0, and with no record under SLEW with E equal to 0. In
ACQUIRING and LOCKED the loop runs in the same event on E - B_susp after a resume and on 0 after a build-out or slew;
a step and a too-far decision give no loop input, which counts under Missing Samples. Rests on
04_reference_selection_and_phase_realignment.md, Taking the first sample (R81, R82, R83);
04_reference_selection_and_phase_realignment.md, Losing and switching references (R87); 05_time_engine_and_servo.md,
Stepping the counter (R93); 05_time_engine_and_servo.md, Running the loop (R104, R105). -/
def Obligations.DecisionCases : Prop :=
  ∀ (s : State) (r : Ref) (e : Int), s.realign.decisionRef = some r →
    let x := s.realign
    let t := s.takeDecision e
    let fits (u : Suspended) : Prop := u.ref = r ∧ s.clock.residence - u.at' ≤ x.params.resumeWindow * secUnits ∧
      (e - u.b).natAbs ≤ x.params.resumeTolerance
    let stepping := s.servo.phaseValid = false ∧ x.params.stepThreshold < e.natAbs ∧
      (x.params.stepPolicy = .always ∨ (x.params.stepPolicy = .beforeServe ∧ s.servingSince = false))
    let y : Realign := { x with
      suspended := none
      ctr := { x.ctr with
        decisions := bump x.ctr.decisions
        suspendedDiscarded :=
          if x.suspended.isSome then bump x.ctr.suspendedDiscarded else x.ctr.suspendedDiscarded } }
    let follows := s.servo.state = .acquiring ∨ s.servo.state = .locked
    let input (i : Int) : Prop := follows → t.servo.f = (s.servo.loop i).f ∧ t.servo.i = (s.servo.loop i).i ∧
      t.servo.lastLoop = some ⟨i, decide (s.servo.params.phaseClamp < i.natAbs)⟩
    let noInput : Prop := follows → t.servo.ctr.missingSamples = bump s.servo.ctr.missingSamples
    (¬ follows → (∀ u, x.suspended = some u → fits u → t.servo = s.servo)) ∧
    (∀ u, x.suspended = some u → fits u → input (e - u.b) ∧ t.realign = { x with
      decision := .decided, b := u.b, slew := some u.held, suspended := none
      ctr := { x.ctr with decisions := bump x.ctr.decisions, resumes := bump x.ctr.resumes } }) ∧
    ((∀ u, x.suspended = some u → ¬ fits u) →
      (stepping →
        t.realign = { y with decision := .decided, ctr := { y.ctr with steps := bump y.ctr.steps } } ∧
        t.clock = { s.clock with
          counter := t.clock.counter, epoch := (s.clock.epoch + 1) % 256, boundaryDue := false } ∧
        (t.clock.counter : Int) =
          max 0 (min ((s.clock.counter : Int) + e * 65536) (281474976710656 * 65536000000000 - 1)) ∧
        t.servo.f = s.servo.f ∧ t.servo.i = s.servo.i ∧ t.servo.lockRun = s.servo.lockRun ∧
        t.servo.unlockRun = s.servo.unlockRun ∧ t.servo.state = s.servo.state ∧ t.servo.lastLoop = s.servo.lastLoop ∧
        t.servo.ctr.timeSteps = bump s.servo.ctr.timeSteps ∧ noInput) ∧
      (¬ stepping → x.params.maxOffset < e.natAbs → noInput ∧
        t.realign.ctr.tooFar = bump x.ctr.tooFar ∧
        ((s.ref r).state ≠ .disabled → Defect.phaseFar ∈ (t.ref r).defects)) ∧
      (¬ stepping → e.natAbs ≤ x.params.maxOffset → input 0 ∧ t.realign =
        if (s.ref r).cfg.policy = .buildOut then
          { y with decision := .decided, b := e, buildOut := true, ctr := { y.ctr with buildOuts := bump y.ctr.buildOuts } }
        else if e = 0 then { y with decision := .decided, b := e }
        else
          { y with
            decision := .decided, b := e, slew := some false
            ctr := { y.ctr with slewsStarted := bump y.ctr.slewsStarted } }))

/-- One loop run, one frequency update, the servo under the roles' reports, and written Servo Parameters. A loop run
on e_loop clamps it to Phase Clamp for e_c, forms P and the integral step from e_c and the gains of the state (LOCKED
or acquiring) rounded to nearest with ties away from zero, and gives I' = I plus the step and F = I' + P, each clamped
to Pull Range. Where F was clamped and the step has the sign of the clamp, the integral keeps I and Windup Holds
counts; else it becomes I'. Last e_loop and Last Clamped are kept, the clamps counted, and nothing else of the Servo
Context changes. In FREQ_TRACK a d handed on moves F by d Fg / 256, rounded in the same way and clamped, I to F; in
other states nothing changes. A phase gain (from a state without a phase reference) leads to ACQUIRING with F and I as
they were, Acquiring From Holdover telling whether it came from a holdover; a switch keeps the state; a loss (from
ACQUIRING or LOCKED) leads to FREQ_TRACK with I at F where a frequency reference is selected, else to HOLDOVER with
Phase Valid and to FREERUN without; each clears the runs and Last e_loop. With no phase reference a frequency gain
leads from FREERUN or HOLDOVER to FREQ_TRACK, a loss from FREQ_TRACK to HOLDOVER or FREERUN, a switch keeps state, F
and I; with one, no report changes the servo. A PUT of the Servo Parameters stores each clamped, answered ADJUSTED
where one was, and changes nothing else but that a changed Pull Range clamps F and I at once, counted under Pull Range
Clamps where it moved one. Rests on 05_time_engine_and_servo.md, Running the loop (R106, R107, R108);
05_time_engine_and_servo.md, Following a frequency reference (R111); 05_time_engine_and_servo.md, Servo states (R99,
R101, R102); 05_time_engine_and_servo.md, The Servo Context (R97, R98); 10_in_band_management.md, Writing a table
(R196). -/
def Obligations.LoopRunFollowsTheGains : Prop :=
  (∀ (e : Int) (x : Servo),
    let limit : Int := x.params.pullRange
    let pg : Nat := if x.state = .locked then x.params.lockedPg else x.params.acquiringPg
    let ig : Nat := if x.state = .locked then x.params.lockedIg else x.params.acquiringIg
    let ec : Int := max (-(x.params.phaseClamp : Int)) (min x.params.phaseClamp e)
    ∃ p step : Int,
      2 * (256 * p - ec * 1000 * pg).natAbs ≤ 256 ∧
      (2 * (256 * p - ec * 1000 * pg).natAbs = 256 → (ec * 1000 * pg).natAbs ≤ (256 * p).natAbs) ∧
      2 * (65536 * step - ec * 1000 * ig).natAbs ≤ 65536 ∧
      (2 * (65536 * step - ec * 1000 * ig).natAbs = 65536 → (ec * 1000 * ig).natAbs ≤ (65536 * step).natAbs) ∧
      let i1 := max (-limit) (min limit (x.i + step))
      let held : Bool := decide ((limit < i1 + p ∧ 0 < step) ∨ (i1 + p < -limit ∧ step < 0))
      x.loop e = { x with
        f := max (-limit) (min limit (i1 + p))
        i := if held then x.i else i1
        lastLoop := some ⟨e, decide (x.params.phaseClamp < e.natAbs)⟩
        ctr := { x.ctr with
          clampedSamples := if x.params.phaseClamp < e.natAbs then bump x.ctr.clampedSamples else x.ctr.clampedSamples
          outputClamps :=
            if limit < i1 + p ∨ i1 + p < -limit then bump x.ctr.outputClamps else x.ctr.outputClamps
          windupHolds := if held then bump x.ctr.windupHolds else x.ctr.windupHolds } }) ∧
  (∀ (s : State) (d : Int),
    let x := s.servo
    let limit : Int := x.params.pullRange
    let t := s.freqResult (some d)
    (x.state ≠ .freqTrack → t = s ∧ s.freqResult none = s) ∧
    (x.state = .freqTrack → s.freqResult none = { s with holdover := { s.holdover with settle := none } } ∧
      ∃ move : Int, 2 * (256 * move - d * x.params.fg).natAbs ≤ 256 ∧
        (2 * (256 * move - d * x.params.fg).natAbs = 256 → (d * x.params.fg).natAbs ≤ (256 * move).natAbs) ∧
        let f := max (-limit) (min limit (x.f + move))
        t = { s with
          holdover := { s.holdover with settle := some d }
          servo := { x with
            f := f, i := f
            ctr := { x.ctr with
              frequencyUpdates := bump x.ctr.frequencyUpdates
              outputClamps :=
                if limit < x.f + move ∨ x.f + move < -limit then bump x.ctr.outputClamps
                else x.ctr.outputClamps } } })) ∧
  (∀ (s : State) (grade : Nat) (new : Option Ref),
    let x := s.servo
    let t := s.applyPhase new grade
    let cleared : Servo := { x with lockRun := 0, unlockRun := 0, lastLoop := none }
    let rest : ServoState := if x.phaseValid then .holdover else .freerun
    UpstreamKept [] [] s t ∧ t.selector.phase = new ∧ t.servo.phaseValid = x.phaseValid ∧
    (s.selector.phase = none → new.isSome = true → x.state ≠ .acquiring → t.servo = { cleared with
      state := .acquiring
      acqFromHold := some (x.state = .holdover || (x.state = .freqTrack && x.phaseValid))
      ctr := { x.ctr with stateChanges := bump x.ctr.stateChanges } }) ∧
    (∀ r k, s.selector.phase = some r → new = some k → r ≠ k → t.servo = cleared) ∧
    (s.selector.phase.isSome = true → new = none → (x.state = .acquiring ∨ x.state = .locked) →
      let next := if s.selector.freq.isSome then ServoState.freqTrack else rest
      t.servo = { cleared with
        state := next, acqFromHold := none, transient := false, f := t.servo.f, i := t.servo.i
        ctr := { x.ctr with stateChanges := bump x.ctr.stateChanges } } ∧
      (next = .freqTrack → t.servo.f = x.f ∧ t.servo.i = x.f) ∧
      (next = .freerun → t.servo.f = x.f ∧ t.servo.i = x.i)) ∧
    (s.selector.phase = new → t = s)) ∧
  (∀ (s : State) (grade : Nat) (new : Option Ref),
    let x := s.servo
    let t := s.applyFreq new grade
    let rest : ServoState := if x.phaseValid then .holdover else .freerun
    UpstreamKept [] [] s t ∧ t.selector.freq = new ∧ t.servo.phaseValid = x.phaseValid ∧
    ((x.state = .acquiring ∨ x.state = .locked) → t.servo = x) ∧
    (s.selector.freq = none → new.isSome = true → (x.state = .freerun ∨ x.state = .holdover) →
      t.servo.state = .freqTrack ∧ t.servo.f = x.f ∧ t.servo.i = x.f) ∧
    (s.selector.freq.isSome = true → new = none → x.state = .freqTrack →
      t.servo.state = rest ∧ (rest = .freerun → t.servo.f = x.f ∧ t.servo.i = x.i)) ∧
    (∀ r k, s.selector.freq = some r → new = some k → r ≠ k → t.servo = x ∧ t.holdover.settle = none) ∧
    (s.selector.freq = new → t = s)) ∧
  (∀ (s : State) (dt : Nat) (c : Command) (clamp pull apg aig lpg lig fg lw lc uw uc : Int),
    isField clamp → isField pull → isField apg → isField aig → isField lpg → isField lig → isField fg → isField lw →
    isField lc → isField uw → isField uc →
    s.putsOne c 11 0 (encNum clamp ++ encNum pull ++ encNum apg ++ encNum aig ++ encNum lpg ++ encNum lig ++
      encNum fg ++ encNum lw ++ encNum lc ++ encNum uw ++ encNum uc) →
    let v := s.pass dt
    let x := s.servo
    let p : ServoParams :=
      { phaseClamp := held 10 100000 clamp, pullRange := held 1000 5000000 pull, acquiringPg := held 0 255 apg
        acquiringIg := held 0 255 aig, lockedPg := held 0 255 lpg, lockedIg := held 0 255 lig, fg := held 0 255 fg
        lockWindow := held 10 10000 lw, lockCount := held 1 255 lc, unlockWindow := held 100 100000 uw
        unlockCount := held 1 255 uc }
    let exact := kept 10 100000 clamp ∧ kept 1000 5000000 pull ∧ kept 0 255 apg ∧ kept 0 255 aig ∧ kept 0 255 lpg ∧
      kept 0 255 lig ∧ kept 0 255 fg ∧ kept 10 10000 lw ∧ kept 1 255 lc ∧ kept 100 100000 uw ∧ kept 1 255 uc
    let f := heldMag p.pullRange x.f
    let i := heldMag p.pullRange x.i
    let y : Servo :=
      if p.pullRange = x.params.pullRange then { x with params := p }
      else { x with
        params := p, f := f, i := i
        ctr := { x.ctr with
          pullRangeClamps :=
            if f = x.f ∧ i = x.i then x.ctr.pullRangeClamps else bump x.ctr.pullRangeClamps } }
    ∃ t, exec (.put dt) s = .next t ∧ PutStored { v with servo := y } t s.mgmt.station c 11 0 exact)

/-- A loop input reaches or loses lock; LOCK_COUNT_REACHED and UNLOCK_COUNT_REACHED are the boundaries that bring one.
In ACQUIRING a loop input with |e_loop| within Lock Window adds one to Lock Run, any other sets it to 0; one that adds
and reaches Lock Count enters LOCKED after its loop run: Phase Valid true, both runs 0, Acquiring From Holdover
absent, Locks and State Changes one higher, the Holdover record, the Frozen Grade and the Settle Value gone, HOLDOVER
and FREERUN absent. In LOCKED an input beyond Unlock Window adds one to Unlock Run, any other sets it to 0; one that
adds and reaches Unlock Count returns to ACQUIRING: both runs 0, Acquiring From Holdover false, Unlocks and State
Changes one higher, Phase Valid as it was. An input that adds nothing changes no state, whatever count was written
meanwhile (R98). Nothing upstream, no selection and no realignment changes; PHASE_TRANSIENT follows the clamp.
LOCK_COUNT_REACHED and UNLOCK_COUNT_REACHED stand for the second boundary whose input reaches the count, taken in the
default order; where the next boundary's does not, or out of the state, nothing changes (log 14, log 5). Where all
other references are DISABLED, the selected one is QUALIFIED without defects and decided, no slew moves, no window
ends, and its next sample neither jumps nor leaves the window, they complete so. Rests on 05_time_engine_and_servo.md,
Reaching and losing lock (R109, R110); 05_time_engine_and_servo.md, The Servo Context (R98);
05_time_engine_and_servo.md, Running the loop (R104, R106); 06_frequency_history_holdover_and_grade.md, Running in
holdover (R128). -/
def Obligations.LockAndUnlock : Prop :=
  (∀ (s : State) (e : Int),
    let x := s.servo
    let t := s.loopInput e
    let y : Servo := { x.loop e with transient := decide (x.params.phaseClamp < e.natAbs) }
    let lockRun := min (x.lockRun + 1) 255
    let unlockRun := min (x.unlockRun + 1) 255
    let quiet := t = { s with servo := t.servo, alarm := t.alarm }
    (x.state = .acquiring →
      (e.natAbs ≤ x.params.lockWindow → x.params.lockCount ≤ lockRun →
        UpstreamKept [] [] s t ∧ t.selector = s.selector ∧ t.realign = s.realign ∧ t.servo = { y with
          state := .locked, phaseValid := true, lockRun := 0, unlockRun := 0, acqFromHold := none
          ctr := { y.ctr with locks := bump x.ctr.locks, stateChanges := bump x.ctr.stateChanges } } ∧
        t.holdover.record = none ∧ t.holdover.frozen = none ∧ t.holdover.settle = none ∧
        t.holdover.ring = s.holdover.ring ∧ (t.alarm.record recHoldover).present = false ∧
        (t.alarm.record recFreerun).present = false) ∧
      (e.natAbs ≤ x.params.lockWindow → lockRun < x.params.lockCount →
        quiet ∧ t.servo = { y with lockRun := lockRun }) ∧
      (x.params.lockWindow < e.natAbs → quiet ∧ t.servo = { y with lockRun := 0 })) ∧
    (x.state = .locked →
      (x.params.unlockWindow < e.natAbs → x.params.unlockCount ≤ unlockRun →
        UpstreamKept [] [] s t ∧ t.selector = s.selector ∧ t.realign = s.realign ∧ t.servo = { y with
          state := .acquiring, lockRun := 0, unlockRun := 0, acqFromHold := some false
          ctr := { y.ctr with unlocks := bump x.ctr.unlocks, stateChanges := bump x.ctr.stateChanges } } ∧
        t.holdover.record = s.holdover.record ∧ t.holdover.frozen = none ∧ t.holdover.ring = s.holdover.ring ∧
        (t.alarm.record recFreerun).present = false) ∧
      (x.params.unlockWindow < e.natAbs → unlockRun < x.params.unlockCount →
        quiet ∧ t.servo = { y with unlockRun := unlockRun }) ∧
      (e.natAbs ≤ x.params.unlockWindow → quiet ∧ t.servo = { y with unlockRun := 0 }))) ∧
  (∀ (s u : State), exec (.secondBoundary []) s = .next u →
    (s.servo.state ≠ .acquiring ∨ u.servo.state ≠ .locked → exec .lockCountReached s = .next s) ∧
    (s.servo.state = .acquiring → u.servo.state = .locked → exec .lockCountReached s = .next u) ∧
    (s.servo.state ≠ .locked ∨ u.servo.state ≠ .acquiring ∨ u.servo.acqFromHold ≠ some false →
      exec .unlockCountReached s = .next s) ∧
    (s.servo.state = .locked → u.servo.state = .acquiring → u.servo.acqFromHold = some false →
      exec .unlockCountReached s = .next u)) ∧
  (∀ (s : State) (r : Ref) (p l : Int),
    let x := s.servo
    let y := s.ref r
    let at' := if s.clock.boundaryDue then s.clock.counter else (secondsOf s.clock.counter + 1) * secUnits
    let b := secondsOf at'
    let e := p + y.cfg.compensation
    let input := e - s.realign.b
    (s.clock.boundaryDue = true ∨ secondsOf s.clock.counter + 1 < secRange) → b % 16 ≠ 0 →
    s.selector.phase = some r → (∀ k, k ≠ r → (s.ref k).state = .disabled) → y.state = .qualified → y.defects = [] →
    (∀ g, y.grade = some g → y.cfg.minGrade ≤ g) → 0 < y.cfg.starveSeconds → s.sampleOf b r = some p →
    y.lastE = some l → (e - l).natAbs ≤ y.cfg.jumpLimit → s.realign.decision = .decided →
    s.realign.slew ≠ some false →
    let run : Servo := { x.loop input with transient := decide (x.params.phaseClamp < input.natAbs) }
    (x.state = .acquiring → input.natAbs ≤ x.params.lockWindow → x.params.lockCount ≤ min (x.lockRun + 1) 255 →
      ∃ t, exec .lockCountReached s = .next t ∧ t.clock.counter = at' ∧ t.clock.boundaryDue = false ∧
        t.servo = { run with
          state := .locked, phaseValid := true, lockRun := 0, unlockRun := 0, acqFromHold := none
          ctr := { run.ctr with locks := bump x.ctr.locks, stateChanges := bump x.ctr.stateChanges } }) ∧
    (x.state = .locked → x.params.unlockWindow < input.natAbs → x.params.unlockCount ≤ min (x.unlockRun + 1) 255 →
      ∃ t, exec .unlockCountReached s = .next t ∧ t.clock.counter = at' ∧ t.clock.boundaryDue = false ∧
        t.servo = { run with
          state := .acquiring, lockRun := 0, unlockRun := 0, acqFromHold := some false
          ctr := { run.ctr with unlocks := bump x.ctr.unlocks, stateChanges := bump x.ctr.stateChanges } }))

/-- HOLDOVER_MINUTE gives the frequency of the minute, and how a holdover is entered, paused, resumed and ended. Where
Elapsed of a running holdover can reach its next whole minute, and that is within what Elapsed counts, HOLDOVER_MINUTE
brings the relay there and takes that minute: in HOLDOVER, F and I become H plus round(D k / 60) clamped to Pull
Range, k being the whole minutes of Elapsed; in any other state they stay. Nothing else changes but by the close of a
second that the instant ends. With no Holdover record, or one that is paused, nothing changes (log 5). A holdover
entered with no record takes the ring's entries past the newest Guard Minutes, the next Averaging Depth of them back
in time, and of those the usable ones: n their count, H their mean rounded with Short false where n reaches Minimum
Entries, else the I that stands with Short true, counted and HISTORY_SHORT present; D by R125 within Drift Limit, 0
where it is not estimated; the Entry Grade given (that before the event, log 35); Elapsed runs from 0. With a record
present it is resumed: n, H, D, Entry Grade and Short stay and Elapsed runs on from its value. Entering LOCKED
discards the record; entering ACQUIRING from a holdover state stops Elapsed and takes the Announced Grade as the
Frozen Grade. Entering HOLDOVER from ACQUIRING or LOCKED, entered or resumed, or from FREQ_TRACK gives F and I the
same form for the Elapsed that stands; into FREQ_TRACK with Phase Valid from ACQUIRING or LOCKED a holdover is entered
or resumed and F and I stay. Rests on 06_frequency_history_holdover_and_grade.md, Running in holdover (R127, R128);
06_frequency_history_holdover_and_grade.md, Entering holdover (R123, R124, R125, R126);
06_frequency_history_holdover_and_grade.md, Holdover (R122); 05_time_engine_and_servo.md, Holding and free-running
(R112). -/
def Obligations.HoldoverMinuteMovesTheFrequency : Prop :=
  (∀ s : State,
    (s.holdover.record = none → exec .holdoverMinute s = .next s) ∧
    (∀ r, s.holdover.record = some r → r.elapsed.since = none → exec .holdoverMinute s = .next s) ∧
    (∀ r start, s.holdover.record = some r → r.elapsed.since = some start → (r.minuteMark + 1) * 60 ≤ 4294967295 →
      let d := start + ((r.minuteMark + 1) * 60 * secUnits - r.elapsed.base) - s.clock.residence
      s.canReach d → ∃ t, exec .holdoverMinute s = .next t ∧ advanced s t d ∧
        t = { s.arrive t.clock with servo := t.servo, holdover := { (s.arrive t.clock).holdover with
          record := some { r with minuteMark := r.minuteMark + 1 } } } ∧
        (s.servo.state ≠ .holdover → t.servo = s.servo) ∧
        (s.servo.state = .holdover →
          let k := min (r.elapsed.base + (t.clock.residence - start)) (4294967295 * secUnits) / (60 * secUnits)
          ∃ move : Int, 2 * (60 * move - r.d * k).natAbs ≤ 60 ∧
            (2 * (60 * move - r.d * k).natAbs = 60 → (r.d * k).natAbs ≤ (60 * move).natAbs) ∧
            let f := max (-(s.servo.params.pullRange : Int)) (min s.servo.params.pullRange (r.h + move))
            t.servo = { s.servo with f := f, i := f }))) ∧
  (∀ (s : State) (grade : Nat),
    let x := s.holdover
    let p := x.params
    let t := s.enterHoldover grade
    let usable (l : List RingEntry) := l.filter fun e => e.lockedSeconds = 60
    let kept := usable ((x.ring.take (x.ring.length - p.guardMinutes)).drop
      (x.ring.length - p.guardMinutes - p.averagingDepth))
    let n := kept.length
    let sum (l : List RingEntry) : Int := (l.map fun e => e.meanFreq.getD 0).sum
    let nearest (v whole m : Int) : Prop := 2 * (m * v - whole).natAbs ≤ m.natAbs ∧
      (2 * (m * v - whole).natAbs = m.natAbs → whole.natAbs ≤ (m * v).natAbs)
    t = { s with holdover := t.holdover, alarm := t.alarm } ∧
    (∀ i, i ≠ recHistoryShort → i ≠ recOverflow → t.alarm.record i = s.alarm.record i) ∧
    (x.record = none → ∃ r, t.holdover = { x with
        record := some r
        ctr := { x.ctr with
          holdoversEntered := bump x.ctr.holdoversEntered
          shortHoldovers := if r.short then bump x.ctr.shortHoldovers else x.ctr.shortHoldovers } } ∧
      r = { enteredAt := ⟨s.clock.counter, s.clock.epoch⟩, enteredRes := s.clock.residence, n := n, h := r.h, d := r.d
            entryGrade := grade, short := decide (n < p.minimumEntries), elapsed := ⟨0, some s.clock.residence⟩
            minuteMark := 0 } ∧
      (n < p.minimumEntries → r.h = s.servo.i ∧ (t.alarm.record recHistoryShort).present = true) ∧
      (0 < n → p.minimumEntries ≤ n → nearest r.h (sum kept) n) ∧
      (p.driftEstimation = false ∨ n < p.driftMinimum → r.d = 0) ∧
      (p.driftEstimation = true → p.driftMinimum ≤ n → 2 ≤ n →
        ∃ d : Int, nearest d ((sum (kept.drop (n - n / 2)) - sum (kept.take (n / 2))) * 60) ((n / 2 * (n / 2) : Nat) : Int) ∧
          r.d = max (-(p.driftLimit : Int)) (min p.driftLimit d))) ∧
    (∀ r, x.record = some r → t.alarm = s.alarm ∧ t.holdover = { x with
      record := some { r with
        elapsed := { r.elapsed with since := some s.clock.residence }
        minuteMark := min (timerElapsed r.elapsed s.clock.residence) (4294967295 * secUnits) / (60 * secUnits) }
      ctr := { x.ctr with holdoversResumed := bump x.ctr.holdoversResumed } })) ∧
  (∀ (s : State) (prev : ServoState) (grade : Nat),
    let x := s.holdover
    let locked := s.holdoverChange prev .locked grade
    let acquiring := s.holdoverChange prev .acquiring grade
    let holding := prev = .holdover ∨ (prev = .freqTrack ∧ s.servo.phaseValid = true)
    locked = { s with holdover := { x with settle := none, frozen := none, record := none }, alarm := locked.alarm } ∧
    (∀ r, x.record = some r → r.short = true → (locked.alarm.record recHistoryShort).present = false) ∧
    (holding → acquiring = { s with holdover := { x with
      settle := none, frozen := some x.announced
      record := x.record.map fun r => { r with elapsed := ⟨timerElapsed r.elapsed s.clock.residence, none⟩ } } }) ∧
    (¬ holding → acquiring = { s with holdover := { x with settle := none, frozen := none } }) ∧
    let emptied : State := { s with holdover := { x with settle := none, frozen := none } }
    let into := s.holdoverChange prev .holdover grade
    let given (r : HoldoverRec) : Prop :=
      let k := min (timerElapsed r.elapsed s.clock.residence) (4294967295 * secUnits) / (60 * secUnits)
      ∃ move : Int, 2 * (60 * move - r.d * k).natAbs ≤ 60 ∧
        (2 * (60 * move - r.d * k).natAbs = 60 → (r.d * k).natAbs ≤ (60 * move).natAbs) ∧
        let f := max (-(s.servo.params.pullRange : Int)) (min s.servo.params.pullRange (r.h + move))
        into.servo = { s.servo with f := f, i := f }
    (prev = .acquiring ∨ prev = .locked →
      into = { emptied.enterHoldover grade with servo := into.servo } ∧
        (∃ r, into.holdover.record = some r ∧ given r) ∧
      (s.servo.phaseValid = true → s.holdoverChange prev .freqTrack grade = emptied.enterHoldover grade)) ∧
    (prev = .freqTrack → into = { emptied with servo := into.servo } ∧ ∀ r, x.record = some r → given r))

/-- Slew progress at a boundary, SUSPENDED_SLEW_EXPIRES, and written Realignment Parameters. At a second boundary a
Slew record that is not Held moves B toward zero by the smaller of |B| and Slew Rate; where B reaches 0 the record is
removed and Slews Completed is one higher, Decision staying; otherwise the record stays. Without a record, or with one
that is Held, nothing moves. Where the age of a Suspended Slew record can reach Resume Window, SUSPENDED_SLEW_EXPIRES
brings the relay there and removes the record, counted under Suspended Expired, and nothing else but by the close of a
second that the instant ends; with no record nothing changes (log 5). A PUT of the Realignment Parameters stores each
clamped and is answered ADJUSTED where one was. A changed Max Offset clamps B and the B of a Suspended Slew record at
once; a changed Resume Window that the record's age has reached removes it, counted under Suspended Expired. Nothing
else changes. Rests on 04_reference_selection_and_phase_realignment.md, Slewing (R84);
04_reference_selection_and_phase_realignment.md, Losing and switching references (R87);
04_reference_selection_and_phase_realignment.md, Realignment (R79); 10_in_band_management.md, Writing a table (R196).
-/
def Obligations.SlewMovesAndExpires : Prop :=
  (∀ s : State,
    let x := s.realign
    let t := s.slewProgress
    (x.slew ≠ some false → t = s) ∧
    (x.slew = some false →
      UpstreamKept [] [] s t ∧ t.selector = s.selector ∧ t.servo = s.servo ∧
      (x.b.natAbs ≤ x.params.slewRate → t.realign = { x with
        b := 0, slew := none, ctr := { x.ctr with slewsCompleted := bump x.ctr.slewsCompleted } }) ∧
      (x.params.slewRate < x.b.natAbs → t.realign = { x with
        b := if 0 < x.b then x.b - x.params.slewRate else x.b + x.params.slewRate } ∧
        t = { s with realign := t.realign })) ∧
    (x.suspended = none → exec .suspendedSlewExpires s = .next s) ∧
    (∀ u, x.suspended = some u →
      let d := u.at' + x.params.resumeWindow * secUnits - s.clock.residence
      s.canReach d → ∃ t, exec .suspendedSlewExpires s = .next t ∧ advanced s t d ∧
        t = { s.arrive t.clock with realign := { x with
          suspended := none, ctr := { x.ctr with suspendedExpired := bump x.ctr.suspendedExpired } } })) ∧
  (∀ (s : State) (dt : Nat) (c : Command) (policy : StepPolicy) (threshold maxOff rate window tolerance : Int),
    isField threshold → isField maxOff → isField rate → isField window → isField tolerance →
    s.putsOne c 9 0 (encIn stepPolicies policy ++ encNum threshold ++ encNum maxOff ++ encNum rate ++ encNum window ++
      encNum tolerance) →
    let v := s.pass dt
    let x := s.realign
    let p : RealignParams :=
      { stepPolicy := policy, stepThreshold := held 100 1000000000 threshold, maxOffset := held 1000 1000000000 maxOff
        slewRate := held 1 1000 rate, resumeWindow := held 1 86400 window, resumeTolerance := held 10 100000 tolerance }
    let exact := kept 100 1000000000 threshold ∧ kept 1000 1000000000 maxOff ∧ kept 1 1000 rate ∧
      kept 1 86400 window ∧ kept 10 100000 tolerance
    let clamped (b : Int) := if p.maxOffset = x.params.maxOffset then b else heldMag p.maxOffset b
    let gone (y : Suspended) : Prop := p.resumeWindow ≠ x.params.resumeWindow ∧
      p.resumeWindow * secUnits ≤ v.clock.residence - y.at'
    ∃ u t, exec (.put dt) s = .next t ∧ PutStored u t s.mgmt.station c 9 0 exact ∧
      (∀ y, x.suspended = some y → gone y → u = { v with realign := { x with
        params := p, b := clamped x.b, suspended := none
        ctr := { x.ctr with suspendedExpired := bump x.ctr.suspendedExpired } } }) ∧
      ((∀ y, x.suspended = some y → ¬ gone y) → u = { v with realign := { x with
        params := p, b := clamped x.b
        suspended := x.suspended.map fun y => { y with b := clamped y.b } } }))

/-- SERVE_DELAY_EXPIRES, PRESENCE_TIMEOUT, and a written Site Table entry. Where the running Serve Delay timer of a
MUTED site can reach Serve Delay, SERVE_DELAY_EXPIRES brings the relay there: the session is SERVING with no Mute
Reason, its timer at 0, its first mark due after that moment (log 36) and Serve Entries one higher, the Serving-since-
restart flag is set, SITE_MUTED is absent and SITE_ABSENT present exactly where the site is ABSENT. Where the presence
interval of a PRESENT site can reach Query Timeout, PRESENCE_TIMEOUT makes it ABSENT, Last Query Time kept, and
SITE_ABSENT is present exactly where the session is SERVING. No other site, port or block changes, but for
NOTICE_OVERFLOW and the notices, and the close of a second that the instant ends. In a session that is not MUTED or
whose timer does not run, SERVE_DELAY_EXPIRES changes nothing, and at an ABSENT site PRESENCE_TIMEOUT neither (log 5).
A PUT of one Site Table entry that keeps a SERVING session enabled and changes its Domain, VLAN or Mark Rate is
refused STATE. Any other stores each field, numbers clamped, and is answered ADJUSTED where one was; the same values
change nothing; Enabled to false leaves the session DISABLED, to true on one that was not enabled leaves it out of
DISABLED; a Minimum Grade above the Announced Grade mutes a SERVING one with reason GRADE. No other site, no other
port and no block but the Delivery and Alarm Units changes. Rests on 07_site_delivery.md, Session states (R140, R141,
R142); 07_site_delivery.md, Site presence (R152, R153); 07_site_delivery.md, Leaving service (R143, R144);
07_site_delivery.md, The Site Table (R137, R138); 10_in_band_management.md, Writing a table (R196). -/
def Obligations.SiteTimersRunOut : Prop :=
  (∀ (s : State) (k : Fin 6),
    let x := s.site k
    let near (t : State) := (∀ j, j ≠ k → t.site j = s.site j) ∧
      ∀ i, i ≠ recSiteAbsent k → i ≠ recSiteMuted k → i ≠ recOverflow → t.alarm.record i = s.alarm.record i
    (x.state ≠ .muted ∨ x.serve.since = none → exec (.serveDelayExpires k) s = .next s) ∧
    (x.present = false → exec (.presenceTimeout k) s = .next s) ∧
    (∀ start, x.state = .muted → x.serve.since = some start →
      let d := start + (x.cfg.serveDelay * secUnits - x.serve.base) - s.clock.residence
      s.canReach d → ∃ t, exec (.serveDelayExpires k) s = .next t ∧ advanced s t d ∧ near t ∧
        t = { s.arrive t.clock with sites := t.sites, servingSince := true, alarm := t.alarm } ∧
        t.site k = { x with
          state := .serving, muteReason := none, serve := ⟨0, none⟩, markDone := t.clock.counter
          ctr := { x.ctr with serveEntries := bump x.ctr.serveEntries } } ∧
        (t.alarm.record (recSiteMuted k)).present = false ∧ (t.alarm.record (recSiteAbsent k)).present = !x.present) ∧
    (∀ heard, x.present = true → x.lastQuery = some heard →
      let d := heard + x.cfg.queryTimeout * secUnits - s.clock.residence
      s.canReach d → ∃ t, exec (.presenceTimeout k) s = .next t ∧ advanced s t d ∧ near t ∧
        t = { s.arrive t.clock with sites := t.sites, alarm := t.alarm } ∧
        t.site k = { x with present := false } ∧
        (t.alarm.record (recSiteAbsent k)).present = decide (x.state = .serving))) ∧
  (∀ (s : State) (dt : Nat) (c : Command) (k : Fin 6) (enabled : Bool)
      (domain path grade delay limit timeout : Int) (vlan : Option Int) (rate : Nat),
    isField domain → isField path → isField grade → isField delay → isField limit → isField timeout →
    isOptField vlan → rate ∈ markRates →
    s.putsOne c 17 k.val (encBool enabled ++ encNum domain ++ encOptInt vlan ++ encIn markRates rate ++ encNum path ++
      encNum grade ++ encNum delay ++ encNum limit ++ encNum timeout) →
    let v := s.pass dt
    let x := s.site k
    let cfg : SiteCfg :=
      { enabled := enabled, domain := held 0 127 domain, vlan := vlan.map (held 0 4095), markRate := rate
        pathComp := heldMag 100000 path, minGrade := held 0 15 grade, serveDelay := held 0 60 delay
        queryLimit := held 1 256 limit, queryTimeout := held 1 60 timeout }
    let exact := kept 0 127 domain ∧ kept (-100000) 100000 path ∧ kept 0 15 grade ∧ kept 0 60 delay ∧
      kept 1 256 limit ∧ kept 1 60 timeout ∧ ∀ y, vlan = some y → kept 0 4095 y
    let protects := x.state = .serving ∧ enabled = true ∧
      (cfg.domain ≠ x.cfg.domain ∨ cfg.vlan ≠ x.cfg.vlan ∨ cfg.markRate ≠ x.cfg.markRate)
    (protects → ∃ t, exec (.put dt) s = .next t ∧ PutRefused v t s.mgmt.station c k.val 10) ∧
    (¬ protects → ∃ u t, exec (.put dt) s = .next t ∧ PutStored u t s.mgmt.station c 17 k.val exact ∧
      u = { v with ports := u.ports, sites := u.sites, servingSince := u.servingSince, alarm := u.alarm } ∧
      (∀ j, j ≠ k → u.site j = s.site j) ∧ (∀ q, q ≠ sitePort k → u.port q = s.port q) ∧
      (u.port (sitePort k) = s.port (sitePort k) ∨ u.port (sitePort k) = (s.port (sitePort k)).withoutMarks) ∧
      (u.site k).cfg = cfg ∧ (cfg = x.cfg → u = v) ∧
      (x.cfg.enabled = true → enabled = false → (u.site k).state = .disabled) ∧
      (x.cfg.enabled = false → enabled = true → (u.site k).state ≠ .disabled) ∧
      (x.cfg.enabled = true → enabled = true → x.state = .serving → cfg.minGrade ≠ x.cfg.minGrade →
        s.holdover.announced < cfg.minGrade →
        (u.site k).state = .muted ∧ (u.site k).muteReason = some .grade ∧
        u.port (sitePort k) = (s.port (sitePort k)).withoutMarks)))

/-- A Delivery Session sorts a timing frame, and answers a query. A Delivery Session discards in this order: any frame
while DISABLED, a Type other than DELAY_QUERY, another Domain, each counted and nothing else. A query of its Domain
makes the site PRESENT, heard at this moment. Then one stamped in another Epoch counts under Epoch Discards, one to a
MUTED session under Muted Queries, one beyond Query Limit under Over Limit; any other is answered: Queries This Second
and Queries Answered are one higher, and a DELAY_REPLY to the query's source with its Sequence and Correction, the
Announced Grade, the Epoch, zero Flags and the ingress time plus Path Compensation (fraction dropped, at least 0) is
offered to the site port's Timing Queue, one not queued counting under Replies Skipped (a time of 2^48 s or more is
written modulo 2^48 s, the model's choice, log 62). No other site or port changes. Rests on 07_site_delivery.md,
Answering a site (R149, R150, R151); 07_site_delivery.md, Site presence (R152); 11_frame_and_record_formats.md, The
Meridane frame. -/
def Obligations.SiteSortsAQuery : Prop :=
  ∀ (s : State) (k : Fin 6) (f : Frame) (stamps : Ingress),
    let x := s.site k
    let h := readHeader f.payload
    let t := s.siteSort k f stamps
    let heard : Site := { x with present := true, lastQuery := some s.clock.residence }
    let p := sitePort k
    let t4 := ((stamps.counter : Int) + x.cfg.pathComp * 65536).toNat
    (x.state = .disabled → t = s.countSite k fun c => { c with disabledDiscards := bump c.disabledDiscards }) ∧
    (x.state ≠ .disabled → h.type ≠ 3 → t = s.countSite k fun c => { c with unusedTypes := bump c.unusedTypes }) ∧
    (x.state ≠ .disabled → h.type = 3 → h.domain ≠ x.cfg.domain →
      t = s.countSite k fun c => { c with otherDomain := bump c.otherDomain }) ∧
    (x.state ≠ .disabled → h.type = 3 → h.domain = x.cfg.domain →
      t = { s with ports := t.ports, sites := t.sites, alarm := t.alarm } ∧ (∀ j, j ≠ k → t.site j = s.site j) ∧
      (∀ q, q ≠ p → t.port q = s.port q) ∧ (t.alarm.record (recSiteAbsent k)).present = false ∧
      (∀ i, i ≠ recSiteAbsent k → i ≠ recSiteMuted k → i ≠ recTimingLoss p → i ≠ recOverflow →
        t.alarm.record i = s.alarm.record i) ∧
      (stamps.epoch ≠ s.clock.epoch → t.port p = s.port p ∧
        t.site k = { heard with ctr := { x.ctr with epochDiscards := bump x.ctr.epochDiscards } }) ∧
      (stamps.epoch = s.clock.epoch → x.state = .muted → t.port p = s.port p ∧
        t.site k = { heard with ctr := { x.ctr with mutedQueries := bump x.ctr.mutedQueries } }) ∧
      (stamps.epoch = s.clock.epoch → x.state = .serving → x.cfg.queryLimit ≤ x.queries → t.port p = s.port p ∧
        t.site k = { heard with ctr := { x.ctr with overLimit := bump x.ctr.overLimit } }) ∧
      (stamps.epoch = s.clock.epoch → x.state = .serving → x.queries < x.cfg.queryLimit →
        t.port p = (s.port p).offered s.res .timing
          ⟨{ dst := f.src, src := s.mgmt.station, tag := builtTag x.cfg.vlan
             etherType := BitVec.ofNat 16 s.mgmt.partEther
             payload := headerBytes { cls := 1, type := 4, domain := x.cfg.domain, flags := 0, seq := h.seq
                                      grade := s.holdover.announced, epoch := s.clock.epoch
                                      seconds := t4 / 65536000000000, nanos := t4 % 65536000000000 / 65536
                                      correction := h.correction, bodyLen := 0 } }, .delayReply⟩ ∧
        t.site k = { heard with
          queries := x.queries + 1
          ctr := { x.ctr with
            queriesAnswered := bump x.ctr.queriesAnswered
            repliesSkipped :=
              if (s.port p).linkUp = true ∧ (s.port p).timingQ.length < 16 then x.ctr.repliesSkipped
              else bump x.ctr.repliesSkipped } }))

/-- MARK_DUE: a SERVING site's next mark, and the QUALITY_NOTICE of a boundary. Where a SERVING site's next due
instant (the first multiple of its period after every instant already taken that the counter has not passed) can be
reached, MARK_DUE brings the relay there and takes it: the next sequence is used, modulo 65,536, and a TIME_MARK to
the Timing Group Address with the site's Domain and VLAN, the Announced Grade, the Epoch and zero Flags is offered to
the site port's Timing Queue, counted under Marks Queued, or under Marks Skipped where R16 refuses it. No other site,
port or block changes, but for TIMING_LOSS of the port and NOTICE_OVERFLOW, and the close of a second that the instant
ends. The instants already taken are the model's form (log 36); a site that is not SERVING has no mark due and the
command changes nothing (log 5). At a boundary each session in MUTED or SERVING builds one QUALITY_NOTICE and offers
it in the same way: the next notice sequence, used whatever becomes of it; the Announced Grade and the Epoch that
stand; Serving set where it is SERVING; Epoch Changed as Epoch Change Pending stands, which a notice that is queued
clears and one that is not leaves; the Station Address as its Source; Timestamp and Correction zero. It counts under
Notices Queued, or Notices Skipped where R16 refuses it. A DISABLED session builds none. Rests on 07_site_delivery.md,
Sending TIME_MARK (R145, R146); 07_site_delivery.md, Announcing the relay (R147, R148);
01_traffic_path_classification_queues_and_relay_cor.md, The egress queues (R16); 11_frame_and_record_formats.md, The
Meridane frame. -/
def Obligations.MarkDueSendsAMark : Prop :=
  (∀ (s : State) (k : Fin 6),
    let x := s.site k
    let p := sitePort k
    let due := nextDue (65536000000000 / x.rate) x.markDone s.clock.counter
    (x.state ≠ .serving → exec (.markDue k) s = .next s) ∧
    (x.state = .serving → s.canReach (due - s.clock.counter) → ∃ t, exec (.markDue k) s = .next t ∧
      advanced s t (due - s.clock.counter) ∧
      t = { s.arrive t.clock with ports := t.ports, sites := t.sites, alarm := t.alarm } ∧
      (∀ j, j ≠ k → t.site j = s.site j) ∧ (∀ q, q ≠ p → t.port q = s.port q) ∧
      (∀ i, i ≠ recTimingLoss p → i ≠ recOverflow → t.alarm.record i = s.alarm.record i) ∧
      t.port p = (s.port p).offered t.clock.residence .timing
        ⟨{ dst := 0x014D44540000, src := s.mgmt.station, tag := builtTag x.cfg.vlan
           etherType := BitVec.ofNat 16 s.mgmt.partEther
           payload := headerBytes { cls := 1, type := 1, domain := x.cfg.domain, flags := 0, seq := x.nextMark
                                    grade := s.holdover.announced, epoch := s.clock.epoch, seconds := 0, nanos := 0
                                    correction := 0, bodyLen := 0 } }, .timeMark⟩ ∧
      t.site k = { x with
        markDone := due, nextMark := (x.nextMark + 1) % 65536
        ctr := { x.ctr with
          marksQueued :=
            if (s.port p).linkUp = true ∧ (s.port p).timingQ.length < 16 then bump x.ctr.marksQueued
            else x.ctr.marksQueued
          marksSkipped :=
            if (s.port p).linkUp = true ∧ (s.port p).timingQ.length < 16 then x.ctr.marksSkipped
            else bump x.ctr.marksSkipped } })) ∧
  (∀ (s : State) (k : Fin 6),
    let x := s.site k
    let p := sitePort k
    let t := s.offerNotice k
    let flags := (if x.state = .serving then 1 else 0) + (if x.epochPending then 2 else 0)
    let queued := (s.port p).linkUp = true ∧ (s.port p).timingQ.length < 16
    (x.state = .disabled → t = s) ∧
    (x.state ≠ .disabled →
      t = { s with ports := t.ports, sites := t.sites, alarm := t.alarm } ∧
      (∀ j, j ≠ k → t.site j = s.site j) ∧ (∀ q, q ≠ p → t.port q = s.port q) ∧
      (∀ i, i ≠ recTimingLoss p → i ≠ recOverflow → t.alarm.record i = s.alarm.record i) ∧
      t.port p = (s.port p).offered s.clock.residence .timing
        ⟨{ dst := 0x014D44540000, src := s.mgmt.station, tag := builtTag x.cfg.vlan
           etherType := BitVec.ofNat 16 s.mgmt.partEther
           payload := headerBytes { cls := 1, type := 2, domain := x.cfg.domain, flags := flags, seq := x.nextNotice
                                    grade := s.holdover.announced, epoch := s.clock.epoch, seconds := 0, nanos := 0
                                    correction := 0, bodyLen := 8 } ++
             beBytes 6 s.mgmt.station.toNat ++ [0, 0] }, .qualityNotice⟩ ∧
      (queued → t.site k = { x with
        nextNotice := (x.nextNotice + 1) % 65536, epochPending := false
        ctr := { x.ctr with noticesQueued := bump x.ctr.noticesQueued } }) ∧
      (¬ queued → t.site k = { x with
        nextNotice := (x.nextNotice + 1) % 65536
        ctr := { x.ctr with noticesSkipped := bump x.ctr.noticesSkipped } })))

/-- PPS_OUTPUT_EDGE and PPS_PULSE_END, the squelch of outputs, and a written Pin Table entry. For an enabled PPS_OUT
pin the next instant is that of the first second whose instant (the second plus Offset) is after the pin's start and
not behind the counter, and which comes after the last second that had its edge (strictly after the start: log 36).
Where it can be reached, PPS_OUTPUT_EDGE brings the relay there. If the pin is ACTIVE it is high for Pulse Width on
the Residence Clock from that moment, that second has had its edge, and Pulses Sent is one higher. If it is SQUELCHED
no edge comes and the instant is past, the model's form of a running schedule (log 65). Where the end of the high part
can be reached, PPS_PULSE_END brings the relay there and the pin is low. Nothing else changes but by the close of a
second that the instant ends. A pin of another function, an output that is disabled and a pin that is low take no such
event (log 5). A grade delivered to the pins squelches an enabled output exactly where it is below Squelch Grade,
counted under Squelches at each entry; what is high stays high to its own end. A PUT of one Pin Table entry is refused
STATE or CONFLICT by R156, and else stored, numbers clamped, ADJUSTED where one was; an output that is off is low, one
just turned on starts low and squelched at once where its grade asks for it. Rests on 08_timing_pins.md, Pulse-per-
second outputs (R161); 08_timing_pins.md, Squelch (R164); 08_timing_pins.md, The Pin Table (R156, R157);
08_timing_pins.md, Pin drive and status (R158); 10_in_band_management.md, Writing a table (R196). -/
def Obligations.PpsPulses : Prop :=
  (∀ (s : State) (k : Fin 4),
    let x := s.tpin k
    let live := x.cfg.function = .ppsOut ∧ x.cfg.outEnabled = true
    let instant (n : Nat) : Int := (n : Int) * 65536000000000 + x.cfg.offset * 65536
    let open' (n : Nat) : Prop := (x.ppsFrom : Int) < instant n ∧ (s.clock.counter : Int) ≤ instant n ∧
      ∀ l, x.ppsLast = some l → l < n
    (¬ live → exec (.ppsOutputEdge k) s = .next s) ∧
    (live → ∃ sec, open' sec ∧ (∀ n, open' n → sec ≤ n) ∧
      (s.canReach ((instant sec).toNat - s.clock.counter) → ∃ t, exec (.ppsOutputEdge k) s = .next t ∧
        advanced s t ((instant sec).toNat - s.clock.counter) ∧ t = { s.arrive t.clock with pins := t.pins } ∧
        (x.squelched = false → t.tpin k = { x with
          high := some (.atResidence (t.clock.residence + x.cfg.pulseWidth * 65536000)), ppsLast := some sec
          ctr := { x.ctr with pulsesSent := bump x.ctr.pulsesSent } }) ∧
        (x.squelched = true → t.tpin k = { x with ppsFrom := (instant sec).toNat }) ∧
        ∀ j, j ≠ k → t.tpin j = s.tpin j)) ∧
    (x.cfg.function ≠ .ppsOut ∨ x.high = none → exec (.ppsPulseEnd k) s = .next s) ∧
    (∀ fall, x.cfg.function = .ppsOut → x.high = some (.atResidence fall) →
      s.canReach (fall - s.clock.residence) → ∃ t, exec (.ppsPulseEnd k) s = .next t ∧
        advanced s t (fall - s.clock.residence) ∧ t = { s.arrive t.clock with pins := t.pins } ∧
        t.tpin k = { x with high := none } ∧ ∀ j, j ≠ k → t.tpin j = s.tpin j)) ∧
  (∀ (s : State) (k : Fin 4),
    let x := s.tpin k
    let t := s.deliverSquelch
    let on := (x.cfg.function = .ppsOut ∨ x.cfg.function = .freqOut) ∧ x.cfg.outEnabled = true
    let low := s.holdover.announced < x.cfg.squelch
    t = { s with pins := t.pins } ∧
    ((t.tpin k).squelched = true ↔ on ∧ low) ∧
    t.tpin k = { x with
      squelched := (t.tpin k).squelched, phase := (t.tpin k).phase
      ctr := { x.ctr with
        squelches := (t.tpin k).ctr.squelches } } ∧
    (t.tpin k).ctr.squelches = (if (t.tpin k).squelched = true ∧ x.squelched = false then bump x.ctr.squelches
      else x.ctr.squelches)) ∧
  (∀ (s : State) (dt : Nat) (c : Command) (k : Fin 4) (function : PinFunction) (enabled : Bool)
      (squelch width offset : Int) (rate : Nat) (source : FreqSource),
    isField squelch → isField width → isField offset → rate ∈ pinRates →
    s.putsOne c 19 k.val (encIn pinFunctions function ++ encBool enabled ++ encNum squelch ++ encNum width ++
      encNum offset ++ encIn pinRates rate ++
      (match source with
        | .counter => [0, 0]
        | .bypass r => [1, BitVec.ofNat 8 (refIdx r).val])) →
    let v := s.pass dt
    let x := s.tpin k
    let cfg : PinCfg :=
      { function := function, outEnabled := enabled, squelch := held 0 15 squelch, pulseWidth := held 1 999999 width
        offset := heldMag 1000000 offset, rate := rate, source := source }
    let exact := kept 0 15 squelch ∧ kept 1 999999 width ∧ kept (-1000000) 1000000 offset
    let isOut (f : PinFunction) : Prop := f = .ppsOut ∨ f = .freqOut
    let runs := isOut x.cfg.function ∧ x.cfg.outEnabled = true
    let protects := runs ∧ enabled = true ∧ (x.cfg.function ≠ function ∨ x.cfg.rate ≠ rate ∨ x.cfg.source ≠ source ∨
      x.cfg.pulseWidth ≠ cfg.pulseWidth)
    let taken := (function = .ppsIn ∨ function = .freqIn) ∧ ∃ j, j ≠ k ∧ (s.tpin j).cfg.function = function
    let on := isOut function ∧ enabled = true
    (protects → ∃ t, exec (.put dt) s = .next t ∧ PutRefused v t s.mgmt.station c k.val 10) ∧
    (¬ protects → taken → ∃ t, exec (.put dt) s = .next t ∧ PutRefused v t s.mgmt.station c k.val 9) ∧
    (¬ protects → ¬ taken → ∃ u t, exec (.put dt) s = .next t ∧ PutStored u t s.mgmt.station c 19 k.val exact ∧
      u = { v with refs := u.refs, pins := u.pins, free := u.free } ∧ (∀ j, j ≠ k → u.tpin j = s.tpin j) ∧
      (∀ r, r ≠ .ext → u.ref r = s.ref r) ∧ (function ≠ .freqIn → u.refs = s.refs) ∧
      (u.tpin k).cfg = cfg ∧ ((u.tpin k).squelched = true ↔ on ∧ s.holdover.announced < cfg.squelch) ∧
      (¬ on → (u.tpin k).high = none) ∧ (on → ¬ runs → (u.tpin k).high = none ∧ (u.tpin k).ppsFrom = v.clock.counter) ∧
      (on → runs → (u.tpin k).high = x.high) ∧
      (x.cfg.function = function → (u.tpin k).lastInput = x.lastInput ∧ (u.tpin k).cycles = x.cycles)))

/-- FREQ_OUTPUT_EDGE and HALF_CYCLE_END, and where Fallback moves the cycles of a bypass output. For an enabled
FREQ_OUT pin FREQ_OUTPUT_EDGE brings the relay to the pin's next cycle start, where that can be reached, a second
boundary at that very moment not coming between (R164, log 4). On the counter it is the next multiple of the period,
an ACTIVE pin then high for half a period of the Residence Clock. In bypass it is the next cycle start on the
oscillator's time, the cycle after it following by exactly one LO second / (Rate (1 + Bypass Offset 10^-12)), the part
left over being carried (log 37); the high part is half of that period (log 55). Leaving the counter, the next counter
instant starts a bypass cycle; leaving bypass, the first counter instant not before the end of the cycle in progress
has the edge (log 54). A SQUELCHED pin goes through the same instants with no edge (log 65). HALF_CYCLE_END brings the
relay to the end of the high part and the pin is low. Nothing else changes but by the close of a second that the
instant ends; a pin of another function, disabled or low takes no such event (log 5). Evaluated for its bypass
reference, a pin's Fallback is true exactly where that reference is not QUALIFIED or it has no Bypass Offset, each
entry counted under Fallback Entries; becoming true on a live output, the bypass cycle in progress is the last and a
counter cycle that was being left goes on; becoming false, the counter cycle in progress is the last, and a bypass
cycle still in progress is followed by the next (in the gap after one, the next counter instant ends the wait, log
54). Where Fallback does not move, and on pins of other references, nothing moves. Rests on 08_timing_pins.md,
Frequency outputs (R162, R163); 08_timing_pins.md, Squelch (R164); 08_timing_pins.md, Pin drive and status (R158). -/
def Obligations.FrequencyOutputCycles : Prop :=
  (∀ (s : State) (k : Fin 4),
    let x := s.tpin k
    let live := x.cfg.function = .freqOut ∧ x.cfg.outEnabled = true
    let only (t : State) := t = { s.arrive t.clock with pins := t.pins } ∧ t.clock.epoch = s.clock.epoch ∧
      ∀ j, j ≠ k → t.tpin j = s.tpin j
    let period := 65536000000000 / x.cfg.rate
    let den := x.cfg.rate * (1000000000000 + x.bypassOffset.getD 0).toNat
    let num := 131072000000000 * 1000000000000
    let short (osc : Nat) : Prop :=
      s.clock.residue + (osc - s.clock.osc) * (1000000000000 + s.servo.f).toNat < s.clock.room * 2000000000000
    let oscIn (osc : Nat) : Prop := osc ≤ s.clock.osc ∨ short osc ∨
      (short (osc - 1) ∧ secondsOf s.clock.counter + 1 < secRange)
    let edge (t : State) (fall : Fall) (phase : FreqPhase) : Prop :=
      (x.squelched = true → t.tpin k = { x with phase := phase }) ∧
      (x.squelched = false → t.tpin k = { x with
        high := some fall, riseRes := some t.clock.residence, phase := phase })
    let onCounter (t : State) (now : Nat) : Prop :=
      edge t (.atResidence (t.clock.residence + period / 2)) (.onCounter now)
    let onBypass (t : State) (first rem : Nat) : Prop := ∃ next left, next * den + left = first * den + rem + num ∧
      (0 < den → left < den) ∧ edge t (.atOsc (t.clock.osc + num / (2 * den))) (.onBypass next left)
    (¬ live → exec (.freqOutputEdge k) s = .next s) ∧
    (∀ done, live → x.phase = .onCounter done →
      let due := nextDue period done s.clock.counter
      s.canReach (due - s.clock.counter) → ∃ t, exec (.freqOutputEdge k) s = .next t ∧
        advanced s t (due - s.clock.counter) ∧ only t ∧ onCounter t due) ∧
    (∀ done, live → x.phase = .leavingCounter done →
      let due := nextDue period done s.clock.counter
      s.canReach (due - s.clock.counter) → ∃ t, exec (.freqOutputEdge k) s = .next t ∧
        advanced s t (due - s.clock.counter) ∧ only t ∧ onBypass t t.clock.osc 0) ∧
    (∀ next rem, live → x.phase = .onBypass next rem → oscIn next → ∃ t, exec (.freqOutputEdge k) s = .next t ∧
      t.clock.osc = max next s.clock.osc ∧ only t ∧ onBypass t next rem) ∧
    (∀ finish u, live → x.phase = .leavingBypass finish → s.reachOsc finish = some u →
      let due := (u.clock.counter + (period - 1)) / period * period
      u.canReach (due - u.clock.counter) → ∃ t, exec (.freqOutputEdge k) s = .next t ∧
        advanced u t (due - u.clock.counter) ∧ only t ∧ onCounter t t.clock.counter) ∧
    (x.cfg.function ≠ .freqOut ∨ x.high = none → exec (.halfCycleEnd k) s = .next s) ∧
    (∀ fall, x.cfg.function = .freqOut → x.high = some (.atResidence fall) →
      s.canReach (fall - s.clock.residence) → ∃ t, exec (.halfCycleEnd k) s = .next t ∧
        advanced s t (fall - s.clock.residence) ∧ only t ∧ t.tpin k = { x with high := none }) ∧
    (∀ osc, x.cfg.function = .freqOut → x.high = some (.atOsc osc) → oscIn osc →
      ∃ t, exec (.halfCycleEnd k) s = .next t ∧ t.clock.osc = max osc s.clock.osc ∧ only t ∧
        t.tpin k = { x with high := none })) ∧
  (∀ (s : State) (r : Ref) (k : Fin 4),
    let x := s.tpin k
    let t := s.pinsFallback r
    let y := t.tpin k
    let now := ¬ ((s.ref r).state = .qualified ∧ x.bypassOffset.isSome = true)
    t = { s with pins := t.pins } ∧
    (x.cfg.function ≠ .freqOut ∨ x.cfg.source ≠ .bypass r → y = x) ∧
    (x.cfg.function = .freqOut → x.cfg.source = .bypass r →
      (y.fallback = true ↔ now) ∧
      y = { x with fallback := y.fallback, phase := y.phase
                   ctr := { x.ctr with fallbackEntries := y.ctr.fallbackEntries } } ∧
      (y.fallback = x.fallback → y = x) ∧
      (x.fallback = false → now → y.ctr.fallbackEntries = bump x.ctr.fallbackEntries ∧
        (x.cfg.outEnabled = true → x.squelched = false → y.phase =
          match x.phase with
          | .onBypass next _ => .leavingBypass next
          | .leavingCounter done => .onCounter done
          | .onCounter done => .onCounter done
          | .leavingBypass finish => .leavingBypass finish)) ∧
      (x.fallback = true → ¬ now → y.ctr = x.ctr ∧ y.phase =
        match x.phase with
        | .onCounter done => .leavingCounter done
        | .leavingBypass finish =>
          if s.clock.osc ≤ finish then .onBypass finish 0 else .leavingCounter (s.clock.counter - 1)
        | .onBypass next rem => .onBypass next rem
        | .leavingCounter done => .leavingCounter done)))

/-- How an alarm record moves: reports, RAISE_HOLD_OFF_EXPIRES and CLEAR_DELAY_EXPIRES. A report that repeats the
stored value moves no record. A CLEAR record becomes RAISING at a present report, or is raised at once under a Raise
Hold-off of 0; a CLEARING one becomes RAISED silently; a RAISING one becomes CLEAR at an absent report; a RAISED one
becomes CLEARING, or is cleared at once under a Clear Delay of 0. Where the hold-off of a RAISING record can reach its
end, RAISE_HOLD_OFF_EXPIRES brings the relay there and raises it: RAISED, one more in Raise Count unless it is 255,
unacknowledged, First Raised kept if present, Last Change now, in PULSE mode with a pulse if it counts toward the pin,
and, if it is told to the collector, with its notice placed by R176: one of it that is queued is rewritten in place,
counted; else with notices off it is Pending; else with fewer than 16 queued it joins the tail; else it is Pending,
Notices Deferred counts it and NOTICE_OVERFLOW is present, no notice joining. A record that is not told leaves the
queue. CLEAR_DELAY_EXPIRES clears a CLEARING record in the same way. No other record but NOTICE_OVERFLOW moves, and
nothing outside the Alarm Unit changes but the time, with the close of a second that the instant ends. In other states
nothing changes (log 5). What the record NOTICE_OVERFLOW does in a report of its own is not stated here. Rests on
09_alarms_and_notices.md, Raising and clearing (R171, R172); 09_alarms_and_notices.md, The alarm record (R170);
09_alarms_and_notices.md, Queuing a notice (R174, R175, R176); 09_alarms_and_notices.md, Driving ALARM_N (R185). -/
def Obligations.AlarmRecordsMove : Prop :=
  (∀ (a : Alarm) (now : Stamp) (res : Nat) (i : Fin 41) (present : Bool), i ≠ recOverflow →
    let r := a.record i
    let c := a.cfg.get (conditionOf i)
    let y := (a.report now res i present []).record i
    y.present = present ∧ (present = r.present → y.state = r.state ∧ y.last = r.last ∧ y.timer = r.timer) ∧
    (present = true → r.present = false → y.state =
      match r.state with
      | .clear => if c.raiseHold = 0 then .raised else .raising
      | .clearing => .raised
      | .raising => .raising
      | .raised => .raised) ∧
    (present = false → r.present = true → y.state =
      match r.state with
      | .raising => .clear
      | .raised => if c.clearDelay = 0 then .clear else .clearing
      | .clear => .clear
      | .clearing => .clearing)) ∧
  (∀ (s : State) (i : Fin 41),
    let r := s.alarm.record i
    let c := s.alarm.cfg.get (conditionOf i)
    let told (t : State) (state : AlarmState) (count : Nat) : Prop :=
      let notice : Notice := ⟨i, state, c.severity, count, some ⟨t.clock.counter, t.clock.epoch⟩, r.cause⟩
      let tells := (c.route = .notice ∨ c.route = .both) ∧ c.severity ≠ .off
      let queued := ∃ n, n ∈ s.alarm.queue ∧ n.record = i
      (¬ tells → t.alarm.queue = s.alarm.queue ∧ (t.alarm.record i).pending = r.pending) ∧
      (tells → queued → t.alarm.queue = s.alarm.queue.map (fun n => if n.record = i then notice else n) ∧
        t.alarm.ctr.noticesRewritten = bump s.alarm.ctr.noticesRewritten) ∧
      (tells → ¬ queued → s.alarm.set.notify = false →
        t.alarm.queue = s.alarm.queue ∧ (t.alarm.record i).pending = true) ∧
      (tells → ¬ queued → s.alarm.set.notify = true → s.alarm.queue.length < 16 →
        t.alarm.queue = s.alarm.queue ++ [notice]) ∧
      (tells → ¬ queued → s.alarm.set.notify = true → 16 ≤ s.alarm.queue.length →
        (t.alarm.record i).pending = true ∧ (t.alarm.record recOverflow).present = true ∧
        t.alarm.queue.map Notice.record = s.alarm.queue.map Notice.record ∧
        ((s.alarm.record recOverflow).present = true → i ≠ recOverflow → t.alarm.queue = s.alarm.queue ∧
          t.alarm.ctr.noticesDeferred = bump s.alarm.ctr.noticesDeferred))
    let near (t : State) := t = { s.arrive t.clock with alarm := t.alarm } ∧ t.alarm.set = s.alarm.set ∧
      t.alarm.cfg = s.alarm.cfg ∧ ∀ j, j ≠ i → j ≠ recOverflow → t.alarm.record j = s.alarm.record j
    (r.state ≠ .raising → exec (.raiseHoldOffExpires i) s = .next s) ∧
    (r.state ≠ .clearing → exec (.clearDelayExpires i) s = .next s) ∧
    (∀ start, r.state = .raising → r.timer = some start →
      let d := start + c.raiseHold * secUnits - s.clock.residence
      s.canReach d → ∃ t, exec (.raiseHoldOffExpires i) s = .next t ∧ advanced s t d ∧ near t ∧
        (t.alarm.record i).state = .raised ∧ (t.alarm.record i).raiseCount = min (r.raiseCount + 1) 255 ∧
        (t.alarm.record i).acked = false ∧ (t.alarm.record i).timer = none ∧
        (t.alarm.record i).last = some ⟨t.clock.counter, t.clock.epoch⟩ ∧
        (t.alarm.record i).first = r.first.or (some ⟨t.clock.counter, t.clock.epoch⟩) ∧
        told t .raised (min (r.raiseCount + 1) 255) ∧
        (s.alarm.set.pulseMode = true → (c.route = .pin ∨ c.route = .both) → c.severity ≠ .off →
          t.alarm.asserted = true ∧ t.alarm.pulse = some t.clock.residence)) ∧
    (∀ start, r.state = .clearing → r.timer = some start →
      let d := start + c.clearDelay * secUnits - s.clock.residence
      s.canReach d → ∃ t, exec (.clearDelayExpires i) s = .next t ∧ advanced s t d ∧ near t ∧
        (i ≠ recOverflow → (t.alarm.record i).state = .clear ∧ (t.alarm.record i).acked = false ∧
          (t.alarm.record i).raiseCount = r.raiseCount ∧ (t.alarm.record i).timer = none ∧
          (t.alarm.record i).last = some ⟨t.clock.counter, t.clock.epoch⟩) ∧ told t .clear r.raiseCount))

/-- NOTICE_OFFER: the head notice is offered once the send spacing has run out. With notices on, a Collector Address
and a notice waiting, where the end of the send spacing (round(10^9 / Notice Rate) ns after the last offer; now when
none runs) can be reached, NOTICE_OFFER brings the relay there: the head leaves the Notice Queue, the spacing starts,
the next sequence is used, and an ALARM_NOTICE to the collector with that sequence and the notice's body is offered to
the Bulk Queue of the Collector Port, counted under Notices Sent, or under Notices Discarded where R16 refuses it.
With no record pending the rest of the queue and the records stay. Pending ones drain in the same event, in increasing
index order until 16 notices are queued: each of them gives up its Pending flag, and one whose Route and Severity ask
for a notice has the notice of its present State appended; where the queue fills first, the others keep theirs. The
last flag gone, NOTICE_OVERFLOW is reported absent (and, where its own notice then meets a full queue, present again
by R177). The header's Flags, Grade, Epoch, Timestamp and Correction are free (log 19). No other port and no other
block changes, but by the close of a second that the instant ends. With notices off, no collector, or no notice
nothing changes (log 5). Rests on 09_alarms_and_notices.md, Sending notices to the collector (R181);
09_alarms_and_notices.md, Queuing a notice (R178); 01_traffic_path_classification_queues_and_relay_cor.md, The egress
queues (R16); 11_frame_and_record_formats.md, ALARM_NOTICE body. -/
def Obligations.NoticeOfferSendsTheHead : Prop :=
  ∀ (s : State) (n : Notice) (rest : List Notice) (collector : Addr),
    let a := s.alarm
    let p := a.set.collectorPort
    let spacing := (2 * 1000000000 + a.set.rate) / (2 * a.set.rate) * 65536
    let d := match a.spacing with
      | some start => start + spacing - s.clock.residence
      | none => 0
    (a.set.notify = false ∨ a.set.collector = none ∨ a.queue = [] → exec .noticeOffer s = .next s) ∧
    (a.set.notify = true → a.set.collector = some collector → a.queue = n :: rest → s.canReach d →
      ∃ t flags grade epoch seconds nanos correction, exec .noticeOffer s = .next t ∧ advanced s t d ∧
        t = { s.arrive t.clock with ports := t.ports, alarm := t.alarm, free := s.free + 1 } ∧
        (∀ q, q ≠ p → t.port q = s.port q) ∧
        t.port p = (s.port p).offered t.clock.residence .bulk
          ⟨{ dst := collector, src := s.mgmt.station, tag := builtTag a.set.vlan
             etherType := BitVec.ofNat 16 s.mgmt.partEther
             payload := headerBytes { cls := 2, type := 0x21, flags := flags, seq := a.nextSeq, grade := grade
                                      epoch := epoch, seconds := seconds, nanos := nanos, correction := correction
                                      bodyLen := (noticeBody n).length } ++ noticeBody n }, .alarmNotice⟩ ∧
        t.alarm.spacing = some t.clock.residence ∧ t.alarm.nextSeq = (a.nextSeq + 1) % 65536 ∧
        t.alarm.set = a.set ∧ t.alarm.cfg = a.cfg ∧
        t.alarm.ctr.noticesSent =
          (if (s.port p).bulkOpen then bump a.ctr.noticesSent else a.ctr.noticesSent) ∧
        t.alarm.ctr.noticesDiscarded =
          (if (s.port p).bulkOpen then a.ctr.noticesDiscarded else bump a.ctr.noticesDiscarded) ∧
        ((∀ i, (a.record i).pending = false) → t.alarm.queue = rest ∧ t.alarm.recs = a.recs) ∧
        (rest.length < 16 → Drained rest a t.alarm))

/-- TEST_INTERVAL_EXPIRES and PIN_PULSE_END, and written entries of Alarm Config and Alarm Settings. Where the test
interval of 1 s can reach its end, TEST_INTERVAL_EXPIRES brings the relay there, ends the interval and reports TEST
absent; no other record but NOTICE_OVERFLOW moves. Where the pulse in progress can reach Pin Pulse Width,
PIN_PULSE_END brings the relay there, ends the pulse and releases ALARM_N, and nothing else changes but by the close
of a second that the instant ends. With no interval or pulse running nothing changes (log 5). A PUT of one Alarm
Config entry stores it, the two times clamped to 0..255 s, ADJUSTED where one was; nothing moves but, under a new
Raise Hold-off, the RAISING records of the condition that have run for it, which are raised, and under a new Clear
Delay the CLEARING ones, which are cleared (and NOTICE_OVERFLOW, which a full queue reports); in LEVEL mode the pin
then follows the records. A PUT of the Alarm Settings that would leave notices on without a Collector Address is
refused STATE; any other is stored, numbers clamped. With Notify Enable as before, queue and records stay, and the
spacing unless it has run out at the rate in force, when it is over (a new rate applies to one in progress alone,
R181); turned off, the queue is emptied, its records pending, the removed notices counted under Notices Dropped, and
the spacing discarded; turned on, no spacing runs and the pending records drain into the queue (R178; Pin Mode first,
log 71). A change of Pin Mode to PULSE releases the pin, one to LEVEL ends the pulse and sets the pin by the records;
a pulse that has run for a new width ends. Rests on 09_alarms_and_notices.md, Testing the alarm path (R186);
09_alarms_and_notices.md, Driving ALARM_N (R184, R185); 09_alarms_and_notices.md, Configuring conditions (R168, R169);
09_alarms_and_notices.md, Sending notices to the collector (R179, R180, R181); 09_alarms_and_notices.md, Queuing a
notice (R178); 10_in_band_management.md, Writing a table (R196). -/
def Obligations.TestAndPulseEnd : Prop :=
  (∀ (s : State),
    (s.alarm.test = none → exec .testIntervalExpires s = .next s) ∧
    (s.alarm.pulse = none → exec .pinPulseEnd s = .next s) ∧
    (∀ start, s.alarm.test = some start →
      let d := start + 65536000000000 - s.clock.residence
      s.canReach d → ∃ t, exec .testIntervalExpires s = .next t ∧ advanced s t d ∧
        t = { s.arrive t.clock with alarm := t.alarm } ∧ t.alarm.test = none ∧
        (t.alarm.record recTest).present = false ∧ t.alarm.set = s.alarm.set ∧ t.alarm.cfg = s.alarm.cfg ∧
        ∀ i, i ≠ recTest → i ≠ recOverflow → t.alarm.record i = s.alarm.record i) ∧
    (∀ start, s.alarm.pulse = some start →
      let d := start + s.alarm.set.pulseWidth * 65536000000 - s.clock.residence
      s.canReach d → ∃ t, exec .pinPulseEnd s = .next t ∧ advanced s t d ∧
        t = { s.arrive t.clock with alarm := { s.alarm with pulse := none, asserted := false } })) ∧
  (∀ (s : State) (dt : Nat) (c : Command) (i : Fin 12) (severity : Severity) (route : Route) (hold delay : Int),
    isField hold → isField delay →
    s.putsOne c 21 i.val (encIn severities severity ++ encIn routes route ++ encNum hold ++ encNum delay) →
    let v := s.pass dt
    let old := s.alarm.cfg.get i
    let cfg : AlarmCfg := ⟨severity, route, held 0 255 hold, held 0 255 delay⟩
    ∃ u t, exec (.put dt) s = .next t ∧ PutStored u t s.mgmt.station c 21 i.val (kept 0 255 hold ∧ kept 0 255 delay) ∧
      u = { v with alarm := u.alarm } ∧ u.alarm.cfg = s.alarm.cfg.set i.val cfg ∧ u.alarm.set = s.alarm.set ∧
      (∀ r, conditionOf r ≠ i → r ≠ recOverflow → u.alarm.record r = s.alarm.record r) ∧
      (cfg.raiseHold = old.raiseHold → cfg.clearDelay = old.clearDelay →
        u.alarm.recs = s.alarm.recs ∧ u.alarm.queue = s.alarm.queue) ∧
      (∀ r start, r ≠ recOverflow → conditionOf r = i → (s.alarm.record r).timer = some start →
        let ran (seconds : Nat) : Prop := seconds * 65536000000000 ≤ v.clock.residence - start
        ((s.alarm.record r).state = .raising → cfg.raiseHold ≠ old.raiseHold → ran cfg.raiseHold →
          (u.alarm.record r).state = .raised) ∧
        ((s.alarm.record r).state = .raising → cfg.raiseHold = old.raiseHold ∨ ¬ ran cfg.raiseHold →
          u.alarm.record r = s.alarm.record r) ∧
        ((s.alarm.record r).state = .clearing → cfg.clearDelay ≠ old.clearDelay → ran cfg.clearDelay →
          (u.alarm.record r).state = .clear) ∧
        ((s.alarm.record r).state = .clearing → cfg.clearDelay = old.clearDelay ∨ ¬ ran cfg.clearDelay →
          u.alarm.record r = s.alarm.record r)) ∧
      (s.alarm.set.pulseMode = false → (u.alarm.asserted = true ↔ ∃ r,
        let e := u.alarm.cfg.get (conditionOf r)
        let x := u.alarm.record r
        (e.route = .pin ∨ e.route = .both) ∧ e.severity ≠ .off ∧ (x.state = .raised ∨ x.state = .clearing) ∧
          x.acked = false))) ∧
  (∀ (s : State) (dt : Nat) (c : Command) (notify : Bool) (rate : Int) (collector : Option Addr) (port : Port)
      (vlan : Option Int) (ack pulse : Bool) (width : Int),
    isField rate → isOptField vlan → isField width →
    s.putsOne c 22 0 (encFirst notify ++ encNum rate ++ encOpt 6 encAddr collector ++ encEnum (portIdx port).val ++
      encOptInt vlan ++ encEnum (if ack then 1 else 0) ++ encEnum (if pulse then 1 else 0) ++ encNum width) →
    let v := s.pass dt
    let a := s.alarm
    let set : AlarmSettings :=
      { notify := notify, rate := held 1 64 rate, collector := collector, collectorPort := port
        vlan := vlan.map (held 0 4095), ackOnRead := ack, pulseMode := pulse, pulseWidth := held 10 1000 width }
    (notify = true → collector = none → ∃ t, exec (.put dt) s = .next t ∧ PutRefused v t s.mgmt.station c 0 10) ∧
    (notify = false ∨ collector ≠ none → ∃ u t, exec (.put dt) s = .next t ∧
      PutStored u t s.mgmt.station c 22 0
        (kept 1 64 rate ∧ (∀ x, vlan = some x → kept 0 4095 x) ∧ kept 10 1000 width) ∧
      u = { v with alarm := u.alarm } ∧ u.alarm.set = set ∧ u.alarm.cfg = a.cfg ∧
      (notify = a.set.notify → u.alarm.queue = a.queue ∧ u.alarm.recs = a.recs ∧ u.alarm.spacing =
        a.spacing.filter fun start => decide (v.clock.residence - start <
          (2 * 1000000000 + a.set.rate) / (2 * a.set.rate) * 65536)) ∧
      (notify = false → a.set.notify = true → u.alarm.queue = [] ∧ u.alarm.spacing = none ∧
        u.alarm.ctr.noticesDropped = min (a.ctr.noticesDropped + a.queue.length) 4294967295 ∧
        ∀ r, u.alarm.record r =
          { a.record r with pending := (a.record r).pending || a.queue.any fun n => n.record = r }) ∧
      (notify = true → a.set.notify = false → u.alarm.spacing = none ∧
        ((∀ i, (a.record i).pending = false) → u.alarm.queue = a.queue ∧ u.alarm.recs = a.recs) ∧
        (a.queue.length < 16 → Drained a.queue a u.alarm)) ∧
      (pulse = true → a.set.pulseMode = false → notify = a.set.notify →
        u.alarm.pulse = none ∧ u.alarm.asserted = false) ∧
      (pulse = false → a.set.pulseMode = true → u.alarm.pulse = none ∧ u.alarm.asserted = u.alarm.levelPin) ∧
      (∀ start, pulse = true → a.set.pulseMode = true → notify = a.set.notify → a.pulse = some start →
        if set.pulseWidth * 65536000000 ≤ v.clock.residence - start then
          u.alarm.pulse = none ∧ u.alarm.asserted = false
        else u.alarm.pulse = a.pulse ∧ u.alarm.asserted = a.asserted)))

/-- GET and CONTINUE: checks, entries read, cursor and acknowledgement. A GET at the head of the queue is answered
BAD_TABLE for a table above 25, BAD_INDEX for a start that is no entry, and otherwise with its entries from start on,
wrapping after the last (a table has the entries of R193, the History Ring and the Budget Table as many as they hold):
their number is the count clamped to 1..32 and then to the table's entries, ADJUSTED where that differs from the
count. CONTINUE does the same from the table's Read Cursor, or from 0 where that is unset or no entry; with no entry
it is answered BAD_INDEX. A read sets the cursor past the last entry returned, and in Acknowledge Mode ON_READ a read
of the Alarm Table acknowledges the records it returns. The entries are read in the completion event, before the
acknowledgement. Nothing else changes. A refused read has empty results, as the model reads chapter 11 (log 21). Rests
on 10_in_band_management.md, Reading a table (R194, R195); 10_in_band_management.md, The tables (R193);
09_alarms_and_notices.md, Acknowledging an alarm (R183); 11_frame_and_record_formats.md, Command and response bodies;
11_frame_and_record_formats.md, Table entries. -/
def Obligations.ReadsAreAnswered : Prop :=
  ∀ (s : State) (dt : Nat) (c : Command) (rest : List Command), s.headIs c rest →
    let v := s.pass dt
    let table := beNat (c.args.take 1)
    let entries := match table with
      | 0 => 64 | 1 => 8 | 3 => 2 | 4 => 2 | 5 => 6 | 6 => 6 | 15 => s.holdover.ring.length
      | 16 => s.holdover.budget.length | 17 => 6 | 18 => 6 | 19 => 4 | 20 => 4 | 21 => 12 | 23 => 41 | 25 => 31 | _ => 1
    let answered (t : State) (start count : Nat) : Prop := ∃ h : table < 26,
      let used := min (max 1 (min count 32)) entries
      let ids := (List.range used).map fun k => (start + k) % entries
      let u : State := { v with
        alarm := if table = 23 ∧ s.alarm.set.ackOnRead = true then
            v.alarm.ackAll (ids.filterMap fun i => if h : i < 41 then some ⟨i, h⟩ else none)
          else v.alarm
        mgmt := { v.mgmt with cursors := v.mgmt.cursors.set table (some ((start + used) % entries)) h } }
      Answered u t s.mgmt.station c (if used = count then 0 else 1)
        (beBytes 1 used ++ ids.flatMap fun i =>
          beBytes 2 i ++ beBytes 2 (v.entryAt table i).length ++ v.entryAt table i)
    let refusal (t : State) (status : Nat) : Prop := Answered v t s.mgmt.station c status []
    (c.type = 0x10 → ∃ t, exec (.get dt) s = .next t ∧
      if 25 < table then refusal t 3
      else if entries ≤ beNat ((c.args.drop 1).take 2) then refusal t 4
      else answered t (beNat ((c.args.drop 1).take 2)) (beNat ((c.args.drop 3).take 1))) ∧
    (c.type = 0x11 → ∃ t, exec (.continueRead dt) s = .next t ∧
      if 25 < table then refusal t 3
      else if entries = 0 then refusal t 4
      else
        answered t
          (match s.mgmt.cursors[table]? with
            | some (some i) => if i < entries then i else 0
            | _ => 0) (beNat ((c.args.drop 1).take 1)))

/-- PUT: the checks of its arguments, runs of entries, and entries of the Port Map, the Flow Table and the Management
Settings. A PUT at the head of the queue is answered, in this order, BAD_TABLE for a table above 25, READ_ONLY for one
without write access, BAD_INDEX for a start beyond the entries (for the Budget Table beyond Count or 7, log 31), and
BAD_VALUE for no entries or more than the block, of every writable table, with nothing written and no entry returned
(log 21). A run is taken entry by entry, the place after the block's last being its first: each entry is written in
the state the entries before it leave; the first refused one ends the run with its index, those before it staying
written; the answer carries the number written and each entry as stored, ADJUSTED where one was clamped. An entry that
the body holds only in part, or a Port Map entry of another length than its fields, is refused BAD_VALUE, the index
given. A PUT of one Port Map entry writes its egress set and its compensations clamped to 10,000 ns either way, and is
answered with one entry written, no refused index and the entry as stored, ADJUSTED where a compensation was clamped.
One Flow entry is refused BAD_VALUE for an enumeration byte beyond its set, whatever the target (R205 decodes the
entry before the checks of R7, as the model reads the two, log 23), then PROTECTED for a Pinned target, BAD_VALUE for
a window the wrong way round or a Class with another EtherType, and OVERLAP for an enabled entry that overlaps another
of its Priority; else the entry is replaced, numbers clamped, the Part EtherType followed where its value was written,
Hit Count 0, and Pinned false whatever byte was given (log 24). The Management Settings are refused BAD_VALUE for a
group address, STATE for a port set without the command's port, CONFLICT for a literal EtherType of the Flow Table,
and else stored, the response still built from the old address. The Index that leads an entry is read past (log 22).
Nothing else changes. Rests on 10_in_band_management.md, Writing a table (R196); 10_in_band_management.md, The tables
(R193); 10_in_band_management.md, The Management Settings (R190); 11_frame_and_record_formats.md, Table entries
(R205); 11_frame_and_record_formats.md, Command and response bodies;
01_traffic_path_classification_queues_and_relay_cor.md, Writing a Flow entry (R7, R9);
01_traffic_path_classification_queues_and_relay_cor.md, The Port Map (R11);
01_traffic_path_classification_queues_and_relay_cor.md, The Flow Table (R6);
06_frequency_history_holdover_and_grade.md, The Budget Table (R129). -/
def Obligations.PutWritesARun : Prop :=
  (∀ (s : State) (dt : Nat) (c : Command) (rest : List Command), s.headIs c rest → c.type = 0x12 →
    let v := s.pass dt
    let table := beNat (c.args.take 1)
    let start := beNat ((c.args.drop 1).take 2)
    let count := beNat ((c.args.drop 3).take 1)
    let block := match table with
      | 0 => 16 | 1 => 8 | 3 => 2 | 5 => 6 | 16 => 8 | 17 => 6 | 19 => 4 | 21 => 12 | _ => 1
    let inside := (table ∈ [0, 1, 2, 3, 5, 7, 9, 11, 13, 17, 19, 21, 22] ∧ start < v.entryCount table) ∨
      (table = 16 ∧ start ≤ s.holdover.budget.length ∧ start < 8)
    let refused (status : Nat) : Prop := ∃ t, exec (.put dt) s = .next t ∧
      Answered v t s.mgmt.station c status [0, 0xFF, 0xFF]
    (25 < table → refused 3) ∧
    (table ∈ [4, 6, 8, 10, 12, 14, 15, 18, 20, 23, 24, 25] → refused 6) ∧
    (table ∈ [0, 1, 2, 3, 5, 7, 9, 11, 13, 17, 19, 21, 22] → v.entryCount table ≤ start → refused 4) ∧
    (table = 16 → s.holdover.budget.length < start ∨ 8 ≤ start → refused 4) ∧
    (inside → count = 0 ∨ block < count → refused 5) ∧
    (inside → 0 < count → count ≤ block → (c.args.drop 4).length < 4 + beNat ((c.args.drop 6).take 2) →
      ∃ t, exec (.put dt) s = .next t ∧ PutRefused v t s.mgmt.station c start 5) ∧
    (∀ (h : start < 8) (e : EgressSet) (a b : Int), table = 1 → count = 1 →
      (-(2 ^ 63) ≤ a ∧ a < 2 ^ 63) → (-(2 ^ 63) ≤ b ∧ b < 2 ^ 63) →
      c.args.drop 4 = [0, BitVec.ofNat 8 start, 0, 18, if e.uplink then 1 else 0, e.ports] ++ beBytesInt 8 a ++
        beBytesInt 8 b →
      let x := max (-10000) (min 10000 a)
      let y := max (-10000) (min 10000 b)
      ∃ t, exec (.put dt) s = .next t ∧
        Answered { v with portMap := v.portMap.set start ⟨e, x, y⟩ } t s.mgmt.station c
          (if x = a ∧ y = b then 0 else 1)
          ([1, 0xFF, 0xFF, 0, BitVec.ofNat 8 start, 0, 18, if e.uplink then 1 else 0, e.ports] ++ beBytesInt 8 x ++
            beBytesInt 8 y))) ∧
  (∀ (s : State) (dt : Nat) (c : Command) (rest : List Command) (table start : Nat) (run : List (Nat × List Byte)),
    s.headIs c rest → c.type = 0x12 →
    let block := match table with
      | 0 => 16 | 1 => 8 | 3 => 2 | 5 => 6 | 16 => 8 | 17 => 6 | 19 => 4 | 21 => 12 | _ => 1
    let place (j : Nat) : Nat := start / block * block + (start % block + j) % block
    c.args = beBytes 1 table ++ beBytes 2 start ++ beBytes 1 run.length ++
      run.flatMap (fun x => beBytes 2 x.1 ++ beBytes 2 x.2.length ++ x.2) →
    (table ∈ [0, 1, 2, 3, 5, 7, 9, 11, 13, 17, 19, 21, 22] ∧ start < s.entryCount table) ∨
      (table = 16 ∧ start ≤ s.holdover.budget.length ∧ start < 8) →
    0 < run.length → run.length ≤ block → (∀ x, x ∈ run → x.2.length < 65536) →
    ∃ (u : Nat → State) (clamped : Nat → Bool) (k : Nat) (t : State), exec (.put dt) s = .next t ∧
      u 0 = s.pass dt ∧ k ≤ run.length ∧
      (∀ j x, j < k → run[j]? = some x →
        (u j).putEntry c.ingress table (place j) x.2 = .written (u (j + 1)) (clamped j)) ∧
      let stored := (List.range k).flatMap fun j => beBytes 2 (place j) ++
        beBytes 2 ((u (j + 1)).entryAt table (place j)).length ++ (u (j + 1)).entryAt table (place j)
      (∀ x, run[k]? = some x → ∃ status, (u k).putEntry c.ingress table (place k) x.2 = .refused status ∧
        Answered (u k) t s.mgmt.station c status (beBytes 1 k ++ beBytes 2 (place k) ++ stored)) ∧
      (k = run.length → Answered (u k) t s.mgmt.station c
        (if ∃ j, j < k ∧ clamped j = true then 1 else 0) (beBytes 1 k ++ [0xFF, 0xFF] ++ stored))) ∧
  (∀ (s : State) (dt : Nat) (c : Command) (i : Fin 8) (fields : List Byte),
    s.putsOne c 1 i.val fields → fields.length ≠ 18 → fields.length < 65536 →
    ∃ t, exec (.put dt) s = .next t ∧ PutRefused (s.pass dt) t s.mgmt.station c i.val 5) ∧
  (∀ (s : State) (dt : Nat) (c : Command) (i : Fin 64) (x : RawFlow) (pin vlan cls dest action queue : Byte) (hits : Int),
    x.numbersFit → s.putsOne c 0 i.val (flowFields x pin vlan cls dest action queue hits) →
    let v := s.pass dt
    let part := s.mgmt.partEther
    let spelled := vlanKinds[vlan.toNat]? = some x.vlan ∧ classMatches[cls.toNat]? = some x.cls ∧
      destMatches[dest.toNat]? = some x.dest ∧ actions[action.toNat]? = some x.action ∧
      queueClasses[queue.toNat]? = some x.queue
    let e : FlowEntry :=
      { enabled := x.enabled, pinned := false, priority := held 0 3 x.priority, ingress := x.ingress, vlan := x.vlan
        vStart := held 0 4095 x.vStart, vStop := held 0 4095 x.vStop
        etherType := match x.ether with
          | none => .any
          | some w => if held 1536 65535 w = part then .part else .literal (held 1536 65535 w)
        cls := x.cls, dStart := held 0 127 x.dStart, dStop := held 0 127 x.dStop, dest := x.dest, action := x.action
        egress := x.egress, vlanOffset := held 0 4095 x.offset, queueClass := x.queue, hitCount := 0 }
    let exact := kept 0 3 x.priority ∧ kept 0 4095 x.vStart ∧ kept 0 4095 x.vStop ∧ kept 0 127 x.dStart ∧
      kept 0 127 x.dStop ∧ kept 0 4095 x.offset ∧ ∀ w, x.ether = some w → kept 1536 65535 w
    let wrong := (e.vlan = .tagged ∧ e.vStop < e.vStart) ∨ e.dStop < e.dStart ∨
      (e.cls ≠ .any ∧ ∃ w, e.etherType = .literal w)
    let clash := e.enabled = true ∧ ∃ j, j ≠ i ∧ (s.flow.get j).enabled = true ∧
      (s.flow.get j).priority = e.priority ∧ flowOverlap part e (s.flow.get j) = true
    let refused (status : Nat) : Prop := ∃ t, exec (.put dt) s = .next t ∧
      PutRefused v t s.mgmt.station c i.val status
    (3 ≤ vlan.toNat ∨ 3 ≤ cls.toNat ∨ 3 ≤ dest.toNat ∨ 5 ≤ action.toNat ∨ 2 ≤ queue.toNat → refused 5) ∧
    (spelled → (s.flow.get i).pinned = true → refused 7) ∧
    (spelled → (s.flow.get i).pinned = false → wrong → refused 5) ∧
    (spelled → (s.flow.get i).pinned = false → ¬ wrong → clash → refused 8) ∧
    (spelled → (s.flow.get i).pinned = false → ¬ wrong → ¬ clash → ∃ t, exec (.put dt) s = .next t ∧
      PutStored { v with flow := v.flow.set i.val e } t s.mgmt.station c 0 i.val exact)) ∧
  (∀ (s : State) (dt : Nat) (c : Command) (a : Addr) (ports : PortSet) (ether : Int), isField ether →
    s.putsOne c 2 0 (encAddr a ++ encPorts ⟨ports, false⟩ ++ encNum ether) →
    let v := s.pass dt
    let part := held 1536 65535 ether
    let group := a.getLsbD 40 = true
    let away := ports.getLsbD (portIdx c.ingress).val = false
    let conflict := ∃ j, (s.flow.get j).etherType = .literal part
    let refused (status : Nat) : Prop := ∃ t, exec (.put dt) s = .next t ∧ PutRefused v t s.mgmt.station c 0 status
    (group → refused 5) ∧ (¬ group → away → refused 10) ∧ (¬ group → ¬ away → conflict → refused 9) ∧
    (¬ group → ¬ away → ¬ conflict → ∃ t, exec (.put dt) s = .next t ∧
      PutStored { v with mgmt := { v.mgmt with station := a, permitted := ports, partEther := part } } t
        s.mgmt.station c 2 0 (kept 1536 65535 ether)))

/-- CLEAR, PIN and UNPIN; the Announced Grade, and written Budget entries and Holdover Parameters. PIN and UNPIN of a
Flow entry set and clear Pinned and nothing else, answered OK with the entry as it stands, led by Index and Length
(log 26); an index above 63 is answered BAD_INDEX. CLEAR is answered BAD_TABLE for a table above 25 and for a writable
table without clear, READ_ONLY for a read-only one; of a Flow entry it is answered BAD_INDEX above 63, PROTECTED where
the entry is Pinned, and otherwise disables the entry and sets its Hit Count to 0, every other field kept, answered OK
with the entry. CLEAR of a Budget Table entry is answered BAD_INDEX from Count on, BAD_VALUE for index 0 with Count
above 1, and otherwise removes the entry, the later ones moving down, answered OK with the new Count; the grade is
then computed again. A refused command changes nothing and has no results (log 21). A recomputation sets the Announced
Grade to the value of R130's table for the servo state, capped by Slewing Grade while a Slew record is present; a
change counts under Grade Changes; BUDGET_LOW is present exactly where a holdover state has less than Budget Alarm
Grade; what else can move is a site's service and an output's squelch. A PUT of one Budget entry is refused BAD_VALUE
where its threshold, clamped, is not 0 at index 0 or does not lie between its neighbours', and else replaces or
appends the entry and computes the grade again; one of the Holdover Parameters stores them all, clamped, keeps the
holdover in progress, and computes the grade again where a grade parameter changed. Rests on 10_in_band_management.md,
Clearing and pinning (R197); 10_in_band_management.md, The tables (R193);
01_traffic_path_classification_queues_and_relay_cor.md, Writing a Flow entry (R8);
06_frequency_history_holdover_and_grade.md, The Budget Table (R129); 06_frequency_history_holdover_and_grade.md, The
Announced Grade (R130, R131, R132, R133, R134); 06_frequency_history_holdover_and_grade.md, Holdover (R121);
10_in_band_management.md, Writing a table (R196); 11_frame_and_record_formats.md, Table entries. -/
def Obligations.ClearPinUnpin : Prop :=
  (∀ (s : State) (dt : Nat) (c : Command) (rest : List Command), s.headIs c rest →
     let v := s.pass dt
     let index := beNat (c.args.take 2)
     let table := beNat (c.args.take 1)
     let place := beNat ((c.args.drop 1).take 2)
     let entry (u : State) (i : Nat) : List Byte :=
       beBytes 2 i ++ beBytes 2 (u.entryAt 0 i).length ++ u.entryAt 0 i
     let with' (i : Fin 64) (e : FlowEntry) : State := { v with flow := v.flow.set i.val e }
     let pinned (flag : Bool) (t : State) : Prop :=
       (63 < index → Answered v t s.mgmt.station c 4 []) ∧
       ∀ h : index < 64,
         let u := with' ⟨index, h⟩ { s.flow.get ⟨index, h⟩ with pinned := flag }
         Answered u t s.mgmt.station c 0 (entry u index)
     (c.type = 0x14 → ∃ t, exec (.pin dt) s = .next t ∧ pinned true t) ∧
     (c.type = 0x15 → ∃ t, exec (.unpin dt) s = .next t ∧ pinned false t) ∧
     (c.type = 0x13 → ∃ t, exec (.clear dt) s = .next t ∧
       (25 < table → Answered v t s.mgmt.station c 3 []) ∧
       (table ∈ [1, 2, 3, 5, 7, 9, 11, 13, 17, 19, 21, 22] → Answered v t s.mgmt.station c 3 []) ∧
       (table ∈ [4, 6, 8, 10, 12, 14, 15, 18, 20, 23, 24, 25] → Answered v t s.mgmt.station c 6 []) ∧
       (table = 0 → 63 < place → Answered v t s.mgmt.station c 4 []) ∧
       (table = 0 → ∀ h : place < 64,
         let e := s.flow.get ⟨place, h⟩
         let u := with' ⟨place, h⟩ { e with enabled := false, hitCount := 0 }
         (e.pinned = true → Answered v t s.mgmt.station c 7 []) ∧
         (e.pinned = false → Answered u t s.mgmt.station c 0 (entry u place))) ∧
       (table = 16 → s.holdover.budget.length ≤ place → Answered v t s.mgmt.station c 4 []) ∧
       (table = 16 → place = 0 → 1 < s.holdover.budget.length → Answered v t s.mgmt.station c 5 []) ∧
       (table = 16 → place < s.holdover.budget.length → (place ≠ 0 ∨ s.holdover.budget.length = 1) →
         ∃ u, UpstreamKept [] [] v u ∧
           u.holdover = { s.holdover with
             budget := s.holdover.budget.eraseIdx place, announced := u.gradeNow, ctr := u.holdover.ctr } ∧
           u.servo = s.servo ∧ u.selector = s.selector ∧ u.realign = s.realign ∧
           Answered u t s.mgmt.station c 0 [BitVec.ofNat 8 (s.holdover.budget.length - 1)]))) ∧
  (∀ (s : State),
    let h := s.holdover
    let g := h.grades
    let t := s.regrade
    let cap (x : Nat) : Nat := if s.realign.slew.isSome then min x g.slewing else x
    let row (r : HoldoverRec) (assisted : Bool) : Nat :=
      match (h.budget.filter fun b => b.threshold * 65536000000000 ≤
        min (timerElapsed r.elapsed s.clock.residence) (4294967295 * 65536000000000)).getLast? with
      | none => 2
      | some b => if assisted then b.assisted else b.unassisted
    let inHoldover (r : HoldoverRec) (assisted : Bool) : Nat :=
      min (min (row r assisted) r.entryGrade) (if r.short then g.historyShort else r.entryGrade)
    (s.servo.state = .locked → ∀ r, s.selector.phase = some r →
      (∀ x, (s.ref r).grade = some x → s.gradeNow = cap (x - g.hopDecrement)) ∧
      ((s.ref r).grade = none → s.gradeNow = cap g.acquiring)) ∧
    (s.servo.state = .acquiring →
      (∀ x, s.servo.acqFromHold = some true → h.frozen = some x → s.gradeNow = cap x) ∧
      (s.servo.acqFromHold ≠ some true → s.gradeNow = cap g.acquiring)) ∧
    (s.servo.state = .holdover → ∀ r, h.record = some r → s.gradeNow = cap (inHoldover r false)) ∧
    (s.servo.state = .freqTrack →
      (∀ r, s.servo.phaseValid = true → h.record = some r → s.gradeNow = cap (inHoldover r true)) ∧
      (s.servo.phaseValid = false → s.gradeNow = cap g.frequencyOnly)) ∧
    (s.servo.state = .freerun → s.gradeNow = cap g.freerun) ∧
    UpstreamKept [] [] s t ∧ t.servo = s.servo ∧ t.selector = s.selector ∧ t.realign = s.realign ∧
    t.holdover = { h with
      announced := s.gradeNow
      ctr := { h.ctr with
        gradeChanges := if s.gradeNow = h.announced then h.ctr.gradeChanges else bump h.ctr.gradeChanges } } ∧
    (s.gradeNow = h.announced → t = { s with alarm := t.alarm }) ∧
    ((t.alarm.record recBudgetLow).present = true ↔
      (s.servo.state = .holdover ∨ (s.servo.state = .freqTrack ∧ s.servo.phaseValid = true)) ∧
        s.gradeNow < g.budgetAlarm)) ∧
  (∀ (s : State) (dt : Nat) (c : Command) (i : Nat) (threshold unassisted assisted : Int),
    isField threshold → isField unassisted → isField assisted →
    s.putsOne c 16 i (encNum threshold ++ encNum unassisted ++ encNum assisted) →
    let v := s.pass dt
    let table := s.holdover.budget
    let b : BudgetEntry := ⟨held 0 31536000 threshold, held 0 15 unassisted, held 0 15 assisted⟩
    let fits := (i = 0 → b.threshold = 0) ∧ (0 < i → (∀ x, table[i - 1]? = some x → x.threshold < b.threshold) ∧
      ∀ x, table[i + 1]? = some x → b.threshold < x.threshold)
    (i < 8 → i ≤ table.length → ¬ fits → ∃ t, exec (.put dt) s = .next t ∧ PutRefused v t s.mgmt.station c i 5) ∧
    (i < 8 → i ≤ table.length → fits → ∃ u t, exec (.put dt) s = .next t ∧
      PutStored u t s.mgmt.station c 16 i (kept 0 31536000 threshold ∧ kept 0 15 unassisted ∧ kept 0 15 assisted) ∧
      UpstreamKept [] [] v u ∧ u.servo = s.servo ∧ u.selector = s.selector ∧ u.realign = s.realign ∧
      u.holdover = { s.holdover with
        budget := if i = table.length then table ++ [b] else table.set i b
        announced := u.gradeNow, ctr := u.holdover.ctr })) ∧
  (∀ (s : State) (dt : Nat) (c : Command) (drift : Bool)
      (guard depth least driftMin driftLimit settle hop acquiring slewing short freqOnly free budget : Int),
    (∀ x, x ∈ [guard, depth, least, driftMin, driftLimit, settle, hop, acquiring, slewing, short, freqOnly, free,
      budget] → isField x) →
    s.putsOne c 13 0 (encNum guard ++ encNum depth ++ encNum least ++ encFirst drift ++ encNum driftMin ++
      encNum driftLimit ++ encNum settle ++ encNum hop ++ encNum acquiring ++ encNum slewing ++ encNum short ++
      encNum freqOnly ++ encNum free ++ encNum budget) →
    let v := s.pass dt
    let p : HoldoverParams :=
      { guardMinutes := held 0 60 guard, averagingDepth := held 1 1440 depth, minimumEntries := held 1 1440 least
        driftEstimation := drift, driftMinimum := held 2 1440 driftMin, driftLimit := held 0 1000 driftLimit
        settleLimit := held 0 10000 settle }
    let g : GradeParams :=
      { hopDecrement := held 0 15 hop, acquiring := held 0 15 acquiring, slewing := held 0 15 slewing
        historyShort := held 0 15 short, frequencyOnly := held 0 15 freqOnly, freerun := held 0 15 free
        budgetAlarm := held 0 15 budget }
    let exact := kept 0 60 guard ∧ kept 1 1440 depth ∧ kept 1 1440 least ∧ kept 2 1440 driftMin ∧
      kept 0 1000 driftLimit ∧ kept 0 10000 settle ∧
      ∀ x, x ∈ [hop, acquiring, slewing, short, freqOnly, free, budget] → kept 0 15 x
    ∃ u t, exec (.put dt) s = .next t ∧ PutStored u t s.mgmt.station c 13 0 exact ∧
      UpstreamKept [] [] v u ∧ u.servo = s.servo ∧ u.selector = s.selector ∧ u.realign = s.realign ∧
      u.holdover = { s.holdover with
        params := p, grades := g, announced := u.holdover.announced, ctr := u.holdover.ctr } ∧
      (g = s.holdover.grades → u = { v with holdover := { s.holdover with params := p } }) ∧
      (g ≠ s.holdover.grades → u.holdover.announced = u.gradeNow))

/-- FORCE_SELECT and RELEASE; the re-evaluation of both roles; and a written Selector Configuration. FORCE_SELECT is
answered BAD_VALUE for a role other than PHASE and FREQUENCY, an id above 5 or a reference out of the role's list, and
NOT_QUALIFIED for one that is not QUALIFIED; otherwise the reference is the role's selection, forced, and the answer
is OK. RELEASE is answered BAD_VALUE for another role and OK else: a role that is not forced stays as it is; a forced
one is forced no more, and under NON_REVERTIVE keeps a selection that is a candidate, under REVERTIVE takes its best
candidate (the phase role in a state whose servo state matches its roles, which every step keeps). A refused command
changes nothing and has no results (log 21), and what an accepted one changes lies downstream of the references. A re-
evaluation of both roles: each role whose forced selection is a candidate keeps it, forced; each other is forced no
more and takes its best candidate under REVERTIVE, or where its selection is absent or no candidate, and keeps it
else. The best candidate is the earliest QUALIFIED one of the list; for the phase role under Grade Ranking the
earliest of the highest Received Grade, absent the lowest. Each lapsed force counts under Forces Lapsed. A PUT of the
Selector Configuration with an id twice, above 5 or not capable of the role, or with a byte beyond an enumeration, is
refused BAD_VALUE; the values held change nothing; any other is stored and the roles evaluated again: a removed
selection goes, and its force with it; a selection that is still a candidate stays if forced or NON_REVERTIVE. Rests
on 04_reference_selection_and_phase_realignment.md, Forcing a choice (R76, R77);
04_reference_selection_and_phase_realignment.md, Choosing a reference (R72, R73, R75);
04_reference_selection_and_phase_realignment.md, Preference lists and selection settings (R70);
04_reference_selection_and_phase_realignment.md, Reporting a choice (R78); 10_in_band_management.md, Writing a table
(R196); 11_frame_and_record_formats.md, Table entries. -/
def Obligations.ForceAndRelease : Prop :=
  (∀ (s : State) (dt : Nat) (c : Command) (rest : List Command), s.headIs c rest →
     let v := s.pass dt
     let x := s.selector
     let role := beNat (c.args.take 1)
     let id := beNat ((c.args.drop 1).take 1)
     (c.type = 0x16 → ∃ t, exec (.forceSelect dt) s = .next t ∧
       (1 < role ∨ 5 < id → Answered v t s.mgmt.station c 5 []) ∧
       (∀ r : Ref, role ≤ 1 → id = (refIdx r).val →
         let list := if role = 0 then x.cfg.phaseList else x.cfg.freqList
         (r ∉ list → Answered v t s.mgmt.station c 5 []) ∧
         (r ∈ list → (s.ref r).state ≠ .qualified → Answered v t s.mgmt.station c 11 []) ∧
         (r ∈ list → (s.ref r).state = .qualified → ∃ u, UpstreamKept [] [] v u ∧
           (role = 0 → u.selector.phase = some r ∧ u.selector.phaseForced = true) ∧
           (role = 1 → u.selector.freq = some r ∧ u.selector.freqForced = true) ∧
           Answered u t s.mgmt.station c 0 []))) ∧
     (c.type = 0x17 → ∃ t, exec (.release dt) s = .next t ∧
       (1 < role → Answered v t s.mgmt.station c 5 []) ∧
       (role = 0 → x.phaseForced = false → Answered v t s.mgmt.station c 0 []) ∧
       (role = 1 → x.freqForced = false → Answered v t s.mgmt.station c 0 []) ∧
       (role = 0 → x.phaseForced = true → ∃ u, UpstreamKept [] [] v u ∧ u.selector.phaseForced = false ∧
         (∀ r, x.phase = some r → r ∈ x.cfg.phaseList → (s.ref r).state = .qualified →
           (x.cfg.revertive = false → u.selector.phase = some r) ∧
           (x.cfg.revertive = true → s.rolesMatch → u.selector.phase = s.bestPhase)) ∧
         Answered u t s.mgmt.station c 0 []) ∧
       (role = 1 → x.freqForced = true → ∃ u, UpstreamKept [] [] v u ∧ u.selector.freqForced = false ∧
         (∀ r, x.freq = some r → r ∈ x.cfg.freqList → (s.ref r).state = .qualified →
           (x.cfg.revertive = false → u.selector.freq = some r) ∧
           (x.cfg.revertive = true → u.selector.freq = s.bestFreq)) ∧
         Answered u t s.mgmt.station c 0 []))) ∧
  (∀ (s : State),
    let x := s.selector
    let t := s.reevaluateRoles
    let cand (list : List Ref) (r : Ref) : Prop := r ∈ list ∧ (s.ref r).state = .qualified
    let rank (r : Ref) : Nat := match (s.ref r).grade with
      | none => 0
      | some g => g + 1
    let role (list : List Ref) (old : Option Ref) (forced : Bool) (best new : Option Ref) (newForced : Bool) : Prop :=
      (∀ r, old = some r → cand list r → forced = true → new = some r ∧ newForced = true) ∧
      (∀ r, old = some r → cand list r → forced = false → newForced = false ∧
        new = if x.cfg.revertive then best else some r) ∧
      ((∀ r, old = some r → ¬ cand list r) → newForced = false ∧ new = best)
    let lapsed (list : List Ref) (old : Option Ref) (forced : Bool) : Prop :=
      forced = true ∧ ∀ r, old = some r → ¬ cand list r
    role x.cfg.phaseList x.phase x.phaseForced s.bestPhase t.selector.phase t.selector.phaseForced ∧
    role x.cfg.freqList x.freq x.freqForced s.bestFreq t.selector.freq t.selector.freqForced ∧
    (∃ a b : Nat, (lapsed x.cfg.phaseList x.phase x.phaseForced → a = 1) ∧
      (¬ lapsed x.cfg.phaseList x.phase x.phaseForced → a = 0) ∧
      (lapsed x.cfg.freqList x.freq x.freqForced → b = 1) ∧ (¬ lapsed x.cfg.freqList x.freq x.freqForced → b = 0) ∧
      t.selector.ctr =
        { phaseChanges := if t.selector.phase = x.phase then x.ctr.phaseChanges else bump x.ctr.phaseChanges
          frequencyChanges := if t.selector.freq = x.freq then x.ctr.frequencyChanges else bump x.ctr.frequencyChanges
          forcesLapsed := min (x.ctr.forcesLapsed + (a + b)) 4294967295 }) ∧
    UpstreamKept [] [] s t ∧
    s.bestFreq = x.cfg.freqList.find? (fun r => decide ((s.ref r).state = .qualified)) ∧
    (x.cfg.ranking = false →
      s.bestPhase = x.cfg.phaseList.find? (fun r => decide ((s.ref r).state = .qualified))) ∧
    (x.cfg.ranking = true →
      (s.bestPhase = none ↔ ∀ r, ¬ cand x.cfg.phaseList r) ∧
      ∀ r, s.bestPhase = some r → cand x.cfg.phaseList r ∧ ∀ q, cand x.cfg.phaseList q → rank q ≤ rank r ∧
        (rank q = rank r → x.cfg.phaseList.idxOf r ≤ x.cfg.phaseList.idxOf q))) ∧
  (∀ (s : State) (dt : Nat) (c : Command) (phase freq : List Ref) (revertive ranking : Bool),
    phase.length < 256 → freq.length < 256 →
    s.putsOne c 7 0 (encList encRef phase ++ encList encRef freq ++ encFirst revertive ++ encFirst ranking) →
    let v := s.pass dt
    let x := s.selector
    let cfg : SelectorCfg := ⟨phase, freq, revertive, ranking⟩
    let good := phase.Nodup ∧ freq.Nodup ∧ ∀ r, r ∈ phase → (refIdx r).val ≤ 2
    (¬ good → ∃ t, exec (.put dt) s = .next t ∧ PutRefused v t s.mgmt.station c 0 5) ∧
    (good → cfg = x.cfg → ∃ t, exec (.put dt) s = .next t ∧ PutStored v t s.mgmt.station c 7 0 True) ∧
    (good → cfg ≠ x.cfg → ∃ u t, exec (.put dt) s = .next t ∧ PutStored u t s.mgmt.station c 7 0 True ∧
      UpstreamKept [] [] v u ∧ u.selector.cfg = cfg ∧
      (∀ r, x.phase = some r → r ∉ phase → u.selector.phase ≠ some r ∧ u.selector.phaseForced = false) ∧
      (∀ r, x.freq = some r → r ∉ freq → u.selector.freq ≠ some r ∧ u.selector.freqForced = false) ∧
      (∀ r, x.phase = some r → r ∈ phase → (s.ref r).state = .qualified →
        (x.phaseForced = true ∨ revertive = false → u.selector.phase = some r ∧
          u.selector.phaseForced = x.phaseForced)) ∧
      (∀ r, x.freq = some r → r ∈ freq → (s.ref r).state = .qualified →
        (x.freqForced = true ∨ revertive = false → u.selector.freq = some r ∧
          u.selector.freqForced = x.freqForced)))) ∧
  (∀ (s : State) (dt : Nat) (c : Command) (phase freq : List Byte) (mode ranking : Byte),
    phase.length < 256 → freq.length < 256 →
    s.putsOne c 7 0 (beBytes 1 phase.length ++ phase ++ beBytes 1 freq.length ++ freq ++ [mode, ranking]) →
    (∃ b : Byte, b ∈ phase ++ freq ∧ 5 < b.toNat) ∨ 1 < mode.toNat ∨ 1 < ranking.toNat →
    ∃ t, exec (.put dt) s = .next t ∧ PutRefused (s.pass dt) t s.mgmt.station c 0 5)

/-- SLEW_HOLD and SLEW_RELEASE. SLEW_HOLD at the head of the queue sets Held on a present Slew record, SLEW_RELEASE
clears it; with no Slew record present, or with the flag already so, nothing changes. Both are answered OK in every
case, take no argument, and leave B, a Suspended Slew record and a build-out as they are. A Held flag that a loss
carries into the Suspended Slew record comes back with the resume. Rests on R85. -/
def Obligations.SlewHoldAndRelease : Prop :=
  (∀ (s : State) (dt : Nat) (c : Command) (rest : List Command), s.headIs c rest →
    let v := s.pass dt
    let after (held : Bool) : State :=
      if s.realign.slew = some (!held) then { v with realign := { s.realign with slew := some held } } else v
    (c.type = 0x18 → ∃ t, exec (.slewHold dt) s = .next t ∧ Answered (after true) t s.mgmt.station c 0 []) ∧
    (c.type = 0x19 → ∃ t, exec (.slewRelease dt) s = .next t ∧ Answered (after false) t s.mgmt.station c 0 [])) ∧
  (∀ (s : State) (r : Ref) (held : Bool), s.realign.slew = some held →
    (s.realLost r).realign.suspended = some ⟨r, s.realign.b, s.clock.residence, held⟩) ∧
  (∀ (s : State) (u : Suspended), (s.resume u).realign.slew = some u.held) ∧
  (∀ (s : State), s.realign.slew = some true → s.slewProgress = s)

/-- ACK, TEST_ALARM, STATUS, COUNTERS_CLEAR and a Type that is no command. At the head of the queue: ACK of an index
above 40 other than ALL is answered BAD_INDEX; of a record or ALL it acknowledges each named record that is RAISED or
CLEARING, leaves the others, produces no notice and is answered OK. TEST_ALARM reports TEST present, starts the test
interval at 0 and is answered OK. STATUS changes nothing and is answered OK with servo state, Phase Valid, both
selections with their Forced flags, the Announced Grade, the Epoch, the Time Counter, the state of the slew and
Elapsed (laid out by log 26: the Time Counter in 12 bytes without the Epoch, Elapsed as an optional number).
COUNTERS_CLEAR sets every counter and every Hit Count to 0 and nothing else, is answered OK, and Commands Executed
reads 1 after it. A Type outside 0x10 to 0x1F is answered UNKNOWN_COMMAND and changes nothing. Rests on
09_alarms_and_notices.md, Acknowledging an alarm (R182); 09_alarms_and_notices.md, Testing the alarm path (R186);
10_in_band_management.md, STATUS (R199); 10_in_band_management.md, Counters (R200); 10_in_band_management.md, Commands
executed by other blocks (R198); 11_frame_and_record_formats.md, Command and response bodies. -/
def Obligations.OtherCommandsAreAnswered : Prop :=
  ∀ (s : State) (dt : Nat) (c : Command) (rest : List Command), s.headIs c rest →
    let v := s.pass dt
    let index := beNat (c.args.take 1)
    (c.type = 0x1B → ∃ t, exec (.ack dt) s = .next t ∧
      (40 < index → index ≠ 255 → Answered v t s.mgmt.station c 4 []) ∧
      (index ≤ 40 ∨ index = 255 → ∃ a : Alarm, Answered { v with alarm := a } t s.mgmt.station c 0 [] ∧
        a.queue = s.alarm.queue ∧ a.set = s.alarm.set ∧ a.cfg = s.alarm.cfg ∧
        ∀ i, a.record i = { s.alarm.record i with acked := (s.alarm.record i).acked ||
          (decide (index = 255 ∨ index = i.val) &&
            decide ((s.alarm.record i).state = .raised ∨ (s.alarm.record i).state = .clearing)) })) ∧
    (c.type = 0x1C → ∃ t, exec (.testAlarm dt) s = .next t ∧ ∃ a : Alarm,
      Answered { v with alarm := a } t s.mgmt.station c 0 [] ∧ a.test = some v.clock.residence ∧
      (a.record recTest).present = true ∧ a.set = s.alarm.set ∧ a.cfg = s.alarm.cfg ∧
      ∀ i, i ≠ recTest → i ≠ recOverflow → a.record i = s.alarm.record i) ∧
    (c.type = 0x1D → ∃ t, exec (.status dt) s = .next t ∧ Answered v t s.mgmt.station c 0
      (([match s.servo.state with
          | .freerun => 0 | .acquiring => 1 | .locked => 2 | .holdover => 3 | .freqTrack => 4,
        if s.servo.phaseValid then 1 else 0] : List Byte) ++
        (match s.selector.phase with
          | some r => [1, BitVec.ofNat 8 (refIdx r).val]
          | none => [0, 0]) ++ [if s.selector.phaseForced then 1 else 0] ++
        (match s.selector.freq with
          | some r => [1, BitVec.ofNat 8 (refIdx r).val]
          | none => [0, 0]) ++ [if s.selector.freqForced then 1 else 0] ++
        beBytesInt 8 s.holdover.announced ++ beBytesInt 8 s.clock.epoch ++
        beBytes 6 (v.clock.counter / 65536000000000) ++ beBytes 4 (v.clock.counter % 65536000000000 / 65536) ++
        beBytes 2 (v.clock.counter % 65536) ++
        [match s.realign.slew, s.realign.suspended with
          | some false, _ => (0 : Byte) | some true, _ => 1 | none, some _ => 2 | none, none => 3] ++
        (match s.holdover.record with
          | none => 0 :: List.replicate 8 0
          | some r => 1 :: beBytesInt 8
            ((min (timerElapsed r.elapsed v.clock.residence) (4294967295 * 65536000000000) / 65536000000000 : Nat) :
              Int)))) ∧
    (c.type = 0x1E → ∃ u t, exec (.countersClear dt) s = .next t ∧ Answered u t s.mgmt.station c 0 [] ∧
      t.mgmt.ctr.commandsExecuted = 1 ∧
      u = { v with
        ports := u.ports, flow := u.flow, sessions := u.sessions, refs := u.refs, gnss := { v.gnss with ctr := {} }
        selector := { v.selector with ctr := {} }, realign := { v.realign with ctr := {} }
        servo := { v.servo with ctr := {} }, holdover := { v.holdover with ctr := {} }, sites := u.sites
        pins := u.pins, alarm := { v.alarm with ctr := {} }, mgmt := { v.mgmt with ctr := {} } } ∧
      (∀ p, u.port p = { v.port p with ctr := {} }) ∧ (∀ i, u.flow.get i = { v.flow.get i with hitCount := 0 }) ∧
      (∀ q, u.client q = { v.client q with ctr := {} }) ∧ (∀ r, u.ref r = { v.ref r with ctr := {} }) ∧
      (∀ k, u.site k = { v.site k with ctr := {} }) ∧ ∀ k, u.tpin k = { v.tpin k with ctr := {} }) ∧
    (c.type < 0x10 ∨ 0x1F < c.type → ∃ t, exec (.unknownCommand dt) s = .next t ∧ Answered v t s.mgmt.station c 2 [])

/-- RESTART: the response first, then the restart. A RESTART of scope DATAPATH or FULL at the head of the queue counts
under Commands Executed and builds its response with status OK. Where the Bulk Queue of its ingress port takes it, the
response waits there, the command stays at the head and the Management Unit begins no other; nothing else changes.
Where it is refused, it counts under Responses Discarded and the restart of that scope follows in the same event.
RESTART(FULL) notes the levels on the ADDR pins as the row gives them, which the restart reads (R190; that the row
carries them is the model's form, log 39). Another scope is answered BAD_VALUE and changes nothing; the row of RESTART
DATAPATH completes it (log 13). Rests on 10_in_band_management.md, Restarting (R201, R202); 10_in_band_management.md,
The Command Queue (R191, R192); 01_traffic_path_classification_queues_and_relay_cor.md, The egress queues (R16). -/
def Obligations.RestartIsAnsweredFirst : Prop :=
  ∀ (s : State) (dt : Nat) (c : Command) (rest : List Command), s.headIs c rest → c.type = 0x1F →
    let v := s.pass dt
    let scope := beNat (c.args.take 1)
    let taken (cmd : Instr) (kind : RestartScope) (straps : BitVec 4) : Prop := ∃ t x flags,
      exec cmd s = .next t ∧ flags < 4 ∧
      x = { v with
        ports := x.ports, free := v.free + 1
        mgmt := { v.mgmt with
          straps := straps, waiting := some kind
          ctr := { v.mgmt.ctr with commandsExecuted := bump v.mgmt.ctr.commandsExecuted } } } ∧
      (∀ q, q ≠ c.ingress → x.port q = s.port q) ∧
      x.port c.ingress = (s.port c.ingress).offered v.clock.residence .bulk
        ⟨v.responseTo s.mgmt.station c 0 flags [], .response (some kind)⟩ ∧
      ((s.port c.ingress).bulkOpen = true → t = x) ∧
      ((s.port c.ingress).bulkOpen = false → t =
        (x.countMgmt fun k => { k with responsesDiscarded := bump k.responsesDiscarded }).restart kind)
    (scope = 0 → taken (.restartDatapath dt) .datapath s.mgmt.straps) ∧
    (∀ straps, scope = 1 → taken (.restartFull ⟨dt, straps⟩) .full straps) ∧
    (1 < scope → ∃ t, exec (.restartDatapath dt) s = .next t ∧ Answered v t s.mgmt.station c 5 [])

/-- The common header reads back as it was written. For every header whose fields are within the widths of the format,
and any bytes after it: the 28 bytes written for it read back as that header, every field as it was, and the body that
the Body Length names is the bytes that follow. Rests on 11_frame_and_record_formats.md, The Meridane frame. -/
def Obligations.HeaderReadsBack : Prop :=
  ∀ (h : Header) (body after : List Byte),
    h.cls < 2 ^ 8 → h.type < 2 ^ 8 → h.domain < 2 ^ 8 → h.flags < 2 ^ 8 → h.seq < 2 ^ 16 → h.grade < 2 ^ 8 →
    h.epoch < 2 ^ 8 → h.seconds < 2 ^ 48 → h.nanos < 2 ^ 32 → -(2 ^ 63) ≤ h.correction → h.correction < 2 ^ 63 →
    h.bodyLen < 2 ^ 16 → body.length = h.bodyLen →
    (headerBytes h).length = 28 ∧ readHeader (headerBytes h ++ body ++ after) = h ∧
      bodyOf (headerBytes h ++ body ++ after) = body
end

