-- ==== Sys2Proof/Laws/State.lean ====
section
/-! SUPPORT. What each single-block update leaves in each field of State, and reading an entry of a table after an
update of one. -/
namespace Sys2Proof.Machine
open Sys2Proof

/-! ## Tables of fixed size -/

@[simp] theorem get_updAt_same {α : Type} {n : Nat} (v : Vector α n) (i : Fin n) (f : α → α) :
    (updAt v i f).get i = f (v.get i) := Vector.getElem_set_self i.isLt

theorem get_updAt_ne {α : Type} {n : Nat} (v : Vector α n) (i j : Fin n) (f : α → α) (h : j ≠ i) :
    (updAt v i f).get j = v.get j := by
  exact Vector.getElem_set_ne i.isLt j.isLt fun e => h (Fin.ext e.symm)

theorem get_updAt {α : Type} {n : Nat} (v : Vector α n) (i j : Fin n) (f : α → α) :
    (updAt v i f).get j = if j = i then f (v.get j) else v.get j := by
  split
  · next h => subst h; simp
  · next h => exact get_updAt_ne v i j f h

@[simp] theorem get_map {α β : Type} {n : Nat} (v : Vector α n) (i : Fin n) (f : α → β) :
    (v.map f).get i = f (v.get i) := Vector.getElem_map f i.isLt

theorem portIdx_inj {p q : Port} (h : portIdx p = portIdx q) : p = q := by
  cases p <;> cases q <;> first | rfl | (exact absurd h (by decide))

theorem refIdx_inj {p q : Ref} (h : refIdx p = refIdx q) : p = q := by
  cases p <;> cases q <;> first | rfl | (exact absurd h (by decide))

theorem clientIdx_inj {p q : Client} (h : clientIdx p = clientIdx q) : p = q := by
  cases p <;> cases q <;> first | rfl | (exact absurd h (by decide))

/-! ## Fields after an update -/

@[simp] theorem State.updPort_clock (s : State) (p : Port) (f : PortState → PortState) : (s.updPort p f).clock = s.clock := rfl
@[simp] theorem State.updPort_ports (s : State) (p : Port) (f : PortState → PortState) : (s.updPort p f).ports = updAt s.ports (portIdx p) f := rfl
@[simp] theorem State.updPort_flow (s : State) (p : Port) (f : PortState → PortState) : (s.updPort p f).flow = s.flow := rfl
@[simp] theorem State.updPort_portMap (s : State) (p : Port) (f : PortState → PortState) : (s.updPort p f).portMap = s.portMap := rfl
@[simp] theorem State.updPort_sessions (s : State) (p : Port) (f : PortState → PortState) : (s.updPort p f).sessions = s.sessions := rfl
@[simp] theorem State.updPort_refs (s : State) (p : Port) (f : PortState → PortState) : (s.updPort p f).refs = s.refs := rfl
@[simp] theorem State.updPort_gnss (s : State) (p : Port) (f : PortState → PortState) : (s.updPort p f).gnss = s.gnss := rfl
@[simp] theorem State.updPort_window (s : State) (p : Port) (f : PortState → PortState) : (s.updPort p f).window = s.window := rfl
@[simp] theorem State.updPort_selector (s : State) (p : Port) (f : PortState → PortState) : (s.updPort p f).selector = s.selector := rfl
@[simp] theorem State.updPort_realign (s : State) (p : Port) (f : PortState → PortState) : (s.updPort p f).realign = s.realign := rfl
@[simp] theorem State.updPort_servo (s : State) (p : Port) (f : PortState → PortState) : (s.updPort p f).servo = s.servo := rfl
@[simp] theorem State.updPort_holdover (s : State) (p : Port) (f : PortState → PortState) : (s.updPort p f).holdover = s.holdover := rfl
@[simp] theorem State.updPort_sites (s : State) (p : Port) (f : PortState → PortState) : (s.updPort p f).sites = s.sites := rfl
@[simp] theorem State.updPort_servingSince (s : State) (p : Port) (f : PortState → PortState) : (s.updPort p f).servingSince = s.servingSince := rfl
@[simp] theorem State.updPort_pins (s : State) (p : Port) (f : PortState → PortState) : (s.updPort p f).pins = s.pins := rfl
@[simp] theorem State.updPort_alarm (s : State) (p : Port) (f : PortState → PortState) : (s.updPort p f).alarm = s.alarm := rfl
@[simp] theorem State.updPort_mgmt (s : State) (p : Port) (f : PortState → PortState) : (s.updPort p f).mgmt = s.mgmt := rfl
@[simp] theorem State.updPort_free (s : State) (p : Port) (f : PortState → PortState) : (s.updPort p f).free = s.free := rfl
@[simp] theorem State.updPort_pending (s : State) (p : Port) (f : PortState → PortState) : (s.updPort p f).pending = s.pending := rfl

@[simp] theorem State.updRef_clock (s : State) (r : Ref) (f : Reference → Reference) : (s.updRef r f).clock = s.clock := rfl
@[simp] theorem State.updRef_ports (s : State) (r : Ref) (f : Reference → Reference) : (s.updRef r f).ports = s.ports := rfl
@[simp] theorem State.updRef_flow (s : State) (r : Ref) (f : Reference → Reference) : (s.updRef r f).flow = s.flow := rfl
@[simp] theorem State.updRef_portMap (s : State) (r : Ref) (f : Reference → Reference) : (s.updRef r f).portMap = s.portMap := rfl
@[simp] theorem State.updRef_sessions (s : State) (r : Ref) (f : Reference → Reference) : (s.updRef r f).sessions = s.sessions := rfl
@[simp] theorem State.updRef_refs (s : State) (r : Ref) (f : Reference → Reference) : (s.updRef r f).refs = updAt s.refs (refIdx r) f := rfl
@[simp] theorem State.updRef_gnss (s : State) (r : Ref) (f : Reference → Reference) : (s.updRef r f).gnss = s.gnss := rfl
@[simp] theorem State.updRef_window (s : State) (r : Ref) (f : Reference → Reference) : (s.updRef r f).window = s.window := rfl
@[simp] theorem State.updRef_selector (s : State) (r : Ref) (f : Reference → Reference) : (s.updRef r f).selector = s.selector := rfl
@[simp] theorem State.updRef_realign (s : State) (r : Ref) (f : Reference → Reference) : (s.updRef r f).realign = s.realign := rfl
@[simp] theorem State.updRef_servo (s : State) (r : Ref) (f : Reference → Reference) : (s.updRef r f).servo = s.servo := rfl
@[simp] theorem State.updRef_holdover (s : State) (r : Ref) (f : Reference → Reference) : (s.updRef r f).holdover = s.holdover := rfl
@[simp] theorem State.updRef_sites (s : State) (r : Ref) (f : Reference → Reference) : (s.updRef r f).sites = s.sites := rfl
@[simp] theorem State.updRef_servingSince (s : State) (r : Ref) (f : Reference → Reference) : (s.updRef r f).servingSince = s.servingSince := rfl
@[simp] theorem State.updRef_pins (s : State) (r : Ref) (f : Reference → Reference) : (s.updRef r f).pins = s.pins := rfl
@[simp] theorem State.updRef_alarm (s : State) (r : Ref) (f : Reference → Reference) : (s.updRef r f).alarm = s.alarm := rfl
@[simp] theorem State.updRef_mgmt (s : State) (r : Ref) (f : Reference → Reference) : (s.updRef r f).mgmt = s.mgmt := rfl
@[simp] theorem State.updRef_free (s : State) (r : Ref) (f : Reference → Reference) : (s.updRef r f).free = s.free := rfl
@[simp] theorem State.updRef_pending (s : State) (r : Ref) (f : Reference → Reference) : (s.updRef r f).pending = s.pending := rfl

@[simp] theorem State.updClient_clock (s : State) (c : Client) (f : ClientSession → ClientSession) : (s.updClient c f).clock = s.clock := rfl
@[simp] theorem State.updClient_ports (s : State) (c : Client) (f : ClientSession → ClientSession) : (s.updClient c f).ports = s.ports := rfl
@[simp] theorem State.updClient_flow (s : State) (c : Client) (f : ClientSession → ClientSession) : (s.updClient c f).flow = s.flow := rfl
@[simp] theorem State.updClient_portMap (s : State) (c : Client) (f : ClientSession → ClientSession) : (s.updClient c f).portMap = s.portMap := rfl
@[simp] theorem State.updClient_sessions (s : State) (c : Client) (f : ClientSession → ClientSession) : (s.updClient c f).sessions = updAt s.sessions (clientIdx c) f := rfl
@[simp] theorem State.updClient_refs (s : State) (c : Client) (f : ClientSession → ClientSession) : (s.updClient c f).refs = s.refs := rfl
@[simp] theorem State.updClient_gnss (s : State) (c : Client) (f : ClientSession → ClientSession) : (s.updClient c f).gnss = s.gnss := rfl
@[simp] theorem State.updClient_window (s : State) (c : Client) (f : ClientSession → ClientSession) : (s.updClient c f).window = s.window := rfl
@[simp] theorem State.updClient_selector (s : State) (c : Client) (f : ClientSession → ClientSession) : (s.updClient c f).selector = s.selector := rfl
@[simp] theorem State.updClient_realign (s : State) (c : Client) (f : ClientSession → ClientSession) : (s.updClient c f).realign = s.realign := rfl
@[simp] theorem State.updClient_servo (s : State) (c : Client) (f : ClientSession → ClientSession) : (s.updClient c f).servo = s.servo := rfl
@[simp] theorem State.updClient_holdover (s : State) (c : Client) (f : ClientSession → ClientSession) : (s.updClient c f).holdover = s.holdover := rfl
@[simp] theorem State.updClient_sites (s : State) (c : Client) (f : ClientSession → ClientSession) : (s.updClient c f).sites = s.sites := rfl
@[simp] theorem State.updClient_servingSince (s : State) (c : Client) (f : ClientSession → ClientSession) : (s.updClient c f).servingSince = s.servingSince := rfl
@[simp] theorem State.updClient_pins (s : State) (c : Client) (f : ClientSession → ClientSession) : (s.updClient c f).pins = s.pins := rfl
@[simp] theorem State.updClient_alarm (s : State) (c : Client) (f : ClientSession → ClientSession) : (s.updClient c f).alarm = s.alarm := rfl
@[simp] theorem State.updClient_mgmt (s : State) (c : Client) (f : ClientSession → ClientSession) : (s.updClient c f).mgmt = s.mgmt := rfl
@[simp] theorem State.updClient_free (s : State) (c : Client) (f : ClientSession → ClientSession) : (s.updClient c f).free = s.free := rfl
@[simp] theorem State.updClient_pending (s : State) (c : Client) (f : ClientSession → ClientSession) : (s.updClient c f).pending = s.pending := rfl

@[simp] theorem State.updSite_clock (s : State) (k : Fin 6) (f : Site → Site) : (s.updSite k f).clock = s.clock := rfl
@[simp] theorem State.updSite_ports (s : State) (k : Fin 6) (f : Site → Site) : (s.updSite k f).ports = s.ports := rfl
@[simp] theorem State.updSite_flow (s : State) (k : Fin 6) (f : Site → Site) : (s.updSite k f).flow = s.flow := rfl
@[simp] theorem State.updSite_portMap (s : State) (k : Fin 6) (f : Site → Site) : (s.updSite k f).portMap = s.portMap := rfl
@[simp] theorem State.updSite_sessions (s : State) (k : Fin 6) (f : Site → Site) : (s.updSite k f).sessions = s.sessions := rfl
@[simp] theorem State.updSite_refs (s : State) (k : Fin 6) (f : Site → Site) : (s.updSite k f).refs = s.refs := rfl
@[simp] theorem State.updSite_gnss (s : State) (k : Fin 6) (f : Site → Site) : (s.updSite k f).gnss = s.gnss := rfl
@[simp] theorem State.updSite_window (s : State) (k : Fin 6) (f : Site → Site) : (s.updSite k f).window = s.window := rfl
@[simp] theorem State.updSite_selector (s : State) (k : Fin 6) (f : Site → Site) : (s.updSite k f).selector = s.selector := rfl
@[simp] theorem State.updSite_realign (s : State) (k : Fin 6) (f : Site → Site) : (s.updSite k f).realign = s.realign := rfl
@[simp] theorem State.updSite_servo (s : State) (k : Fin 6) (f : Site → Site) : (s.updSite k f).servo = s.servo := rfl
@[simp] theorem State.updSite_holdover (s : State) (k : Fin 6) (f : Site → Site) : (s.updSite k f).holdover = s.holdover := rfl
@[simp] theorem State.updSite_sites (s : State) (k : Fin 6) (f : Site → Site) : (s.updSite k f).sites = updAt s.sites k f := rfl
@[simp] theorem State.updSite_servingSince (s : State) (k : Fin 6) (f : Site → Site) : (s.updSite k f).servingSince = s.servingSince := rfl
@[simp] theorem State.updSite_pins (s : State) (k : Fin 6) (f : Site → Site) : (s.updSite k f).pins = s.pins := rfl
@[simp] theorem State.updSite_alarm (s : State) (k : Fin 6) (f : Site → Site) : (s.updSite k f).alarm = s.alarm := rfl
@[simp] theorem State.updSite_mgmt (s : State) (k : Fin 6) (f : Site → Site) : (s.updSite k f).mgmt = s.mgmt := rfl
@[simp] theorem State.updSite_free (s : State) (k : Fin 6) (f : Site → Site) : (s.updSite k f).free = s.free := rfl
@[simp] theorem State.updSite_pending (s : State) (k : Fin 6) (f : Site → Site) : (s.updSite k f).pending = s.pending := rfl

@[simp] theorem State.updPin_clock (s : State) (k : Fin 4) (f : Pin → Pin) : (s.updPin k f).clock = s.clock := rfl
@[simp] theorem State.updPin_ports (s : State) (k : Fin 4) (f : Pin → Pin) : (s.updPin k f).ports = s.ports := rfl
@[simp] theorem State.updPin_flow (s : State) (k : Fin 4) (f : Pin → Pin) : (s.updPin k f).flow = s.flow := rfl
@[simp] theorem State.updPin_portMap (s : State) (k : Fin 4) (f : Pin → Pin) : (s.updPin k f).portMap = s.portMap := rfl
@[simp] theorem State.updPin_sessions (s : State) (k : Fin 4) (f : Pin → Pin) : (s.updPin k f).sessions = s.sessions := rfl
@[simp] theorem State.updPin_refs (s : State) (k : Fin 4) (f : Pin → Pin) : (s.updPin k f).refs = s.refs := rfl
@[simp] theorem State.updPin_gnss (s : State) (k : Fin 4) (f : Pin → Pin) : (s.updPin k f).gnss = s.gnss := rfl
@[simp] theorem State.updPin_window (s : State) (k : Fin 4) (f : Pin → Pin) : (s.updPin k f).window = s.window := rfl
@[simp] theorem State.updPin_selector (s : State) (k : Fin 4) (f : Pin → Pin) : (s.updPin k f).selector = s.selector := rfl
@[simp] theorem State.updPin_realign (s : State) (k : Fin 4) (f : Pin → Pin) : (s.updPin k f).realign = s.realign := rfl
@[simp] theorem State.updPin_servo (s : State) (k : Fin 4) (f : Pin → Pin) : (s.updPin k f).servo = s.servo := rfl
@[simp] theorem State.updPin_holdover (s : State) (k : Fin 4) (f : Pin → Pin) : (s.updPin k f).holdover = s.holdover := rfl
@[simp] theorem State.updPin_sites (s : State) (k : Fin 4) (f : Pin → Pin) : (s.updPin k f).sites = s.sites := rfl
@[simp] theorem State.updPin_servingSince (s : State) (k : Fin 4) (f : Pin → Pin) : (s.updPin k f).servingSince = s.servingSince := rfl
@[simp] theorem State.updPin_pins (s : State) (k : Fin 4) (f : Pin → Pin) : (s.updPin k f).pins = updAt s.pins k f := rfl
@[simp] theorem State.updPin_alarm (s : State) (k : Fin 4) (f : Pin → Pin) : (s.updPin k f).alarm = s.alarm := rfl
@[simp] theorem State.updPin_mgmt (s : State) (k : Fin 4) (f : Pin → Pin) : (s.updPin k f).mgmt = s.mgmt := rfl
@[simp] theorem State.updPin_free (s : State) (k : Fin 4) (f : Pin → Pin) : (s.updPin k f).free = s.free := rfl
@[simp] theorem State.updPin_pending (s : State) (k : Fin 4) (f : Pin → Pin) : (s.updPin k f).pending = s.pending := rfl

@[simp] theorem State.updAlarm_clock (s : State) (f : Alarm → Alarm) : (s.updAlarm f).clock = s.clock := rfl
@[simp] theorem State.updAlarm_ports (s : State) (f : Alarm → Alarm) : (s.updAlarm f).ports = s.ports := rfl
@[simp] theorem State.updAlarm_flow (s : State) (f : Alarm → Alarm) : (s.updAlarm f).flow = s.flow := rfl
@[simp] theorem State.updAlarm_portMap (s : State) (f : Alarm → Alarm) : (s.updAlarm f).portMap = s.portMap := rfl
@[simp] theorem State.updAlarm_sessions (s : State) (f : Alarm → Alarm) : (s.updAlarm f).sessions = s.sessions := rfl
@[simp] theorem State.updAlarm_refs (s : State) (f : Alarm → Alarm) : (s.updAlarm f).refs = s.refs := rfl
@[simp] theorem State.updAlarm_gnss (s : State) (f : Alarm → Alarm) : (s.updAlarm f).gnss = s.gnss := rfl
@[simp] theorem State.updAlarm_window (s : State) (f : Alarm → Alarm) : (s.updAlarm f).window = s.window := rfl
@[simp] theorem State.updAlarm_selector (s : State) (f : Alarm → Alarm) : (s.updAlarm f).selector = s.selector := rfl
@[simp] theorem State.updAlarm_realign (s : State) (f : Alarm → Alarm) : (s.updAlarm f).realign = s.realign := rfl
@[simp] theorem State.updAlarm_servo (s : State) (f : Alarm → Alarm) : (s.updAlarm f).servo = s.servo := rfl
@[simp] theorem State.updAlarm_holdover (s : State) (f : Alarm → Alarm) : (s.updAlarm f).holdover = s.holdover := rfl
@[simp] theorem State.updAlarm_sites (s : State) (f : Alarm → Alarm) : (s.updAlarm f).sites = s.sites := rfl
@[simp] theorem State.updAlarm_servingSince (s : State) (f : Alarm → Alarm) : (s.updAlarm f).servingSince = s.servingSince := rfl
@[simp] theorem State.updAlarm_pins (s : State) (f : Alarm → Alarm) : (s.updAlarm f).pins = s.pins := rfl
@[simp] theorem State.updAlarm_alarm (s : State) (f : Alarm → Alarm) : (s.updAlarm f).alarm = f s.alarm := rfl
@[simp] theorem State.updAlarm_mgmt (s : State) (f : Alarm → Alarm) : (s.updAlarm f).mgmt = s.mgmt := rfl
@[simp] theorem State.updAlarm_free (s : State) (f : Alarm → Alarm) : (s.updAlarm f).free = s.free := rfl
@[simp] theorem State.updAlarm_pending (s : State) (f : Alarm → Alarm) : (s.updAlarm f).pending = s.pending := rfl

@[simp] theorem State.updServo_clock (s : State) (f : Servo → Servo) : (s.updServo f).clock = s.clock := rfl
@[simp] theorem State.updServo_ports (s : State) (f : Servo → Servo) : (s.updServo f).ports = s.ports := rfl
@[simp] theorem State.updServo_flow (s : State) (f : Servo → Servo) : (s.updServo f).flow = s.flow := rfl
@[simp] theorem State.updServo_portMap (s : State) (f : Servo → Servo) : (s.updServo f).portMap = s.portMap := rfl
@[simp] theorem State.updServo_sessions (s : State) (f : Servo → Servo) : (s.updServo f).sessions = s.sessions := rfl
@[simp] theorem State.updServo_refs (s : State) (f : Servo → Servo) : (s.updServo f).refs = s.refs := rfl
@[simp] theorem State.updServo_gnss (s : State) (f : Servo → Servo) : (s.updServo f).gnss = s.gnss := rfl
@[simp] theorem State.updServo_window (s : State) (f : Servo → Servo) : (s.updServo f).window = s.window := rfl
@[simp] theorem State.updServo_selector (s : State) (f : Servo → Servo) : (s.updServo f).selector = s.selector := rfl
@[simp] theorem State.updServo_realign (s : State) (f : Servo → Servo) : (s.updServo f).realign = s.realign := rfl
@[simp] theorem State.updServo_servo (s : State) (f : Servo → Servo) : (s.updServo f).servo = f s.servo := rfl
@[simp] theorem State.updServo_holdover (s : State) (f : Servo → Servo) : (s.updServo f).holdover = s.holdover := rfl
@[simp] theorem State.updServo_sites (s : State) (f : Servo → Servo) : (s.updServo f).sites = s.sites := rfl
@[simp] theorem State.updServo_servingSince (s : State) (f : Servo → Servo) : (s.updServo f).servingSince = s.servingSince := rfl
@[simp] theorem State.updServo_pins (s : State) (f : Servo → Servo) : (s.updServo f).pins = s.pins := rfl
@[simp] theorem State.updServo_alarm (s : State) (f : Servo → Servo) : (s.updServo f).alarm = s.alarm := rfl
@[simp] theorem State.updServo_mgmt (s : State) (f : Servo → Servo) : (s.updServo f).mgmt = s.mgmt := rfl
@[simp] theorem State.updServo_free (s : State) (f : Servo → Servo) : (s.updServo f).free = s.free := rfl
@[simp] theorem State.updServo_pending (s : State) (f : Servo → Servo) : (s.updServo f).pending = s.pending := rfl

@[simp] theorem State.updHold_clock (s : State) (f : Holdover → Holdover) : (s.updHold f).clock = s.clock := rfl
@[simp] theorem State.updHold_ports (s : State) (f : Holdover → Holdover) : (s.updHold f).ports = s.ports := rfl
@[simp] theorem State.updHold_flow (s : State) (f : Holdover → Holdover) : (s.updHold f).flow = s.flow := rfl
@[simp] theorem State.updHold_portMap (s : State) (f : Holdover → Holdover) : (s.updHold f).portMap = s.portMap := rfl
@[simp] theorem State.updHold_sessions (s : State) (f : Holdover → Holdover) : (s.updHold f).sessions = s.sessions := rfl
@[simp] theorem State.updHold_refs (s : State) (f : Holdover → Holdover) : (s.updHold f).refs = s.refs := rfl
@[simp] theorem State.updHold_gnss (s : State) (f : Holdover → Holdover) : (s.updHold f).gnss = s.gnss := rfl
@[simp] theorem State.updHold_window (s : State) (f : Holdover → Holdover) : (s.updHold f).window = s.window := rfl
@[simp] theorem State.updHold_selector (s : State) (f : Holdover → Holdover) : (s.updHold f).selector = s.selector := rfl
@[simp] theorem State.updHold_realign (s : State) (f : Holdover → Holdover) : (s.updHold f).realign = s.realign := rfl
@[simp] theorem State.updHold_servo (s : State) (f : Holdover → Holdover) : (s.updHold f).servo = s.servo := rfl
@[simp] theorem State.updHold_holdover (s : State) (f : Holdover → Holdover) : (s.updHold f).holdover = f s.holdover := rfl
@[simp] theorem State.updHold_sites (s : State) (f : Holdover → Holdover) : (s.updHold f).sites = s.sites := rfl
@[simp] theorem State.updHold_servingSince (s : State) (f : Holdover → Holdover) : (s.updHold f).servingSince = s.servingSince := rfl
@[simp] theorem State.updHold_pins (s : State) (f : Holdover → Holdover) : (s.updHold f).pins = s.pins := rfl
@[simp] theorem State.updHold_alarm (s : State) (f : Holdover → Holdover) : (s.updHold f).alarm = s.alarm := rfl
@[simp] theorem State.updHold_mgmt (s : State) (f : Holdover → Holdover) : (s.updHold f).mgmt = s.mgmt := rfl
@[simp] theorem State.updHold_free (s : State) (f : Holdover → Holdover) : (s.updHold f).free = s.free := rfl
@[simp] theorem State.updHold_pending (s : State) (f : Holdover → Holdover) : (s.updHold f).pending = s.pending := rfl

@[simp] theorem State.updSel_clock (s : State) (f : Selector → Selector) : (s.updSel f).clock = s.clock := rfl
@[simp] theorem State.updSel_ports (s : State) (f : Selector → Selector) : (s.updSel f).ports = s.ports := rfl
@[simp] theorem State.updSel_flow (s : State) (f : Selector → Selector) : (s.updSel f).flow = s.flow := rfl
@[simp] theorem State.updSel_portMap (s : State) (f : Selector → Selector) : (s.updSel f).portMap = s.portMap := rfl
@[simp] theorem State.updSel_sessions (s : State) (f : Selector → Selector) : (s.updSel f).sessions = s.sessions := rfl
@[simp] theorem State.updSel_refs (s : State) (f : Selector → Selector) : (s.updSel f).refs = s.refs := rfl
@[simp] theorem State.updSel_gnss (s : State) (f : Selector → Selector) : (s.updSel f).gnss = s.gnss := rfl
@[simp] theorem State.updSel_window (s : State) (f : Selector → Selector) : (s.updSel f).window = s.window := rfl
@[simp] theorem State.updSel_selector (s : State) (f : Selector → Selector) : (s.updSel f).selector = f s.selector := rfl
@[simp] theorem State.updSel_realign (s : State) (f : Selector → Selector) : (s.updSel f).realign = s.realign := rfl
@[simp] theorem State.updSel_servo (s : State) (f : Selector → Selector) : (s.updSel f).servo = s.servo := rfl
@[simp] theorem State.updSel_holdover (s : State) (f : Selector → Selector) : (s.updSel f).holdover = s.holdover := rfl
@[simp] theorem State.updSel_sites (s : State) (f : Selector → Selector) : (s.updSel f).sites = s.sites := rfl
@[simp] theorem State.updSel_servingSince (s : State) (f : Selector → Selector) : (s.updSel f).servingSince = s.servingSince := rfl
@[simp] theorem State.updSel_pins (s : State) (f : Selector → Selector) : (s.updSel f).pins = s.pins := rfl
@[simp] theorem State.updSel_alarm (s : State) (f : Selector → Selector) : (s.updSel f).alarm = s.alarm := rfl
@[simp] theorem State.updSel_mgmt (s : State) (f : Selector → Selector) : (s.updSel f).mgmt = s.mgmt := rfl
@[simp] theorem State.updSel_free (s : State) (f : Selector → Selector) : (s.updSel f).free = s.free := rfl
@[simp] theorem State.updSel_pending (s : State) (f : Selector → Selector) : (s.updSel f).pending = s.pending := rfl

@[simp] theorem State.updReal_clock (s : State) (f : Realign → Realign) : (s.updReal f).clock = s.clock := rfl
@[simp] theorem State.updReal_ports (s : State) (f : Realign → Realign) : (s.updReal f).ports = s.ports := rfl
@[simp] theorem State.updReal_flow (s : State) (f : Realign → Realign) : (s.updReal f).flow = s.flow := rfl
@[simp] theorem State.updReal_portMap (s : State) (f : Realign → Realign) : (s.updReal f).portMap = s.portMap := rfl
@[simp] theorem State.updReal_sessions (s : State) (f : Realign → Realign) : (s.updReal f).sessions = s.sessions := rfl
@[simp] theorem State.updReal_refs (s : State) (f : Realign → Realign) : (s.updReal f).refs = s.refs := rfl
@[simp] theorem State.updReal_gnss (s : State) (f : Realign → Realign) : (s.updReal f).gnss = s.gnss := rfl
@[simp] theorem State.updReal_window (s : State) (f : Realign → Realign) : (s.updReal f).window = s.window := rfl
@[simp] theorem State.updReal_selector (s : State) (f : Realign → Realign) : (s.updReal f).selector = s.selector := rfl
@[simp] theorem State.updReal_realign (s : State) (f : Realign → Realign) : (s.updReal f).realign = f s.realign := rfl
@[simp] theorem State.updReal_servo (s : State) (f : Realign → Realign) : (s.updReal f).servo = s.servo := rfl
@[simp] theorem State.updReal_holdover (s : State) (f : Realign → Realign) : (s.updReal f).holdover = s.holdover := rfl
@[simp] theorem State.updReal_sites (s : State) (f : Realign → Realign) : (s.updReal f).sites = s.sites := rfl
@[simp] theorem State.updReal_servingSince (s : State) (f : Realign → Realign) : (s.updReal f).servingSince = s.servingSince := rfl
@[simp] theorem State.updReal_pins (s : State) (f : Realign → Realign) : (s.updReal f).pins = s.pins := rfl
@[simp] theorem State.updReal_alarm (s : State) (f : Realign → Realign) : (s.updReal f).alarm = s.alarm := rfl
@[simp] theorem State.updReal_mgmt (s : State) (f : Realign → Realign) : (s.updReal f).mgmt = s.mgmt := rfl
@[simp] theorem State.updReal_free (s : State) (f : Realign → Realign) : (s.updReal f).free = s.free := rfl
@[simp] theorem State.updReal_pending (s : State) (f : Realign → Realign) : (s.updReal f).pending = s.pending := rfl

@[simp] theorem State.updMgmt_clock (s : State) (f : Mgmt → Mgmt) : (s.updMgmt f).clock = s.clock := rfl
@[simp] theorem State.updMgmt_ports (s : State) (f : Mgmt → Mgmt) : (s.updMgmt f).ports = s.ports := rfl
@[simp] theorem State.updMgmt_flow (s : State) (f : Mgmt → Mgmt) : (s.updMgmt f).flow = s.flow := rfl
@[simp] theorem State.updMgmt_portMap (s : State) (f : Mgmt → Mgmt) : (s.updMgmt f).portMap = s.portMap := rfl
@[simp] theorem State.updMgmt_sessions (s : State) (f : Mgmt → Mgmt) : (s.updMgmt f).sessions = s.sessions := rfl
@[simp] theorem State.updMgmt_refs (s : State) (f : Mgmt → Mgmt) : (s.updMgmt f).refs = s.refs := rfl
@[simp] theorem State.updMgmt_gnss (s : State) (f : Mgmt → Mgmt) : (s.updMgmt f).gnss = s.gnss := rfl
@[simp] theorem State.updMgmt_window (s : State) (f : Mgmt → Mgmt) : (s.updMgmt f).window = s.window := rfl
@[simp] theorem State.updMgmt_selector (s : State) (f : Mgmt → Mgmt) : (s.updMgmt f).selector = s.selector := rfl
@[simp] theorem State.updMgmt_realign (s : State) (f : Mgmt → Mgmt) : (s.updMgmt f).realign = s.realign := rfl
@[simp] theorem State.updMgmt_servo (s : State) (f : Mgmt → Mgmt) : (s.updMgmt f).servo = s.servo := rfl
@[simp] theorem State.updMgmt_holdover (s : State) (f : Mgmt → Mgmt) : (s.updMgmt f).holdover = s.holdover := rfl
@[simp] theorem State.updMgmt_sites (s : State) (f : Mgmt → Mgmt) : (s.updMgmt f).sites = s.sites := rfl
@[simp] theorem State.updMgmt_servingSince (s : State) (f : Mgmt → Mgmt) : (s.updMgmt f).servingSince = s.servingSince := rfl
@[simp] theorem State.updMgmt_pins (s : State) (f : Mgmt → Mgmt) : (s.updMgmt f).pins = s.pins := rfl
@[simp] theorem State.updMgmt_alarm (s : State) (f : Mgmt → Mgmt) : (s.updMgmt f).alarm = s.alarm := rfl
@[simp] theorem State.updMgmt_mgmt (s : State) (f : Mgmt → Mgmt) : (s.updMgmt f).mgmt = f s.mgmt := rfl
@[simp] theorem State.updMgmt_free (s : State) (f : Mgmt → Mgmt) : (s.updMgmt f).free = s.free := rfl
@[simp] theorem State.updMgmt_pending (s : State) (f : Mgmt → Mgmt) : (s.updMgmt f).pending = s.pending := rfl

@[simp] theorem State.updGnss_clock (s : State) (f : Gnss → Gnss) : (s.updGnss f).clock = s.clock := rfl
@[simp] theorem State.updGnss_ports (s : State) (f : Gnss → Gnss) : (s.updGnss f).ports = s.ports := rfl
@[simp] theorem State.updGnss_flow (s : State) (f : Gnss → Gnss) : (s.updGnss f).flow = s.flow := rfl
@[simp] theorem State.updGnss_portMap (s : State) (f : Gnss → Gnss) : (s.updGnss f).portMap = s.portMap := rfl
@[simp] theorem State.updGnss_sessions (s : State) (f : Gnss → Gnss) : (s.updGnss f).sessions = s.sessions := rfl
@[simp] theorem State.updGnss_refs (s : State) (f : Gnss → Gnss) : (s.updGnss f).refs = s.refs := rfl
@[simp] theorem State.updGnss_gnss (s : State) (f : Gnss → Gnss) : (s.updGnss f).gnss = f s.gnss := rfl
@[simp] theorem State.updGnss_window (s : State) (f : Gnss → Gnss) : (s.updGnss f).window = s.window := rfl
@[simp] theorem State.updGnss_selector (s : State) (f : Gnss → Gnss) : (s.updGnss f).selector = s.selector := rfl
@[simp] theorem State.updGnss_realign (s : State) (f : Gnss → Gnss) : (s.updGnss f).realign = s.realign := rfl
@[simp] theorem State.updGnss_servo (s : State) (f : Gnss → Gnss) : (s.updGnss f).servo = s.servo := rfl
@[simp] theorem State.updGnss_holdover (s : State) (f : Gnss → Gnss) : (s.updGnss f).holdover = s.holdover := rfl
@[simp] theorem State.updGnss_sites (s : State) (f : Gnss → Gnss) : (s.updGnss f).sites = s.sites := rfl
@[simp] theorem State.updGnss_servingSince (s : State) (f : Gnss → Gnss) : (s.updGnss f).servingSince = s.servingSince := rfl
@[simp] theorem State.updGnss_pins (s : State) (f : Gnss → Gnss) : (s.updGnss f).pins = s.pins := rfl
@[simp] theorem State.updGnss_alarm (s : State) (f : Gnss → Gnss) : (s.updGnss f).alarm = s.alarm := rfl
@[simp] theorem State.updGnss_mgmt (s : State) (f : Gnss → Gnss) : (s.updGnss f).mgmt = s.mgmt := rfl
@[simp] theorem State.updGnss_free (s : State) (f : Gnss → Gnss) : (s.updGnss f).free = s.free := rfl
@[simp] theorem State.updGnss_pending (s : State) (f : Gnss → Gnss) : (s.updGnss f).pending = s.pending := rfl

@[simp] theorem State.useFree_clock (s : State) : (s.useFree).clock = s.clock := rfl
@[simp] theorem State.useFree_ports (s : State) : (s.useFree).ports = s.ports := rfl
@[simp] theorem State.useFree_flow (s : State) : (s.useFree).flow = s.flow := rfl
@[simp] theorem State.useFree_portMap (s : State) : (s.useFree).portMap = s.portMap := rfl
@[simp] theorem State.useFree_sessions (s : State) : (s.useFree).sessions = s.sessions := rfl
@[simp] theorem State.useFree_refs (s : State) : (s.useFree).refs = s.refs := rfl
@[simp] theorem State.useFree_gnss (s : State) : (s.useFree).gnss = s.gnss := rfl
@[simp] theorem State.useFree_window (s : State) : (s.useFree).window = s.window := rfl
@[simp] theorem State.useFree_selector (s : State) : (s.useFree).selector = s.selector := rfl
@[simp] theorem State.useFree_realign (s : State) : (s.useFree).realign = s.realign := rfl
@[simp] theorem State.useFree_servo (s : State) : (s.useFree).servo = s.servo := rfl
@[simp] theorem State.useFree_holdover (s : State) : (s.useFree).holdover = s.holdover := rfl
@[simp] theorem State.useFree_sites (s : State) : (s.useFree).sites = s.sites := rfl
@[simp] theorem State.useFree_servingSince (s : State) : (s.useFree).servingSince = s.servingSince := rfl
@[simp] theorem State.useFree_pins (s : State) : (s.useFree).pins = s.pins := rfl
@[simp] theorem State.useFree_alarm (s : State) : (s.useFree).alarm = s.alarm := rfl
@[simp] theorem State.useFree_mgmt (s : State) : (s.useFree).mgmt = s.mgmt := rfl
@[simp] theorem State.useFree_free (s : State) : (s.useFree).free = s.free + 1 := rfl
@[simp] theorem State.useFree_pending (s : State) : (s.useFree).pending = s.pending := rfl

@[simp] theorem State.pass_clock (s : State) (dt : Nat) : (s.pass dt).clock = s.clock.pass s.servo.f dt := rfl
@[simp] theorem State.pass_ports (s : State) (dt : Nat) : (s.pass dt).ports = s.ports := rfl
@[simp] theorem State.pass_flow (s : State) (dt : Nat) : (s.pass dt).flow = s.flow := rfl
@[simp] theorem State.pass_portMap (s : State) (dt : Nat) : (s.pass dt).portMap = s.portMap := rfl
@[simp] theorem State.pass_sessions (s : State) (dt : Nat) : (s.pass dt).sessions = s.sessions := rfl
@[simp] theorem State.pass_refs (s : State) (dt : Nat) : (s.pass dt).refs = s.refs := rfl
@[simp] theorem State.pass_gnss (s : State) (dt : Nat) : (s.pass dt).gnss = s.gnss := rfl
@[simp] theorem State.pass_window (s : State) (dt : Nat) : (s.pass dt).window = s.window := rfl
@[simp] theorem State.pass_selector (s : State) (dt : Nat) : (s.pass dt).selector = s.selector := rfl
@[simp] theorem State.pass_realign (s : State) (dt : Nat) : (s.pass dt).realign = s.realign := rfl
@[simp] theorem State.pass_servo (s : State) (dt : Nat) : (s.pass dt).servo = s.servo := rfl
@[simp] theorem State.pass_holdover (s : State) (dt : Nat) : (s.pass dt).holdover = s.holdover := rfl
@[simp] theorem State.pass_sites (s : State) (dt : Nat) : (s.pass dt).sites = s.sites := rfl
@[simp] theorem State.pass_servingSince (s : State) (dt : Nat) : (s.pass dt).servingSince = s.servingSince := rfl
@[simp] theorem State.pass_pins (s : State) (dt : Nat) : (s.pass dt).pins = s.pins := rfl
@[simp] theorem State.pass_alarm (s : State) (dt : Nat) : (s.pass dt).alarm = s.alarm := rfl
@[simp] theorem State.pass_mgmt (s : State) (dt : Nat) : (s.pass dt).mgmt = s.mgmt := rfl
@[simp] theorem State.pass_free (s : State) (dt : Nat) : (s.pass dt).free = s.free := rfl
@[simp] theorem State.pass_pending (s : State) (dt : Nat) : (s.pass dt).pending = s.pending := rfl

@[simp] theorem State.withClock_clock (s : State) (c : Clock) : (s.withClock c).clock = c := rfl
@[simp] theorem State.withClock_ports (s : State) (c : Clock) : (s.withClock c).ports = s.ports := rfl
@[simp] theorem State.withClock_flow (s : State) (c : Clock) : (s.withClock c).flow = s.flow := rfl
@[simp] theorem State.withClock_portMap (s : State) (c : Clock) : (s.withClock c).portMap = s.portMap := rfl
@[simp] theorem State.withClock_sessions (s : State) (c : Clock) : (s.withClock c).sessions = s.sessions := rfl
@[simp] theorem State.withClock_refs (s : State) (c : Clock) : (s.withClock c).refs = s.refs := rfl
@[simp] theorem State.withClock_gnss (s : State) (c : Clock) : (s.withClock c).gnss = s.gnss := rfl
@[simp] theorem State.withClock_window (s : State) (c : Clock) : (s.withClock c).window = s.window := rfl
@[simp] theorem State.withClock_selector (s : State) (c : Clock) : (s.withClock c).selector = s.selector := rfl
@[simp] theorem State.withClock_realign (s : State) (c : Clock) : (s.withClock c).realign = s.realign := rfl
@[simp] theorem State.withClock_servo (s : State) (c : Clock) : (s.withClock c).servo = s.servo := rfl
@[simp] theorem State.withClock_holdover (s : State) (c : Clock) : (s.withClock c).holdover = s.holdover := rfl
@[simp] theorem State.withClock_sites (s : State) (c : Clock) : (s.withClock c).sites = s.sites := rfl
@[simp] theorem State.withClock_servingSince (s : State) (c : Clock) : (s.withClock c).servingSince = s.servingSince := rfl
@[simp] theorem State.withClock_pins (s : State) (c : Clock) : (s.withClock c).pins = s.pins := rfl
@[simp] theorem State.withClock_alarm (s : State) (c : Clock) : (s.withClock c).alarm = s.alarm := rfl
@[simp] theorem State.withClock_mgmt (s : State) (c : Clock) : (s.withClock c).mgmt = s.mgmt := rfl
@[simp] theorem State.withClock_free (s : State) (c : Clock) : (s.withClock c).free = s.free := rfl
@[simp] theorem State.withClock_pending (s : State) (c : Clock) : (s.withClock c).pending = s.pending := rfl

@[simp] theorem State.arrive_clock (s : State) (c : Clock) : (s.arrive c).clock = c := rfl
@[simp] theorem State.arrive_ports (s : State) (c : Clock) : (s.arrive c).ports = s.ports := rfl
@[simp] theorem State.arrive_flow (s : State) (c : Clock) : (s.arrive c).flow = s.flow := rfl
@[simp] theorem State.arrive_portMap (s : State) (c : Clock) : (s.arrive c).portMap = s.portMap := rfl
@[simp] theorem State.arrive_sessions (s : State) (c : Clock) : (s.arrive c).sessions = s.sessions := rfl
@[simp] theorem State.arrive_refs (s : State) (c : Clock) : (s.arrive c).refs = s.refs := rfl
@[simp] theorem State.arrive_gnss (s : State) (c : Clock) : (s.arrive c).gnss = s.gnss := rfl
@[simp] theorem State.arrive_window (s : State) (c : Clock) : (s.arrive c).window = s.window := rfl
@[simp] theorem State.arrive_selector (s : State) (c : Clock) : (s.arrive c).selector = s.selector := rfl
@[simp] theorem State.arrive_realign (s : State) (c : Clock) : (s.arrive c).realign = s.realign := rfl
@[simp] theorem State.arrive_servo (s : State) (c : Clock) : (s.arrive c).servo = s.servo := rfl
@[simp] theorem State.arrive_sites (s : State) (c : Clock) : (s.arrive c).sites = s.sites := rfl
@[simp] theorem State.arrive_servingSince (s : State) (c : Clock) : (s.arrive c).servingSince = s.servingSince := rfl
@[simp] theorem State.arrive_pins (s : State) (c : Clock) : (s.arrive c).pins = s.pins := rfl
@[simp] theorem State.arrive_alarm (s : State) (c : Clock) : (s.arrive c).alarm = s.alarm := rfl
@[simp] theorem State.arrive_mgmt (s : State) (c : Clock) : (s.arrive c).mgmt = s.mgmt := rfl
@[simp] theorem State.arrive_free (s : State) (c : Clock) : (s.arrive c).free = s.free := rfl
@[simp] theorem State.arrive_pending (s : State) (c : Clock) : (s.arrive c).pending = s.pending := rfl

/-! ## Entries after an update -/

theorem State.port_updPort (s : State) (p q : Port) (f : PortState → PortState) :
    (s.updPort p f).port q = if q = p then f (s.port q) else s.port q := by
  unfold State.port
  rw [State.updPort_ports, get_updAt]
  by_cases h : q = p
  · simp [h]
  · have h' : portIdx q ≠ portIdx p := fun e => h (portIdx_inj e)
    simp [h, h']

theorem State.ref_updRef (s : State) (p q : Ref) (f : Reference → Reference) :
    (s.updRef p f).ref q = if q = p then f (s.ref q) else s.ref q := by
  unfold State.ref
  rw [State.updRef_refs, get_updAt]
  by_cases h : q = p
  · simp [h]
  · have h' : refIdx q ≠ refIdx p := fun e => h (refIdx_inj e)
    simp [h, h']

theorem State.client_updClient (s : State) (p q : Client) (f : ClientSession → ClientSession) :
    (s.updClient p f).client q = if q = p then f (s.client q) else s.client q := by
  unfold State.client
  rw [State.updClient_sessions, get_updAt]
  by_cases h : q = p
  · simp [h]
  · have h' : clientIdx q ≠ clientIdx p := fun e => h (clientIdx_inj e)
    simp [h, h']

theorem State.site_updSite (s : State) (p q : Fin 6) (f : Site → Site) :
    (s.updSite p f).site q = if q = p then f (s.site q) else s.site q := get_updAt s.sites p q f

theorem State.tpin_updPin (s : State) (p q : Fin 4) (f : Pin → Pin) :
    (s.updPin p f).tpin q = if q = p then f (s.tpin q) else s.tpin q := get_updAt s.pins p q f

@[simp] theorem State.updPort_ref (s : State) (p : Port) (f : PortState → PortState) (q : Ref) : (s.updPort p f).ref q = s.ref q := rfl
@[simp] theorem State.updPort_client (s : State) (p : Port) (f : PortState → PortState) (q : Client) : (s.updPort p f).client q = s.client q := rfl
@[simp] theorem State.updPort_site (s : State) (p : Port) (f : PortState → PortState) (q : Fin 6) : (s.updPort p f).site q = s.site q := rfl
@[simp] theorem State.updPort_tpin (s : State) (p : Port) (f : PortState → PortState) (q : Fin 4) : (s.updPort p f).tpin q = s.tpin q := rfl
@[simp] theorem State.updPort_stamp (s : State) (p : Port) (f : PortState → PortState) : (s.updPort p f).stamp = s.stamp := rfl
@[simp] theorem State.updPort_res (s : State) (p : Port) (f : PortState → PortState) : (s.updPort p f).res = s.res := rfl

@[simp] theorem State.updRef_port (s : State) (r : Ref) (f : Reference → Reference) (q : Port) : (s.updRef r f).port q = s.port q := rfl
@[simp] theorem State.updRef_client (s : State) (r : Ref) (f : Reference → Reference) (q : Client) : (s.updRef r f).client q = s.client q := rfl
@[simp] theorem State.updRef_site (s : State) (r : Ref) (f : Reference → Reference) (q : Fin 6) : (s.updRef r f).site q = s.site q := rfl
@[simp] theorem State.updRef_tpin (s : State) (r : Ref) (f : Reference → Reference) (q : Fin 4) : (s.updRef r f).tpin q = s.tpin q := rfl
@[simp] theorem State.updRef_stamp (s : State) (r : Ref) (f : Reference → Reference) : (s.updRef r f).stamp = s.stamp := rfl
@[simp] theorem State.updRef_res (s : State) (r : Ref) (f : Reference → Reference) : (s.updRef r f).res = s.res := rfl

@[simp] theorem State.updClient_port (s : State) (c : Client) (f : ClientSession → ClientSession) (q : Port) : (s.updClient c f).port q = s.port q := rfl
@[simp] theorem State.updClient_ref (s : State) (c : Client) (f : ClientSession → ClientSession) (q : Ref) : (s.updClient c f).ref q = s.ref q := rfl
@[simp] theorem State.updClient_site (s : State) (c : Client) (f : ClientSession → ClientSession) (q : Fin 6) : (s.updClient c f).site q = s.site q := rfl
@[simp] theorem State.updClient_tpin (s : State) (c : Client) (f : ClientSession → ClientSession) (q : Fin 4) : (s.updClient c f).tpin q = s.tpin q := rfl
@[simp] theorem State.updClient_stamp (s : State) (c : Client) (f : ClientSession → ClientSession) : (s.updClient c f).stamp = s.stamp := rfl
@[simp] theorem State.updClient_res (s : State) (c : Client) (f : ClientSession → ClientSession) : (s.updClient c f).res = s.res := rfl

@[simp] theorem State.updSite_port (s : State) (k : Fin 6) (f : Site → Site) (q : Port) : (s.updSite k f).port q = s.port q := rfl
@[simp] theorem State.updSite_ref (s : State) (k : Fin 6) (f : Site → Site) (q : Ref) : (s.updSite k f).ref q = s.ref q := rfl
@[simp] theorem State.updSite_client (s : State) (k : Fin 6) (f : Site → Site) (q : Client) : (s.updSite k f).client q = s.client q := rfl
@[simp] theorem State.updSite_tpin (s : State) (k : Fin 6) (f : Site → Site) (q : Fin 4) : (s.updSite k f).tpin q = s.tpin q := rfl
@[simp] theorem State.updSite_stamp (s : State) (k : Fin 6) (f : Site → Site) : (s.updSite k f).stamp = s.stamp := rfl
@[simp] theorem State.updSite_res (s : State) (k : Fin 6) (f : Site → Site) : (s.updSite k f).res = s.res := rfl

@[simp] theorem State.updPin_port (s : State) (k : Fin 4) (f : Pin → Pin) (q : Port) : (s.updPin k f).port q = s.port q := rfl
@[simp] theorem State.updPin_ref (s : State) (k : Fin 4) (f : Pin → Pin) (q : Ref) : (s.updPin k f).ref q = s.ref q := rfl
@[simp] theorem State.updPin_client (s : State) (k : Fin 4) (f : Pin → Pin) (q : Client) : (s.updPin k f).client q = s.client q := rfl
@[simp] theorem State.updPin_site (s : State) (k : Fin 4) (f : Pin → Pin) (q : Fin 6) : (s.updPin k f).site q = s.site q := rfl
@[simp] theorem State.updPin_stamp (s : State) (k : Fin 4) (f : Pin → Pin) : (s.updPin k f).stamp = s.stamp := rfl
@[simp] theorem State.updPin_res (s : State) (k : Fin 4) (f : Pin → Pin) : (s.updPin k f).res = s.res := rfl

@[simp] theorem State.updAlarm_port (s : State) (f : Alarm → Alarm) (q : Port) : (s.updAlarm f).port q = s.port q := rfl
@[simp] theorem State.updAlarm_ref (s : State) (f : Alarm → Alarm) (q : Ref) : (s.updAlarm f).ref q = s.ref q := rfl
@[simp] theorem State.updAlarm_client (s : State) (f : Alarm → Alarm) (q : Client) : (s.updAlarm f).client q = s.client q := rfl
@[simp] theorem State.updAlarm_site (s : State) (f : Alarm → Alarm) (q : Fin 6) : (s.updAlarm f).site q = s.site q := rfl
@[simp] theorem State.updAlarm_tpin (s : State) (f : Alarm → Alarm) (q : Fin 4) : (s.updAlarm f).tpin q = s.tpin q := rfl
@[simp] theorem State.updAlarm_stamp (s : State) (f : Alarm → Alarm) : (s.updAlarm f).stamp = s.stamp := rfl
@[simp] theorem State.updAlarm_res (s : State) (f : Alarm → Alarm) : (s.updAlarm f).res = s.res := rfl

@[simp] theorem State.updServo_port (s : State) (f : Servo → Servo) (q : Port) : (s.updServo f).port q = s.port q := rfl
@[simp] theorem State.updServo_ref (s : State) (f : Servo → Servo) (q : Ref) : (s.updServo f).ref q = s.ref q := rfl
@[simp] theorem State.updServo_client (s : State) (f : Servo → Servo) (q : Client) : (s.updServo f).client q = s.client q := rfl
@[simp] theorem State.updServo_site (s : State) (f : Servo → Servo) (q : Fin 6) : (s.updServo f).site q = s.site q := rfl
@[simp] theorem State.updServo_tpin (s : State) (f : Servo → Servo) (q : Fin 4) : (s.updServo f).tpin q = s.tpin q := rfl
@[simp] theorem State.updServo_stamp (s : State) (f : Servo → Servo) : (s.updServo f).stamp = s.stamp := rfl
@[simp] theorem State.updServo_res (s : State) (f : Servo → Servo) : (s.updServo f).res = s.res := rfl

@[simp] theorem State.updHold_port (s : State) (f : Holdover → Holdover) (q : Port) : (s.updHold f).port q = s.port q := rfl
@[simp] theorem State.updHold_ref (s : State) (f : Holdover → Holdover) (q : Ref) : (s.updHold f).ref q = s.ref q := rfl
@[simp] theorem State.updHold_client (s : State) (f : Holdover → Holdover) (q : Client) : (s.updHold f).client q = s.client q := rfl
@[simp] theorem State.updHold_site (s : State) (f : Holdover → Holdover) (q : Fin 6) : (s.updHold f).site q = s.site q := rfl
@[simp] theorem State.updHold_tpin (s : State) (f : Holdover → Holdover) (q : Fin 4) : (s.updHold f).tpin q = s.tpin q := rfl
@[simp] theorem State.updHold_stamp (s : State) (f : Holdover → Holdover) : (s.updHold f).stamp = s.stamp := rfl
@[simp] theorem State.updHold_res (s : State) (f : Holdover → Holdover) : (s.updHold f).res = s.res := rfl

@[simp] theorem State.updSel_port (s : State) (f : Selector → Selector) (q : Port) : (s.updSel f).port q = s.port q := rfl
@[simp] theorem State.updSel_ref (s : State) (f : Selector → Selector) (q : Ref) : (s.updSel f).ref q = s.ref q := rfl
@[simp] theorem State.updSel_client (s : State) (f : Selector → Selector) (q : Client) : (s.updSel f).client q = s.client q := rfl
@[simp] theorem State.updSel_site (s : State) (f : Selector → Selector) (q : Fin 6) : (s.updSel f).site q = s.site q := rfl
@[simp] theorem State.updSel_tpin (s : State) (f : Selector → Selector) (q : Fin 4) : (s.updSel f).tpin q = s.tpin q := rfl
@[simp] theorem State.updSel_stamp (s : State) (f : Selector → Selector) : (s.updSel f).stamp = s.stamp := rfl
@[simp] theorem State.updSel_res (s : State) (f : Selector → Selector) : (s.updSel f).res = s.res := rfl

@[simp] theorem State.updReal_port (s : State) (f : Realign → Realign) (q : Port) : (s.updReal f).port q = s.port q := rfl
@[simp] theorem State.updReal_ref (s : State) (f : Realign → Realign) (q : Ref) : (s.updReal f).ref q = s.ref q := rfl
@[simp] theorem State.updReal_client (s : State) (f : Realign → Realign) (q : Client) : (s.updReal f).client q = s.client q := rfl
@[simp] theorem State.updReal_site (s : State) (f : Realign → Realign) (q : Fin 6) : (s.updReal f).site q = s.site q := rfl
@[simp] theorem State.updReal_tpin (s : State) (f : Realign → Realign) (q : Fin 4) : (s.updReal f).tpin q = s.tpin q := rfl
@[simp] theorem State.updReal_stamp (s : State) (f : Realign → Realign) : (s.updReal f).stamp = s.stamp := rfl
@[simp] theorem State.updReal_res (s : State) (f : Realign → Realign) : (s.updReal f).res = s.res := rfl

@[simp] theorem State.updMgmt_port (s : State) (f : Mgmt → Mgmt) (q : Port) : (s.updMgmt f).port q = s.port q := rfl
@[simp] theorem State.updMgmt_ref (s : State) (f : Mgmt → Mgmt) (q : Ref) : (s.updMgmt f).ref q = s.ref q := rfl
@[simp] theorem State.updMgmt_client (s : State) (f : Mgmt → Mgmt) (q : Client) : (s.updMgmt f).client q = s.client q := rfl
@[simp] theorem State.updMgmt_site (s : State) (f : Mgmt → Mgmt) (q : Fin 6) : (s.updMgmt f).site q = s.site q := rfl
@[simp] theorem State.updMgmt_tpin (s : State) (f : Mgmt → Mgmt) (q : Fin 4) : (s.updMgmt f).tpin q = s.tpin q := rfl
@[simp] theorem State.updMgmt_stamp (s : State) (f : Mgmt → Mgmt) : (s.updMgmt f).stamp = s.stamp := rfl
@[simp] theorem State.updMgmt_res (s : State) (f : Mgmt → Mgmt) : (s.updMgmt f).res = s.res := rfl

@[simp] theorem State.updGnss_port (s : State) (f : Gnss → Gnss) (q : Port) : (s.updGnss f).port q = s.port q := rfl
@[simp] theorem State.updGnss_ref (s : State) (f : Gnss → Gnss) (q : Ref) : (s.updGnss f).ref q = s.ref q := rfl
@[simp] theorem State.updGnss_client (s : State) (f : Gnss → Gnss) (q : Client) : (s.updGnss f).client q = s.client q := rfl
@[simp] theorem State.updGnss_site (s : State) (f : Gnss → Gnss) (q : Fin 6) : (s.updGnss f).site q = s.site q := rfl
@[simp] theorem State.updGnss_tpin (s : State) (f : Gnss → Gnss) (q : Fin 4) : (s.updGnss f).tpin q = s.tpin q := rfl
@[simp] theorem State.updGnss_stamp (s : State) (f : Gnss → Gnss) : (s.updGnss f).stamp = s.stamp := rfl
@[simp] theorem State.updGnss_res (s : State) (f : Gnss → Gnss) : (s.updGnss f).res = s.res := rfl

@[simp] theorem State.useFree_port (s : State) (q : Port) : (s.useFree).port q = s.port q := rfl
@[simp] theorem State.useFree_ref (s : State) (q : Ref) : (s.useFree).ref q = s.ref q := rfl
@[simp] theorem State.useFree_client (s : State) (q : Client) : (s.useFree).client q = s.client q := rfl
@[simp] theorem State.useFree_site (s : State) (q : Fin 6) : (s.useFree).site q = s.site q := rfl
@[simp] theorem State.useFree_tpin (s : State) (q : Fin 4) : (s.useFree).tpin q = s.tpin q := rfl
@[simp] theorem State.useFree_stamp (s : State) : (s.useFree).stamp = s.stamp := rfl
@[simp] theorem State.useFree_res (s : State) : (s.useFree).res = s.res := rfl

@[simp] theorem State.pass_port (s : State) (dt : Nat) (q : Port) : (s.pass dt).port q = s.port q := rfl
@[simp] theorem State.pass_ref (s : State) (dt : Nat) (q : Ref) : (s.pass dt).ref q = s.ref q := rfl
@[simp] theorem State.pass_client (s : State) (dt : Nat) (q : Client) : (s.pass dt).client q = s.client q := rfl
@[simp] theorem State.pass_site (s : State) (dt : Nat) (q : Fin 6) : (s.pass dt).site q = s.site q := rfl
@[simp] theorem State.pass_tpin (s : State) (dt : Nat) (q : Fin 4) : (s.pass dt).tpin q = s.tpin q := rfl

@[simp] theorem State.withClock_port (s : State) (c : Clock) (q : Port) : (s.withClock c).port q = s.port q := rfl
@[simp] theorem State.withClock_ref (s : State) (c : Clock) (q : Ref) : (s.withClock c).ref q = s.ref q := rfl
@[simp] theorem State.withClock_client (s : State) (c : Clock) (q : Client) : (s.withClock c).client q = s.client q := rfl
@[simp] theorem State.withClock_site (s : State) (c : Clock) (q : Fin 6) : (s.withClock c).site q = s.site q := rfl
@[simp] theorem State.withClock_tpin (s : State) (c : Clock) (q : Fin 4) : (s.withClock c).tpin q = s.tpin q := rfl

@[simp] theorem State.arrive_port (s : State) (c : Clock) (q : Port) : (s.arrive c).port q = s.port q := rfl
@[simp] theorem State.arrive_ref (s : State) (c : Clock) (q : Ref) : (s.arrive c).ref q = s.ref q := rfl
@[simp] theorem State.arrive_client (s : State) (c : Clock) (q : Client) : (s.arrive c).client q = s.client q := rfl
@[simp] theorem State.arrive_site (s : State) (c : Clock) (q : Fin 6) : (s.arrive c).site q = s.site q := rfl
@[simp] theorem State.arrive_tpin (s : State) (c : Clock) (q : Fin 4) : (s.arrive c).tpin q = s.tpin q := rfl

end Sys2Proof.Machine
end

