-- ==== Sys2Proof/Laws/Calm.lean ====
section
/-! SUPPORT. What an operation of one block leaves alone, said once: `Calm` holds of every shared operation below the
commands, and `Quiet` of those that touch neither the roles, nor the servo state, nor the state of a reference. Both
are closed under composition, so a meaning follows from the operations it is made of. -/
namespace Sys2Proof.Machine
open Sys2Proof

/-! ## The two relations -/

theorem SameSettings.refl (s : State) : SameSettings s s :=
  ⟨fun _ => rfl, fun _ => rfl, fun _ => rfl, fun _ => rfl, rfl, rfl, rfl, rfl, rfl, rfl, rfl, rfl⟩

theorem SameSettings.trans {s t u : State} (a : SameSettings s t) (b : SameSettings t u) : SameSettings s u :=
  ⟨fun c => (b.clients c).trans (a.clients c), fun c => (b.refs c).trans (a.refs c),
    fun c => (b.sites c).trans (a.sites c), fun c => (b.pins c).trans (a.pins c), b.select.trans a.select,
    b.realign.trans a.realign, b.servo.trans a.servo, b.hold.trans a.hold, b.grades.trans a.grades,
    b.budget.trans a.budget, b.alarms.trans a.alarms, b.notices.trans a.notices⟩

/-- The operation leaves the clock, the Flow Table, the Port Map, the Management Unit, the commands that wait, every
setting and every link as they are, and keeps the laws of the queues, of ALARM_N and of F and I. -/
structure Calm (s t : State) : Prop where
  clock    : t.clock = s.clock
  flow     : t.flow = s.flow
  portMap  : t.portMap = s.portMap
  mgmt     : t.mgmt = s.mgmt
  pending  : t.pending = s.pending
  settings : SameSettings s t
  links    : ∀ p, (t.port p).linkUp = (s.port p).linkUp
  room     : s.WithinRoom → t.WithinRoom
  pin      : s.alarm.pinLaw → t.alarm.pinLaw
  range    : s.servo.inRange → t.servo.inRange

theorem Calm.refl (s : State) : Calm s s :=
  ⟨rfl, rfl, rfl, rfl, rfl, SameSettings.refl s, fun _ => rfl, id, id, id⟩

theorem Calm.trans {s t u : State} (a : Calm s t) (b : Calm t u) : Calm s u :=
  ⟨b.clock.trans a.clock, b.flow.trans a.flow, b.portMap.trans a.portMap, b.mgmt.trans a.mgmt,
    b.pending.trans a.pending, a.settings.trans b.settings, fun p => (b.links p).trans (a.links p),
    fun h => b.room (a.room h), fun h => b.pin (a.pin h), fun h => b.range (a.range h)⟩

/-- Calm, and the roles, the servo state, Phase Valid, the state of every reference and the Realignment Unit stay; the law
of the Entry Grade is kept. -/
structure Quiet (s t : State) : Prop where
  calm   : Calm s t
  servo  : t.servo.state = s.servo.state
  valid  : t.servo.phaseValid = s.servo.phaseValid
  phase  : t.selector.phase = s.selector.phase
  freq   : t.selector.freq = s.selector.freq
  states : ∀ r, (t.ref r).state = (s.ref r).state
  real   : t.realign = s.realign
  entry  : s.entryLaw → t.entryLaw

theorem Quiet.refl (s : State) : Quiet s s := ⟨Calm.refl s, rfl, rfl, rfl, rfl, fun _ => rfl, rfl, id⟩

theorem Quiet.trans {s t u : State} (a : Quiet s t) (b : Quiet t u) : Quiet s u :=
  ⟨a.calm.trans b.calm, b.servo.trans a.servo, b.valid.trans a.valid, b.phase.trans a.phase, b.freq.trans a.freq,
    fun r => (b.states r).trans (a.states r), b.real.trans a.real, fun h => b.entry (a.entry h)⟩

/-- `trans` with its arguments the other way round, the last operation first. -/
theorem Quiet.after {s t u : State} (b : Quiet t u) (a : Quiet s t) : Quiet s u := a.trans b

theorem Quiet.foldl {α : Type} (f : State → α → State) (h : ∀ t a, Quiet t (f t a)) :
    ∀ (l : List α) (s : State), Quiet s (l.foldl f s)
  | [], s => Quiet.refl s
  | a :: l, s => (h s a).trans (Quiet.foldl f h l (f s a))

theorem Quiet.ite {s t u : State} {c : Prop} [Decidable c] (a : Quiet s t) (b : Quiet s u) :
    Quiet s (if c then t else u) := by split <;> assumption

/-- Quiet, but for the Realignment Unit. -/
structure Slewed (s t : State) : Prop where
  calm   : Calm s t
  servo  : t.servo.state = s.servo.state
  valid  : t.servo.phaseValid = s.servo.phaseValid
  phase  : t.selector.phase = s.selector.phase
  freq   : t.selector.freq = s.selector.freq
  states : ∀ r, (t.ref r).state = (s.ref r).state
  entry  : s.entryLaw → t.entryLaw

theorem Quiet.slewed {s t : State} (q : Quiet s t) : Slewed s t :=
  ⟨q.calm, q.servo, q.valid, q.phase, q.freq, q.states, q.entry⟩

theorem Slewed.trans {s t u : State} (a : Slewed s t) (b : Slewed t u) : Slewed s u :=
  ⟨a.calm.trans b.calm, b.servo.trans a.servo, b.valid.trans a.valid, b.phase.trans a.phase, b.freq.trans a.freq,
    fun r => (b.states r).trans (a.states r), fun h => b.entry (a.entry h)⟩

/-- `trans` with its arguments the other way round, the last operation first. -/
theorem Slewed.after {s t u : State} (b : Slewed t u) (a : Slewed s t) : Slewed s u := a.trans b

/-! ## Updates of one block -/

theorem quiet_updPort (s : State) (p : Port) (f : PortState → PortState)
    (hl : ∀ x, (f x).linkUp = x.linkUp) (hr : ∀ x, x.withinRoom → (f x).withinRoom) : Quiet s (s.updPort p f) := by
  refine ⟨⟨rfl, rfl, rfl, rfl, rfl, ⟨fun _ => rfl, fun _ => rfl, fun _ => rfl, fun _ => rfl, rfl, rfl, rfl, rfl, rfl,
    rfl, rfl, rfl⟩, ?_, ?_, id, id⟩, rfl, rfl, rfl, rfl, fun _ => rfl, rfl, id⟩
  · intro q
    rw [State.port_updPort]
    split
    · exact hl _
    · rfl
  · intro h
    refine ⟨?_, h.clients, h.hold, h.notices, h.command, h.tod⟩
    intro q
    rw [State.port_updPort]
    split
    · exact hr _ (h.ports q)
    · exact h.ports q

theorem calm_updRef (s : State) (r : Ref) (f : Reference → Reference)
    (hc : (f (s.ref r)).cfg = (s.ref r).cfg) : Calm s (s.updRef r f) := by
  refine ⟨rfl, rfl, rfl, rfl, rfl, ⟨fun _ => rfl, ?_, fun _ => rfl, fun _ => rfl, rfl, rfl, rfl, rfl, rfl, rfl, rfl,
    rfl⟩, fun _ => rfl, fun h => ⟨h.ports, h.clients, h.hold, h.notices, h.command, h.tod⟩, id, id⟩
  intro q
  rw [State.ref_updRef]
  split
  · next e => rw [e]; exact hc
  · rfl

theorem State.entryLaw_congr {s t : State} (hs : t.servo.state = s.servo.state)
    (hv : t.servo.phaseValid = s.servo.phaseValid) (hh : t.holdover = s.holdover) (h : s.entryLaw) : t.entryLaw := by
  unfold State.entryLaw at *
  rw [hs, hv, hh]
  exact h

theorem quiet_updRef (s : State) (r : Ref) (f : Reference → Reference)
    (hc : (f (s.ref r)).cfg = (s.ref r).cfg) (hs : (f (s.ref r)).state = (s.ref r).state) :
    Quiet s (s.updRef r f) := by
  refine ⟨calm_updRef s r f hc, rfl, rfl, rfl, rfl, ?_, rfl, id⟩
  intro q
  rw [State.ref_updRef]
  split
  · next e => rw [e]; exact hs
  · rfl

theorem quiet_updClient (s : State) (c : Client) (f : ClientSession → ClientSession)
    (hc : (f (s.client c)).cfg = (s.client c).cfg)
    (hr : (s.client c).withinRoom s.clock.epoch → (f (s.client c)).withinRoom s.clock.epoch) :
    Quiet s (s.updClient c f) := by
  refine ⟨⟨rfl, rfl, rfl, rfl, rfl, ⟨?_, fun _ => rfl, fun _ => rfl, fun _ => rfl, rfl, rfl, rfl, rfl, rfl, rfl, rfl,
    rfl⟩, fun _ => rfl, ?_, id, id⟩, rfl, rfl, rfl, rfl, fun _ => rfl, rfl, id⟩
  · intro q
    rw [State.client_updClient]
    split
    · next e => rw [e]; exact hc
    · rfl
  · intro h
    refine ⟨h.ports, ?_, h.hold, h.notices, h.command, h.tod⟩
    intro q
    rw [State.client_updClient]
    split
    · next e => rw [e]; exact hr (h.clients c)
    · exact h.clients q

theorem quiet_updSite (s : State) (k : Fin 6) (f : Site → Site) (hc : (f (s.site k)).cfg = (s.site k).cfg) :
    Quiet s (s.updSite k f) := by
  refine ⟨⟨rfl, rfl, rfl, rfl, rfl, ⟨fun _ => rfl, fun _ => rfl, ?_, fun _ => rfl, rfl, rfl, rfl, rfl, rfl, rfl, rfl,
    rfl⟩, fun _ => rfl, fun h => ⟨h.ports, h.clients, h.hold, h.notices, h.command, h.tod⟩, id, id⟩, rfl, rfl, rfl,
    rfl, fun _ => rfl, rfl, id⟩
  intro q
  rw [State.site_updSite]
  split
  · next e => rw [e]; exact hc
  · rfl

theorem quiet_updPin (s : State) (k : Fin 4) (f : Pin → Pin) (hc : (f (s.tpin k)).cfg = (s.tpin k).cfg) :
    Quiet s (s.updPin k f) := by
  refine ⟨⟨rfl, rfl, rfl, rfl, rfl, ⟨fun _ => rfl, fun _ => rfl, fun _ => rfl, ?_, rfl, rfl, rfl, rfl, rfl, rfl, rfl,
    rfl⟩, fun _ => rfl, fun h => ⟨h.ports, h.clients, h.hold, h.notices, h.command, h.tod⟩, id, id⟩, rfl, rfl, rfl,
    rfl, fun _ => rfl, rfl, id⟩
  intro q
  rw [State.tpin_updPin]
  split
  · next e => rw [e]; exact hc
  · rfl

/-- The Alarm Unit changes within its own laws. -/
structure AlarmCalm (a b : Alarm) : Prop where
  cfg  : b.cfg = a.cfg
  set  : b.set = a.set
  room : a.noticesLaw → b.noticesLaw
  pin  : a.pinLaw → b.pinLaw

theorem quiet_updAlarm (s : State) (f : Alarm → Alarm) (h : AlarmCalm s.alarm (f s.alarm)) :
    Quiet s (s.updAlarm f) :=
  ⟨⟨rfl, rfl, rfl, rfl, rfl, ⟨fun _ => rfl, fun _ => rfl, fun _ => rfl, fun _ => rfl, rfl, rfl, rfl, rfl, rfl, rfl,
    h.cfg, h.set⟩, fun _ => rfl, fun w => ⟨w.ports, w.clients, w.hold, h.room w.notices, w.command, w.tod⟩, h.pin,
    id⟩, rfl, rfl, rfl, rfl, fun _ => rfl, rfl, id⟩

theorem calm_updServo (s : State) (f : Servo → Servo) (hp : (f s.servo).params = s.servo.params)
    (hr : s.servo.inRange → (f s.servo).inRange) : Calm s (s.updServo f) :=
  ⟨rfl, rfl, rfl, rfl, rfl, ⟨fun _ => rfl, fun _ => rfl, fun _ => rfl, fun _ => rfl, rfl, rfl, hp, rfl, rfl, rfl, rfl,
    rfl⟩, fun _ => rfl, fun h => ⟨h.ports, h.clients, h.hold, h.notices, h.command, h.tod⟩, id, hr⟩

theorem quiet_updServo (s : State) (f : Servo → Servo) (hp : (f s.servo).params = s.servo.params)
    (hr : s.servo.inRange → (f s.servo).inRange) (hs : (f s.servo).state = s.servo.state)
    (hv : (f s.servo).phaseValid = s.servo.phaseValid) : Quiet s (s.updServo f) :=
  ⟨calm_updServo s f hp hr, hs, hv, rfl, rfl, fun _ => rfl, rfl, State.entryLaw_congr hs hv rfl⟩

theorem quiet_updHold (s : State) (f : Holdover → Holdover) (hp : (f s.holdover).params = s.holdover.params)
    (hg : (f s.holdover).grades = s.holdover.grades) (hb : (f s.holdover).budget = s.holdover.budget)
    (hr : s.holdover.ring.length ≤ ringCapacity → (f s.holdover).ring.length ≤ ringCapacity)
    (he : s.entryLaw → (s.updHold f).entryLaw) : Quiet s (s.updHold f) :=
  ⟨⟨rfl, rfl, rfl, rfl, rfl, ⟨fun _ => rfl, fun _ => rfl, fun _ => rfl, fun _ => rfl, rfl, rfl, rfl, hp, hg, hb, rfl,
    rfl⟩, fun _ => rfl,
    fun h => ⟨h.ports, h.clients, ⟨hr h.hold.1, by rw [State.updHold_holdover, hb]; exact h.hold.2⟩, h.notices,
      h.command, h.tod⟩, id, id⟩, rfl, rfl, rfl, rfl, fun _ => rfl, rfl, he⟩

theorem calm_updSel (s : State) (f : Selector → Selector) (hc : (f s.selector).cfg = s.selector.cfg) :
    Calm s (s.updSel f) :=
  ⟨rfl, rfl, rfl, rfl, rfl, ⟨fun _ => rfl, fun _ => rfl, fun _ => rfl, fun _ => rfl, hc, rfl, rfl, rfl, rfl, rfl, rfl,
    rfl⟩, fun _ => rfl, fun h => ⟨h.ports, h.clients, h.hold, h.notices, h.command, h.tod⟩, id, id⟩

theorem slewed_updReal (s : State) (f : Realign → Realign) (hp : (f s.realign).params = s.realign.params) :
    Slewed s (s.updReal f) :=
  ⟨⟨rfl, rfl, rfl, rfl, rfl, ⟨fun _ => rfl, fun _ => rfl, fun _ => rfl, fun _ => rfl, rfl, hp, rfl, rfl, rfl, rfl, rfl,
    rfl⟩, fun _ => rfl, fun h => ⟨h.ports, h.clients, h.hold, h.notices, h.command, h.tod⟩, id, id⟩, rfl, rfl, rfl,
    rfl, fun _ => rfl, id⟩

theorem quiet_updGnss (s : State) (f : Gnss → Gnss)
    (hr : s.gnss.partialRecord.length ≤ 11 → (f s.gnss).partialRecord.length ≤ 11) : Quiet s (s.updGnss f) :=
  ⟨⟨rfl, rfl, rfl, rfl, rfl, ⟨fun _ => rfl, fun _ => rfl, fun _ => rfl, fun _ => rfl, rfl, rfl, rfl, rfl, rfl, rfl,
    rfl, rfl⟩, fun _ => rfl, fun h => ⟨h.ports, h.clients, h.hold, h.notices, h.command, hr h.tod⟩, id, id⟩, rfl, rfl,
    rfl, rfl, fun _ => rfl, rfl, id⟩

theorem quiet_useFree (s : State) : Quiet s s.useFree :=
  ⟨⟨rfl, rfl, rfl, rfl, rfl, ⟨fun _ => rfl, fun _ => rfl, fun _ => rfl, fun _ => rfl, rfl, rfl, rfl, rfl, rfl, rfl,
    rfl, rfl⟩, fun _ => rfl, fun h => ⟨h.ports, h.clients, h.hold, h.notices, h.command, h.tod⟩, id, id⟩, rfl, rfl,
    rfl, rfl, fun _ => rfl, rfl, id⟩

theorem quiet_serving (s : State) (b : Bool) : Quiet s { s with servingSince := b } :=
  ⟨⟨rfl, rfl, rfl, rfl, rfl, ⟨fun _ => rfl, fun _ => rfl, fun _ => rfl, fun _ => rfl, rfl, rfl, rfl, rfl, rfl, rfl,
    rfl, rfl⟩, fun _ => rfl, fun h => ⟨h.ports, h.clients, h.hold, h.notices, h.command, h.tod⟩, id, id⟩, rfl, rfl,
    rfl, rfl, fun _ => rfl, rfl, id⟩

theorem quiet_window (s : State) (w : WindowState) : Quiet s { s with window := w } :=
  ⟨⟨rfl, rfl, rfl, rfl, rfl, ⟨fun _ => rfl, fun _ => rfl, fun _ => rfl, fun _ => rfl, rfl, rfl, rfl, rfl, rfl, rfl,
    rfl, rfl⟩, fun _ => rfl, fun h => ⟨h.ports, h.clients, h.hold, h.notices, h.command, h.tod⟩, id, id⟩, rfl, rfl,
    rfl, rfl, fun _ => rfl, rfl, id⟩

/-! ## Counting -/

theorem quiet_countPort (s : State) (p : Port) (f : PortCounters → PortCounters) : Quiet s (s.countPort p f) :=
  quiet_updPort s p _ (fun _ => rfl) (fun _ h => h)

theorem quiet_countClient (s : State) (c : Client) (f : ClientCounters → ClientCounters) :
    Quiet s (s.countClient c f) := quiet_updClient s c _ rfl id

theorem quiet_countSite (s : State) (k : Fin 6) (f : SiteCounters → SiteCounters) : Quiet s (s.countSite k f) :=
  quiet_updSite s k _ rfl

theorem quiet_countGnss (s : State) (f : GnssCounters → GnssCounters) : Quiet s (s.countGnss f) :=
  quiet_updGnss s _ id

theorem quiet_countServo (s : State) (f : ServoCounters → ServoCounters) : Quiet s (s.countServo f) :=
  quiet_updServo s _ rfl id rfl rfl

theorem slewed_countReal (s : State) (f : RealignCounters → RealignCounters) : Slewed s (s.countReal f) :=
  slewed_updReal s _ rfl

theorem quiet_countHold (s : State) (f : HoldoverCounters → HoldoverCounters) : Quiet s (s.countHold f) :=
  quiet_updHold s _ rfl rfl rfl id id

end Sys2Proof.Machine
end

