-- ==== Sys2Proof/Laws/Alarm.lean ====
section
/-! SUPPORT. The Alarm Unit's operations keep its configuration, the law of the Notice Queue and the law of ALARM_N.
`AlarmHalf` is what holds inside an operation, before the pin is evaluated. -/
namespace Sys2Proof.Machine
open Sys2Proof

/-- The part of the pin's law that holds before the pin is evaluated. -/
def Alarm.halfLaw (a : Alarm) : Prop := if a.set.pulseMode then a.asserted = a.pulse.isSome else a.pulse = none

/-- The Alarm Unit changes, the pin not yet evaluated. -/
structure AlarmHalf (a b : Alarm) : Prop where
  cfg  : b.cfg = a.cfg
  set  : b.set = a.set
  room : a.noticesLaw → b.noticesLaw
  half : a.halfLaw → b.halfLaw

theorem AlarmHalf.refl (a : Alarm) : AlarmHalf a a := ⟨rfl, rfl, id, id⟩

theorem AlarmHalf.trans {a b c : Alarm} (x : AlarmHalf a b) (y : AlarmHalf b c) : AlarmHalf a c :=
  ⟨y.cfg.trans x.cfg, y.set.trans x.set, fun h => y.room (x.room h), fun h => y.half (x.half h)⟩

theorem AlarmHalf.foldl {α : Type} (f : Alarm → α → Alarm) (h : ∀ a i, AlarmHalf a (f a i)) :
    ∀ (l : List α) (a : Alarm), AlarmHalf a (l.foldl f a)
  | [], a => AlarmHalf.refl a
  | i :: l, a => (h a i).trans (AlarmHalf.foldl f h l (f a i))

theorem AlarmCalm.refl (a : Alarm) : AlarmCalm a a := ⟨rfl, rfl, id, id⟩

theorem AlarmCalm.trans {a b c : Alarm} (x : AlarmCalm a b) (y : AlarmCalm b c) : AlarmCalm a c :=
  ⟨y.cfg.trans x.cfg, y.set.trans x.set, fun h => y.room (x.room h), fun h => y.pin (x.pin h)⟩

theorem AlarmCalm.foldl {α : Type} (f : Alarm → α → Alarm) (h : ∀ a i, AlarmCalm a (f a i)) :
    ∀ (l : List α) (a : Alarm), AlarmCalm a (l.foldl f a)
  | [], a => AlarmCalm.refl a
  | i :: l, a => (h a i).trans (AlarmCalm.foldl f h l (f a i))

theorem Alarm.pinLaw_half {a : Alarm} (h : a.pinLaw) : a.halfLaw := by
  unfold Alarm.pinLaw at h
  unfold Alarm.halfLaw
  split at h
  · next c => rw [if_pos c]; exact h
  · next c => rw [if_neg c]; exact h.1

theorem Alarm.evalPin_pinLaw {a : Alarm} (h : a.halfLaw) : a.evalPin.pinLaw := by
  unfold Alarm.halfLaw at h
  unfold Alarm.evalPin Alarm.pinLaw
  split
  · next c => rw [if_pos c] at h; exact h
  · next c => rw [if_neg c] at h; exact ⟨h, rfl⟩

/-- The law of the Notice Queue reads the queue, the records and Notify Enable alone. -/
theorem Alarm.noticesLaw.congr {a b : Alarm} (h : a.noticesLaw) (hq : b.queue = a.queue) (hr : b.recs = a.recs)
    (hn : b.set.notify = a.set.notify) : b.noticesLaw := by
  have same (i : Fin 41) : b.record i = a.record i := congrArg (·.get i) hr
  exact ⟨hq ▸ h.room, hq ▸ h.once, fun n m => (same _).symm ▸ h.free n (hq ▸ m),
    fun e r i => (same i).symm ▸ h.drawn (hn ▸ e) (hq ▸ r) i, fun e => hq.trans (h.off (hn ▸ e))⟩

theorem Alarm.noticesLaw.congr_evalPin {a : Alarm} (h : a.noticesLaw) : a.evalPin.noticesLaw := by
  unfold Alarm.evalPin
  split
  · exact h
  · exact h.congr rfl rfl rfl

/-- The pin evaluated at the end makes an operation lawful. -/
theorem AlarmHalf.evalPin {a b : Alarm} (h : AlarmHalf a b) : AlarmCalm a b.evalPin := by
  refine ⟨?_, ?_, ?_, fun p => Alarm.evalPin_pinLaw (h.half (Alarm.pinLaw_half p))⟩
  · rw [← h.cfg]; unfold Alarm.evalPin; split <;> rfl
  · rw [← h.set]; unfold Alarm.evalPin; split <;> rfl
  · intro r
    exact (h.room r).congr_evalPin

/-- One record after an update of a record. -/
theorem Alarm.record_updRec_of (a : Alarm) (i j : Fin 41) (f : AlarmRecord → AlarmRecord) :
    (a.updRec i f).record j = if j = i then f (a.record j) else a.record j := by
  show (updAt a.recs i f).get j = _
  rw [get_updAt]
  split
  · next e => subst e; rfl
  · rfl

/-- An update of a record that keeps its Pending flag. -/
theorem Alarm.updRec_half (a : Alarm) (i : Fin 41) (f : AlarmRecord → AlarmRecord)
    (hp : ∀ r, (f r).pending = r.pending) : AlarmHalf a (a.updRec i f) := by
  have same (j : Fin 41) : ((a.updRec i f).record j).pending = (a.record j).pending := by
    rw [Alarm.record_updRec_of]
    split
    · exact hp _
    · rfl
  exact ⟨rfl, rfl, fun h => ⟨h.room, h.once, fun n m => (same _).trans (h.free n m),
    fun e r j => (same j).trans (h.drawn e r j), h.off⟩, id⟩

theorem Alarm.pulseFor_half (res : Nat) (i : Fin 41) (a : Alarm) : AlarmHalf a (a.pulseFor res i) := by
  unfold Alarm.pulseFor
  split
  · next c =>
    refine ⟨rfl, rfl, fun h => h.congr rfl rfl rfl, fun _ => ?_⟩
    have c' : a.set.pulseMode = true := (Bool.and_eq_true _ _ ▸ c).1
    simp [Alarm.halfLaw, c']
  · exact AlarmHalf.refl a

/-- A record without a notice in the queue. -/
theorem Alarm.not_queued {a : Alarm} {i : Fin 41} (h : ¬ a.queue.any (fun n => n.record = i) = true) :
    i ∉ a.queue.map Notice.record := by
  intro m
  obtain ⟨n, hn, e⟩ := List.mem_map.mp m
  exact h (List.any_eq_true.mpr ⟨n, hn, by simpa using e⟩)

theorem Alarm.place_half (i : Fin 41) (a : Alarm) : AlarmHalf a (a.place i).1 := by
  unfold Alarm.place
  split
  · refine ⟨rfl, rfl, fun h => ?_, id⟩
    have keep : (a.queue.map fun n => if n.record = i then a.noticeOf i else n).map Notice.record =
        a.queue.map Notice.record := by
      rw [List.map_map]
      refine List.map_congr_left fun n _ => ?_
      show (if n.record = i then a.noticeOf i else n).record = n.record
      split
      · next e => exact e.symm
      · rfl
    refine ⟨by simpa using h.room, by rw [keep]; exact h.once, fun n m => ?_, fun e r => h.drawn e (by simpa using r),
      fun e => by simp [h.off e]⟩
    obtain ⟨x, hx, e⟩ := List.mem_map.mp m
    have hr : n.record = x.record := by
      rw [← e]
      split
      · next e' => exact e'.symm
      · rfl
    show (a.record n.record).pending = false
    rw [hr]
    exact h.free x hx
  · next hq =>
    have hq' := Alarm.not_queued hq
    split
    · next hn =>
      have hn' : a.set.notify = false := by simpa using hn
      refine ⟨rfl, rfl, fun h => ⟨h.room, h.once, fun n m => ?_, fun e => ?_, h.off⟩, id⟩
      · rw [show (a.updRec i _).queue = a.queue from rfl, h.off hn'] at m
        cases m
      · exact absurd (hn'.symm.trans e) (by decide)
    · next hn =>
      have hn' : a.set.notify = true := by simpa using hn
      split
      · next c =>
        refine ⟨rfl, rfl, fun h => ⟨?_, ?_, fun n m => ?_, fun e _ => h.drawn hn' c, fun e => ?_⟩, id⟩
        · simp only [List.length_append, List.length_cons, List.length_nil]
          omega
        · show ((a.queue ++ [a.noticeOf i]).map Notice.record).Nodup
          rw [List.map_append, List.nodup_append]
          refine ⟨h.once, List.nodup_singleton _, fun x hx y hy e => hq' ?_⟩
          rw [List.map_singleton, List.mem_singleton] at hy
          rw [e, hy] at hx
          exact hx
        · exact h.drawn hn' c n.record
        · exact absurd (e.symm.trans hn') (by decide)
      · next c =>
        refine ⟨rfl, rfl, fun h => ⟨h.room, h.once, fun n m => ?_, fun _ r => absurd r c, h.off⟩, id⟩
        show ((a.updRec i _).record n.record).pending = false
        have ne : n.record ≠ i := fun e => hq' (List.mem_map.mpr ⟨n, m, e⟩)
        rw [Alarm.record_updRec_of, if_neg ne]
        exact h.free n m

theorem Alarm.produce_half (i : Fin 41) (a : Alarm) : AlarmHalf a (a.produce i).1 := by
  unfold Alarm.produce
  split
  · exact Alarm.place_half i a
  · exact AlarmHalf.refl a

theorem Alarm.raise_half (now : Stamp) (res : Nat) (i : Fin 41) (a : Alarm) : AlarmHalf a (a.raise now res i).1 :=
  ((Alarm.updRec_half a i _ fun _ => by rfl).trans (Alarm.pulseFor_half res i _)).trans (Alarm.produce_half i _)

theorem Alarm.clearRecord_half (now : Stamp) (i : Fin 41) (a : Alarm) : AlarmHalf a (a.clearRecord now i).1 :=
  (Alarm.updRec_half a i _ fun _ => by rfl).trans (Alarm.produce_half i _)

theorem Alarm.becomePresent_half (now : Stamp) (res : Nat) (i : Fin 41) (a : Alarm) :
    AlarmHalf a (a.becomePresent now res i).1 := by
  unfold Alarm.becomePresent
  dsimp only
  split
  · split
    · exact (Alarm.updRec_half a i _ fun _ => by rfl).trans (Alarm.raise_half now res i _)
    · exact (Alarm.updRec_half a i _ fun _ => by rfl).trans (Alarm.updRec_half _ i _ fun _ => by rfl)
  · exact (Alarm.updRec_half a i _ fun _ => by rfl).trans (Alarm.updRec_half _ i _ fun _ => by rfl)
  · exact Alarm.updRec_half a i _ fun _ => by rfl
  · exact Alarm.updRec_half a i _ fun _ => by rfl

theorem Alarm.becomeAbsent_half (now : Stamp) (res : Nat) (i : Fin 41) (a : Alarm) :
    AlarmHalf a (a.becomeAbsent now res i).1 := by
  unfold Alarm.becomeAbsent
  dsimp only
  split
  · exact (Alarm.updRec_half a i _ fun _ => by rfl).trans (Alarm.updRec_half _ i _ fun _ => by rfl)
  · split
    · exact (Alarm.updRec_half a i _ fun _ => by rfl).trans (Alarm.clearRecord_half now i _)
    · exact (Alarm.updRec_half a i _ fun _ => by rfl).trans (Alarm.updRec_half _ i _ fun _ => by rfl)
  · exact Alarm.updRec_half a i _ fun _ => by rfl
  · exact Alarm.updRec_half a i _ fun _ => by rfl

theorem Alarm.move_half (now : Stamp) (res : Nat) (i : Fin 41) (present : Bool) (a : Alarm) :
    AlarmHalf a (a.move now res i present).1 := by
  unfold Alarm.move
  split
  · exact AlarmHalf.refl a
  · split
    · exact Alarm.becomePresent_half now res i a
    · exact Alarm.becomeAbsent_half now res i a

theorem Alarm.overflowed_half (now : Stamp) (res : Nat) : ∀ (n : Nat) (a : Alarm),
    AlarmHalf a (a.overflowed now res n)
  | 0, a => AlarmHalf.refl a
  | n + 1, a => by
    have h := Alarm.move_half now res recOverflow true a
    unfold Alarm.overflowed
    split
    · next a1 e =>
      rw [e] at h
      exact h.trans (Alarm.overflowed_half now res n a1)
    · next a1 e => rw [e] at h; exact h

theorem Alarm.settle_calm {a : Alarm} (now : Stamp) (res : Nat) (x : Alarm × Bool) (h : AlarmHalf a x.1) :
    AlarmCalm a (Alarm.settle now res x) := by
  obtain ⟨b, o⟩ := x
  cases o
  · exact h.evalPin
  · exact (h.trans (Alarm.overflowed_half now res 3 b)).evalPin

/-- The pin evaluated at the end is lawful where it was half so before. -/
theorem Alarm.settle_pin {a : Alarm} (now : Stamp) (res : Nat) (x : Alarm × Bool) (h : AlarmHalf a x.1)
    (p : a.halfLaw) : (Alarm.settle now res x).pinLaw := by
  obtain ⟨b, o⟩ := x
  cases o
  · exact Alarm.evalPin_pinLaw (h.half p)
  · exact Alarm.evalPin_pinLaw ((h.trans (Alarm.overflowed_half now res 3 b)).half p)

theorem Alarm.report_calm (now : Stamp) (res : Nat) (i : Fin 41) (present : Bool) (cause : List Defect) (a : Alarm) :
    AlarmCalm a (a.report now res i present cause) := by
  unfold Alarm.report
  apply Alarm.settle_calm
  split
  · exact (Alarm.updRec_half a i _ fun _ => by rfl).trans (Alarm.move_half now res i present _)
  · exact Alarm.move_half now res i present a

/-- Inside a drain: the law of the Notice Queue without what the drain is on the way to. -/
structure Alarm.drainLaw (a : Alarm) : Prop where
  room : a.queue.length ≤ noticeCapacity
  once : (a.queue.map Notice.record).Nodup
  free : ∀ n, n ∈ a.queue → (a.record n.record).pending = false

/-- One record drained (R178): its Pending flag goes where there was room, and no other is set. -/
theorem Alarm.drainOne_spec (a : Alarm) (i : Fin 41) :
    (a.drainOne i).cfg = a.cfg ∧ (a.drainOne i).set = a.set ∧ (a.halfLaw → (a.drainOne i).halfLaw) ∧
      (a.drainLaw → (a.drainOne i).drainLaw) ∧ a.queue.length ≤ (a.drainOne i).queue.length ∧
      (∀ j, (a.record j).pending = false → ((a.drainOne i).record j).pending = false) ∧
      ((a.drainOne i).queue.length < noticeCapacity → ((a.drainOne i).record i).pending = false) := by
  unfold Alarm.drainOne
  split
  · next c =>
    have c1 : (a.record i).pending = true := (Bool.and_eq_true _ _ ▸ c).1
    have c2 : a.queue.length < noticeCapacity := of_decide_eq_true (Bool.and_eq_true _ _ ▸ c).2
    have gone (j : Fin 41) : (a.record j).pending = false →
        ((a.updRec i fun r => { r with pending := false }).record j).pending = false := by
      intro h
      rw [Alarm.record_updRec_of]
      split
      · rfl
      · exact h
    have here : ((a.updRec i fun r => { r with pending := false }).record i).pending = false := by
      rw [Alarm.record_updRec_of, if_pos rfl]
    dsimp only
    split
    · refine ⟨rfl, rfl, id, fun h => ⟨?_, ?_, fun n m => ?_⟩, ?_, gone, fun _ => here⟩
      · show (a.queue ++ [a.noticeOf i]).length ≤ _
        simp only [List.length_append, List.length_cons, List.length_nil]
        omega
      · show ((a.queue ++ [a.noticeOf i]).map Notice.record).Nodup
        rw [List.map_append, List.nodup_append]
        refine ⟨h.once, List.nodup_singleton _, fun x hx y hy e => ?_⟩
        rw [List.map_singleton, List.mem_singleton] at hy
        rw [e, hy] at hx
        obtain ⟨n, hn, hr⟩ := List.mem_map.mp hx
        have := h.free n hn
        rw [hr] at this
        exact absurd (c1.symm.trans this) (by decide)
      · have m' : n ∈ a.queue ++ [a.noticeOf i] := m
        rcases List.mem_append.mp m' with m1 | m1
        · exact gone _ (h.free n m1)
        · rw [List.mem_singleton.mp m1]
          exact here
      · show a.queue.length ≤ (a.queue ++ [a.noticeOf i]).length
        simp only [List.length_append]
        omega
    · exact ⟨rfl, rfl, id, fun h => ⟨h.room, h.once, fun n m => gone _ (h.free n m)⟩, Nat.le_refl _, gone,
        fun _ => here⟩
  · next c =>
    refine ⟨rfl, rfl, id, id, Nat.le_refl _, fun _ h => h, fun r => ?_⟩
    cases hp : (a.record i).pending
    · rfl
    · exact absurd (by simp [hp, r]) c

/-- A drain of several records (R178): where there is still room at its end, each of them has been drained. -/
theorem Alarm.drainAll_spec : ∀ (l : List (Fin 41)) (a : Alarm),
    (l.foldl Alarm.drainOne a).cfg = a.cfg ∧ (l.foldl Alarm.drainOne a).set = a.set ∧
      (a.halfLaw → (l.foldl Alarm.drainOne a).halfLaw) ∧ (a.drainLaw → (l.foldl Alarm.drainOne a).drainLaw) ∧
      a.queue.length ≤ (l.foldl Alarm.drainOne a).queue.length ∧
      (∀ j, (a.record j).pending = false → ((l.foldl Alarm.drainOne a).record j).pending = false) ∧
      ((l.foldl Alarm.drainOne a).queue.length < noticeCapacity →
        ∀ i, i ∈ l → ((l.foldl Alarm.drainOne a).record i).pending = false)
  | [], a => ⟨rfl, rfl, id, id, Nat.le_refl _, fun _ h => h, fun _ _ h => by cases h⟩
  | k :: l, a => by
    obtain ⟨h1, h2, h3, h4, h5, h6, h7⟩ := Alarm.drainOne_spec a k
    obtain ⟨g1, g2, g3, g4, g5, g6, g7⟩ := Alarm.drainAll_spec l (a.drainOne k)
    refine ⟨g1.trans h1, g2.trans h2, fun h => g3 (h3 h), fun h => g4 (h4 h), Nat.le_trans h5 g5,
      fun j h => g6 j (h6 j h), fun r i m => ?_⟩
    rcases List.mem_cons.mp m with e | e
    · rw [e]
      exact g6 k (h7 (Nat.lt_of_le_of_lt g5 r))
    · exact g7 r i e

/-- A drain from a state that meets the law inside a drain leaves the whole law (R176, R178). -/
theorem Alarm.drainAll_half (a : Alarm) (hn : a.set.notify = true) (h : a.drainLaw) :
    (allRecords.foldl Alarm.drainOne a).noticesLaw := by
  obtain ⟨-, g2, -, g4, -, -, g7⟩ := Alarm.drainAll_spec allRecords a
  have d := g4 h
  exact ⟨d.room, d.once, d.free, fun _ r i => g7 r i (List.mem_finRange i),
    fun e => absurd ((hn.symm.trans (congrArg AlarmSettings.notify g2).symm).trans e) (by decide)⟩

/-- The drain of R178, from a state that meets at least the law inside a drain where notices are on. -/
theorem Alarm.drain_spec (now : Stamp) (res : Nat) (a : Alarm) :
    (a.drain now res).cfg = a.cfg ∧ (a.drain now res).set = a.set ∧ (a.pinLaw → (a.drain now res).pinLaw) ∧
      (a.noticesLaw ∨ (a.set.notify = true ∧ a.drainLaw) → (a.drain now res).noticesLaw) := by
  unfold Alarm.drain
  obtain ⟨g1, g2, g3, -, -, -, -⟩ := Alarm.drainAll_spec allRecords a
  split
  · next c =>
    have hn : a.set.notify = true := (Bool.and_eq_true _ _ ▸ c).1
    have law (h : a.noticesLaw ∨ (a.set.notify = true ∧ a.drainLaw)) :
        (allRecords.foldl Alarm.drainOne a).noticesLaw :=
      Alarm.drainAll_half a hn (h.elim (fun h => ⟨h.room, h.once, h.free⟩) And.right)
    dsimp only
    generalize allRecords.foldl Alarm.drainOne a = d at *
    have whole {b : Alarm} (x : AlarmCalm d b)
        (hp : a.pinLaw → b.pinLaw) : b.cfg = a.cfg ∧ b.set = a.set ∧ (a.pinLaw → b.pinLaw) ∧
        (a.noticesLaw ∨ (a.set.notify = true ∧ a.drainLaw) → b.noticesLaw) :=
      ⟨x.cfg.trans g1, x.set.trans g2, hp, fun h => x.room (law h)⟩
    split
    · exact whole (AlarmHalf.refl _).evalPin fun p => Alarm.evalPin_pinLaw (g3 (Alarm.pinLaw_half p))
    · refine whole (Alarm.settle_calm now res _ (Alarm.move_half now res recOverflow false _)) fun p => ?_
      exact Alarm.settle_pin now res _ (Alarm.move_half now res recOverflow false _) (g3 (Alarm.pinLaw_half p))
  · next c =>
    refine ⟨rfl, rfl, id, fun h => h.elim id fun h => ?_⟩
    have none : ∀ i, (a.record i).pending = false := by
      intro i
      cases hp : (a.record i).pending
      · rfl
      · refine absurd ?_ c
        rw [h.1, Bool.true_and]
        exact List.any_eq_true.mpr ⟨i, List.mem_finRange i, hp⟩
    exact ⟨h.2.room, h.2.once, h.2.free, fun _ _ => none, fun e => absurd (h.1.symm.trans e) (by decide)⟩

theorem Alarm.drain_calm (now : Stamp) (res : Nat) (a : Alarm) : AlarmCalm a (a.drain now res) :=
  have h := Alarm.drain_spec now res a
  ⟨h.1, h.2.1, fun l => h.2.2.2 (Or.inl l), h.2.2.1⟩

theorem Alarm.raiseExpired_calm (now : Stamp) (res : Nat) (i : Fin 41) (a : Alarm) :
    AlarmCalm a (a.raiseExpired now res i) := by
  unfold Alarm.raiseExpired
  split
  · exact Alarm.settle_calm now res _ (Alarm.raise_half now res i a)
  · exact AlarmCalm.refl a

theorem Alarm.clearExpired_calm (now : Stamp) (res : Nat) (i : Fin 41) (a : Alarm) :
    AlarmCalm a (a.clearExpired now res i) := by
  unfold Alarm.clearExpired
  split
  · exact Alarm.settle_calm now res _ (Alarm.clearRecord_half now i a)
  · exact AlarmCalm.refl a

theorem Alarm.ackOne_half (a : Alarm) (i : Fin 41) : AlarmHalf a (a.ackOne i) := by
  unfold Alarm.ackOne
  split
  · have h := Alarm.updRec_half a i (fun r => { r with acked := true }) fun _ => rfl
    exact ⟨rfl, rfl, fun l => (h.room l).congr rfl rfl rfl, id⟩
  · exact AlarmHalf.refl a

theorem Alarm.ackAll_calm (is : List (Fin 41)) (a : Alarm) : AlarmCalm a (a.ackAll is) :=
  (AlarmHalf.foldl Alarm.ackOne Alarm.ackOne_half is a).evalPin

/-- The head gone, the rest of the queue meets the law inside a drain. -/
theorem Alarm.tail_drainLaw {a b : Alarm} (hq : b.queue = a.queue.drop 1) (hr : b.recs = a.recs) (h : a.noticesLaw) :
    b.drainLaw := by
  refine ⟨?_, ?_, fun n m => ?_⟩
  · have := h.room
    rw [hq, List.length_drop]
    omega
  · rw [hq, List.map_drop]
    exact h.once.sublist (List.drop_sublist 1 _)
  · rw [hq] at m
    show (b.recs.get n.record).pending = false
    rw [hr]
    exact h.free n (List.mem_of_mem_drop m)

theorem Alarm.takeHead_calm (now : Stamp) (res : Nat) (a : Alarm) : AlarmCalm a (a.takeHead now res) := by
  unfold Alarm.takeHead
  have h := Alarm.drain_spec now res { a with
    queue := a.queue.drop 1, spacing := some res, nextSeq := (a.nextSeq + 1) % 65536 }
  refine ⟨h.1, h.2.1, fun l => h.2.2.2 ?_, h.2.2.1⟩
  by_cases hn : a.set.notify = true
  · exact Or.inr ⟨hn, Alarm.tail_drainLaw rfl rfl l⟩
  · have e := l.off (by simpa using hn)
    have m := Alarm.tail_drainLaw (b := { a with
      queue := a.queue.drop 1, spacing := some res, nextSeq := (a.nextSeq + 1) % 65536 }) rfl rfl l
    exact Or.inl ⟨m.room, m.once, m.free, fun x => absurd x hn, fun _ => by simp [e]⟩

theorem Alarm.endPulse_calm (a : Alarm) (h : a.set.pulseMode = true) : AlarmCalm a a.endPulse :=
  ⟨rfl, rfl, fun l => l.congr rfl rfl rfl, fun _ => by simp [Alarm.pinLaw, Alarm.endPulse, h]⟩

/-! ## Reports from State -/

theorem quiet_report (s : State) (i : Fin 41) (present : Bool) : Quiet s (s.report i present) :=
  quiet_updAlarm s _ (Alarm.report_calm _ _ i present [] _)

theorem quiet_reportRef (s : State) (r : Ref) (present : Bool) (cause : List Defect) :
    Quiet s (s.reportRef r present cause) :=
  quiet_updAlarm s _ (Alarm.report_calm _ _ (recRefFail r) present cause _)

end Sys2Proof.Machine
end

