-- ==== Sys2Proof/Laws/Blocks.lean ====
section
/-! SUPPORT. The operations of the Egress Scheduler, the Delivery Unit, the Pin Unit, the Holdover Unit and the Realignment
Unit are quiet: one lemma for each. -/
namespace Sys2Proof.Machine
open Sys2Proof

/-! ## Egress Scheduler (R16 to R20) -/

theorem quiet_timingLoss (s : State) (p : Port) : Quiet s (s.timingLoss p) :=
  (quiet_report _ _ _).after (quiet_updPort s p _ (fun _ => rfl) (fun _ h => h))

theorem quiet_offer (s : State) (p : Port) (q : QueueClass) (f : QFrame) : Quiet s (s.offer p q f).1 := by
  unfold State.offer
  dsimp only
  split
  · exact quiet_countPort s p fun c => { c with linkDownDiscards := bump c.linkDownDiscards }
  · split
    · split
      · next c =>
        refine ⟨⟨rfl, rfl, rfl, rfl, rfl, ⟨fun _ => rfl, fun _ => rfl, fun _ => rfl, fun _ => rfl, rfl, rfl, rfl, rfl,
          rfl, rfl, rfl, rfl⟩, ?_, ?_, id, id⟩, rfl, rfl, rfl, rfl, fun _ => rfl, rfl, id⟩
        · intro r; rw [State.port_updPort]; split <;> rfl
        · intro h
          refine ⟨?_, h.clients, h.hold, h.notices, h.command, h.tod⟩
          intro r
          rw [State.port_updPort]
          split
          · next e =>
            subst e
            refine ⟨?_, (h.ports r).2⟩
            simp only [List.length_append, List.length_cons, List.length_nil]
            omega
          · exact h.ports r
      · exact (quiet_countPort s p _).trans (quiet_timingLoss _ p)
    · split
      · next c =>
        refine ⟨⟨rfl, rfl, rfl, rfl, rfl, ⟨fun _ => rfl, fun _ => rfl, fun _ => rfl, fun _ => rfl, rfl, rfl, rfl, rfl,
          rfl, rfl, rfl, rfl⟩, ?_, ?_, id, id⟩, rfl, rfl, rfl, rfl, fun _ => rfl, rfl, id⟩
        · intro r; rw [State.port_updPort]; split <;> rfl
        · intro h
          refine ⟨?_, h.clients, h.hold, h.notices, h.command, h.tod⟩
          intro r
          rw [State.port_updPort]
          split
          · next e =>
            subst e
            refine ⟨(h.ports r).1, ?_⟩
            simp only [List.length_append, List.length_cons, List.length_nil]
            omega
          · exact h.ports r
      · exact quiet_countPort s p fun c => { c with bulkDiscards := bump c.bulkDiscards }

/-- An operation that goes on from an offer is quiet when both continuations are. -/
theorem quiet_offerThen {s t : State} (p : Port) (q : QueueClass) (f : QFrame) (yes no : State → State)
    (hs : Quiet s t) (hy : ∀ u, Quiet u (yes u)) (hn : ∀ u, Quiet u (no u)) :
    Quiet s (match t.offer p q f with
      | (u, true) => yes u
      | (u, false) => no u) := by
  have h := quiet_offer t p q f
  split
  · next u e => rw [e] at h; exact (hs.trans h).trans (hy u)
  · next u e => rw [e] at h; exact (hs.trans h).trans (hn u)

theorem quiet_withdraw (s : State) (k : Fin 6) : Quiet s (s.withdraw k) := by
  unfold State.withdraw
  exact (quiet_countSite _ k _).after (quiet_updPort s (sitePort k) _ (fun _ => rfl)
    (fun x h => ⟨Nat.le_trans (List.length_filter_le _ x.timingQ) h.1, h.2⟩))

theorem quiet_flush (s : State) (p : Port) : Quiet s (s.flush p) :=
  quiet_updPort s p _ (fun _ => rfl) (fun _ _ => ⟨Nat.zero_le _, Nat.zero_le _⟩)

theorem quiet_quietOver (s : State) (p : Port) : Quiet s (s.quietOver p) :=
  (quiet_report _ _ _).after (quiet_updPort s p _ (fun _ => rfl) (fun _ h => h))

/-! ## Delivery Unit (07) -/

theorem quiet_siteConditions (s : State) (k : Fin 6) : Quiet s (s.siteConditions k) :=
  (quiet_report s _ _).trans (quiet_report _ _ _)

theorem quiet_enterServing (s : State) (k : Fin 6) : Quiet s (s.enterServing k) :=
  ((quiet_serving _ true).after (quiet_updSite s k _ rfl)).trans (quiet_siteConditions _ k)

theorem quiet_serveCheck (s : State) (k : Fin 6) : Quiet s (s.serveCheck k) := by
  unfold State.serveCheck
  split
  · split
    · exact Quiet.refl s
    · split
      · exact quiet_enterServing s k
      · exact quiet_updSite s k _ rfl
  · exact quiet_updSite s k _ rfl

theorem quiet_gradeMute (s : State) (k : Fin 6) : Quiet s (s.gradeMute k) := by
  unfold State.gradeMute
  split
  · exact ((quiet_withdraw _ k).after (quiet_updSite s k _ rfl)).trans (quiet_siteConditions _ k)
  · exact Quiet.refl s

theorem quiet_siteGrade (s : State) (k : Fin 6) : Quiet s (s.siteGrade k) :=
  (quiet_gradeMute s k).trans (quiet_serveCheck _ k)

theorem quiet_deliverGrade (s : State) : Quiet s s.deliverGrade := Quiet.foldl _ quiet_siteGrade _ _

theorem quiet_siteEnable (s : State) (k : Fin 6) : Quiet s (s.siteEnable k) :=
  ((quiet_serveCheck _ k).after (quiet_updSite s k _ rfl)).trans (quiet_siteConditions _ k)

theorem quiet_siteDisable (s : State) (k : Fin 6) : Quiet s (s.siteDisable k) :=
  ((Quiet.ite (quiet_withdraw s k) (Quiet.refl s)).trans (quiet_updSite _ k _ rfl)).trans (quiet_siteConditions _ k)

theorem quiet_siteLinkDown (s : State) (k : Fin 6) : Quiet s (s.siteLinkDown k) := by
  unfold State.siteLinkDown
  split
  · exact Quiet.refl s
  · exact (quiet_siteConditions _ k).after (quiet_updSite s k _ rfl)
  · exact (quiet_siteConditions _ k).after (quiet_updSite s k _ rfl)

theorem quiet_siteLinkUp (s : State) (k : Fin 6) : Quiet s (s.siteLinkUp k) :=
  (quiet_serveCheck s k).trans (quiet_siteConditions _ k)

theorem quiet_offerMark (s : State) (k : Fin 6) : Quiet s (s.offerMark k) :=
  quiet_offerThen _ _ _ _ _ (quiet_updSite s k _ rfl) (fun u => quiet_countSite u k _) (fun u => quiet_countSite u k _)

theorem quiet_offerNotice (s : State) (k : Fin 6) : Quiet s (s.offerNotice k) := by
  unfold State.offerNotice
  split
  · exact Quiet.refl s
  · exact quiet_offerThen _ _ _ _ _ (quiet_updSite s k _ rfl) (fun u => quiet_updSite u k _ rfl)
      (fun u => quiet_countSite u k _)

theorem quiet_answerQuery (s : State) (k : Fin 6) (f : Frame) (stamps : Ingress) :
    Quiet s (s.answerQuery k f stamps) :=
  quiet_offerThen _ _ _ id _ (quiet_updSite s k _ rfl) (fun u => Quiet.refl u) (fun u => quiet_countSite u k _)

theorem quiet_markPresent (s : State) (k : Fin 6) : Quiet s (s.markPresent k) :=
  (quiet_siteConditions _ k).after (quiet_updSite s k _ rfl)

theorem quiet_siteSort (s : State) (k : Fin 6) (f : Frame) (stamps : Ingress) : Quiet s (s.siteSort k f stamps) := by
  unfold State.siteSort
  dsimp only
  refine Quiet.ite (quiet_countSite s k _) (Quiet.ite (quiet_countSite s k _) (Quiet.ite (quiet_countSite s k _) ?_))
  refine (quiet_markPresent s k).trans ?_
  exact Quiet.ite (quiet_countSite _ k _) (Quiet.ite (quiet_countSite _ k _) (Quiet.ite (quiet_countSite _ k _)
    (quiet_answerQuery _ k f stamps)))

theorem quiet_sitesEpoch (s : State) : Quiet s s.sitesEpoch :=
  Quiet.foldl _ (fun t k => quiet_updSite t k _ rfl) _ _

theorem quiet_siteAbsent (s : State) (k : Fin 6) : Quiet s (s.siteAbsent k) :=
  (quiet_siteConditions _ k).after (quiet_updSite s k _ rfl)

theorem quiet_markAt (s : State) (k : Fin 6) (due : Nat) : Quiet s (s.markAt k due) :=
  (quiet_offerMark _ k).after (quiet_updSite s k _ rfl)

/-! ## Pin Unit (08) -/

theorem Pin.squelchEval_cfg (grade : Nat) (c : Clock) (x : Pin) : (x.squelchEval grade c).cfg = x.cfg := by
  unfold Pin.squelchEval
  split
  · rfl
  · split
    · split <;> rfl
    · split <;> rfl

theorem Pin.fallbackEval_cfg (q : Bool) (c : Clock) (x : Pin) : (x.fallbackEval q c).cfg = x.cfg := by
  unfold Pin.fallbackEval
  dsimp only
  split
  · rfl
  · split <;> rfl

theorem quiet_deliverSquelch (s : State) : Quiet s s.deliverSquelch :=
  Quiet.foldl _ (fun t k => quiet_updPin t k _ (Pin.squelchEval_cfg _ _ _)) _ _

theorem quiet_pinsFallback (s : State) (r : Ref) : Quiet s (s.pinsFallback r) :=
  Quiet.foldl _ (fun t k => quiet_updPin t k _ (by
    split
    · exact Pin.fallbackEval_cfg _ _ _
    · rfl)) _ _

theorem quiet_pinsOffset (s : State) (r : Ref) (d : Int) : Quiet s (s.pinsOffset r d) :=
  Quiet.foldl _ (fun t k => quiet_updPin t k _ (by split <;> rfl)) _ _

theorem quiet_pinsDiscardOffset (s : State) (r : Ref) : Quiet s (s.pinsDiscardOffset r) :=
  Quiet.foldl _ (fun t k => quiet_updPin t k _ (by split <;> rfl)) _ _

theorem quiet_pinsEpoch (s : State) : Quiet s s.pinsEpoch :=
  Quiet.foldl _ (fun t k => quiet_updPin t k _ rfl) _ _

/-! ## Holdover Unit (06) -/

/-- In a holdover state with a Holdover record no grade computed exceeds the Entry Grade (R130). -/
theorem State.gradeNow_le_entry (s : State) (r : HoldoverRec)
    (hs : holdoverState s.servo.state s.servo.phaseValid = true) (hr : s.holdover.record = some r) :
    s.gradeNow ≤ r.entryGrade := by
  have hold (b : Bool) : s.holdover.holdGrade s.res b ≤ r.entryGrade := by
    unfold Holdover.holdGrade
    rw [hr]
    exact Nat.le_trans (Nat.min_le_left _ _) (Nat.min_le_right _ _)
  have base : s.baseGrade ≤ r.entryGrade := by
    unfold State.baseGrade
    unfold holdoverState at hs
    cases e : s.servo.state <;> simp [e] at hs
    · exact hold false
    · simp only [hs, if_true]
      exact hold true
  unfold State.gradeNow
  split
  · exact Nat.le_trans (Nat.min_le_left _ _) base
  · exact base

/-- The law of the Entry Grade with the Announced Grade left aside: in a holdover state there is a Holdover record. -/
def State.hasEntry (s : State) : Prop :=
  holdoverState s.servo.state s.servo.phaseValid = true → ∃ r, s.holdover.record = some r

theorem State.entryLaw.hasEntry {s : State} (h : s.entryLaw) : s.hasEntry := fun d =>
  let ⟨r, e, _⟩ := h d
  ⟨r, e⟩

/-- A recomputation of the grade brings the Announced Grade under the Entry Grade where there is one. -/
theorem State.regrade_entry (s : State) (h : s.hasEntry) : s.regrade.entryLaw := by
  have new (d : holdoverState s.servo.state s.servo.phaseValid = true) (x : Holdover) (hr : x.record = s.holdover.record)
      (ha : x.announced = s.gradeNow) : x.withinEntry := by
    obtain ⟨r, e⟩ := h d
    exact ⟨r, hr.trans e, by rw [ha]; exact s.gradeNow_le_entry r d e⟩
  unfold State.regrade
  dsimp only
  apply (quiet_report _ _ _).entry
  split
  · next e => exact fun d => new d s.holdover rfl e.symm
  · exact (quiet_deliverSquelch _).entry ((quiet_deliverGrade _).entry fun d => new d _ rfl rfl)

theorem quiet_regrade (s : State) : Quiet s s.regrade := by
  have put (f : Holdover → Holdover) (hf : f = fun x =>
      { x with announced := s.gradeNow, ctr := { x.ctr with gradeChanges := bump x.ctr.gradeChanges } }) :
      Quiet s (s.updHold f) := by
    subst hf
    exact quiet_updHold s _ rfl rfl rfl id fun h d =>
      let ⟨r, e⟩ := h.hasEntry d
      ⟨r, e, s.gradeNow_le_entry r d e⟩
  exact (quiet_report _ _ _).after (Quiet.ite (Quiet.refl s)
    ((quiet_deliverSquelch _).after ((quiet_deliverGrade _).after (put _ rfl))))

theorem natAbs_clampMag (limit : Nat) (x : Int) : (clampMag limit x).natAbs ≤ limit := by
  unfold clampMag clampInt
  omega

theorem quiet_giveHoldFreq (s : State) : Quiet s s.giveHoldFreq := by
  unfold State.giveHoldFreq
  split
  · exact Quiet.refl s
  · exact quiet_updServo s _ rfl (fun h => ⟨natAbs_clampMag _ _, natAbs_clampMag _ _, h.2.2⟩) rfl rfl

theorem quiet_enterHoldover (s : State) (g : Nat) : Quiet s (s.enterHoldover g) := by
  unfold State.enterHoldover
  split
  · next e =>
    have new (f : Holdover → Holdover) (hp : (f s.holdover).params = s.holdover.params)
        (hg : (f s.holdover).grades = s.holdover.grades) (hb : (f s.holdover).budget = s.holdover.budget)
        (hr : (f s.holdover).ring = s.holdover.ring) : Quiet s (s.updHold f) :=
      quiet_updHold s f hp hg hb (fun h => by rw [hr]; exact h) fun h d => by
        obtain ⟨r, x⟩ := h.hasEntry d
        rw [e] at x
        cases x
    exact Quiet.ite ((quiet_report _ _ _).after (new _ rfl rfl rfl rfl)) (new _ rfl rfl rfl rfl)
  · next r e =>
    refine quiet_updHold s _ rfl rfl rfl id fun h d => ?_
    obtain ⟨x, hx, l⟩ := h d
    rw [e] at hx
    cases hx
    exact ⟨_, rfl, l⟩

/-- Entering or resuming a holdover leaves a Holdover record (R123). -/
theorem State.enterHoldover_record (s : State) (g : Nat) : ∃ r, (s.enterHoldover g).holdover.record = some r := by
  unfold State.enterHoldover
  split
  · dsimp only
    split <;> exact ⟨_, rfl⟩
  · exact ⟨_, rfl⟩

theorem quiet_pauseHoldover (s : State) : Quiet s s.pauseHoldover :=
  quiet_updHold s _ rfl rfl rfl id fun h d => by
    obtain ⟨r, e, l⟩ := h d
    refine ⟨{ r with elapsed := timerStop r.elapsed s.res }, ?_, l⟩
    show s.holdover.record.map _ = _
    rw [e]
    rfl

/-- Outside a holdover state the record can go. -/
theorem quiet_endHoldover (s : State) (h : holdoverState s.servo.state s.servo.phaseValid = false) :
    Quiet s s.endHoldover := by
  have gone : Quiet s (s.updHold fun x => { x with record := none }) :=
    quiet_updHold s _ rfl rfl rfl id fun _ d => absurd (h.symm.trans d) (by decide)
  unfold State.endHoldover
  split
  · exact Quiet.refl s
  · exact Quiet.ite ((quiet_report _ _ _).after gone) gone

/-- The Holdover Unit's part of a change of servo state, once the servo is in the new state. -/
theorem quiet_holdoverChange (s : State) (prev new : ServoState) (g : Nat) (hs : s.servo.state = new) :
    Quiet s (s.holdoverChange prev new g) := by
  have h (z : Option Nat) : Quiet s (s.updHold fun x => { x with settle := none, frozen := z }) :=
    quiet_updHold s _ rfl rfl rfl id id
  cases new
  · exact h _
  · exact Quiet.after (Quiet.ite (quiet_pauseHoldover _) (Quiet.refl _)) (h _)
  · refine (quiet_endHoldover _ ?_).after (h _)
    show holdoverState s.servo.state s.servo.phaseValid = false
    rw [hs]
    rfl
  · exact Quiet.after (Quiet.ite ((quiet_giveHoldFreq _).after (quiet_enterHoldover _ g))
      (Quiet.ite (quiet_giveHoldFreq _) (Quiet.refl _))) (h _)
  · exact Quiet.after (Quiet.ite (quiet_enterHoldover _ g) (Quiet.refl _)) (h _)

/-- In a holdover state that is entered from ACQUIRING or LOCKED, or with a record already there, there is a Holdover record
afterwards (R123). -/
theorem State.holdoverChange_record (s : State) (prev new : ServoState) (g : Nat)
    (d : holdoverState new s.servo.phaseValid = true)
    (h : prev = .acquiring ∨ prev = .locked ∨ ∃ r, s.holdover.record = some r) :
    ∃ r, (s.holdoverChange prev new g).holdover.record = some r := by
  have give (t : State) (ht : ∃ r, t.holdover.record = some r) : ∃ r, t.giveHoldFreq.holdover.record = some r := by
    unfold State.giveHoldFreq
    split <;> exact ht
  have old (hp : ¬ (prev = .acquiring ∨ prev = .locked)) : ∃ r, s.holdover.record = some r :=
    h.elim (fun e => absurd (Or.inl e) hp) fun h => h.elim (fun e => absurd (Or.inr e) hp) id
  unfold State.holdoverChange
  cases new
  · cases hv : s.servo.phaseValid <;> rw [hv] at d <;> cases d
  · cases hv : s.servo.phaseValid <;> rw [hv] at d <;> cases d
  · cases hv : s.servo.phaseValid <;> rw [hv] at d <;> cases d
  · dsimp only
    split
    · exact give _ (State.enterHoldover_record _ g)
    · next hp => split
                 · exact give _ (old hp)
                 · exact old hp
  · dsimp only
    split
    · exact State.enterHoldover_record _ g
    · next hp =>
      refine old fun x => hp ⟨x, ?_⟩
      cases hv : s.servo.phaseValid
      · rw [hv] at d
        cases d
      · rfl

theorem quiet_takeSecond (s : State) : Quiet s s.takeSecond := by
  unfold State.takeSecond
  exact quiet_updHold s _ rfl rfl rfl id id

/-- Taking the second and closing the minute move the ring, the accumulator and their counters alone (R117, R119). -/
theorem State.secondClosed_frame (s : State) (second : Nat) : s.secondClosed second = { s.holdover with
    ring := (s.secondClosed second).ring, acc := (s.secondClosed second).acc, ctr := (s.secondClosed second).ctr } := by
  unfold State.secondClosed
  dsimp only
  split <;> rfl

/-- Arriving at an instant moves the clocks, and at a second boundary the ring, the accumulator and their counters. -/
theorem State.arrive_frame (s : State) (c : Clock) : s.arrive c = { s with
    clock := c
    holdover := { s.holdover with
      ring := (s.arrive c).holdover.ring, acc := (s.arrive c).holdover.acc, ctr := (s.arrive c).holdover.ctr } } := by
  unfold State.arrive
  dsimp only
  split
  · rw [← s.secondClosed_frame]
  · rfl

/-- Where no second boundary is arrived at, arriving moves the clocks alone. -/
theorem State.arrive_of_not_due (s : State) (c : Clock) (h : c.boundaryDue = false ∨ s.clock.boundaryDue = true) :
    s.arrive c = { s with clock := c } := by
  unfold State.arrive
  rcases h with h | h <;> simp [h]

theorem Holdover.append_withinRoom (x : Holdover) (stamp : Nat) (source : Option Ref) (state : ServoState)
    (h : x.withinRoom) : (x.append stamp source state).withinRoom := by
  refine ⟨?_, h.2⟩
  have h1 := h.1
  unfold Holdover.append
  simp only [List.length_append, List.length_cons, List.length_nil, decide_eq_true_eq]
  split
  · simp only [List.length_drop]; unfold ringCapacity at *; omega
  · omega

theorem quiet_appendMinute (s : State) (stamp : Nat) : Quiet s (s.appendMinute stamp) :=
  quiet_updHold s _ rfl rfl rfl (fun h => by
    have hx := Holdover.append_withinRoom { s.holdover with budget := [] } stamp s.ringSource s.servo.state
      ⟨h, Nat.zero_le _, List.Pairwise.nil, fun _ e => by cases e⟩
    exact hx.1) id

theorem State.secondClosed_withinRoom (s : State) (second : Nat) (h : s.holdover.withinRoom) :
    (s.secondClosed second).withinRoom := by
  unfold State.secondClosed
  dsimp only
  split
  · exact Holdover.append_withinRoom _ _ _ _ h
  · exact h

theorem State.arrive_withinRoom (s : State) (c : Clock) (h : s.holdover.withinRoom) :
    (s.arrive c).holdover.withinRoom := by
  unfold State.arrive
  dsimp only
  split
  · exact s.secondClosed_withinRoom _ h
  · exact h

theorem quiet_ringEpoch (s : State) (before : Nat) : Quiet s (s.ringEpoch before) :=
by
  unfold State.ringEpoch
  dsimp only
  refine (quiet_updHold _ _ rfl rfl rfl id id).after ?_
  split
  · exact quiet_appendMinute s _
  · split
    · exact quiet_updHold s _ rfl rfl rfl (fun _ => Nat.zero_le _) id
    · exact Quiet.refl s

theorem quiet_minutePassed (s : State) : Quiet s s.minutePassed := by
  have mark (f : Holdover → Holdover) (hf : f = fun x =>
      { x with record := x.record.map fun r => { r with minuteMark := r.minuteMark + 1 } }) : Quiet s (s.updHold f) := by
    subst hf
    refine quiet_updHold s _ rfl rfl rfl id fun h d => ?_
    obtain ⟨r, e, l⟩ := h d
    refine ⟨{ r with minuteMark := r.minuteMark + 1 }, ?_, l⟩
    show s.holdover.record.map _ = _
    rw [e]
    rfl
  unfold State.minutePassed
  dsimp only
  split
  · exact (quiet_giveHoldFreq _).after (mark _ rfl)
  · exact mark _ rfl

/-! ## Time Engine, the quiet part (05) -/

theorem quiet_clearTransient (s : State) : Quiet s s.clearTransient :=
  (quiet_report _ _ _).after (quiet_updServo s _ rfl id rfl rfl)

theorem quiet_raiseTransient (s : State) : Quiet s s.raiseTransient :=
  (quiet_report _ _ _).after (quiet_updServo s _ rfl id rfl rfl)

theorem quiet_dropMismatch (s : State) : Quiet s s.dropMismatch := quiet_updRef s .gnss _ rfl rfl

theorem quiet_servoConditions (s : State) : Quiet s s.servoConditions :=
  (quiet_report s _ _).trans (quiet_report _ _ _)

theorem quiet_servoPhaseSwitched (s : State) : Quiet s s.servoPhaseSwitched :=
  quiet_updServo s _ rfl (fun h => ⟨h.1, h.2.1, Nat.zero_le _, Nat.zero_le _, h.2.2.2.2⟩) rfl rfl

theorem quiet_servoFreqSwitched (s : State) : Quiet s s.servoFreqSwitched := quiet_updHold s _ rfl rfl rfl id id

theorem Servo.loop_range (e : Int) (x : Servo) (h : x.inRange) : (x.loop e).inRange := by
  refine ⟨natAbs_clampMag _ _, ?_, h.2.2⟩
  show (if _ then x.i else clampMag _ _).natAbs ≤ _
  split
  · exact h.2.1
  · exact natAbs_clampMag _ _

theorem quiet_loop (s : State) (e : Int) : Quiet s (s.updServo (Servo.loop e)) :=
  quiet_updServo s _ rfl (Servo.loop_range e s.servo) rfl rfl

theorem quiet_countRuns (s : State) (e : Int) : Quiet s (s.updServo (Servo.countRuns e)) := by
  refine quiet_updServo s _ ?_ (fun h => ?_) ?_ ?_
  · unfold Servo.countRuns; split <;> rfl
  · unfold Servo.countRuns
    split
    · refine ⟨h.1, h.2.1, ?_, h.2.2.2⟩
      dsimp only; split <;> omega
    · refine ⟨h.1, h.2.1, h.2.2.1, ?_, h.2.2.2.2⟩
      dsimp only; split <;> omega
  · unfold Servo.countRuns; split <;> rfl
  · unfold Servo.countRuns; split <;> rfl

theorem quiet_missingSample (s : State) : Quiet s s.missingSample :=
  (quiet_countServo s _).trans (quiet_clearTransient _)

theorem quiet_freqUpdate (s : State) (d : Int) : Quiet s (s.updServo (Servo.freqUpdate d)) :=
  quiet_updServo s _ rfl (fun h => ⟨natAbs_clampMag _ _, natAbs_clampMag _ _, h.2.2⟩) rfl rfl

theorem quiet_freqResult (s : State) (d : Option Int) : Quiet s (s.freqResult d) := by
  unfold State.freqResult
  split
  · dsimp only
    split
    · exact (quiet_freqUpdate _ _).after (quiet_updHold s _ rfl rfl rfl id id)
    · exact quiet_updHold s _ rfl rfl rfl id id
  · exact Quiet.refl s

/-! ## Realignment Unit (04): what each operation does to its record -/

theorem slewed_putSlew (s : State) (slew : Option Bool) : Slewed s (s.putSlew slew) :=
  (quiet_regrade _).slewed.after (slewed_updReal s _ rfl)

theorem State.putSlew_realign (s : State) (slew : Option Bool) :
    (s.putSlew slew).realign = { s.realign with slew := slew } := (quiet_regrade _).real

theorem slewed_realGained (s : State) (r : Ref) : Slewed s (s.realGained r) := slewed_updReal s _ rfl

theorem slewed_realSwitched (s : State) (r : Ref) : Slewed s (s.realSwitched r) := by
  unfold State.realSwitched
  split
  · exact slewed_updReal s _ rfl
  · exact (slewed_putSlew _ _).after (slewed_updReal s _ rfl)

/-- A switch leaves a decision that starts and no slew (R81, R86). -/
theorem State.realSwitched_realign (s : State) (r : Ref) : ∃ c, (s.realSwitched r).realign = { s.realign with
    decision := .pending, decisionRef := some r, b := 0, buildOut := false, slew := none, ctr := c } := by
  unfold State.realSwitched
  split
  · next e =>
    refine ⟨s.realign.ctr, ?_⟩
    show startDecision r s.realign = _
    unfold startDecision
    rw [e]
  · exact ⟨_, State.putSlew_realign _ _⟩

theorem slewed_realLost (s : State) (r : Ref) : Slewed s (s.realLost r) := by
  unfold State.realLost
  split
  · exact slewed_updReal s _ rfl
  · exact (slewed_putSlew _ _).after (slewed_updReal s _ rfl)

/-- A loss leaves no decision and no slew; one that was running is suspended with the B it had (R86). -/
theorem State.realLost_realign (s : State) (r : Ref) : ∃ c u, (s.realLost r).realign = { s.realign with
    decision := .none, decisionRef := none, b := 0, buildOut := false, slew := none, suspended := u, ctr := c } ∧
    (u = s.realign.suspended ∨ ∃ at' held, u = some ⟨r, s.realign.b, at', held⟩) := by
  unfold State.realLost
  split
  · next e =>
    refine ⟨s.realign.ctr, s.realign.suspended, ?_, Or.inl rfl⟩
    show endDecision s.realign = _
    unfold endDecision
    rw [e]
  · next held e => exact ⟨_, _, State.putSlew_realign _ _, Or.inr ⟨_, _, rfl⟩⟩

theorem slewed_slewProgress (s : State) : Slewed s s.slewProgress := by
  unfold State.slewProgress
  split
  · dsimp only
    split
    · exact ((slewed_putSlew _ _).after (slewed_updReal _ _ rfl)).after (slewed_updReal s _ rfl)
    · exact slewed_updReal s _ rfl
  · exact (Quiet.refl s).slewed

theorem slewed_discardSuspended (s : State) : Slewed s s.discardSuspended := by
  unfold State.discardSuspended
  split
  · exact (Quiet.refl s).slewed
  · exact slewed_updReal s _ rfl

theorem slewed_expireSuspended (s : State) : Slewed s s.expireSuspended := by
  unfold State.expireSuspended
  split
  · exact (Quiet.refl s).slewed
  · exact slewed_updReal s _ rfl

theorem slewed_resume (s : State) (u : Suspended) : Slewed s (s.resume u) :=
  (slewed_putSlew _ _).after (slewed_updReal s _ rfl)

theorem slewed_absorb (s : State) (e : Int) : Slewed s (s.absorb e) := by
  unfold State.absorb
  dsimp only
  split
  · exact (slewed_updReal _ _ rfl).after (slewed_updReal s _ rfl)
  · split
    · exact slewed_updReal s _ rfl
    · exact ((slewed_putSlew _ _).after (slewed_updReal _ _ rfl)).after (slewed_updReal s _ rfl)

/-! ## Client Sessions and the Reference Monitor, the quiet part (02, 03) -/

theorem quiet_refReport (s : State) (r : Ref) : Quiet s (s.refReport r) := quiet_reportRef s r _ _

theorem quiet_blankGnss (s : State) (r : Ref) : Quiet s (s.blankGnss r) :=
  Quiet.ite (quiet_updGnss s _ (fun _ => Nat.zero_le _)) (Quiet.refl s)

theorem Gnss.dropPartial_room (g : Gnss) (h : g.partialRecord.length ≤ 11) : g.dropPartial.partialRecord.length ≤ 11 := by
  unfold Gnss.dropPartial
  split
  · exact h
  · exact Nat.zero_le _

theorem quiet_dropPartial (s : State) : Quiet s (s.updGnss Gnss.dropPartial) :=
  quiet_updGnss s _ (Gnss.dropPartial_room s.gnss)

theorem quiet_todGapCheck (s : State) : Quiet s s.todGapCheck := Quiet.ite (quiet_dropPartial s) (Quiet.refl s)

theorem quiet_todFraming (s : State) : Quiet s s.todFraming := Quiet.ite (Quiet.refl s) (quiet_dropPartial s)

theorem quiet_monitorEpoch (s : State) : Quiet s s.monitorEpoch :=
  (Quiet.foldl (fun (t : State) r => t.updRef r Reference.epoch) (fun t r => quiet_updRef t r _ rfl rfl) allRefs s).trans
    (quiet_updGnss _ _ id)

theorem quiet_takeMark (s : State) (c : Client) (h : Header) (stamps : Ingress) : Quiet s (s.takeMark c h stamps) :=
  Quiet.ite (quiet_countClient s c _) (quiet_updClient s c _ rfl id)

theorem ClientSession.dropQuery_room (e seq : Nat) (x : ClientSession) (h : x.withinRoom e) :
    (x.dropQuery seq).withinRoom e :=
  ⟨Nat.le_trans (List.length_filter_le _ _) h.1, fun q m => h.2 q (List.mem_of_mem_filter m)⟩

theorem ClientSession.compete_same (e : Exchange) (x : ClientSession) :
    (x.compete e).cfg = x.cfg ∧ (x.compete e).outstanding = x.outstanding := by
  unfold ClientSession.compete
  split
  · exact ⟨rfl, rfl⟩
  · split
    · exact ⟨rfl, rfl⟩
    · split <;> exact ⟨rfl, rfl⟩

theorem ClientSession.reply_same (e : Nat) (h : Header) (x : ClientSession) :
    (x.reply h).cfg = x.cfg ∧ (x.withinRoom e → (x.reply h).withinRoom e) := by
  unfold ClientSession.reply
  split
  · exact ⟨rfl, id⟩
  · dsimp only
    split
    · exact ⟨rfl, ClientSession.dropQuery_room e h.seq x⟩
    · have c := ClientSession.compete_same
      refine ⟨(c _ _).1, fun w => ?_⟩
      unfold ClientSession.withinRoom
      rw [(c _ _).2]
      exact ClientSession.dropQuery_room e h.seq x w

theorem quiet_clientExchange (s : State) (c : Client) (m : Master) (f : Frame) (h : Header) (stamps : Ingress) :
    Quiet s (s.clientExchange c m f h stamps) :=
  Quiet.ite (quiet_countClient s c _) (Quiet.ite (quiet_countClient s c _) (Quiet.ite (quiet_takeMark s c h stamps)
    (quiet_updClient s c _ (ClientSession.reply_same 0 h _).1 (ClientSession.reply_same _ h _).2)))

theorem quiet_sendQuery (s : State) (c : Client) (m : Master) : Quiet s (s.sendQuery c m) := by
  unfold State.sendQuery
  dsimp only
  split
  · exact quiet_countClient s c _
  · next h =>
    refine quiet_offerThen _ _ _ id _ (quiet_updClient s c _ rfl fun w => ⟨?_, fun q m => ?_⟩) (fun u => Quiet.refl u)
      (fun u => quiet_updClient u c _ rfl (ClientSession.dropQuery_room _ _ _))
    · simp only [List.length_append, List.length_cons, List.length_nil]
      omega
    · rcases List.mem_append.mp m with m1 | m1
      · exact w.2 q m1
      · rw [List.mem_singleton.mp m1]

theorem quiet_queryAt (s : State) (c : Client) (m : Master) (due : Nat) : Quiet s (s.queryAt c m due) :=
  (quiet_updClient s c _ rfl id).trans (quiet_sendQuery _ c m)

theorem quiet_loseOldest (s : State) (c : Client) : Quiet s (s.updClient c ClientSession.loseOldest) :=
  quiet_updClient s c _ rfl fun h => ⟨by
    have := h.1
    show (List.drop 1 _).length ≤ _
    rw [List.length_drop]
    omega, fun q m => h.2 q (List.mem_of_mem_drop m)⟩

theorem quiet_captureT3 (s : State) (c : Client) (seq counter : Nat) :
    Quiet s (s.updClient c (ClientSession.captureT3 seq counter)) :=
  quiet_updClient s c _ rfl fun h => ⟨by
    show (List.map _ _).length ≤ _
    rw [List.length_map]
    exact h.1, fun q m => by
      obtain ⟨x, hx, e⟩ := List.mem_map.mp m
      have := h.2 x hx
      rw [← e]
      split <;> exact this⟩

theorem quiet_sessionsEpoch (s : State) : Quiet s s.sessionsEpoch :=
  Quiet.foldl _ (fun t c => quiet_updClient t c _ rfl fun _ => ⟨Nat.zero_le _, fun _ m => by cases m⟩) _ _

theorem quiet_dropSamples (s : State) (b : Nat) : Quiet s (s.dropSamples b) := quiet_updGnss s _ id

theorem quiet_turnSecond (s : State) : Quiet s s.turnSecond :=
  (Quiet.foldl (fun (t : State) c => t.updClient c (ClientSession.boundary t.clock.counter))
    (fun t c => quiet_updClient t c _ rfl id) allClients s).trans
    (Quiet.foldl (fun (t : State) k => t.updSite k Site.boundary) (fun t k => quiet_updSite t k _ rfl) allSites _)

theorem quiet_addMeanF (s : State) (b : Nat) : Quiet s (s.addMeanF b) := quiet_window s _

theorem quiet_notices (s : State) : Quiet s (allSites.foldl State.offerNotice s) := Quiet.foldl _ quiet_offerNotice _ _

end Sys2Proof.Machine
end

