-- ==== Sys2Proof/Laws/Roles.lean ====
section
/-! SUPPORT. The operations that move the servo state and the roles: what each of them leaves, and that a re-evaluation
leaves the roles matched with the servo state (R99) and every selected reference a candidate (R72, R73). `Fair` is
`Calm` with those two laws, the law of the Realignment Unit (R80) and that of the Entry Grade (R130) kept. -/
namespace Sys2Proof.Machine
open Sys2Proof

/-! ## Fair operations -/

/-- Calm, and the laws of the roles, of the Realignment Unit and of the Entry Grade are kept. -/
structure Fair (s t : State) : Prop where
  calm   : Calm s t
  roles  : s.rolesMatch → t.rolesMatch
  chosen : s.selectedAreCandidates → t.selectedAreCandidates
  slews  : s.realignLaw → t.realignLaw
  entry  : s.rolesMatch → s.entryLaw → t.entryLaw

theorem Fair.refl (s : State) : Fair s s := ⟨Calm.refl s, id, id, id, fun _ => id⟩

theorem Fair.trans {s t u : State} (a : Fair s t) (b : Fair t u) : Fair s u :=
  ⟨a.calm.trans b.calm, fun h => b.roles (a.roles h), fun h => b.chosen (a.chosen h), fun h => b.slews (a.slews h),
    fun m h => b.entry (a.roles m) (a.entry m h)⟩

theorem Fair.after {s t u : State} (b : Fair t u) (a : Fair s t) : Fair s u := a.trans b

theorem Fair.ite {s t u : State} {c : Prop} [Decidable c] (a : Fair s t) (b : Fair s u) :
    Fair s (if c then t else u) := by split <;> assumption

theorem Fair.foldl {α : Type} (f : State → α → State) (h : ∀ t a, Fair t (f t a)) :
    ∀ (l : List α) (s : State), Fair s (l.foldl f s)
  | [], s => Fair.refl s
  | a :: l, s => (h s a).trans (Fair.foldl f h l (f s a))

theorem isCandidate_congr {s t : State} (h : ∀ r, (t.ref r).state = (s.ref r).state) (l : List Ref) (r : Ref) :
    t.isCandidate l r = s.isCandidate l r := by
  unfold State.isCandidate
  rw [h r]

theorem realignLaw_congr {s t : State} (hr : t.realign = s.realign) (hp : t.selector.phase = s.selector.phase)
    (h : s.realignLaw) : t.realignLaw := by
  refine ⟨?_, ?_, ?_, ?_, ?_, ?_⟩ <;> rw [hr]
  · rw [hp]; exact h.subject
  · rw [hp]; exact h.idle
  · exact h.undecided
  · exact h.single
  · exact h.bound
  · exact h.suspended

theorem Quiet.fair {s t : State} (q : Quiet s t) : Fair s t := by
  refine ⟨q.calm, fun h => ?_, fun h => ⟨fun r e => ?_, fun r e => ?_⟩, realignLaw_congr q.real q.phase,
    fun _ => q.entry⟩
  · unfold State.rolesMatch at *
    rw [q.servo, q.phase, q.freq, q.valid]
    exact h
  · rw [isCandidate_congr q.states, q.calm.settings.select]
    exact h.1 r (q.phase ▸ e)
  · rw [isCandidate_congr q.states, q.calm.settings.select]
    exact h.2 r (q.freq ▸ e)

/-! ## A change of servo state -/

/-- The servo state has become `new`; the roles, Phase Valid and the reference states stay. -/
structure Moved (s t : State) (new : ServoState) : Prop where
  calm   : Calm s t
  servo  : t.servo.state = new
  valid  : t.servo.phaseValid = s.servo.phaseValid
  phase  : t.selector.phase = s.selector.phase
  freq   : t.selector.freq = s.selector.freq
  states : ∀ r, (t.ref r).state = (s.ref r).state

theorem Moved.quiet {s t u : State} {new : ServoState} (m : Moved s t new) (q : Quiet t u) : Moved s u new :=
  ⟨m.calm.trans q.calm, q.servo.trans m.servo, q.valid.trans m.valid, q.phase.trans m.phase, q.freq.trans m.freq,
    fun r => (q.states r).trans (m.states r)⟩

theorem Moved.slewed {s t u : State} {new : ServoState} (m : Moved s t new) (q : Slewed t u) : Moved s u new :=
  ⟨m.calm.trans q.calm, q.servo.trans m.servo, q.valid.trans m.valid, q.phase.trans m.phase, q.freq.trans m.freq,
    fun r => (q.states r).trans (m.states r)⟩

theorem Moved.of_quiet {s t u : State} {new : ServoState} (q : Quiet s t) (m : Moved t u new) : Moved s u new :=
  ⟨q.calm.trans m.calm, m.servo, m.valid.trans q.valid, m.phase.trans q.phase, m.freq.trans q.freq,
    fun r => (m.states r).trans (q.states r)⟩

/-- An update of the Servo that changes the state alone among what the roles see. -/
theorem moved_updServo (s : State) (f : Servo → Servo) (new : ServoState) (hp : (f s.servo).params = s.servo.params)
    (hr : s.servo.inRange → (f s.servo).inRange) (hs : (f s.servo).state = new)
    (hv : (f s.servo).phaseValid = s.servo.phaseValid) : Moved s (s.updServo f) new :=
  ⟨calm_updServo s f hp hr, hs, hv, rfl, rfl, fun _ => rfl⟩

theorem setServo_moved (s : State) (new : ServoState) (g : Nat) : Moved s (s.setServo new g) new := by
  unfold State.setServo
  dsimp only
  split
  · next e => exact ⟨Calm.refl s, e.symm, rfl, rfl, rfl, fun _ => rfl⟩
  · refine Moved.quiet ?_ (quiet_servoConditions _)
    refine Moved.quiet ?_ (quiet_regrade _)
    have h1 : Moved s (s.updServo fun x =>
        { x with state := new, ctr := { x.ctr with stateChanges := bump x.ctr.stateChanges } }) new :=
      moved_updServo s _ new rfl id rfl rfl
    generalize (s.updServo fun x =>
      { x with state := new, ctr := { x.ctr with stateChanges := bump x.ctr.stateChanges } }) = s1 at h1 ⊢
    have h2 : Moved s (if new.tracking then s1 else s1.clearTransient) new := by
      split
      · exact h1
      · exact h1.quiet (quiet_clearTransient s1)
    generalize (if new.tracking then s1 else s1.clearTransient) = s2 at h2 ⊢
    have h3 := h2.quiet (quiet_holdoverChange s2 s.servo.state new g h2.servo)
    generalize s2.holdoverChange s.servo.state new g = s3 at h3 ⊢
    have h4 : Moved s (if new = .freqTrack then s3.updServo (fun x => { x with i := x.f }) else s3) new := by
      split
      · exact h3.quiet (quiet_updServo s3 _ rfl (fun h => ⟨h.1, h.1, h.2.2⟩) rfl rfl)
      · exact h3
    generalize (if new = .freqTrack then s3.updServo (fun x => { x with i := x.f }) else s3) = s4 at h4 ⊢
    split
    · exact h4.quiet (quiet_dropMismatch s4)
    · exact h4

/-- A change of servo state leaves the Realignment Unit alone. -/
theorem setServo_real (s : State) (new : ServoState) (g : Nat) : (s.setServo new g).realign = s.realign := by
  unfold State.setServo
  dsimp only
  split
  · rfl
  · rw [(quiet_servoConditions _).real, (quiet_regrade _).real]
    have h2 (t : State) : (if new.tracking then t else t.clearTransient).realign = t.realign := by split <;> rfl
    have h4 (t : State) : (if new = .freqTrack then t.updServo (fun x => { x with i := x.f }) else t).realign =
        t.realign := by split <;> rfl
    have h5 (t : State) : (if new = .freerun then t.dropMismatch else t).realign = t.realign := by split <;> rfl
    have hs (t : State) (ht : t.servo.state = new) :
        (if new.tracking then t else t.clearTransient).servo.state = new := by split <;> exact ht
    rw [h5, h4, (quiet_holdoverChange _ _ _ _ (hs _ rfl)).real, h2]
    rfl

/-- After a change of servo state the law of the Entry Grade holds, if a holdover state is entered only from ACQUIRING or
LOCKED or from another holdover state (R99, R123, R130). -/
theorem setServo_entry (s : State) (new : ServoState) (g : Nat) (h : s.entryLaw)
    (from' : holdoverState new s.servo.phaseValid = true →
      s.servo.state = .acquiring ∨ s.servo.state = .locked ∨ holdoverState s.servo.state s.servo.phaseValid = true) :
    (s.setServo new g).entryLaw := by
  have m := setServo_moved s new g
  unfold State.setServo at *
  dsimp only at *
  split
  · exact h
  · next hn =>
    rw [if_neg hn] at m
    apply (quiet_servoConditions _).entry
    apply State.regrade_entry
    intro d
    have d' : holdoverState new s.servo.phaseValid = true := by
      have e1 := (quiet_servoConditions _).servo.symm.trans m.servo
      have e2 := (quiet_servoConditions _).valid.symm.trans m.valid
      rw [(quiet_regrade _).servo] at e1
      rw [(quiet_regrade _).valid] at e2
      rw [← e1, ← e2]
      exact d
    have old : s.servo.state = .acquiring ∨ s.servo.state = .locked ∨ ∃ r, s.holdover.record = some r :=
      (from' d').imp id (Or.imp id fun x => h.hasEntry x)
    have h2 (t : State) : (if new.tracking then t else t.clearTransient).holdover = t.holdover := by split <;> rfl
    have v2 (t : State) : (if new.tracking then t else t.clearTransient).servo.phaseValid = t.servo.phaseValid := by
      split <;> rfl
    have h4 (t : State) : (if new = .freqTrack then t.updServo (fun x => { x with i := x.f }) else t).holdover =
        t.holdover := by split <;> rfl
    have h5 (t : State) : (if new = .freerun then t.dropMismatch else t).holdover = t.holdover := by split <;> rfl
    rw [h5, h4]
    apply State.holdoverChange_record
    · rw [v2]; exact d'
    · rw [h2]; exact old

theorem enterLocked_moved (s : State) (g : Nat) :
    Calm s (s.enterLocked g) ∧ (s.enterLocked g).servo.state = .locked ∧ (s.enterLocked g).servo.phaseValid = true ∧
      (s.enterLocked g).selector.phase = s.selector.phase ∧ (s.enterLocked g).selector.freq = s.selector.freq ∧
      ∀ r, ((s.enterLocked g).ref r).state = (s.ref r).state := by
  unfold State.enterLocked
  have m := setServo_moved (s.updServo fun x =>
    { x with
      phaseValid := true, lockRun := 0, unlockRun := 0, acqFromHold := none
      ctr := { x.ctr with locks := bump x.ctr.locks } }) .locked g
  exact ⟨(calm_updServo s _ rfl (fun h => ⟨h.1, h.2.1, Nat.zero_le _, Nat.zero_le _, h.2.2.2.2⟩)).trans m.calm, m.servo, m.valid,
    m.phase, m.freq, m.states⟩

theorem leaveLocked_moved (s : State) (g : Nat) : Moved s (s.leaveLocked g) .acquiring :=
  Moved.of_quiet (quiet_updServo s _ rfl (fun h => ⟨h.1, h.2.1, Nat.zero_le _, Nat.zero_le _, h.2.2.2.2⟩) rfl rfl)
    (setServo_moved _ .acquiring g)

/-- Out of HOLDOVER and FREQ_TRACK the law of the Entry Grade says nothing. -/
theorem not_holdover {t : State} {new : ServoState} (h : t.servo.state = new) (h1 : new ≠ .holdover)
    (h2 : new ≠ .freqTrack) : t.entryLaw := by
  intro d
  unfold holdoverState at d
  rw [h] at d
  simp [h1, h2] at d

theorem fair_takeLock (s : State) : Fair s s.takeLock := by
  unfold State.takeLock
  split
  · next c =>
    obtain ⟨hc, hs, hv, hp, hf, hr⟩ := enterLocked_moved s s.holdover.announced
    refine ⟨hc, fun h => ?_, fun h => ⟨fun r e => ?_, fun r e => ?_⟩, realignLaw_congr (setServo_real _ _ _) hp,
      fun _ _ => not_holdover hs (fun e => by cases e) (fun e => by cases e)⟩
    · unfold State.rolesMatch at *
      rw [c.1] at h
      rw [hs, hp, hv]
      exact ⟨h, rfl⟩
    · rw [isCandidate_congr hr, hc.settings.select]; exact h.1 r (hp ▸ e)
    · rw [isCandidate_congr hr, hc.settings.select]; exact h.2 r (hf ▸ e)
  · exact Fair.refl s

theorem fair_takeUnlock (s : State) : Fair s s.takeUnlock := by
  unfold State.takeUnlock
  split
  · next c =>
    have m := leaveLocked_moved s s.holdover.announced
    refine ⟨m.calm, fun h => ?_, fun h => ⟨fun r e => ?_, fun r e => ?_⟩, realignLaw_congr (setServo_real _ _ _) m.phase,
      fun _ _ => not_holdover m.servo (fun e => by cases e) (fun e => by cases e)⟩
    · unfold State.rolesMatch at *
      rw [c.1] at h
      rw [m.servo, m.phase]
      exact h.1
    · rw [isCandidate_congr m.states, m.calm.settings.select]; exact h.1 r (m.phase ▸ e)
    · rw [isCandidate_congr m.states, m.calm.settings.select]; exact h.2 r (m.freq ▸ e)
  · exact Fair.refl s

theorem fair_loopInput (s : State) (e : Int) : Fair s (s.loopInput e) := by
  unfold State.loopInput
  dsimp only
  have h2 : Quiet s (if s.servo.clamps e then (s.updServo (Servo.loop e)).raiseTransient
      else (s.updServo (Servo.loop e)).clearTransient) :=
    Quiet.ite ((quiet_raiseTransient _).after (quiet_loop s e)) ((quiet_clearTransient _).after (quiet_loop s e))
  generalize (if s.servo.clamps e then (s.updServo (Servo.loop e)).raiseTransient
      else (s.updServo (Servo.loop e)).clearTransient) = s2 at h2 ⊢
  have h3 := h2.trans (quiet_countRuns s2 e)
  generalize s2.updServo (Servo.countRuns e) = s3 at h3 ⊢
  split
  · exact h3.fair
  · split
    · exact h3.fair.trans (fair_takeLock s3)
    · exact h3.fair.trans (fair_takeUnlock s3)

/-! ## A change of role -/

/-- What a change of role leaves: calm, the reference states, and the role that was not changed. -/
structure RoleMoved (s t : State) : Prop where
  calm   : Calm s t
  states : ∀ r, (t.ref r).state = (s.ref r).state

theorem calm_phase (s : State) (new : Option Ref) : Calm s (s.updSel fun x =>
    { x with phase := new, ctr := { x.ctr with phaseChanges := bump x.ctr.phaseChanges } }) := calm_updSel s _ rfl

theorem calm_freq (s : State) (new : Option Ref) : Calm s (s.updSel fun x =>
    { x with freq := new, ctr := { x.ctr with frequencyChanges := bump x.ctr.frequencyChanges } }) := calm_updSel s _ rfl

theorem restState_holdover {x : Servo} (h : x.restState = .holdover) : x.phaseValid = true := by
  unfold Servo.restState at h
  split at h
  · assumption
  · cases h

theorem servoPhaseLost_moved (s : State) (g : Nat) :
    Moved s (s.servoPhaseLost g) (if s.selector.freq.isSome then .freqTrack else s.servo.restState) :=
  Moved.of_quiet (quiet_updServo s _ rfl (fun h => ⟨h.1, h.2.1, Nat.zero_le _, Nat.zero_le _, h.2.2.2.2⟩) rfl rfl)
    (setServo_moved _ _ g)

theorem servoPhaseGained_moved (s : State) (g : Nat) : Moved s (s.servoPhaseGained g) .acquiring :=
  Moved.of_quiet (quiet_updServo s _ rfl (fun h => ⟨h.1, h.2.1, Nat.zero_le _, Nat.zero_le _, h.2.2.2.2⟩) rfl rfl)
    (setServo_moved _ .acquiring g)

/-- What `applyPhase` does to the roles. -/
theorem applyPhase_spec (s : State) (new : Option Ref) (g : Nat) :
    Calm s (s.applyPhase new g) ∧ (s.applyPhase new g).selector.phase = new ∧
      (s.applyPhase new g).selector.freq = s.selector.freq ∧
      (∀ r, ((s.applyPhase new g).ref r).state = (s.ref r).state) ∧
      (s.rolesMatch → (s.applyPhase new g).rolesMatch) ∧ (s.realignLaw → (s.applyPhase new g).realignLaw) ∧
      (s.rolesMatch → s.entryLaw → (s.applyPhase new g).entryLaw) := by
  unfold State.applyPhase
  have c1 := calm_phase s new
  have e1 : (s.updSel fun x =>
      { x with phase := new, ctr := { x.ctr with phaseChanges := bump x.ctr.phaseChanges } }).selector.phase = new := rfl
  have e2 : (s.updSel fun x =>
      { x with phase := new, ctr := { x.ctr with phaseChanges := bump x.ctr.phaseChanges } }).selector.freq =
      s.selector.freq := rfl
  have e3 : ∀ r, ((s.updSel fun x =>
      { x with phase := new, ctr := { x.ctr with phaseChanges := bump x.ctr.phaseChanges } }).ref r).state =
      (s.ref r).state := fun _ => rfl
  have e4 : (s.updSel fun x =>
      { x with phase := new, ctr := { x.ctr with phaseChanges := bump x.ctr.phaseChanges } }).servo = s.servo := rfl
  have e5 : (s.updSel fun x =>
      { x with phase := new, ctr := { x.ctr with phaseChanges := bump x.ctr.phaseChanges } }).realign = s.realign := rfl
  have e6 : s.entryLaw → (s.updSel fun x =>
      { x with phase := new, ctr := { x.ctr with phaseChanges := bump x.ctr.phaseChanges } }).entryLaw := id
  generalize (s.updSel fun x =>
      { x with phase := new, ctr := { x.ctr with phaseChanges := bump x.ctr.phaseChanges } }) = s1 at *
  dsimp only
  split
  · next h => exact ⟨Calm.refl s, h, rfl, fun _ => rfl, id, id, fun _ => id⟩
  · next r h =>
    have m := (servoPhaseGained_moved s1 g).slewed (slewed_realGained _ r)
    have x : ((s1.servoPhaseGained g).realGained r).realign = startDecision r s.realign := by
      show startDecision r (s1.servoPhaseGained g).realign = _
      rw [show (s1.servoPhaseGained g).realign = s1.realign from setServo_real _ _ _, e5]
    refine ⟨c1.trans m.calm, m.phase.trans e1, m.freq.trans e2, fun q => (m.states q).trans (e3 q), fun _ => ?_,
      fun w => ?_, fun _ _ => not_holdover m.servo (fun e => by cases e) (fun e => by cases e)⟩
    · unfold State.rolesMatch
      rw [m.servo, m.phase, e1]
      rfl
    · have n : s.realign.decision ≠ .decided := fun e => by
        have := w.idle.mpr h
        rw [e] at this
        cases this
      refine ⟨?_, ?_, ?_, ?_, ?_, ?_⟩ <;> rw [x]
      · rw [m.phase, e1]; rfl
      · rw [m.phase, e1]; exact ⟨nofun, nofun⟩
      · exact fun _ => ⟨rfl, rfl, (w.undecided n).2.2⟩
      · exact fun e => absurd (w.undecided n).2.2 e
      · exact Nat.zero_le _
      · exact w.suspended
  · next r h =>
    have m := (servoPhaseLost_moved s1 g).slewed (slewed_realLost _ r)
    obtain ⟨c, u, x, hu⟩ := State.realLost_realign (s1.servoPhaseLost g) r
    rw [show (s1.servoPhaseLost g).realign = s.realign from (setServo_real _ _ _).trans e5] at x hu
    refine ⟨c1.trans m.calm, m.phase.trans e1, m.freq.trans e2, fun q => (m.states q).trans (e3 q), fun _ => ?_,
      fun w => ?_, fun w l => ?_⟩
    · unfold State.rolesMatch
      rw [m.servo, m.phase, m.freq, m.valid, e1]
      cases hf : s1.selector.freq
      · simp only [Option.isSome_none, Bool.false_eq_true, if_false]
        unfold Servo.restState
        cases hv : s1.servo.phaseValid <;> simp
      · simp
    · refine ⟨?_, ?_, ?_, ?_, ?_, ?_⟩ <;> rw [x]
      · rw [m.phase, e1]
      · rw [m.phase, e1]; exact ⟨fun _ => rfl, fun _ => rfl⟩
      · exact fun _ => ⟨rfl, rfl, rfl⟩
      · exact fun e => absurd rfl e
      · exact Nat.zero_le _
      · intro v hv
        rcases hu with e | ⟨p, q, e⟩
        · exact w.suspended v (e ▸ hv)
        · have hv' : u = some v := hv
          rw [e] at hv'
          cases hv'
          exact w.bound
    · apply (slewed_realLost _ r).entry
      refine setServo_entry _ _ g (e6 l) fun _ => ?_
      unfold State.rolesMatch at w
      show s1.servo.state = _ ∨ s1.servo.state = _ ∨ _
      rw [e4]
      cases hs : s.servo.state <;> simp [hs, h] at w ⊢
  · next old r h =>
    split
    · next e => exact ⟨Calm.refl s, by rw [h, e], rfl, fun _ => rfl, id, id, fun _ => id⟩
    · have q := (slewed_realSwitched _ r).after (quiet_servoPhaseSwitched s1).slewed
      obtain ⟨c, x⟩ := State.realSwitched_realign s1.servoPhaseSwitched r
      rw [show s1.servoPhaseSwitched.realign = s.realign from e5] at x
      refine ⟨c1.trans q.calm, q.phase.trans e1, q.freq.trans e2, fun x => (q.states x).trans (e3 x), fun m => ?_,
        fun w => ?_, fun _ l => q.entry (e6 l)⟩
      · unfold State.rolesMatch at *
        rw [q.servo, q.phase, q.freq, q.valid, e1, e4]
        rw [h] at m
        cases hs : s.servo.state <;> simp [hs] at m ⊢
        exact m
      · refine ⟨?_, ?_, ?_, ?_, ?_, ?_⟩ <;> rw [x]
        · rw [q.phase, e1]
        · rw [q.phase, e1]; exact ⟨nofun, nofun⟩
        · exact fun _ => ⟨rfl, rfl, rfl⟩
        · exact fun e => absurd rfl e
        · exact Nat.zero_le _
        · exact w.suspended

/-- What `applyFreq` does to the roles. -/
theorem applyFreq_spec (s : State) (new : Option Ref) (g : Nat) :
    Calm s (s.applyFreq new g) ∧ (s.applyFreq new g).selector.freq = new ∧
      (s.applyFreq new g).selector.phase = s.selector.phase ∧
      (∀ r, ((s.applyFreq new g).ref r).state = (s.ref r).state) ∧
      (s.rolesMatch → (s.applyFreq new g).rolesMatch) ∧ (s.realignLaw → (s.applyFreq new g).realignLaw) ∧
      (s.rolesMatch → s.entryLaw → (s.applyFreq new g).entryLaw) := by
  unfold State.applyFreq
  have c1 := calm_freq s new
  have e1 : (s.updSel fun x =>
      { x with freq := new, ctr := { x.ctr with frequencyChanges := bump x.ctr.frequencyChanges } }).selector.freq = new :=
    rfl
  have e2 : (s.updSel fun x =>
      { x with freq := new, ctr := { x.ctr with frequencyChanges := bump x.ctr.frequencyChanges } }).selector.phase =
      s.selector.phase := rfl
  have e3 : ∀ r, ((s.updSel fun x =>
      { x with freq := new, ctr := { x.ctr with frequencyChanges := bump x.ctr.frequencyChanges } }).ref r).state =
      (s.ref r).state := fun _ => rfl
  have e4 : (s.updSel fun x =>
      { x with freq := new, ctr := { x.ctr with frequencyChanges := bump x.ctr.frequencyChanges } }).servo = s.servo := rfl
  have e5 : (s.updSel fun x =>
      { x with freq := new, ctr := { x.ctr with frequencyChanges := bump x.ctr.frequencyChanges } }).realign =
      s.realign := rfl
  have e6 : s.entryLaw → (s.updSel fun x =>
      { x with freq := new, ctr := { x.ctr with frequencyChanges := bump x.ctr.frequencyChanges } }).entryLaw := id
  generalize (s.updSel fun x =>
      { x with freq := new, ctr := { x.ctr with frequencyChanges := bump x.ctr.frequencyChanges } }) = s1 at *
  dsimp only
  split
  · next h => exact ⟨Calm.refl s, h, rfl, fun _ => rfl, id, id, fun _ => id⟩
  · next r h =>
    unfold State.servoFreqGained
    rw [e4]
    have m := setServo_moved s1 .freqTrack g
    have x : s.realignLaw → (s1.setServo .freqTrack g).realignLaw :=
      realignLaw_congr ((setServo_real _ _ _).trans e5) (m.phase.trans e2)
    split
    · next hs =>
      refine ⟨c1.trans m.calm, m.freq.trans e1, m.phase.trans e2, fun q => (m.states q).trans (e3 q), fun w => ?_, x,
        fun w l => setServo_entry _ _ g (e6 l) fun d => ?_⟩
      · unfold State.rolesMatch at *
        rw [hs] at w
        rw [m.servo, m.phase, m.freq, e1, e2]
        exact ⟨w.1, rfl⟩
      · unfold State.rolesMatch at w
        rw [hs] at w
        rw [e4] at d ⊢
        rw [hs]
        simp [holdoverState, w] at d ⊢
    · next hs =>
      refine ⟨c1.trans m.calm, m.freq.trans e1, m.phase.trans e2, fun q => (m.states q).trans (e3 q), fun w => ?_, x,
        fun w l => setServo_entry _ _ g (e6 l) fun d => ?_⟩
      · unfold State.rolesMatch at *
        rw [hs] at w
        rw [m.servo, m.phase, m.freq, e1, e2]
        exact ⟨w.1, rfl⟩
      · unfold State.rolesMatch at w
        rw [hs] at w
        rw [e4] at d ⊢
        rw [hs]
        simp [holdoverState, w] at d ⊢
    · next hs =>
      refine ⟨c1, e1, e2, e3, fun w => ?_, realignLaw_congr e5 e2, fun _ => e6⟩
      unfold State.rolesMatch at *
      rw [hs] at w
      rw [e4, hs, e2]
      exact w
    · next hs =>
      refine ⟨c1, e1, e2, e3, fun w => ?_, realignLaw_congr e5 e2, fun _ => e6⟩
      unfold State.rolesMatch at *
      rw [hs] at w
      rw [e4, hs, e2]
      exact w
    · next hs =>
      refine ⟨c1, e1, e2, e3, fun w => ?_, realignLaw_congr e5 e2, fun _ => e6⟩
      unfold State.rolesMatch at *
      rw [hs] at w
      rw [e4, hs, e2, e1]
      exact ⟨w.1, rfl⟩
  · next r h =>
    unfold State.servoFreqLost
    rw [e4]
    have m := setServo_moved s1 s.servo.restState g
    split
    · next hs =>
      refine ⟨c1.trans m.calm, m.freq.trans e1, m.phase.trans e2, fun q => (m.states q).trans (e3 q), fun w => ?_,
        realignLaw_congr ((setServo_real _ _ _).trans e5) (m.phase.trans e2),
        fun w l => setServo_entry _ _ g (e6 l) fun d => ?_⟩
      · unfold State.rolesMatch at *
        rw [hs] at w
        rw [m.servo, m.phase, m.freq, m.valid, e1, e2, e4]
        unfold Servo.restState
        cases hv : s.servo.phaseValid <;> simp [w.1]
      · rw [e4] at d ⊢
        rw [hs]
        unfold Servo.restState at d
        cases hv : s.servo.phaseValid <;> simp [hv, holdoverState] at d ⊢
    all_goals
      next hs =>
        refine ⟨c1, e1, e2, e3, fun w => ?_, realignLaw_congr e5 e2, fun _ => e6⟩
        unfold State.rolesMatch at *
        rw [hs] at w
        rw [e4, hs, e2]
        first
          | exact w
          | (rw [h] at w; simp at w)
  · next old r h =>
    split
    · next e => exact ⟨Calm.refl s, by rw [h, e], rfl, fun _ => rfl, id, id, fun _ => id⟩
    · have q := quiet_servoFreqSwitched s1
      refine ⟨c1.trans q.calm, q.freq.trans e1, q.phase.trans e2, fun x => (q.states x).trans (e3 x), fun m => ?_,
        realignLaw_congr (q.real.trans e5) (q.phase.trans e2), fun _ l => q.entry (e6 l)⟩
      unfold State.rolesMatch at *
      rw [q.servo, q.phase, q.freq, q.valid, e1, e2, e4]
      rw [h] at m
      cases hs : s.servo.state <;> simp [hs] at m ⊢ <;> exact m

/-- What a change of both roles does. -/
theorem applyRoles_spec (s : State) (p f : RoleResult) :
    Calm s (s.applyRoles p f) ∧ (s.applyRoles p f).selector.phase = p.selected ∧
      (s.applyRoles p f).selector.freq = f.selected ∧
      (∀ r, ((s.applyRoles p f).ref r).state = (s.ref r).state) ∧
      (s.rolesMatch → (s.applyRoles p f).rolesMatch) ∧ (s.realignLaw → (s.applyRoles p f).realignLaw) ∧
      (s.rolesMatch → s.entryLaw → (s.applyRoles p f).entryLaw) := by
  unfold State.applyRoles
  have q1 : Quiet s (s.updSel fun x =>
      { x with
        phaseForced := p.forced
        freqForced := f.forced
        ctr := { x.ctr with
          forcesLapsed := bumpBy ((if p.lapsed then 1 else 0) + (if f.lapsed then 1 else 0)) x.ctr.forcesLapsed } }) :=
    ⟨calm_updSel s _ rfl, rfl, rfl, rfl, rfl, fun _ => rfl, rfl, id⟩
  generalize (s.updSel fun x =>
      { x with
        phaseForced := p.forced
        freqForced := f.forced
        ctr := { x.ctr with
          forcesLapsed := bumpBy ((if p.lapsed then 1 else 0) + (if f.lapsed then 1 else 0)) x.ctr.forcesLapsed } }) =
    s1 at q1
  dsimp only
  have two (u : State) (q : Quiet s u) (g : Nat) :
      Calm s ((u.applyPhase p.selected g).applyFreq f.selected g) ∧
        ((u.applyPhase p.selected g).applyFreq f.selected g).selector.phase = p.selected ∧
        ((u.applyPhase p.selected g).applyFreq f.selected g).selector.freq = f.selected ∧
        (∀ r, (((u.applyPhase p.selected g).applyFreq f.selected g).ref r).state = (s.ref r).state) ∧
        (s.rolesMatch → ((u.applyPhase p.selected g).applyFreq f.selected g).rolesMatch) ∧
        (s.realignLaw → ((u.applyPhase p.selected g).applyFreq f.selected g).realignLaw) ∧
        (s.rolesMatch → s.entryLaw → ((u.applyPhase p.selected g).applyFreq f.selected g).entryLaw) := by
    obtain ⟨a1, a2, a3, a4, a5, a6, a7⟩ := applyPhase_spec u p.selected g
    obtain ⟨b1, b2, b3, b4, b5, b6, b7⟩ := applyFreq_spec (u.applyPhase p.selected g) f.selected g
    exact ⟨q.calm.trans (a1.trans b1), b3.trans a2, b2, fun r => (b4 r).trans ((a4 r).trans (q.states r)),
      fun h => b5 (a5 (q.fair.roles h)), fun h => b6 (a6 (q.fair.slews h)),
      fun m h => b7 (a5 (q.fair.roles m)) (a7 (q.fair.roles m) (q.entry h))⟩
  split
  · split
    · have q := (quiet_useFree _).after q1
      obtain ⟨a1, a2, a3, a4, a5, a6, a7⟩ := applyFreq_spec s1.useFree f.selected s.holdover.announced
      obtain ⟨b1, b2, b3, b4, b5, b6, b7⟩ :=
        applyPhase_spec (s1.useFree.applyFreq f.selected s.holdover.announced) p.selected s.holdover.announced
      exact ⟨q.calm.trans (a1.trans b1), b2, b3.trans a2, fun r => (b4 r).trans ((a4 r).trans (q.states r)),
        fun h => b5 (a5 (q.fair.roles h)), fun h => b6 (a6 (q.fair.slews h)),
        fun m h => b7 (a5 (q.fair.roles m)) (a7 (q.fair.roles m) (q.entry h))⟩
    · exact two _ ((quiet_useFree _).after q1) _
  · exact two _ q1 _

/-! ## The re-evaluation (R73) -/

theorem highest_mem (rank : Ref → Nat) : ∀ (l : List Ref) (r : Ref), highest rank l = some r → r ∈ l
  | [], r, h => by cases h
  | a :: l, r, h => by
    unfold highest at h
    split at h
    · cases h; exact List.mem_cons_self
    · next x e =>
      split at h
      · cases h; exact List.mem_cons_of_mem _ (highest_mem rank l _ e)
      · cases h; exact List.mem_cons_self

theorem mem_candidates (s : State) (l : List Ref) (r : Ref) (h : r ∈ s.candidates l) : s.isCandidate l r = true := by
  unfold State.candidates at h
  rw [List.mem_filter] at h
  unfold State.isCandidate
  rw [Bool.and_eq_true]
  exact ⟨List.contains_iff_mem.mpr h.1, h.2⟩

theorem bestFreq_candidate (s : State) (r : Ref) (h : s.bestFreq = some r) :
    s.isCandidate s.selector.cfg.freqList r = true :=
  mem_candidates s _ r (List.mem_of_head? h)

theorem bestPhase_candidate (s : State) (r : Ref) (h : s.bestPhase = some r) :
    s.isCandidate s.selector.cfg.phaseList r = true := by
  unfold State.bestPhase at h
  dsimp only at h
  split at h
  · exact mem_candidates s _ r (highest_mem _ _ r h)
  · exact mem_candidates s _ r (List.mem_of_head? h)

theorem evalRole_candidate (cand : Ref → Bool) (best : Option Ref) (rev forced : Bool) (cur : Option Ref)
    (hb : ∀ r, best = some r → cand r = true) (r : Ref) (h : (evalRole cand best rev forced cur).selected = some r) :
    cand r = true := by
  unfold evalRole at h
  split at h
  · exact hb r h
  · next x =>
    split at h
    · next c =>
      split at h
      · cases h; exact c
      · split at h
        · exact hb r h
        · cases h; exact c
    · exact hb r h

/-- A re-evaluation leaves the roles matched and every selected reference a candidate. -/
theorem reevaluateRoles_spec (s : State) :
    Calm s s.reevaluateRoles ∧ (∀ r, (s.reevaluateRoles.ref r).state = (s.ref r).state) ∧
      (s.rolesMatch → s.reevaluateRoles.rolesMatch) ∧ s.reevaluateRoles.selectedAreCandidates ∧
      (s.realignLaw → s.reevaluateRoles.realignLaw) ∧ (s.rolesMatch → s.entryLaw → s.reevaluateRoles.entryLaw) := by
  obtain ⟨a1, a2, a3, a4, a5, a6, a7⟩ := applyRoles_spec s s.evalPhase s.evalFreq
  refine ⟨a1, a4, a5, ⟨fun r e => ?_, fun r e => ?_⟩, a6, a7⟩
  · show State.isCandidate _ _ r = true
    rw [show s.reevaluateRoles = s.applyRoles s.evalPhase s.evalFreq from rfl] at e ⊢
    rw [isCandidate_congr a4, a1.settings.select]
    rw [a2] at e
    exact evalRole_candidate _ _ _ _ _ (bestPhase_candidate s) r e
  · show State.isCandidate _ _ r = true
    rw [show s.reevaluateRoles = s.applyRoles s.evalPhase s.evalFreq from rfl] at e ⊢
    rw [isCandidate_congr a4, a1.settings.select]
    rw [a3] at e
    exact evalRole_candidate _ _ _ _ _ (bestFreq_candidate s) r e

/-- A way to re-evaluate: fair, and it leaves every selected reference a candidate whatever stood before. -/
def Settles (reeval : State → State) : Prop :=
  ∀ s, Fair s (reeval s) ∧ (reeval s).selectedAreCandidates

theorem reevaluateRoles_settles : Settles State.reevaluateRoles := fun s =>
  have ⟨a, _, b, c, d, e⟩ := reevaluateRoles_spec s
  ⟨⟨a, b, fun _ => c, d, e⟩, c⟩

/-- Fair, and every selected reference a candidate whatever stood before. -/
theorem announceWith_settles {reeval : State → State} (h : Settles reeval) (s : State) (r : Ref) :
    Fair s (s.announceWith reeval r) ∧ (s.announceWith reeval r).selectedAreCandidates := by
  unfold State.announceWith
  have q := quiet_refReport s r
  obtain ⟨a, b⟩ := h (s.refReport r)
  have p := quiet_pinsFallback (reeval (s.refReport r)) r
  exact ⟨q.fair.trans (a.trans p.fair), p.fair.chosen b⟩

/-- An update of a reference, its state too, followed by an announcement. -/
theorem fair_announceAfter {reeval : State → State} (h : Settles reeval) (s t : State) (r : Ref) (c : Calm s t)
    (m : s.rolesMatch → t.rolesMatch) (w : s.realignLaw → t.realignLaw) (e : s.entryLaw → t.entryLaw) :
    Fair s (t.announceWith reeval r) := by
  obtain ⟨a, b⟩ := announceWith_settles h t r
  exact ⟨c.trans a.calm, fun x => a.roles (m x), fun _ => b, fun x => a.slews (w x), fun x y => a.entry (m x) (e y)⟩

theorem Reference.react_cfg (res : Nat) (was : List Defect) (x : Reference) : (x.react res was).cfg = x.cfg := by
  unfold Reference.react
  dsimp only
  split
  · rfl
  · split
    · split <;> rfl
    · rfl
  · split
    · rfl
    · split
      · rfl
      · split
        · split <;> rfl
        · rfl
  · split
    · unfold Reference.toRestoring; split <;> rfl
    · rfl
  · split <;> rfl

theorem fair_updRefState {reeval : State → State} (h : Settles reeval) (s : State) (r : Ref) (f : Reference → Reference)
    (hc : (f (s.ref r)).cfg = (s.ref r).cfg) : Fair s ((s.updRef r f).announceWith reeval r) := by
  exact fair_announceAfter h s _ r (calm_updRef s r f hc) id (realignLaw_congr rfl rfl) id

theorem fair_reactWith {reeval : State → State} (h : Settles reeval) (s : State) (r : Ref) (was : List Defect) :
    Fair s (s.reactWith reeval r was) := by
  unfold State.reactWith
  dsimp only
  have hc := Reference.react_cfg s.res was (s.ref r)
  split
  · exact fair_updRefState h s r _ hc
  · next e =>
    have hs : ((s.ref r).react s.res was).state = (s.ref r).state := Classical.not_not.mp e
    have q : Quiet s (s.updRef r fun _ => (s.ref r).react s.res was) := quiet_updRef s r _ hc hs
    exact Fair.ite ((quiet_refReport _ r).after q).fair q.fair

theorem fair_answerFreerun (s : State) (was : List Defect) : Fair s (s.answerFreerun was) :=
  Fair.ite (Fair.refl s) (fair_reactWith reevaluateRoles_settles s .gnss was)

theorem reevaluate_settles : Settles State.reevaluate := fun s =>
  have ⟨a, b⟩ := reevaluateRoles_settles s
  have f := fair_answerFreerun s.reevaluateRoles (s.ref .gnss).defects
  ⟨a.trans f, f.chosen b⟩

theorem fair_reevaluate (s : State) : Fair s s.reevaluate := (reevaluate_settles s).1

theorem fair_judge (s : State) (r : Ref) (grade : Option Nat) (f : List Defect → List Defect) :
    Fair s (s.judge r grade f) := by
  unfold State.judge
  dsimp only
  split
  · exact Fair.refl s
  · generalize putDefect .gradeLow (phaseCapable r && gradeIsLow grade (s.ref r).cfg.minGrade) (f (s.ref r).defects) = ds
    have q : Quiet s (s.updRef r fun y =>
        { y with grade := grade, defects := ds, winVoid := y.winVoid || ds.contains .signalLost }) :=
      quiet_updRef s r _ rfl rfl
    generalize (s.updRef r fun y =>
        { y with grade := grade, defects := ds, winVoid := y.winVoid || ds.contains .signalLost }) = s1 at q
    have h2 : Fair s (if ds = (s.ref r).defects then s1 else s1.reactWith State.reevaluate r (s.ref r).defects) :=
      Fair.ite q.fair (q.fair.trans (fair_reactWith reevaluate_settles s1 r _))
    exact Fair.ite (h2.trans (fair_reevaluate _)) h2

theorem fair_setDefects (s : State) (r : Ref) (f : List Defect → List Defect) : Fair s (s.setDefects r f) :=
  fair_judge s r _ f

theorem fair_qualifyRef (s : State) (r : Ref) : Fair s (s.qualifyRef r) :=
  fair_updRefState reevaluate_settles s r _ rfl

theorem fair_measured (s : State) (r : Ref) : Fair s (s.measured r) := Fair.ite (fair_qualifyRef s r) (Fair.refl s)

theorem fair_qualifyExpired (s : State) (r : Ref) : Fair s (s.qualifyExpired r) :=
  Fair.ite (fair_qualifyRef s r) (quiet_updRef s r _ rfl rfl).fair

theorem fair_holdOffExpired (s : State) (r : Ref) : Fair s (s.holdOffExpired r) :=
  fair_updRefState reevaluate_settles s r _ rfl

theorem fair_restoreExpired (s : State) (r : Ref) : Fair s (s.restoreExpired r) := fair_qualifyRef s r

theorem fair_refEnable (s : State) (r : Ref) : Fair s (s.refEnable r) :=
  have q := quiet_blankGnss (s.updRef r fun _ => s.enabledRecord r) r
  fair_announceAfter reevaluate_settles s _ r ((calm_updRef s r _ rfl).trans q.calm) (fun m => q.fair.roles m)
    (fun w => q.fair.slews (realignLaw_congr (s := s) rfl rfl w)) (fun e => q.entry e)

theorem fair_refDisable (s : State) (r : Ref) : Fair s (s.refDisable r) :=
  have q := (quiet_pinsDiscardOffset _ r).after (quiet_blankGnss (s.updRef r Reference.blank) r)
  fair_announceAfter reevaluate_settles s _ r ((calm_updRef s r _ rfl).trans q.calm) (fun m => q.fair.roles m)
    (fun w => q.fair.slews (realignLaw_congr (s := s) rfl rfl w)) (fun e => q.entry e)

/-! ## Edges, time-of-day bytes and reports of the sessions (02, 03) -/

theorem fair_gnssEdge (s : State) : Fair s s.gnssEdge := by
  unfold State.gnssEdge
  dsimp only
  refine Fair.ite (Fair.refl s) (Fair.ite (quiet_countGnss s _).fair ?_)
  refine Fair.after (fair_setDefects _ .gnss _) ?_
  exact ((quiet_updRef _ .gnss _ rfl rfl).after ((quiet_updGnss _ _ id).after (quiet_updGnss s _ id))).fair

theorem fair_gnssLost (s : State) : Fair s s.gnssLost :=
  (fair_setDefects _ .gnss _).after
    (quiet_updGnss s (fun g => { g.dropPartial with held := none }) (Gnss.dropPartial_room s.gnss)).fair

theorem fair_todTake (s : State) (i : TodInfo) : Fair s (s.todTake i) :=
  (fair_judge _ .gnss _ _).after (quiet_updGnss s _ id).fair

theorem fair_todJudge (s : State) (bs : List Byte) : Fair s (s.todJudge bs) :=
  Fair.ite (quiet_countGnss s _).fair (Fair.ite (quiet_countGnss s _).fair (Fair.ite (quiet_countGnss s _).fair
    (Fair.ite (quiet_countGnss s _).fair (fair_todTake s _))))

theorem fair_todByte (s : State) (b : Byte) : Fair s (s.todByte b) := by
  unfold State.todByte
  dsimp only
  split
  · exact Fair.refl s
  · have q : Quiet s (s.todGapCheck.updGnss fun g => { g with lastByteAt := s.res }) :=
      (quiet_updGnss _ _ id).after (quiet_todGapCheck s)
    generalize (s.todGapCheck.updGnss fun g => { g with lastByteAt := s.res }) = s1 at q
    split
    · split
      · exact ((quiet_updGnss s1 (fun g => { g with partialRecord := [b] }) (fun _ => Nat.le_add_left 1 10)).after q).fair
      · exact q.fair
    · split
      · next c =>
        refine ((quiet_updGnss _ _ (fun _ => ?_)).after q).fair
        simp only [List.length_append, List.length_cons, List.length_nil]
        omega
      · exact (fair_todJudge _ _).after ((quiet_updGnss _ _ (fun _ => Nat.zero_le _)).after q).fair

theorem fair_todMissing (s : State) : Fair s s.todMissing := fair_judge s .gnss none _

theorem fair_syncPkt (s : State) (c : Client) : Fair s (s.syncPkt c) := by
  unfold State.syncPkt
  exact fair_judge s _ _ _

theorem fair_syncLine (s : State) (c : Client) : Fair s (s.syncLine c) := fair_setDefects s _ _

theorem fair_extEdge (s : State) : Fair s s.extEdge :=
  Fair.ite (Fair.refl s) ((fair_setDefects _ .ext _).after (quiet_updRef s .ext _ rfl rfl).fair)

theorem fair_extLost (s : State) : Fair s s.extLost := fair_setDefects s .ext _

theorem fair_starveCheck (s : State) (c : Client) : Fair s (s.starveCheck c) := fair_setDefects s _ _

theorem fair_moveClient (s : State) (c : Client) (f : ClientSession → ClientSession)
    (hc : (f (s.client c)).cfg = (s.client c).cfg)
    (hr : (s.client c).withinRoom s.clock.epoch → (f (s.client c)).withinRoom s.clock.epoch) :
    Fair s (s.moveClient c f) :=
  (fair_syncPkt _ c).after (quiet_updClient s c f hc hr).fair

/-- An empty Outstanding Query List meets its law. -/
theorem ClientSession.empty_room (x : ClientSession) (e : Nat) (h : x.outstanding = []) : x.withinRoom e :=
  ⟨by rw [h]; exact Nat.zero_le _, fun q m => by rw [h] at m; cases m⟩

theorem fair_clientStart (s : State) (c : Client) : Fair s (s.clientStart c) :=
  Fair.ite (fair_moveClient s c _ rfl (fun _ => ClientSession.empty_room _ _ rfl)) (Fair.refl s)

theorem fair_clientStop (s : State) (c : Client) : Fair s (s.clientStop c) :=
  Fair.ite (Fair.refl s) (fair_moveClient s c _ rfl (fun _ => ClientSession.empty_room _ _ rfl))

theorem fair_clientRetune (s : State) (c : Client) : Fair s (s.clientRetune c) :=
  Fair.ite (Fair.refl s) (fair_moveClient s c _ rfl (fun _ => ClientSession.empty_room _ _ rfl))

theorem fair_noticeExpired (s : State) (c : Client) : Fair s (s.noticeExpired c) :=
  fair_moveClient s c _ rfl (fun _ => ClientSession.empty_room _ _ rfl)

theorem fair_acceptMaster (s : State) (c : Client) (m : Master) : Fair s (s.acceptMaster c m) :=
  fair_moveClient s c _ rfl id

theorem fair_clientNotice (s : State) (c : Client) (h : Header) (body : List Byte) :
    Fair s (s.clientNotice c h body) := by
  unfold State.clientNotice
  dsimp only
  split
  · exact Fair.ite (fair_acceptMaster s c _) (quiet_countClient s c _).fair
  · refine Fair.ite (quiet_countClient s c _).fair (Fair.ite (quiet_countClient s c _).fair
      (fair_moveClient s c _ ?_ ?_))
    · unfold ClientSession.masterNotice; dsimp only; split <;> rfl
    · unfold ClientSession.masterNotice; dsimp only; split <;> exact id

theorem fair_clientSort (s : State) (c : Client) (f : Frame) (stamps : Ingress) : Fair s (s.clientSort c f stamps) := by
  unfold State.clientSort
  dsimp only
  refine Fair.ite (quiet_countClient s c _).fair (Fair.ite (quiet_countClient s c _).fair
    (Fair.ite (quiet_countClient s c _).fair (Fair.ite (fair_clientNotice s c _ _) ?_)))
  split
  · exact Fair.ite (quiet_countClient s c _).fair (quiet_countClient s c _).fair
  · exact (quiet_clientExchange s c _ f _ stamps).fair

/-! ## The work of a boundary that leaves the counter where it is (03, 04, 05) -/

theorem fair_judgeSample (s : State) (sample : Option Int) (r : Ref) : Fair s (s.judgeSample sample r) := by
  unfold State.judgeSample
  dsimp only
  refine Fair.ite (Fair.refl s) ?_
  exact Fair.after (fair_measured _ r) (Fair.after (fair_setDefects _ r _) (quiet_updRef s r _ rfl rfl).fair)

theorem fair_noInput (s : State) : Fair s s.noInput := Fair.ite (quiet_missingSample s).fair (Fair.refl s)

theorem fair_giveInput (s : State) (e : Int) : Fair s (s.giveInput e) := Fair.ite (fair_loopInput s e) (Fair.refl s)

theorem fair_judgeWindow (s : State) (meanF : Int) (d : Option Int) (r : Ref) : Fair s (s.judgeWindow meanF d r) := by
  unfold State.judgeWindow
  dsimp only
  split
  · exact Fair.refl s
  · split
    · exact (quiet_updRef s r _ rfl rfl).fair
    · refine Fair.after (quiet_pinsFallback _ r).fair (Fair.after (quiet_pinsOffset _ r _).fair
        (Fair.after (fair_measured _ r) (Fair.after (fair_setDefects _ r _) ?_)))
      exact (quiet_updRef s r _ rfl rfl).fair

theorem fair_windowsWork (s : State) (g : Gathered) : Fair s (s.windowsWork g) := by
  unfold State.windowsWork
  dsimp only
  split
  · exact Fair.refl s
  · have h : Fair s (if g.ending then allRefs.foldl (fun t r => t.judgeWindow g.meanF (g.result t r) r) s else s) :=
      Fair.ite (Fair.foldl _ (fun t r => fair_judgeWindow t _ _ r) _ _) (Fair.refl s)
    generalize (if g.ending then allRefs.foldl (fun t r => t.judgeWindow g.meanF (g.result t r) r) s else s) = s1 at h
    split
    · refine h.trans ?_
      exact ((quiet_window _ _).after
        (Quiet.foldl (fun (t : State) r => t.updRef r (beginWindow (g.samples r) (g.caps r)))
          (fun t r => quiet_updRef t r _ rfl rfl) allRefs s1)).fair
    · exact h.trans (quiet_window _ _).fair

theorem fair_trackingWork (s : State) (g : Gathered) : Fair s (s.trackingWork g) := by
  unfold State.trackingWork
  split
  · exact Fair.refl s
  · split
    · exact Fair.refl s
    · exact (quiet_freqResult s _).fair

end Sys2Proof.Machine
end

