-- ==== Sys2Proof/Laws/Down.lean ====
section
/-! SUPPORT. `Down`: what the blocks downstream of the references (Selector, Time Engine, Realignment Unit, Holdover Unit,
Delivery Unit, Pin Unit) do in answer to a report leaves upstream alone: the clock, the references but for
TOD_MISMATCH, the sessions, the receiver, the network ports, and every alarm record that is not theirs. -/
namespace Sys2Proof.Machine
open Sys2Proof

/-! ## Pins under grades and fallback -/

theorem Pin.steady.refl (x : Pin) : x.steady x := rfl

theorem Pin.steady.trans {x y z : Pin} (a : x.steady y) (b : y.steady z) : x.steady z := by
  unfold Pin.steady at *
  rw [a] at b
  exact b

theorem Pin.steady_squelchEval (grade : Nat) (c : Clock) (x : Pin) : x.steady (x.squelchEval grade c) := by
  unfold Pin.squelchEval
  split
  · rfl
  · split
    · split <;> rfl
    · split <;> rfl

theorem Pin.steady_fallbackEval (q : Bool) (c : Clock) (x : Pin) : x.steady (x.fallbackEval q c) := by
  unfold Pin.fallbackEval
  dsimp only
  split
  · rfl
  · split <;> rfl

/-- What downstream operations leave alone. -/
structure Down (s t : State) : Prop where
  clock    : t.clock = s.clock
  flow     : t.flow = s.flow
  portMap  : t.portMap = s.portMap
  mgmt     : t.mgmt = s.mgmt
  pending  : t.pending = s.pending
  sessions : t.sessions = s.sessions
  gnss     : t.gnss = s.gnss
  window   : t.window = s.window
  refs     : ∀ r, r ≠ .gnss → t.ref r = s.ref r
  gref     : ∃ d, t.ref .gnss = { s.ref .gnss with defects := d } ∧
    ∀ x, x ∈ d ↔ (x ∈ (s.ref .gnss).defects ∧ (x ≠ .todMismatch ∨ x ∈ d))
  ports    : ∀ p, t.port p = s.port p ∨ ((portSite? p).isSome = true ∧ t.port p = (s.port p).withoutMarks)
  recs     : ∀ i, isDownstream i = false → t.alarm.record i = s.alarm.record i
  pins     : ∀ k, (s.tpin k).steady (t.tpin k)

theorem Down.refl (s : State) : Down s s :=
  ⟨rfl, rfl, rfl, rfl, rfl, rfl, rfl, rfl, fun _ _ => rfl, ⟨_, rfl, fun _ => ⟨fun h => ⟨h, .inr h⟩, fun h => h.1⟩⟩,
    fun _ => .inl rfl, fun _ _ => rfl, fun _ => rfl⟩

theorem withoutMarks_twice (x : PortState) : x.withoutMarks.withoutMarks = x.withoutMarks := by
  unfold PortState.withoutMarks
  rw [List.filter_filter]
  simp only [Bool.and_self]

theorem Down.trans {s t u : State} (a : Down s t) (b : Down t u) : Down s u := by
  refine ⟨b.clock.trans a.clock, b.flow.trans a.flow, b.portMap.trans a.portMap, b.mgmt.trans a.mgmt,
    b.pending.trans a.pending, b.sessions.trans a.sessions, b.gnss.trans a.gnss, b.window.trans a.window,
    fun r h => (b.refs r h).trans (a.refs r h), ?_, fun p => ?_, fun i h => (b.recs i h).trans (a.recs i h),
    fun k => (a.pins k).trans (b.pins k)⟩
  · obtain ⟨d, hd, hm⟩ := a.gref
    obtain ⟨e, he, hn⟩ := b.gref
    refine ⟨e, by rw [he, hd], fun x => ⟨fun h => ?_, fun h => ?_⟩⟩
    · have h1 := (hn x).1 h
      rw [hd] at h1
      exact ⟨((hm x).1 h1.1).1, .inr h⟩
    · rcases h.2 with hne | he'
      · have h2 : x ∈ d := (hm x).2 ⟨h.1, .inl hne⟩
        refine (hn x).2 ⟨?_, .inl hne⟩
        rw [hd]
        exact h2
      · exact he'
  · rcases a.ports p with h | ⟨hs, h⟩
    · rcases b.ports p with k | ⟨hk, k⟩
      · exact .inl (k.trans h)
      · exact .inr ⟨hk, by rw [k, h]⟩
    · rcases b.ports p with k | ⟨_, k⟩
      · exact .inr ⟨hs, by rw [k, h]⟩
      · exact .inr ⟨hs, by rw [k, h, withoutMarks_twice]⟩

theorem Down.after {s t u : State} (b : Down t u) (a : Down s t) : Down s u := a.trans b

theorem Down.ite {s t u : State} {c : Prop} [Decidable c] (a : Down s t) (b : Down s u) :
    Down s (if c then t else u) := by split <;> assumption

theorem Down.foldl {α : Type} (f : State → α → State) (h : ∀ t a, Down t (f t a)) :
    ∀ (l : List α) (s : State), Down s (l.foldl f s)
  | [], s => Down.refl s
  | a :: l, s => (h s a).trans (Down.foldl f h l (f s a))

/-- An operation that changes no field `Down` speaks of. -/
theorem down_same {s t : State} (clock : t.clock = s.clock) (flow : t.flow = s.flow) (portMap : t.portMap = s.portMap)
    (mgmt : t.mgmt = s.mgmt) (pending : t.pending = s.pending) (sessions : t.sessions = s.sessions)
    (gnss : t.gnss = s.gnss) (window : t.window = s.window) (refs : t.refs = s.refs) (ports : t.ports = s.ports)
    (alarm : t.alarm = s.alarm) (pins : ∀ k, (s.tpin k).steady (t.tpin k)) : Down s t := by
  refine ⟨clock, flow, portMap, mgmt, pending, sessions, gnss, window, fun r _ => ?_, ⟨_, ?_, fun _ =>
    ⟨fun h => ⟨h, .inr h⟩, fun h => h.1⟩⟩, fun _ => .inl ?_, fun i _ => ?_, pins⟩
  · unfold State.ref; rw [refs]
  · unfold State.ref; rw [refs]
  · unfold State.port; rw [ports]
  · rw [alarm]

theorem down_updSite (s : State) (k : Fin 6) (f : Site → Site) : Down s (s.updSite k f) :=
  down_same rfl rfl rfl rfl rfl rfl rfl rfl rfl rfl rfl fun _ => rfl
theorem down_updPin (s : State) (k : Fin 4) (f : Pin → Pin) (h : ∀ x : Pin, x.steady (f x)) :
    Down s (s.updPin k f) :=
  down_same rfl rfl rfl rfl rfl rfl rfl rfl rfl rfl rfl fun j => by
    rw [State.tpin_updPin]
    split
    · exact h _
    · rfl
theorem down_updServo (s : State) (f : Servo → Servo) : Down s (s.updServo f) :=
  down_same rfl rfl rfl rfl rfl rfl rfl rfl rfl rfl rfl fun _ => rfl
theorem down_updHold (s : State) (f : Holdover → Holdover) : Down s (s.updHold f) :=
  down_same rfl rfl rfl rfl rfl rfl rfl rfl rfl rfl rfl fun _ => rfl
theorem down_updSel (s : State) (f : Selector → Selector) : Down s (s.updSel f) :=
  down_same rfl rfl rfl rfl rfl rfl rfl rfl rfl rfl rfl fun _ => rfl
theorem down_updReal (s : State) (f : Realign → Realign) : Down s (s.updReal f) :=
  down_same rfl rfl rfl rfl rfl rfl rfl rfl rfl rfl rfl fun _ => rfl
theorem down_useFree (s : State) : Down s s.useFree :=
  down_same rfl rfl rfl rfl rfl rfl rfl rfl rfl rfl rfl fun _ => rfl
theorem down_serving (s : State) (b : Bool) : Down s { s with servingSince := b } :=
  down_same rfl rfl rfl rfl rfl rfl rfl rfl rfl rfl rfl fun _ => rfl

/-! ## Reports touch their own record and NOTICE_OVERFLOW alone -/

/-- Every record but one is as it was. -/
def AlarmOnly (i : Fin 41) (a b : Alarm) : Prop := ∀ j, j ≠ i → b.record j = a.record j

theorem AlarmOnly.refl (i : Fin 41) (a : Alarm) : AlarmOnly i a a := fun _ _ => rfl

theorem AlarmOnly.trans {i : Fin 41} {a b c : Alarm} (x : AlarmOnly i a b) (y : AlarmOnly i b c) : AlarmOnly i a c :=
  fun j h => (y j h).trans (x j h)

theorem updRec_only (a : Alarm) (i : Fin 41) (f : AlarmRecord → AlarmRecord) : AlarmOnly i a (a.updRec i f) :=
  fun j h => get_updAt_ne a.recs i j f h

theorem Alarm.record_updRec (a : Alarm) (i : Fin 41) (f : AlarmRecord → AlarmRecord) :
    (a.updRec i f).record i = f (a.record i) := get_updAt_same a.recs i f

theorem pulseFor_only (res : Nat) (i : Fin 41) (a : Alarm) : AlarmOnly i a (a.pulseFor res i) := by
  unfold Alarm.pulseFor
  split <;> exact fun _ _ => rfl

theorem place_only (i : Fin 41) (a : Alarm) : AlarmOnly i a (a.place i).1 := by
  unfold Alarm.place
  split
  · exact fun _ _ => rfl
  · split
    · exact updRec_only a i _
    · split
      · exact fun _ _ => rfl
      · exact updRec_only a i _

theorem produce_only (i : Fin 41) (a : Alarm) : AlarmOnly i a (a.produce i).1 := by
  unfold Alarm.produce
  split
  · exact place_only i a
  · exact AlarmOnly.refl i a

theorem raise_only (now : Stamp) (res : Nat) (i : Fin 41) (a : Alarm) : AlarmOnly i a (a.raise now res i).1 :=
  ((updRec_only a i _).trans (pulseFor_only res i _)).trans (produce_only i _)

theorem clearRecord_only (now : Stamp) (i : Fin 41) (a : Alarm) : AlarmOnly i a (a.clearRecord now i).1 :=
  (updRec_only a i _).trans (produce_only i _)

theorem move_only (now : Stamp) (res : Nat) (i : Fin 41) (present : Bool) (a : Alarm) :
    AlarmOnly i a (a.move now res i present).1 := by
  unfold Alarm.move
  split
  · exact AlarmOnly.refl i a
  · split
    · unfold Alarm.becomePresent
      dsimp only
      split
      · split
        · exact (updRec_only a i _).trans (raise_only now res i _)
        · exact (updRec_only a i _).trans (updRec_only _ i _)
      · exact (updRec_only a i _).trans (updRec_only _ i _)
      · exact updRec_only a i _
      · exact updRec_only a i _
    · unfold Alarm.becomeAbsent
      dsimp only
      split
      · exact (updRec_only a i _).trans (updRec_only _ i _)
      · split
        · exact (updRec_only a i _).trans (clearRecord_only now i _)
        · exact (updRec_only a i _).trans (updRec_only _ i _)
      · exact updRec_only a i _
      · exact updRec_only a i _

theorem evalPin_record (a : Alarm) (j : Fin 41) : a.evalPin.record j = a.record j := by
  unfold Alarm.evalPin
  split <;> rfl

theorem overflowed_only (now : Stamp) (res : Nat) : ∀ (n : Nat) (a : Alarm),
    AlarmOnly recOverflow a (a.overflowed now res n)
  | 0, a => AlarmOnly.refl _ a
  | n + 1, a => by
    have h := move_only now res recOverflow true a
    unfold Alarm.overflowed
    split
    · next a1 e =>
      rw [e] at h
      exact h.trans (overflowed_only now res n a1)
    · next a1 e => rw [e] at h; exact h

theorem settle_record (now : Stamp) (res : Nat) (x : Alarm × Bool) (j : Fin 41) (h : j ≠ recOverflow) :
    (Alarm.settle now res x).record j = x.1.record j := by
  obtain ⟨b, o⟩ := x
  cases o
  · exact evalPin_record b j
  · exact (evalPin_record _ j).trans (overflowed_only now res 3 b j h)

/-- A report leaves every record but its own and NOTICE_OVERFLOW as it was. -/
theorem report_record_ne (now : Stamp) (res : Nat) (i : Fin 41) (present : Bool) (cause : List Defect) (a : Alarm)
    (j : Fin 41) (hi : j ≠ i) (ho : j ≠ recOverflow) : (a.report now res i present cause).record j = a.record j := by
  unfold Alarm.report
  dsimp only
  rw [settle_record _ _ _ j ho, move_only now res i present _ j hi]
  split
  · exact updRec_only a i _ j hi
  · rfl

theorem place_present (i : Fin 41) (a : Alarm) : ((a.place i).1.record i).present = (a.record i).present := by
  unfold Alarm.place
  split
  · rfl
  · split
    · show ((a.updRec i _).record i).present = _
      rw [Alarm.record_updRec]
    · split
      · rfl
      · show ((a.updRec i _).record i).present = _
        rw [Alarm.record_updRec]

theorem produce_present (i : Fin 41) (a : Alarm) : ((a.produce i).1.record i).present = (a.record i).present := by
  unfold Alarm.produce
  split
  · exact place_present i a
  · rfl

theorem pulseFor_record (res : Nat) (i : Fin 41) (a : Alarm) (j : Fin 41) : (a.pulseFor res i).record j = a.record j := by
  unfold Alarm.pulseFor
  split <;> rfl

theorem raise_present (now : Stamp) (res : Nat) (i : Fin 41) (a : Alarm) :
    (((a.raise now res i).1).record i).present = (a.record i).present := by
  unfold Alarm.raise
  dsimp only
  rw [produce_present, pulseFor_record, Alarm.record_updRec]

theorem clearRecord_present (now : Stamp) (i : Fin 41) (a : Alarm) :
    (((a.clearRecord now i).1).record i).present = (a.record i).present := by
  unfold Alarm.clearRecord
  rw [produce_present, Alarm.record_updRec]

/-- A report leaves Present of its record as reported. -/
theorem move_present (now : Stamp) (res : Nat) (i : Fin 41) (present : Bool) (a : Alarm) :
    (((a.move now res i present).1).record i).present = present := by
  unfold Alarm.move
  split
  · next h => exact h.symm
  · split
    · next hp =>
      unfold Alarm.becomePresent
      dsimp only
      split
      · split
        · rw [raise_present, Alarm.record_updRec, hp]
        · simp [Alarm.record_updRec, hp]
      · simp [Alarm.record_updRec, hp]
      · simp [Alarm.record_updRec, hp]
      · simp [Alarm.record_updRec, hp]
    · next hp =>
      have hp' : present = false := by simpa using hp
      unfold Alarm.becomeAbsent
      dsimp only
      split
      · simp [Alarm.record_updRec, hp']
      · split
        · rw [clearRecord_present, Alarm.record_updRec, hp']
        · simp [Alarm.record_updRec, hp']
      · simp [Alarm.record_updRec, hp']
      · simp [Alarm.record_updRec, hp']

theorem report_present (now : Stamp) (res : Nat) (i : Fin 41) (present : Bool) (cause : List Defect) (a : Alarm)
    (ho : i ≠ recOverflow) : ((a.report now res i present cause).record i).present = present := by
  unfold Alarm.report
  dsimp only
  rw [settle_record _ _ _ i ho]
  exact move_present now res i present _

theorem down_report (s : State) (i : Fin 41) (present : Bool) (hi : isDownstream i = true) :
    Down s (s.report i present) := by
  refine ⟨rfl, rfl, rfl, rfl, rfl, rfl, rfl, rfl, fun _ _ => rfl, ⟨_, rfl, fun _ =>
    ⟨fun h => ⟨h, .inr h⟩, fun h => h.1⟩⟩, fun _ => .inl rfl, fun j hj => ?_, fun _ => rfl⟩
  refine report_record_ne s.stamp s.res i present [] s.alarm j ?_ ?_
  · intro e; rw [e, hi] at hj; cases hj
  · intro e; rw [e] at hj; exact absurd hj (by decide)

theorem down_siteRecord (k : Fin 6) : isDownstream (recSiteAbsent k) = true ∧ isDownstream (recSiteMuted k) = true := by
  revert k; decide

theorem portSite_sitePort (k : Fin 6) : portSite? (sitePort k) = some k := by revert k; decide

theorem down_withdraw (s : State) (k : Fin 6) : Down s (s.withdraw k) := by
  unfold State.withdraw
  refine Down.after (down_updSite _ k _) ?_
  refine ⟨rfl, rfl, rfl, rfl, rfl, rfl, rfl, rfl, fun _ _ => rfl, ⟨_, rfl, fun _ =>
    ⟨fun h => ⟨h, .inr h⟩, fun h => h.1⟩⟩, fun p => ?_, fun _ _ => rfl, fun _ => rfl⟩
  rw [State.port_updPort]
  split
  · next e =>
    subst e
    exact .inr ⟨by rw [portSite_sitePort]; rfl, rfl⟩
  · exact .inl rfl

/-! ## Delivery Unit and Pin Unit -/

theorem down_siteConditions (s : State) (k : Fin 6) : Down s (s.siteConditions k) :=
  (down_report _ _ _ (down_siteRecord k).2).after (down_report s _ _ (down_siteRecord k).1)

theorem down_enterServing (s : State) (k : Fin 6) : Down s (s.enterServing k) :=
  (down_siteConditions _ k).after ((down_serving _ true).after (down_updSite s k _))

theorem down_serveCheck (s : State) (k : Fin 6) : Down s (s.serveCheck k) := by
  unfold State.serveCheck
  split
  · split
    · exact Down.refl s
    · split
      · exact down_enterServing s k
      · exact down_updSite s k _
  · exact down_updSite s k _

theorem down_gradeMute (s : State) (k : Fin 6) : Down s (s.gradeMute k) := by
  unfold State.gradeMute
  split
  · exact (down_siteConditions _ k).after ((down_withdraw _ k).after (down_updSite s k _))
  · exact Down.refl s

theorem down_siteGrade (s : State) (k : Fin 6) : Down s (s.siteGrade k) :=
  (down_serveCheck _ k).after (down_gradeMute s k)

theorem down_deliverGrade (s : State) : Down s s.deliverGrade := Down.foldl _ down_siteGrade _ _

theorem down_deliverSquelch (s : State) : Down s s.deliverSquelch := 
  Down.foldl _ (fun t k => down_updPin t k _ (Pin.steady_squelchEval _ _)) _ _

theorem down_pinsFallback (s : State) (r : Ref) : Down s (s.pinsFallback r) :=
  Down.foldl _ (fun t k => down_updPin t k _ fun x => by
    split
    · exact Pin.steady_fallbackEval _ _ x
    · rfl) _ _

theorem down_siteLinkUp (s : State) (k : Fin 6) : Down s (s.siteLinkUp k) :=
  (down_siteConditions _ k).after (down_serveCheck s k)

theorem down_siteLinkDown (s : State) (k : Fin 6) : Down s (s.siteLinkDown k) := by
  unfold State.siteLinkDown
  split
  · exact Down.refl s
  · exact (down_siteConditions _ k).after (down_updSite s k _)
  · exact (down_siteConditions _ k).after (down_updSite s k _)

/-! ## Holdover Unit -/

theorem down_regrade (s : State) : Down s s.regrade :=
  Down.after (down_report _ recBudgetLow _ (by decide)) (Down.ite (Down.refl s)
    ((down_deliverSquelch _).after ((down_deliverGrade _).after (down_updHold s _))))

theorem down_giveHoldFreq (s : State) : Down s s.giveHoldFreq := by
  unfold State.giveHoldFreq
  split
  · exact Down.refl s
  · exact down_updServo s _

theorem down_enterHoldover (s : State) (g : Nat) : Down s (s.enterHoldover g) := by
  unfold State.enterHoldover
  split
  · exact Down.ite ((down_report _ recHistoryShort _ (by decide)).after (down_updHold s _)) (down_updHold s _)
  · exact down_updHold s _

theorem down_endHoldover (s : State) : Down s s.endHoldover := by
  unfold State.endHoldover
  split
  · exact Down.refl s
  · exact Down.ite ((down_report _ recHistoryShort _ (by decide)).after (down_updHold s _)) (down_updHold s _)

theorem down_holdoverChange (s : State) (prev new : ServoState) (g : Nat) : Down s (s.holdoverChange prev new g) := by
  have h (z : Option Nat) : Down s (s.updHold fun x => { x with settle := none, frozen := z }) := down_updHold s _
  cases new
  · exact h _
  · exact Down.after (Down.ite (down_updHold _ _) (Down.refl _)) (h _)
  · exact (down_endHoldover _).after (h _)
  · exact Down.after (Down.ite ((down_giveHoldFreq _).after (down_enterHoldover _ g))
      (Down.ite (down_giveHoldFreq _) (Down.refl _))) (h _)
  · exact Down.after (Down.ite (down_enterHoldover _ g) (Down.refl _)) (h _)

/-! ## Time Engine -/

theorem mem_putDefect (d x : Defect) (b : Bool) (ds : List Defect) :
    x ∈ putDefect d b ds ↔ if x = d then b = true else x ∈ ds := by
  unfold putDefect
  rw [List.mem_filter]
  have hall : x ∈ allDefects := by cases x <;> decide
  by_cases h : x = d
  · rw [if_pos h, if_pos h]; exact ⟨fun k => k.2, fun k => ⟨hall, k⟩⟩
  · rw [if_neg h, if_neg h]
    exact ⟨fun k => by simpa using k.2, fun k => ⟨hall, by simpa using k⟩⟩

theorem down_dropMismatch (s : State) : Down s s.dropMismatch := by
  refine ⟨rfl, rfl, rfl, rfl, rfl, rfl, rfl, rfl, fun r h => ?_, ⟨putDefect .todMismatch false (s.ref .gnss).defects,
    ?_, fun x => ?_⟩, fun _ => .inl rfl, fun _ _ => rfl, fun _ => rfl⟩
  · unfold State.dropMismatch; rw [State.ref_updRef, if_neg h]
  · unfold State.dropMismatch; rw [State.ref_updRef, if_pos rfl]
  · rw [mem_putDefect]
    by_cases h : x = Defect.todMismatch
    · simp [h]
    · simp [h]

theorem down_clearTransient (s : State) : Down s s.clearTransient :=
  (down_report _ recTransient _ (by decide)).after (down_updServo s _)

theorem down_raiseTransient (s : State) : Down s s.raiseTransient :=
  (down_report _ recTransient _ (by decide)).after (down_updServo s _)

theorem down_servoConditions (s : State) : Down s s.servoConditions :=
  (down_report _ recFreerun _ (by decide)).after (down_report s recHoldover _ (by decide))

theorem down_setServo (s : State) (new : ServoState) (g : Nat) : Down s (s.setServo new g) := by
  unfold State.setServo
  dsimp only
  refine Down.ite (Down.refl s) ?_
  refine (down_servoConditions _).after ((down_regrade _).after ?_)
  generalize h1 : (s.updServo fun x =>
    { x with state := new, ctr := { x.ctr with stateChanges := bump x.ctr.stateChanges } }) = s1
  have d1 : Down s s1 := h1 ▸ down_updServo s _
  have d2 : Down s (if new.tracking then s1 else s1.clearTransient) := Down.ite d1 (d1.trans (down_clearTransient s1))
  generalize (if new.tracking then s1 else s1.clearTransient) = s2 at d2 ⊢
  have d3 := d2.trans (down_holdoverChange s2 s.servo.state new g)
  generalize s2.holdoverChange s.servo.state new g = s3 at d3 ⊢
  have d4 : Down s (if new = .freqTrack then s3.updServo (fun x => { x with i := x.f }) else s3) :=
    Down.ite (d3.trans (down_updServo s3 _)) d3
  generalize (if new = .freqTrack then s3.updServo (fun x => { x with i := x.f }) else s3) = s4 at d4 ⊢
  exact Down.ite (d4.trans (down_dropMismatch s4)) d4

theorem down_enterLocked (s : State) (g : Nat) : Down s (s.enterLocked g) :=
  (down_setServo _ _ g).after (down_updServo s _)

theorem down_leaveLocked (s : State) (g : Nat) : Down s (s.leaveLocked g) :=
  (down_setServo _ _ g).after (down_updServo s _)

theorem down_takeLock (s : State) : Down s s.takeLock := Down.ite (down_enterLocked s _) (Down.refl s)

theorem down_takeUnlock (s : State) : Down s s.takeUnlock := Down.ite (down_leaveLocked s _) (Down.refl s)

theorem down_minutePassed (s : State) : Down s s.minutePassed :=
  Down.ite ((down_giveHoldFreq _).after (down_updHold s _)) (down_updHold s _)

/-! ## Realignment Unit and Selector -/

theorem down_putSlew (s : State) (slew : Option Bool) : Down s (s.putSlew slew) :=
  (down_regrade _).after (down_updReal s _)

theorem down_realSwitched (s : State) (r : Ref) : Down s (s.realSwitched r) := by
  unfold State.realSwitched
  split
  · exact down_updReal s _
  · exact (down_putSlew _ _).after (down_updReal s _)

theorem down_realLost (s : State) (r : Ref) : Down s (s.realLost r) := by
  unfold State.realLost
  split
  · exact down_updReal s _
  · exact (down_putSlew _ _).after (down_updReal s _)

theorem down_applyPhase (s : State) (new : Option Ref) (g : Nat) : Down s (s.applyPhase new g) := by
  unfold State.applyPhase
  dsimp only
  split
  · exact Down.refl s
  · exact (down_updReal _ _).after ((down_setServo _ _ g).after ((down_updServo _ _).after (down_updSel s _)))
  · exact (down_realLost _ _).after ((down_setServo _ _ g).after ((down_updServo _ _).after (down_updSel s _)))
  · exact Down.ite (Down.refl s) ((down_realSwitched _ _).after ((down_updServo _ _).after (down_updSel s _)))

theorem down_applyFreq (s : State) (new : Option Ref) (g : Nat) : Down s (s.applyFreq new g) := by
  unfold State.applyFreq
  dsimp only
  split
  · exact Down.refl s
  · unfold State.servoFreqGained
    split
    · exact (down_setServo _ _ g).after (down_updSel s _)
    · exact (down_setServo _ _ g).after (down_updSel s _)
    · exact down_updSel s _
    · exact down_updSel s _
    · exact down_updSel s _
  · unfold State.servoFreqLost
    split
    · exact (down_setServo _ _ g).after (down_updSel s _)
    · exact down_updSel s _
    · exact down_updSel s _
    · exact down_updSel s _
    · exact down_updSel s _
  · exact Down.ite (Down.refl s) ((down_updHold _ _).after (down_updSel s _))

theorem down_applyRoles (s : State) (p f : RoleResult) : Down s (s.applyRoles p f) := by
  unfold State.applyRoles
  dsimp only
  refine Down.ite (Down.ite ?_ ?_) ?_
  · exact (down_applyPhase _ _ _).after ((down_applyFreq _ _ _).after ((down_useFree _).after (down_updSel s _)))
  · exact (down_applyFreq _ _ _).after ((down_applyPhase _ _ _).after ((down_useFree _).after (down_updSel s _)))
  · exact (down_applyFreq _ _ _).after ((down_applyPhase _ _ _).after (down_updSel s _))

/-- A re-evaluation of both roles leaves upstream alone. -/
theorem down_reevaluateRoles (s : State) : Down s s.reevaluateRoles := down_applyRoles s _ _

/-! ## What a whole re-evaluation leaves alone -/

theorem UpstreamKept.refl (own : List Ref) (ownC : List Client) (s : State) : UpstreamKept own ownC s s :=
  ⟨rfl, rfl, rfl, rfl, rfl, rfl, rfl, fun _ _ => rfl, fun _ _ _ => rfl, fun _ => rfl, fun _ => .inl rfl, fun _ _ _ => rfl,
    fun _ => rfl⟩

theorem UpstreamKept.trans {own : List Ref} {ownC : List Client} {s t u : State} (a : UpstreamKept own ownC s t)
    (b : UpstreamKept own ownC t u) : UpstreamKept own ownC s u := by
  refine ⟨b.clock.trans a.clock, b.flow.trans a.flow, b.portMap.trans a.portMap, b.mgmt.trans a.mgmt,
    b.pending.trans a.pending, b.receiver.trans a.receiver, b.window.trans a.window,
    fun c h => (b.sessions c h).trans (a.sessions c h), fun r h k => (b.refs r h k).trans (a.refs r h k), fun hg => ?_,
    fun p => ?_, fun i h k => (b.recs i h k).trans (a.recs i h k), fun k => (a.pins k).trans (b.pins k)⟩
  · have h := b.gnss hg
    rw [a.gnss hg] at h
    exact h
  · rcases a.ports p with h | ⟨hs, h⟩
    · rcases b.ports p with k | ⟨hk, k⟩
      · exact .inl (k.trans h)
      · exact .inr ⟨hk, by rw [k, h]⟩
    · rcases b.ports p with k | ⟨_, k⟩
      · exact .inr ⟨hs, by rw [k, h]⟩
      · exact .inr ⟨hs, by rw [k, h, withoutMarks_twice]⟩

/-- A frame with less of its own is a frame with more. -/
theorem UpstreamKept.mono {own own' : List Ref} {ownC ownC' : List Client} {s t : State} (a : UpstreamKept own ownC s t)
    (h : ∀ r, r ∈ own → r ∈ own') (k : ∀ c, c ∈ ownC → c ∈ ownC') : UpstreamKept own' ownC' s t :=
  ⟨a.clock, a.flow, a.portMap, a.mgmt, a.pending, a.receiver, a.window, fun c m => a.sessions c fun e => m (k c e),
    fun r m n => a.refs r (fun e => m (h r e)) n, fun m => a.gnss fun e => m (h _ e), a.ports,
    fun i m n => a.recs i m fun r e => n r (e.imp (h r) id), a.pins⟩

theorem Down.kept {s t : State} (a : Down s t) : UpstreamKept [] [] s t := by
  obtain ⟨d, hd, _⟩ := a.gref
  exact ⟨a.clock, a.flow, a.portMap, a.mgmt, a.pending, a.gnss, a.window,
    fun c _ => by unfold State.client; rw [a.sessions], fun r _ h => a.refs r h, fun _ => by rw [hd], a.ports,
    fun i h _ => a.recs i h, a.pins⟩

/-- A move of the GNSS state machine keeps what upstream holds. -/
theorem kept_gnss (s : State) (f : Reference → Reference)
    (h : f (s.ref .gnss) = { s.ref .gnss with
      state := (f (s.ref .gnss)).state, defects := (f (s.ref .gnss)).defects, qualify := (f (s.ref .gnss)).qualify
      holdOff := (f (s.ref .gnss)).holdOff, restore := (f (s.ref .gnss)).restore, ctr := (f (s.ref .gnss)).ctr }) :
    UpstreamKept [] [] s (s.updRef .gnss f) := by
  refine ⟨rfl, rfl, rfl, rfl, rfl, rfl, rfl, fun _ _ => rfl, fun r _ hr => ?_, fun _ => ?_, fun _ => .inl rfl,
    fun _ _ _ => rfl, fun _ => rfl⟩
  · rw [State.ref_updRef, if_neg hr]
  · rw [State.ref_updRef, if_pos rfl]
    exact h

theorem kept_refReport (s : State) : UpstreamKept [] [] s (s.refReport .gnss) := by
  refine ⟨rfl, rfl, rfl, rfl, rfl, rfl, rfl, fun _ _ => rfl, fun _ _ _ => rfl, fun _ => rfl, fun _ => .inl rfl,
    fun i h k => ?_, fun _ => rfl⟩
  refine report_record_ne s.stamp s.res _ _ _ s.alarm i (k .gnss (.inr rfl)) ?_
  intro e; rw [e] at h; exact absurd h (by decide)

theorem react_machine (res : Nat) (was : List Defect) (x : Reference) : x.react res was = { x with
    state := (x.react res was).state, defects := (x.react res was).defects, qualify := (x.react res was).qualify
    holdOff := (x.react res was).holdOff, restore := (x.react res was).restore, ctr := (x.react res was).ctr } := by
  unfold Reference.react Reference.toFailed Reference.toRestoring Reference.toQualified
  dsimp only
  split <;> repeat' (first | rfl | split)

theorem kept_reactWith (s : State) (was : List Defect) : UpstreamKept [] [] s (s.reactWith State.reevaluateRoles .gnss was) := by
  have h1 := kept_gnss s (fun _ => (s.ref .gnss).react s.res was) (react_machine s.res was (s.ref .gnss))
  unfold State.reactWith
  dsimp only
  generalize s.updRef .gnss (fun _ => (s.ref .gnss).react s.res was) = s1 at h1 ⊢
  split
  · exact h1.trans ((kept_refReport s1).trans ((down_reevaluateRoles _).kept.trans (down_pinsFallback _ _).kept))
  · split
    · exact h1.trans (kept_refReport s1)
    · exact h1

/-- A re-evaluation of both roles with all that follows from it leaves upstream alone. -/
theorem kept_reevaluate (s : State) : UpstreamKept [] [] s s.reevaluate := by
  unfold State.reevaluate State.answerFreerun
  split
  · exact (down_reevaluateRoles s).kept
  · exact (down_reevaluateRoles s).kept.trans (kept_reactWith _ _)

end Sys2Proof.Machine
end

