-- ==== Sys2Proof/Laws/Kept.lean ====
section
/-! SUPPORT. What an event of a reference or a Client Session leaves alone (`UpstreamKept`), and what it leaves in the
defect set of the reference itself. -/
namespace Sys2Proof.Machine
open Sys2Proof

theorem recRefFail_inj {a b : Ref} (h : recRefFail a = recRefFail b) : a = b := by
  revert h; cases a <;> cases b <;> decide

theorem recRefFail_up (r : Ref) : isDownstream (recRefFail r) = false := by cases r <;> decide

theorem kept_updRef (s : State) (r : Ref) (f : Reference → Reference) : UpstreamKept [r] [] s (s.updRef r f) := by
  refine ⟨rfl, rfl, rfl, rfl, rfl, rfl, rfl, fun _ _ => rfl, fun a h _ => ?_, fun h => ?_, fun _ => .inl rfl,
    fun _ _ _ => rfl, fun _ => rfl⟩
  · rw [State.ref_updRef, if_neg (by simpa using h)]
  · rw [State.ref_updRef, if_neg (by simpa using h)]

theorem kept_updClient (s : State) (c : Client) (f : ClientSession → ClientSession) :
    UpstreamKept [] [c] s (s.updClient c f) := by
  refine ⟨rfl, rfl, rfl, rfl, rfl, rfl, rfl, fun a h => ?_, fun _ _ _ => rfl, fun _ => rfl, fun _ => .inl rfl,
    fun _ _ _ => rfl, fun _ => rfl⟩
  rw [State.client_updClient, if_neg (by simpa using h)]

theorem kept_reportOf (s : State) (r : Ref) : UpstreamKept [r] [] s (s.refReport r) := by
  refine ⟨rfl, rfl, rfl, rfl, rfl, rfl, rfl, fun _ _ => rfl, fun _ _ _ => rfl, fun _ => rfl, fun _ => .inl rfl,
    fun i h k => ?_, fun _ => rfl⟩
  refine report_record_ne s.stamp s.res _ _ _ s.alarm i (k r (.inl (by simp))) ?_
  intro e; rw [e] at h; exact absurd h (by decide)

theorem kept_announce (s : State) (r : Ref) : UpstreamKept [r] [] s (s.announce r) := by
  unfold State.announce State.announceWith
  refine (kept_reportOf s r).trans ((((kept_reevaluate _).trans (down_pinsFallback _ r).kept)).mono ?_ ?_) <;> simp

theorem kept_react (s : State) (r : Ref) (was : List Defect) :
    UpstreamKept [r] [] s (s.reactWith State.reevaluate r was) := by
  unfold State.reactWith
  dsimp only
  have h1 := kept_updRef s r fun _ => (s.ref r).react s.res was
  generalize s.updRef r (fun _ => (s.ref r).react s.res was) = s1 at h1 ⊢
  split
  · exact h1.trans (kept_announce s1 r)
  · split
    · exact h1.trans (kept_reportOf s1 r)
    · exact h1

theorem kept_judge (s : State) (r : Ref) (grade : Option Nat) (f : List Defect → List Defect) :
    UpstreamKept [r] [] s (s.judge r grade f) := by
  unfold State.judge
  dsimp only
  split
  · exact UpstreamKept.refl _ _ s
  · generalize putDefect .gradeLow (phaseCapable r && gradeIsLow grade (s.ref r).cfg.minGrade) (f (s.ref r).defects) = ds
    have h1 := kept_updRef s r fun y =>
      { y with grade := grade, defects := ds, winVoid := y.winVoid || ds.contains .signalLost }
    generalize s.updRef r (fun y =>
      { y with grade := grade, defects := ds, winVoid := y.winVoid || ds.contains .signalLost }) = s1 at h1 ⊢
    have h2 : UpstreamKept [r] [] s (if ds = (s.ref r).defects then s1
        else s1.reactWith State.reevaluate r (s.ref r).defects) := by
      split
      · exact h1
      · exact h1.trans (kept_react s1 r _)
    generalize (if ds = (s.ref r).defects then s1
        else s1.reactWith State.reevaluate r (s.ref r).defects) = s2 at h2 ⊢
    split
    · exact h2.trans ((kept_reevaluate s2).mono (by simp) (by simp))
    · exact h2

theorem kept_setDefects (s : State) (r : Ref) (f : List Defect → List Defect) :
    UpstreamKept [r] [] s (s.setDefects r f) := kept_judge s r _ f

theorem kept_qualifyRef (s : State) (r : Ref) : UpstreamKept [r] [] s (s.qualifyRef r) :=
  (kept_updRef s r _).trans (kept_announce _ r)

theorem kept_holdOffExpired (s : State) (r : Ref) : UpstreamKept [r] [] s (s.holdOffExpired r) :=
  (kept_updRef s r _).trans (kept_announce _ r)

theorem kept_measured (s : State) (r : Ref) : UpstreamKept [r] [] s (s.measured r) := by
  unfold State.measured
  dsimp only
  split
  · exact kept_qualifyRef s r
  · exact UpstreamKept.refl _ _ s

theorem kept_qualifyExpired (s : State) (r : Ref) : UpstreamKept [r] [] s (s.qualifyExpired r) := by
  unfold State.qualifyExpired
  dsimp only
  split
  · exact kept_qualifyRef s r
  · exact kept_updRef s r _

theorem kept_syncPkt (s : State) (c : Client) : UpstreamKept [clientRef c] [] s (s.syncPkt c) := by
  unfold State.syncPkt
  exact kept_judge s _ _ _

theorem kept_moveClient (s : State) (c : Client) (f : ClientSession → ClientSession) :
    UpstreamKept [clientRef c] [c] s (s.moveClient c f) := by
  unfold State.moveClient
  exact ((kept_updClient s c f).mono (by simp) (by simp)).trans ((kept_syncPkt _ c).mono (by simp) (by simp))

/-! ## The defect set of the reference itself -/

/-- A re-evaluation moves no defect of any reference but TOD_MISMATCH. -/
theorem reevaluateRoles_defects (s : State) (r : Ref) (d : Defect) (h : d ≠ .todMismatch) :
    d ∈ (s.reevaluateRoles.ref r).defects ↔ d ∈ (s.ref r).defects := by
  have k := down_reevaluateRoles s
  by_cases e : r = .gnss
  · subst e
    obtain ⟨ds, hd, hm⟩ := k.gref
    rw [hd]
    exact ⟨fun x => ((hm d).1 x).1, fun x => (hm d).2 ⟨x, .inl h⟩⟩
  · rw [k.refs r e]

theorem Reference.react_defects (res : Nat) (was : List Defect) (x : Reference) : (x.react res was).defects = x.defects := by
  unfold Reference.react Reference.toFailed Reference.toRestoring Reference.toQualified
  dsimp only
  split <;> repeat' (first | rfl | split)

theorem pinsFallback_ref (s : State) (r x : Ref) : (s.pinsFallback r).ref x = s.ref x := by
  unfold State.pinsFallback
  have h : ∀ (l : List (Fin 4)) (f : State → Fin 4 → State), (∀ t k, (f t k).ref x = t.ref x) → ∀ t : State,
      (l.foldl f t).ref x = t.ref x := by
    intro l f hf
    induction l with
    | nil => exact fun _ => rfl
    | cons a l ih => exact fun t => (ih (f t a)).trans (hf t a)
  apply h
  exact fun _ _ => rfl

theorem reactWith_defects {reeval : State → State} (s : State) (r a : Ref) (was : List Defect) (d : Defect)
    (h : ∀ t : State, d ∈ ((reeval t).ref a).defects ↔ d ∈ (t.ref a).defects) :
    d ∈ ((s.reactWith reeval r was).ref a).defects ↔ d ∈ (s.ref a).defects := by
  have h1 : d ∈ ((s.updRef r fun _ => (s.ref r).react s.res was).ref a).defects ↔ d ∈ (s.ref a).defects := by
    rw [State.ref_updRef]
    split
    · next e => subst e; rw [Reference.react_defects]
    · rfl
  unfold State.reactWith State.announceWith
  dsimp only
  split
  · rw [pinsFallback_ref, h]
    exact h1
  · split
    · exact h1
    · exact h1

theorem reevaluate_defects (s : State) (r : Ref) (d : Defect) (h : d ≠ .todMismatch) :
    d ∈ (s.reevaluate.ref r).defects ↔ d ∈ (s.ref r).defects := by
  unfold State.reevaluate State.answerFreerun
  split
  · exact reevaluateRoles_defects s r d h
  · rw [reactWith_defects _ .gnss r _ d fun t => reevaluateRoles_defects t r d h]
    exact reevaluateRoles_defects s r d h

/-- Judging an enabled reference gives it the defects asked for; GRADE_LOW follows the grade. -/
theorem judge_defects (s : State) (r : Ref) (grade : Option Nat) (f : List Defect → List Defect) (d : Defect)
    (he : (s.ref r).state ≠ .disabled) (h : d ≠ .todMismatch) : d ∈ ((s.judge r grade f).ref r).defects ↔
      d ∈ putDefect .gradeLow (phaseCapable r && gradeIsLow grade (s.ref r).cfg.minGrade) (f (s.ref r).defects) := by
  unfold State.judge
  dsimp only
  rw [if_neg he]
  generalize putDefect .gradeLow (phaseCapable r && gradeIsLow grade (s.ref r).cfg.minGrade) (f (s.ref r).defects) = ds
  have h1 : d ∈ ((s.updRef r fun y =>
      { y with grade := grade, defects := ds, winVoid := y.winVoid || ds.contains .signalLost }).ref r).defects ↔
      d ∈ ds := by rw [State.ref_updRef, if_pos rfl]
  generalize s.updRef r (fun y =>
    { y with grade := grade, defects := ds, winVoid := y.winVoid || ds.contains .signalLost }) = s1 at h1 ⊢
  have h2 : d ∈ ((if ds = (s.ref r).defects then s1
      else s1.reactWith State.reevaluate r (s.ref r).defects).ref r).defects ↔ d ∈ ds := by
    split
    · exact h1
    · rw [reactWith_defects _ r r _ d fun t => reevaluate_defects t r d h]
      exact h1
  generalize (if ds = (s.ref r).defects then s1
    else s1.reactWith State.reevaluate r (s.ref r).defects) = s2 at h2 ⊢
  split
  · rw [reevaluate_defects _ _ _ h]
    exact h2
  · exact h2

end Sys2Proof.Machine
end

