-- ==== Sys2Proof/Laws/Put.lean ====
section
/-! SUPPORT. Fields read back as they were written, and what the completion of a management command comes to: one lemma
for every reader of a field, one for every command answered, and one for a PUT of one entry, written or refused. -/
namespace Sys2Proof.Machine
open Sys2Proof

/-! ## Numbers in bytes -/

@[simp] theorem beBytes_length (n v : Nat) : (beBytes n v).length = n := by
  induction n generalizing v with
  | zero => rfl
  | succ n ih => simp [beBytes, ih]

@[simp] theorem beBytesInt_length (n : Nat) (v : Int) : (beBytesInt n v).length = n := beBytes_length _ _

theorem foldl_bytes (b : List Byte) : ∀ x : Nat,
    b.foldl (fun a c => a * 256 + c.toNat) x = x * 256 ^ b.length + beNat b := by
  unfold beNat
  induction b with
  | nil => intro x; simp
  | cons c b ih =>
    intro x
    rw [List.foldl_cons, List.foldl_cons, ih, ih (0 * 256 + c.toNat), List.length_cons, Nat.pow_succ]
    simp only [Nat.add_mul, Nat.zero_mul, Nat.zero_add, Nat.mul_comm (256 ^ b.length) 256, Nat.mul_assoc, Nat.add_assoc]

theorem beNat_append (a b : List Byte) : beNat (a ++ b) = beNat a * 256 ^ b.length + beNat b := by
  show (a ++ b).foldl _ 0 = _
  rw [List.foldl_append]
  exact foldl_bytes b _

theorem beNat_beBytes (n v : Nat) : beNat (beBytes n v) = v % 256 ^ n := by
  induction n generalizing v with
  | zero => simp [beBytes, beNat, Nat.mod_one]
  | succ n ih =>
    have one : beNat [BitVec.ofNat 8 v] = v % 256 := by simp [beNat]
    rw [beBytes, beNat_append, ih, one, List.length_singleton, Nat.pow_one, Nat.pow_succ, Nat.mul_comm (256 ^ n) 256,
      Nat.mod_mul]
    omega

theorem beInt_beBytesInt (v : Int) (h : isField v) : beInt (beBytesInt 8 v) = v := by
  have span : (2 : Nat) ^ (8 * 8) = 18446744073709551616 := by decide
  have span' : (256 : Nat) ^ 8 = 18446744073709551616 := by decide
  have h1 : -9223372036854775808 ≤ v := h.1
  have h2 : v < 9223372036854775808 := h.2
  unfold beInt beBytesInt
  rw [beBytes_length, beNat_beBytes, span, span']
  dsimp only
  split <;> omega

/-! ## Fields read back (R205) -/

theorem takeByte_cons (b : Byte) (r : List Byte) : takeByte (b :: r) = some (b.toNat, r) := rfl

theorem takeNum_encNum (a : Int) (h : isField a) (r : List Byte) : takeNum (encNum a ++ r) = some (a, r) := by
  unfold takeNum encNum
  rw [if_neg (by simp), List.take_left' (beBytesInt_length 8 a), List.drop_left' (beBytesInt_length 8 a),
    beInt_beBytesInt a h]

theorem takeBool_encBool (b : Bool) (r : List Byte) : takeBool (encBool b ++ r) = some (b, r) := by cases b <;> rfl

theorem takeOptNum_encOptInt (a : Option Int) (h : isOptField a) (r : List Byte) :
    takeOptNum (encOptInt a ++ r) = some (a, r) := by
  cases a with
  | none => rfl
  | some x =>
    have e : takeOptNum (encOptInt (some x) ++ r) = (takeNum (encNum x ++ r)).map fun y => (some y.1, y.2) := rfl
    rw [e, takeNum_encNum x (h x rfl)]
    rfl

theorem takeAddr_encAddr (a : Addr) (r : List Byte) : takeAddr (encAddr a ++ r) = some (a, r) := by
  unfold takeAddr encAddr
  rw [if_neg (by simp), List.take_left' (beBytes_length 6 a.toNat), List.drop_left' (beBytes_length 6 a.toNat),
    beNat_beBytes, Nat.mod_eq_of_lt (show a.toNat < 256 ^ 6 from a.isLt), BitVec.ofNat_toNat, BitVec.setWidth_eq]

theorem takeOptAddr_encOpt (a : Option Addr) (r : List Byte) :
    takeOpt 6 takeAddr (encOpt 6 encAddr a ++ r) = some (a, r) := by
  cases a with
  | none => rfl
  | some x =>
    have e : takeOpt 6 takeAddr (encOpt 6 encAddr (some x) ++ r) =
        (takeAddr (encAddr x ++ r)).map fun y => (some y.1, y.2) := rfl
    rw [e, takeAddr_encAddr]
    rfl

theorem takePorts_encPorts (e : EgressSet) (r : List Byte) : takePorts true (encPorts e ++ r) = some (e, r) := by
  obtain ⟨p, u⟩ := e
  cases u <;> rfl

/-- A port set without ACTIVE_UPLINK is read whether or not the field takes ACTIVE_UPLINK. -/
theorem takePorts_plain (p : PortSet) (b : Bool) (r : List Byte) :
    takePorts b (encPorts ⟨p, false⟩ ++ r) = some (⟨p, false⟩, r) := rfl

theorem takeIn_encIn {α : Type} [DecidableEq α] (set : List α) (a : α) (h : a ∈ set) (small : set.length ≤ 256)
    (r : List Byte) : takeIn set (encIn set a ++ r) = some (a, r) := by
  have hi : set.idxOf a < set.length := List.idxOf_lt_length_iff.mpr h
  have hn : (BitVec.ofNat 8 (set.idxOf a)).toNat = set.idxOf a := by
    rw [BitVec.toNat_ofNat]
    exact Nat.mod_eq_of_lt (by omega)
  unfold takeIn
  show (match some ((BitVec.ofNat 8 (set.idxOf a)).toNat, r) with
    | some (k, rest) => (set[k]?).map fun b => (b, rest)
    | none => none) = _
  rw [hn]
  dsimp only
  rw [List.getElem?_eq_getElem hi, List.getElem_idxOf hi]
  rfl

theorem takeFirst_encFirst (b : Bool) (r : List Byte) : takeFirst (encFirst b ++ r) = some (b, r) := by cases b <;> rfl

theorem takeFlag_encIn (b : Bool) (r : List Byte) : takeIn [false, true] (encIn [false, true] b ++ r) = some (b, r) := by
  cases b <;> rfl

/-- Bytes that are items of a set are read as those items. -/
theorem takeBytes_map {α : Type} (f : α → Nat) (small : ∀ a, f a < 256) (l : List α) (r : List Byte) :
    takeBytes l.length (l.flatMap (fun a => beBytes 1 (f a)) ++ r) = some (l.map f, r) := by
  induction l with
  | nil => rfl
  | cons a l ih =>
    have hb : (BitVec.ofNat 8 (f a)).toNat = f a := by
      rw [BitVec.toNat_ofNat]
      exact Nat.mod_eq_of_lt (small a)
    show (takeBytes l.length (l.flatMap (fun a => beBytes 1 (f a)) ++ r)).map (fun x => ((BitVec.ofNat 8 (f a)).toNat :: x.1, x.2)) = _
    rw [ih, hb]
    rfl

theorem takeRefs_encList (l : List Ref) (h : l.length < 256) (r : List Byte) :
    takeRefs (encList encRef l ++ r) = some (l, r) := by
  have hn : (BitVec.ofNat 8 l.length).toNat = l.length := by
    rw [BitVec.toNat_ofNat]
    exact Nat.mod_eq_of_lt h
  have hl : takeByteList (encList encRef l ++ r) = some (l.map fun a => (refIdx a).val, r) := by
    show takeBytes (BitVec.ofNat 8 l.length).toNat (l.flatMap encRef ++ r) = _
    rw [hn]
    exact takeBytes_map (fun a => (refIdx a).val) (fun a => by cases a <;> decide) l r
  have hm : (l.map fun a => (refIdx a).val).mapM refOfNat? = some l := by
    clear hn hl h
    induction l with
    | nil => rfl
    | cons a l ih =>
      have one : refOfNat? (refIdx a).val = some a := by cases a <;> rfl
      rw [List.map_cons, List.mapM_cons, ih, one]
      rfl
  unfold takeRefs
  rw [hl]
  dsimp only
  rw [hm]
  rfl

/-! ## Stored numbers (00_scope.md, "Parameters and enumerations") -/

theorem clampN_eq_held (lo hi : Nat) (a : Int) : clampN lo hi a = held lo hi a := rfl

theorem clampMag_eq_heldMag (limit : Nat) (a : Int) : clampMag limit a = heldMag limit a := rfl

/-- A number lies outside its range exactly when it is not kept. -/
theorem outside_iff (lo hi a : Int) : outside lo hi a = true ↔ ¬ kept lo hi a := by
  unfold outside kept
  rw [decide_eq_true_eq]
  omega

theorem outsideOpt_iff (lo hi : Int) (a : Option Int) :
    outsideOpt lo hi a = true ↔ ¬ ∀ y, a = some y → kept lo hi y := by
  cases a with
  | none => simp [outsideOpt]
  | some x => simpa [outsideOpt] using outside_iff lo hi x

/-! ## Commands answered (R191, R192) -/

/-- An offer to a Bulk Queue, as a whole (R16). -/
theorem State.offer_bulk (s : State) (p : Port) (f : QFrame) :
    s.offer p .bulk f = (s.updPort p (PortState.offered s.res .bulk f), (s.port p).bulkOpen) := by
  have same (g : PortState → PortState) (h : g (s.port p) = PortState.offered s.res .bulk f (s.port p)) :
      s.updPort p g = s.updPort p (PortState.offered s.res .bulk f) := by
    unfold State.updPort updAt
    have h' : g (s.ports.get (portIdx p)) = PortState.offered s.res .bulk f (s.ports.get (portIdx p)) := h
    rw [h']
  unfold State.offer PortState.bulkOpen
  dsimp only
  by_cases hl : (s.port p).linkUp = true
  · by_cases hq : (s.port p).bulkQ.length < 48
    · rw [hl, if_neg (by decide), if_pos (by exact hq)]
      refine Prod.ext (same _ ?_) (by simp [hq])
      unfold PortState.offered
      rw [if_neg (by simp [hl])]
      dsimp only
      rw [if_pos hq]
    · rw [hl, if_neg (by decide), if_neg (by exact hq)]
      refine Prod.ext (same _ ?_) (by simp [hq])
      unfold PortState.offered
      rw [if_neg (by simp [hl])]
      dsimp only
      rw [if_neg hq]
  · have hl' : (s.port p).linkUp = false := by simpa using hl
    rw [hl', if_pos (by decide)]
    refine Prod.ext (same _ ?_) (by simp)
    unfold PortState.offered
    rw [if_pos hl']

/-- A command answered without a restart. -/
theorem State.answer_answered (s u : State) (c : Command) (status : Nat) (results : List Byte) :
    Answered u (s.answer c { state := u, status := status, results := results }) s.mgmt.station c status results := by
  have hp : ((u.useFree.updMgmt (Mgmt.finish none)).port c.ingress) = u.port c.ingress := rfl
  have len : ∀ r : List Byte, (beBytes 2 c.tag ++ beBytes 1 c.type ++ beBytes 1 status ++ r).length = 4 + r.length := by
    intro r; simp only [List.length_append, beBytes_length]
  have hb : u.responseFrame s.mgmt.station c status results =
      u.responseTo s.mgmt.station c status (Config.managementFlags u.free).toNat results := by
    unfold State.responseFrame State.responseTo builtFrame
    simp only [len]
    rfl
  unfold State.answer
  dsimp only
  rw [State.offer_bulk, hp]
  cases ho : (u.port c.ingress).bulkOpen
  all_goals
    refine ⟨rfl, ?_, ?_, ⟨_, (Config.managementFlags u.free).isLt, ?_⟩⟩
    · show Mgmt.mk .. = _
      simp only [ho]
      rfl
    · intro q hq
      show (State.updPort _ _ _).port q = _
      rw [State.port_updPort, if_neg hq]; rfl
    · show (State.updPort _ _ _).port _ = _
      rw [State.port_updPort, if_pos rfl, hb]; rfl

/-- The completion of the head command, once what it runs to is known. -/
theorem State.complete_answered (s : State) (dt : Nat) (kind : Command → Bool) (run : State → Command → Reply)
    (c : Command) (rest : List Command) (h : s.headIs c rest) (hk : kind c = true) (u : State) (status : Nat)
    (results : List Byte) (hr : run (s.pass dt) c = { state := u, status := status, results := results }) :
    Answered u (s.complete dt kind run) s.mgmt.station c status results := by
  have head : s.complete dt kind run = (s.pass dt).answer c (run (s.pass dt) c) := by
    unfold State.complete
    rw [h.1]
    dsimp only
    rw [hk, h.2]
    rfl
  rw [head, hr]
  exact State.answer_answered (s.pass dt) u c status results

/-! ## A PUT of one entry (R196) -/

/-- The run of a PUT of one entry, by what the entry comes to. -/
theorem State.putRun_one (s : State) (p : Port) (table index : Nat) (fields : List Byte)
    (small : fields.length < 65536) :
    State.putRun p table 1 index (beBytes 2 index ++ beBytes 2 fields.length ++ fields) ⟨s, false, 0, [], none⟩ =
      match s.putEntry p table index fields with
      | .refused status => ⟨s, false, 0, [], some (index, status)⟩
      | .written u adjusted => ⟨u, adjusted, 1, u.encEntry table index, none⟩ := by
  have len : beNat (slice 2 2 (beBytes 2 index ++ beBytes 2 fields.length ++ fields)) = fields.length := by
    unfold slice
    rw [List.append_assoc, List.drop_left' (beBytes_length 2 index), List.take_left' (beBytes_length 2 fields.length),
      beNat_beBytes]
    exact Nat.mod_eq_of_lt small
  have hd : (beBytes 2 index ++ beBytes 2 fields.length).length = 4 := by simp
  have split : splitEntry (beBytes 2 index ++ beBytes 2 fields.length ++ fields) = some (fields, []) := by
    unfold splitEntry
    dsimp only
    rw [len, if_neg (by simp; omega)]
    unfold slice
    rw [List.drop_left' hd, List.take_length, List.drop_of_length_le (by simp; omega)]
  unfold State.putRun
  rw [split]
  dsimp only
  cases s.putEntry p table index fields with
  | refused status => rfl
  | written u adjusted => unfold State.putRun; simp

/-- What the arguments of a PUT of one entry come to, for an entry its table has or takes. -/
theorem State.putsOne_run (s : State) (v : State) (c : Command) (table index : Nat) (fields : List Byte)
    (h : s.putsOne c table index fields) (ht : table < 26) (hw : writable table = true)
    (hi : index < v.putStarts table) (hi' : index < 65536) :
    runPut v c = (State.putRun c.ingress table 1 index (beBytes 2 index ++ beBytes 2 fields.length ++ fields)
      ⟨v, false, 0, [], none⟩).reply := by
  obtain ⟨-, -, ha⟩ := h
  have a0 : c.arg 0 1 = table := by
    unfold Command.arg slice
    rw [ha]
    simp only [List.append_assoc]
    rw [List.drop_zero, List.take_left' (beBytes_length 1 table), beNat_beBytes]
    exact Nat.mod_eq_of_lt (by omega)
  have a1 : c.arg 1 2 = index := by
    unfold Command.arg slice
    rw [ha]
    simp only [List.append_assoc]
    rw [List.drop_left' (beBytes_length 1 table), List.take_left' (beBytes_length 2 index), beNat_beBytes]
    exact Nat.mod_eq_of_lt hi'
  have three : (beBytes 1 table ++ beBytes 2 index).length = 3 := by simp
  have a3 : c.arg 3 1 = 1 := by
    unfold Command.arg slice
    rw [ha, List.append_assoc, List.append_assoc, List.append_assoc, List.drop_left' three]
    rfl
  have a4 : c.args.drop 4 = beBytes 2 index ++ beBytes 2 fields.length ++ fields := by
    have four : (beBytes 1 table ++ beBytes 2 index ++ [1]).length = 4 := by simp
    rw [ha, List.append_assoc (beBytes 1 table ++ beBytes 2 index ++ [1]), List.append_assoc (beBytes 1 table ++ beBytes 2 index ++ [1]),
      List.drop_left' four]
  have size : ¬ (1 = 0 ∨ blockSize table < 1) := by
    have : ∀ t : Fin 26, ¬ (1 = 0 ∨ blockSize t.val < 1) := by decide
    exact this ⟨table, ht⟩
  unfold runPut
  dsimp only
  rw [a0, a1, a3, a4, if_neg (by unfold tableCount; omega), if_neg (by simp [hw]), if_neg (by omega), if_neg size]

/-! ## A run of several entries (R196) -/

/-- The index of the j-th entry of a run that starts at `index` (R196): a run goes round within its block. -/
def runIndex (table index j : Nat) : Nat :=
  index / blockSize table * blockSize table + (index % blockSize table + j) % blockSize table

theorem blockSize_pos (table : Nat) : 0 < blockSize table := by
  unfold blockSize
  split <;> decide

theorem runIndex_zero (table index : Nat) : runIndex table index 0 = index := by
  unfold runIndex
  rw [Nat.add_zero, Nat.mod_mod, Nat.mul_comm]
  exact Nat.div_add_mod index _

theorem runIndex_next (table index j : Nat) : runIndex table (nextInBlock table index) j = runIndex table index (j + 1) := by
  unfold runIndex nextInBlock
  dsimp only
  have pos := blockSize_pos table
  generalize blockSize table = size at pos
  have low := Nat.mod_lt (index + 1) pos
  rw [Nat.add_comm (index / size * size), Nat.add_mul_div_right _ _ pos, Nat.add_mul_mod_self_right,
    Nat.div_eq_of_lt low, Nat.zero_add, Nat.mod_mod, Nat.mod_add_mod, Nat.mod_add_mod, Nat.add_right_comm, Nat.add_assoc]

/-- One entry of a run as its arguments carry it (11). -/
def runBytes (x : Nat × List Byte) : List Byte := beBytes 2 x.1 ++ beBytes 2 x.2.length ++ x.2

theorem splitEntry_runBytes (x : Nat × List Byte) (rest : List Byte) (small : x.2.length < 65536) :
    splitEntry (runBytes x ++ rest) = some (x.2, rest) := by
  have len : beNat (slice 2 2 (runBytes x ++ rest)) = x.2.length := by
    unfold slice runBytes
    rw [List.append_assoc, List.append_assoc, List.drop_left' (beBytes_length 2 x.1),
      List.take_left' (beBytes_length 2 x.2.length), beNat_beBytes]
    exact Nat.mod_eq_of_lt small
  have four : (beBytes 2 x.1 ++ beBytes 2 x.2.length).length = 4 := by simp
  unfold splitEntry
  dsimp only
  rw [len, if_neg (by unfold runBytes; simp; omega)]
  congr 2
  · unfold slice runBytes
    rw [List.append_assoc, List.drop_left' four, List.take_left' rfl]
  · unfold runBytes
    rw [List.drop_left' (by simp; omega)]

/-- All that a run can do (R196): its first `k` entries are written one after the other, each in the state the one before
left, and the next, if there is one, is refused and ends it. -/
theorem State.putRun_spec (p : Port) (table : Nat) (run : List (Nat × List Byte)) (index : Nat) (acc : RunResult)
    (clean : acc.refused = none) (small : ∀ x, x ∈ run → x.2.length < 65536) :
    ∃ (u : Nat → State) (clamped : Nat → Bool) (k : Nat), u 0 = acc.state ∧ k ≤ run.length ∧
      (∀ j x, j < k → run[j]? = some x →
        (u j).putEntry p table (runIndex table index j) x.2 = .written (u (j + 1)) (clamped j)) ∧
      (let r := State.putRun p table run.length index (run.flatMap runBytes) acc
       r.state = u k ∧ r.count = acc.count + k ∧
       r.stored = acc.stored ++ (List.range k).flatMap (fun j => (u (j + 1)).encEntry table (runIndex table index j)) ∧
       (∀ x, run[k]? = some x → ∃ status,
         (u k).putEntry p table (runIndex table index k) x.2 = .refused status ∧
           r.refused = some (runIndex table index k, status)) ∧
       (k = run.length → r.refused = none ∧ r.adjusted = (acc.adjusted || (List.range k).any clamped))) := by
  induction run generalizing index acc with
  | nil =>
    refine ⟨fun _ => acc.state, fun _ => false, 0, rfl, Nat.le_refl 0, fun j _ h => absurd h (Nat.not_lt_zero j), rfl, rfl,
      ?_, fun _ h => (by cases h), fun _ => ⟨clean, ?_⟩⟩
    · exact (List.append_nil acc.stored).symm
    · exact (Bool.or_false acc.adjusted).symm
  | cons x run ih =>
    have sp : splitEntry ((x :: run).flatMap runBytes) = some (x.2, run.flatMap runBytes) :=
      splitEntry_runBytes x _ (small x List.mem_cons_self)
    cases he : acc.state.putEntry p table index x.2 with
    | refused status =>
      have hr : State.putRun p table (x :: run).length index ((x :: run).flatMap runBytes) acc =
          { acc with refused := some (index, status) } := by
        show State.putRun p table (run.length + 1) index _ acc = _
        unfold State.putRun
        rw [sp]
        dsimp only
        rw [he]
      rw [hr]
      refine ⟨fun _ => acc.state, fun _ => false, 0, rfl, Nat.zero_le _, fun j _ h => absurd h (Nat.not_lt_zero j), rfl, rfl,
        (List.append_nil acc.stored).symm, fun y hy => ?_, fun h => absurd h (Nat.succ_ne_zero _).symm⟩
      cases hy
      exact ⟨status, by rw [runIndex_zero]; exact he, by rw [runIndex_zero]⟩
    | written s adjusted =>
      have hr : State.putRun p table (x :: run).length index ((x :: run).flatMap runBytes) acc =
          State.putRun p table run.length (nextInBlock table index) (run.flatMap runBytes)
            { acc with
              state := s, adjusted := acc.adjusted || adjusted, count := acc.count + 1
              stored := acc.stored ++ s.encEntry table index } := by
        show State.putRun p table (run.length + 1) index _ acc = _
        conv_lhs => unfold State.putRun
        rw [sp]
        dsimp only
        rw [he]
      obtain ⟨u, clamped, k, h0, hk, hw, r1, r2, r3, r4, r5⟩ :=
        ih (nextInBlock table index) { acc with
          state := s, adjusted := acc.adjusted || adjusted, count := acc.count + 1
          stored := acc.stored ++ s.encEntry table index } clean fun y hy => small y (List.mem_cons_of_mem x hy)
      simp only [runIndex_next] at hw r3 r4
      rw [hr]
      refine ⟨fun j => match j with | 0 => acc.state | i + 1 => u i,
        fun j => match j with | 0 => adjusted | i + 1 => clamped i, k + 1, rfl, Nat.succ_le_succ hk, fun j y hj hy => ?_,
        r1, ?_, ?_, fun y hy => r4 y hy, fun hl => ?_⟩
      · cases j with
        | zero => cases hy; dsimp only; rw [runIndex_zero, h0]; exact he
        | succ i => exact hw i y (Nat.lt_of_succ_lt_succ hj) hy
      · rw [r2]; dsimp only; omega
      · rw [r3, List.range_succ_eq_map, List.flatMap_cons, List.flatMap_map, runIndex_zero]
        dsimp only
        rw [h0, List.append_assoc]
      · obtain ⟨q1, q2⟩ := r5 (Nat.succ.inj hl)
        refine ⟨q1, ?_⟩
        rw [q2, List.range_succ_eq_map, List.any_cons, List.any_map, Bool.or_assoc]
        rfl

theorem putsOne_type (s : State) (c : Command) (table index : Nat) (fields : List Byte)
    (h : s.putsOne c table index fields) : ofType 0x12 c = true := by
  unfold ofType
  simp [h.2.1]

/-- A PUT of one entry that its table takes (R196): answered OK or ADJUSTED with the entry as stored. -/
theorem put_written (s : State) (dt : Nat) (c : Command) (table index : Nat) (fields : List Byte) (u : State)
    (adjusted : Bool) (exact' : Prop) (h : s.putsOne c table index fields) (ht : table < 26)
    (hw : writable table = true) (hi : index < (s.pass dt).putStarts table) (hi' : index < 65536)
    (small : fields.length < 65536)
    (he : (s.pass dt).putEntry c.ingress table index fields = .written u adjusted)
    (hx : adjusted = true ↔ ¬ exact') :
    ∃ t, exec (.put dt) s = .next t ∧ PutStored u t s.mgmt.station c table index exact' := by
  obtain ⟨rest, hr⟩ := h.1
  have run := State.putsOne_run s (s.pass dt) c table index fields h ht hw hi hi'
  rw [State.putRun_one _ _ _ _ _ small, he] at run
  refine ⟨_, rfl, stDone adjusted, fun a => ?_, fun a => ?_,
    State.complete_answered s dt _ _ c rest hr (putsOne_type s c table index fields h) u _ _ (run.trans ?_)⟩
  · have : adjusted = false := by
      cases adjusted with
      | false => rfl
      | true => exact absurd a (hx.mp rfl)
    rw [this]; rfl
  · rw [hx.mpr a]; rfl
  · unfold RunResult.reply putResults
    dsimp only
    congr 1

/-- A PUT of one entry that its table refuses (R196): nothing changed, and the refused index answered. -/
theorem put_refused (s : State) (dt : Nat) (c : Command) (table index : Nat) (fields : List Byte) (status : Nat)
    (h : s.putsOne c table index fields) (ht : table < 26)
    (hw : writable table = true) (hi : index < (s.pass dt).putStarts table) (hi' : index < 65536)
    (small : fields.length < 65536)
    (he : (s.pass dt).putEntry c.ingress table index fields = .refused status) :
    ∃ t, exec (.put dt) s = .next t ∧ PutRefused (s.pass dt) t s.mgmt.station c index status := by
  obtain ⟨rest, hr⟩ := h.1
  have run := State.putsOne_run s (s.pass dt) c table index fields h ht hw hi hi'
  rw [State.putRun_one _ _ _ _ _ small, he] at run
  refine ⟨_, rfl,
    State.complete_answered s dt _ _ c rest hr (putsOne_type s c table index fields h) _ _ _ (run.trans ?_)⟩
  unfold RunResult.reply putResults
  rfl

end Sys2Proof.Machine
end

