-- ==== Sys2Proof/WellFormed.lean ====
section
/-! DEFINITION. When a command's operands make sense. The operand types carry most of it; what is left are the two
edge counts and the order of the boundary work. -/
namespace Sys2Proof

/-- The operands of a command are sensible: an edge command stands for at least one edge (log 38), and a boundary
order names no part twice (log 8). -/
def Instr.wf : Instr → Bool
  | .powerOn _ => true
  | .resetPin _ => true
  | .frameReceived _ _ _ _ => true
  | .linkUp _ _ => true
  | .linkDown _ _ => true
  | .egressMoment _ => true
  | .transmitEnd _ _ => true
  | .secondBoundary order => decide order.Nodup
  | .counterWrap => true
  | .ppsInputEdge _ _ => true
  | .freqInputEdge _ _ edges => decide (0 < edges)
  | .todRecord _ _ => true
  | .todFramingError _ => true
  | .todByteGap => true
  | .quietIntervalExpires _ => true
  | .queryDue _ => true
  | .replyTimeout _ => true
  | .noticeIntervalExpires _ => true
  | .gnssSignalTimeout => true
  | .todIntervalTimeout => true
  | .extEdgeTimeout => true
  | .starveCountReached _ => true
  | .qualifyTimeReached _ => true
  | .holdOffExpires _ => true
  | .restoreWaitReached _ => true
  | .suspendedSlewExpires => true
  | .lockCountReached => true
  | .unlockCountReached => true
  | .holdoverMinute => true
  | .serveDelayExpires _ => true
  | .presenceTimeout _ => true
  | .markDue _ => true
  | .ppsOutputEdge _ => true
  | .ppsPulseEnd _ => true
  | .raiseHoldOffExpires _ => true
  | .clearDelayExpires _ => true
  | .noticeOffer => true
  | .testIntervalExpires => true
  | .pinPulseEnd => true
  | .get _ => true
  | .continueRead _ => true
  | .put _ => true
  | .clear _ => true
  | .pin _ => true
  | .unpin _ => true
  | .forceSelect _ => true
  | .release _ => true
  | .slewHold _ => true
  | .slewRelease _ => true
  | .timeSet _ => true
  | .ack _ => true
  | .testAlarm _ => true
  | .status _ => true
  | .countersClear _ => true
  | .restartDatapath _ => true
  | .restartFull _ => true
  | .unknownCommand _ => true
  | .todByteReceived _ _ => true
  | .freqOutputEdge _ => true
  | .halfCycleEnd _ => true
  | .lineClockCycle _ _ cycles => decide (0 < cycles)

end Sys2Proof
end

