-- ==== Sys2Proof/Tests/Slice0.lean ====
section
/-! SUPPORT. Tests of the model: ill-formed commands are refused by the check, each command takes one step on a small
state with the result the manual gives it, and `witness_…` theorems meet the hypotheses of the statements. Expected
values are worked out from the rules named in each docstring. -/
namespace Sys2Proof.Tests
open Sys2Proof Sys2Proof.Machine

/-! ## Builders -/

/-- The state a command leaves has a property. -/
def after (o : Host.Outcome State Fault Refusal) (p : State → Bool) : Bool :=
  match o with
  | .next t => p t
  | .fault _ => false
  | .refused _ => false

/-- The relay after reset. -/
def s0 : State := State.reset
/-- With a port changed. -/
def withPort (p : Port) (f : PortState → PortState) (s : State := s0) : State := s.updPort p f
/-- With a link up. -/
def up (p : Port) (s : State := s0) : State := withPort p (fun x => { x with linkUp := true }) s
/-- With a Flow entry. -/
def withEntry (i : Fin 64) (e : FlowEntry) (s : State := s0) : State := { s with flow := s.flow.set i.val e }
/-- With a Client Session. -/
def withClient (c : Client) (x : ClientSession) (s : State := s0) : State := s.updClient c fun _ => x
/-- With a reference. -/
def withRef (r : Ref) (x : Reference) (s : State := s0) : State := s.updRef r fun _ => x
/-- With a Delivery Session. -/
def withSite (k : Fin 6) (x : Site) (s : State := s0) : State := s.updSite k fun _ => x
/-- With a pin. -/
def withPin (k : Fin 4) (x : Pin) (s : State := s0) : State := s.updPin k fun _ => x
/-- With the time on every clock. -/
def atTime (units : Nat) (s : State := s0) : State :=
  { s with clock := { s.clock with counter := units, residence := units } }
/-- A command that waits at the head of the queue. -/
def cmd (type : Nat) (args : List Byte) : Command :=
  { ingress := .n0, src := 0x020000000001, vlan := none, tag := 7, seq := 9, type := type, args := args }
/-- With one command in the Command Queue, and N0 up to take its response. -/
def asked (type : Nat) (args : List Byte) (s : State := s0) : State :=
  (up .n0 s).updMgmt fun m => { m with queue := [cmd type args] }
/-- Arguments of a PUT of one entry. -/
def putArgs (table index : Nat) (fields : List Byte) : List Byte :=
  beBytes 1 table ++ beBytes 2 index ++ [1] ++ beBytes 2 index ++ beBytes 2 fields.length ++ fields
/-- With a PUT of one entry at the head of the Command Queue. -/
def puts (table index : Nat) (fields : List Byte) (s : State := s0) : State := asked 0x12 (putArgs table index fields) s
/-- An untagged frame that carries nothing of the relay's. -/
def plain : Frame := { dst := 0x020000000002, src := 0x020000000001, tag := none, etherType := 0x0800, payload := [] }
/-- The same frame with vid 1. -/
def tagged : Frame := { plain with tag := some ⟨1, 0⟩ }
/-- A frame of the Part EtherType to the Station Address. -/
def part (payload : List Byte) : Frame :=
  { plain with dst := 0x024D44000000, etherType := 0x88B5, payload := payload }
/-- A timing message. -/
def timing (type : Nat) (seq epoch : Nat) (body : List Byte) : Frame :=
  part (headerBytes { cls := 1, type := type, flags := 1, seq := seq, grade := 9, epoch := epoch, seconds := 0
                      nanos := 1000, bodyLen := body.length } ++ body)
/-- A management message. -/
def message (type : Nat) : Frame := part (headerBytes { cls := 2, type := type, seq := 9, bodyLen := 2 } ++ [0, 7])
/-- A passing frame in a queue. -/
def queued : QFrame := ⟨plain, .passing false .n0 ⟨0, 0, 0⟩⟩
/-- The stamps of time 0. -/
def stamps0 : Ingress := ⟨0, 0, 0⟩
/-- One second. -/
def sec : Nat := 65536000000000
/-- A second boundary come to, its work outstanding. -/
def dueAt (second : Nat) : Clock := { counter := second * sec, residence := second * sec, boundaryDue := true }
/-- The status byte of the response in N0's Bulk Queue. -/
def statusOf (t : State) : Option Byte := ((t.port .n0).bulkQ.head?).bind fun q => q.frame.payload[31]?
/-- The results of that response. -/
def resultsOf (t : State) : List Byte := ((t.port .n0).bulkQ.head?).elim [] fun q => q.frame.payload.drop 32

/-- The PUT at the head is one of one entry, whatever the table, the index and the fields. -/
theorem puts_one (table index : Nat) (fields : List Byte) (s : State := s0) (h : s.mgmt.waiting = none := by rfl) :
    (puts table index fields s).putsOne (cmd 0x12 (putArgs table index fields)) table index fields :=
  ⟨⟨[], rfl, h⟩, rfl, rfl⟩

/-- The least and the greatest number that a field carries, and one absent. -/
theorem witness_fields : isField (-(2 ^ 63)) ∧ isField (2 ^ 63 - 1) ∧ isOptField none ∧ isOptField (some 4096) :=
  ⟨by unfold isField; decide, by unfold isField; decide, (by unfold isOptField; intro x h; cases h),
    by unfold isOptField isField; intro x h; cases h; decide⟩

/-! ## Well-formedness -/

/-- No edges are no edge command. -/
theorem test_wf_noEdges : (Instr.freqInputEdge 0 0 0).wf = false := by decide
/-- One edge is. -/
theorem test_wf_oneEdge : (Instr.freqInputEdge 0 0 1).wf = true := by decide
/-- No cycles are no cycle command. -/
theorem test_wf_noCycles : (Instr.lineClockCycle 0 .pkt0 0).wf = false := by decide
/-- A boundary order names no part twice. -/
theorem test_wf_twice : (Instr.secondBoundary [.samples, .grade, .samples]).wf = false := by decide
/-- An order of all five parts is sensible. -/
theorem test_wf_order : (Instr.secondBoundary [.grade, .notices, .samples, .windows, .tracking]).wf = true := by decide
/-- The table gives no row bits, so no word spells a command (98_reader.md). -/
theorem test_decode_none : decodeTableWord 8 0 = none := rfl

/-! ## The step, the resets and the laws of a state -/

/-- A state with two commands waiting, and one with none. -/
theorem witness_stepTakesFront :
    ({ s0 with pending := [.linkUp 0 .n0, .counterWrap] } : State).pending = .linkUp 0 .n0 :: [.counterWrap] ∧
      s0.pending = [] := by decide

/-- The step takes the front command and leaves the rest. -/
theorem test_step : after (step { s0 with pending := [.linkUp 0 .n0, .counterWrap] }) (fun t =>
    (t.port .n0).linkUp && t.pending = [.counterWrap]) = true := by decide

/-- The reset pin reads the straps into the Station Address (R190, R202). -/
theorem test_resetPin : after (exec (.resetPin 5) (atTime sec)) (fun t =>
    t.mgmt.station = 0x024D44000005 && t.clock.counter = 0) = true := by decide

/-- Power-on likewise (R202). -/
theorem test_powerOn : after (exec (.powerOn 15) (up .s3)) (fun t =>
    t.mgmt.station = 0x024D4400000F && !(t.port .s3).linkUp) = true := by decide

/-- A full Budget Table and a full Notice Queue, in order and of sixteen records. -/
def fullBudget : List BudgetEntry := (List.range 8).map fun k => ⟨k, 1, 1⟩
/-- See above. -/
def fullNotices : List Notice := ((List.finRange 41).drop 11).take 16 |>.map fun i => ⟨i, .raised, .major, 1, none, []⟩

/-- A relay whose every queue, list and ring is full, about to take an egress moment. -/
def brimming : State :=
  { (withClient .pkt0 { outstanding := List.replicate 8 ⟨0, none, 0, 0⟩ }
      (withPort .n0 fun x => { x with
        linkUp := true, timingQ := List.replicate 16 queued, bulkQ := List.replicate 48 queued })) with
    gnss := { partialRecord := List.replicate 11 0 }
    holdover := { ring := List.replicate 1440 ⟨1, 0, none, none, .freerun⟩, budget := fullBudget }
    alarm := { s0.alarm with queue := fullNotices, set := { notify := true, collector := some 5 } }
    mgmt := { queue := List.replicate 4 (cmd 0x1D []) }
    pending := [.egressMoment .n0] }

/-- Every capacity reached, none exceeded, each list under its law, and a next step. -/
theorem witness_stepKeepsCapacities : brimming.WithinRoom ∧ ∃ t, step brimming = .next t :=
  ⟨{ ports := by intro p; cases p <;> unfold PortState.withinRoom <;> decide
     clients := by intro c; cases c <;> exact ⟨Nat.le_of_ble_eq_true rfl, by decide⟩
     hold := ⟨Nat.le_of_eq List.length_replicate, by decide, by decide,
       by intro b h; rw [← Option.some.inj (show some ⟨0, 1, 1⟩ = some b from h)]⟩
     notices := ⟨by decide, by decide, by decide, fun _ h => absurd h (by decide), fun h => absurd h (by decide)⟩
     command := by decide
     tod := by decide }, _, rfl⟩

/-- A session that exchanges with master 5 of Epoch 3 and Grade 9. -/
def exchanging (x : ClientSession := {}) : State :=
  withClient .pkt0 { x with
    cfg := { enabled := true }, state := .exchanging, master := some ⟨5, 9, 3⟩ } (up .n0)

/-- One record outstanding, another Sequence the next: a query is sent and the two are distinct (R37). -/
theorem witness_sequences :
    let a : State := { exchanging { outstanding := [⟨9, none, 0, 0⟩], nextSeq := 10 } with pending := [.queryDue .pkt0] }
    ((a.client .pkt0).outstanding.map QueryRec.seq).Nodup ∧
      (a.client .pkt0).nextSeq ∉ (a.client .pkt0).outstanding.map QueryRec.seq ∧
      after (step a) (fun t => (t.client .pkt0).outstanding.map QueryRec.seq = [9, 10]) = true := by decide

/-- ALARM_N in LEVEL mode after reset, and in PULSE mode with a pulse in progress; each with a next step. -/
theorem witness_stepKeepsAlarmPin :
    let a : State := { s0 with pending := [.linkUp 0 .n0] }
    let b : State := { a with alarm := { set := { pulseMode := true }, asserted := true, pulse := some 0 } }
    a.alarm.pinLaw ∧ (∃ t, step a = .next t) ∧ b.alarm.pinLaw ∧ ∃ t, step b = .next t :=
  ⟨by unfold Alarm.pinLaw; decide, ⟨_, rfl⟩, by unfold Alarm.pinLaw; decide, _, rfl⟩

/-- F at the Pull Range, the runs at 255 and the clock at the top of its range, with part of a unit left over; a next
step. -/
theorem witness_stepKeepsRanges :
    let a : State := { s0 with
      servo := { f := -2000000, i := 2000000, lockRun := 255, unlockRun := 255 }
      clock := { counter := counterTop, epoch := 255, residue := 1999999999999 }, pending := [.counterWrap] }
    a.servo.inRange ∧ a.clock.inRange ∧ a.clock.residue < 2000000000000 ∧ ∃ t, step a = .next t :=
  ⟨by unfold Servo.inRange; decide, by unfold Clock.inRange; decide, by decide, _, rfl⟩

/-- Ten units of oscillator time, 2^-17 ns each, give 5 fraction units and, at F = 10^6 ppt, 5 / 10^6 of one left over; the
boundary in its way stops the passing (R90; log 6). -/
theorem witness_rate :
    let a : State := { s0 with servo := { f := 1000000 } }
    ((a.pass 10).clock.counter = 5 ∧ (a.pass 10).clock.residence = 5 ∧ (a.pass 10).clock.residue = 10000000) ∧
      (a.reach 5).isSome = true ∧ (a.reachOsc 10).isSome = true ∧
      ((a.pass (3 * oscSecond)).clock.counter = sec - 1 ∧ (a.pass (3 * oscSecond)).clock.osc < 3 * oscSecond) := by decide

/-- A relay locked to PKT0. -/
def locked : State :=
  { (withRef .pkt0 { state := .qualified, cfg := { enabled := true }, lastE := some 0, grade := some 9 }) with
    selector := { cfg := { phaseList := [.pkt0] }, phase := some .pkt0 }
    realign := { decision := .decided, decisionRef := some .pkt0 }
    servo := { state := .locked, phaseValid := true }
    pending := [.unlockCountReached] }

/-- A holdover with drift 90 an hour, a unit before its first minute. -/
def holding (running : Bool) : State :=
  { s0 with
    clock := { counter := 9, residence := 60 * sec - 1 }
    servo := { state := .holdover, phaseValid := true }
    holdover := { record := some { enteredAt := ⟨0, 0⟩, enteredRes := 0, n := 60, h := 1000, d := 90, entryGrade := 9
                                   short := false, elapsed := ⟨0, if running then some 0 else none⟩, minuteMark := 0 } } }

/-- Locked to a candidate, with the roles matched and B at Max Offset; a holdover whose grade is its Entry Grade; and a
next step of each. -/
theorem witness_stepKeepsRolesAndServo :
    let a : State := { locked with realign := { locked.realign with b := 1000000, slew := some true } }
    let b : State := { holding true with
      holdover := { (holding true).holdover with announced := 9 }, pending := [.holdoverMinute] }
    a.rolesMatch ∧ a.selectedAreCandidates ∧ a.realignLaw ∧ (∃ t, step a = .next t) ∧ b.rolesMatch ∧
      holdoverState b.servo.state b.servo.phaseValid = true ∧ b.entryLaw ∧ ∃ t, step b = .next t :=
  ⟨⟨rfl, rfl⟩,
    ⟨by intro r h; cases r <;> first | rfl | (exact absurd h (by decide)),
      by intro r h; exact absurd h (by cases r <;> decide)⟩,
    { subject := rfl, idle := by decide, undecided := fun h => absurd rfl h, single := fun _ => ⟨rfl, rfl⟩
      bound := by decide, suspended := fun _ h => nomatch h }, ⟨_, rfl⟩, ⟨rfl, rfl, rfl⟩, rfl, fun _ => ⟨_, rfl, by decide⟩,
    _, rfl⟩

/-- After reset only entry 0 is enabled, so no two enabled entries are there to overlap. -/
theorem reset_oneEntry : ∀ i : Fin 64, i ≠ 0 → (s0.flow.get i).enabled = false := by decide

/-- No two enabled entries overlap after reset and the group bit is clear; a next step. -/
theorem witness_stepKeepsFlowTableLaw :
    let a : State := { s0 with pending := [.linkUp 0 .n0] }
    a.flowDisjoint ∧ groupBit a.mgmt.station = false ∧ ∃ t, step a = .next t := by
  refine ⟨?_, by decide, _, rfl⟩
  intro i j hij hi hj _
  by_cases h : i = 0
  · exact absurd hj (by rw [reset_oneEntry j (fun e => hij (h.trans e.symm))]; decide)
  · exact absurd hi (by rw [reset_oneEntry i h]; decide)

/-- The management entry matches a management frame at N0 (R4, R10). -/
theorem witness_matchingEntries : s0.flowDisjoint ∧ groupBit s0.mgmt.station = false ∧
    s0.entryMatches .n0 (message 0x1D) 0 ∧ (s0.flow.get 0).priority = (s0.flow.get 0).priority :=
  ⟨witness_stepKeepsFlowTableLaw.1, by decide, by unfold State.entryMatches; decide, rfl⟩

/-- A link-up completes and is none of the commands that write settings. -/
theorem witness_settingsKept : ∃ t, exec (.linkUp 0 .n0) s0 = .next t := ⟨_, rfl⟩

/-! ## Traffic -/

/-- A link that is up, and one that is down. -/
theorem witness_frameCheckDecides : ((up .n0).port .n0).linkUp = true ∧ (s0.port .n0).linkUp = false := by decide

/-- A frame that fails its check is counted and nothing else (R1). -/
theorem test_frameReceived_badCheck : after (exec (.frameReceived 0 .n0 false plain) (up .n0)) (fun t =>
    (t.port .n0).ctr = { receiveErrors := 1 } && (t.port .s0).bulkQ = []) = true := by decide

/-- Two entries match one frame: the one of lower Priority wins over the lower index (R5). -/
def twoEntries : State :=
  withEntry 1 { enabled := true, priority := 3, ingress := 1, action := .forward, egress := ⟨4, false⟩ }
    (withEntry 2 { enabled := true, priority := 1, ingress := 1 })

/-- A winner with another match beside it, and a frame without one. -/
theorem witness_classifierPicksLowestPriority : twoEntries.winner .n0 plain = some 2 ∧
    twoEntries.entryMatches .n0 plain 1 ∧ s0.winner .n0 plain = none := by unfold State.entryMatches; decide

/-- N0 and S0 up, and a FORWARD entry for N0 that translates by 4,095. -/
def forwarding (a : Action) (q : QueueClass) (e : EgressSet) : State :=
  withEntry 1 { enabled := true, priority := 0, ingress := 1, action := a, egress := e, vlanOffset := 4095, queueClass := q }
    (up .n0 (up .s0))

/-- A FORWARD entry, a CORRECT entry and the Port Map, each with an egress port. -/
theorem witness_matchedFrameIsForwarded :
    let a := forwarding .forward .bulk ⟨4, false⟩
    let b := forwarding .correct .timing ⟨4, false⟩
    (a.port .n0).linkUp = true ∧ a.winner .n0 tagged = some 1 ∧ (a.flow.get 1).action = .forward ∧
      (a.flow.get 1).queueClass = .bulk ∧ a.resolve (a.flow.get 1).egress .n0 ≠ [] ∧
    (b.port .n0).linkUp = true ∧ b.winner .n0 tagged = some 1 ∧ (b.flow.get 1).action = .correct ∧
      b.resolve (b.flow.get 1).egress .n0 ≠ [] ∧
    ((up .n0).port .n0).linkUp = true ∧ (up .n0).winner .n0 plain = none ∧
      (up .n0).resolve ((up .n0).portMap.get (portIdx .n0)).egress .n0 ≠ [] := by decide

/-- vid 1 plus 4,095 is 0 modulo 4,096 (R13), in the Bulk Queue of S0. -/
theorem test_frameReceived_forward :
    after (exec (.frameReceived 0 .n0 true tagged) (forwarding .forward .bulk ⟨4, false⟩)) (fun t =>
      (t.port .s0).bulkQ.map (fun q => q.frame.tag) = [some ⟨0, 0⟩] && (t.port .n0).ctr = { receivedFrames := 1 } &&
        (t.flow.get 1).hitCount = 1) = true := by decide

/-- A DROP entry; a FORWARD entry without an egress port; no entry, and an uplink with both network links down. -/
theorem witness_dropAndNoEgress :
    let a := forwarding .drop .bulk {}
    let b := forwarding .forward .bulk ⟨1, false⟩
    (a.port .n0).linkUp = true ∧ a.winner .n0 plain = some 1 ∧ (a.flow.get 1).action = .drop ∧
    b.winner .n0 plain = some 1 ∧ (b.flow.get 1).action = .forward ∧ b.resolve (b.flow.get 1).egress .n0 = [] ∧
    ((up .s0).port .s0).linkUp = true ∧ (up .s0).winner .s0 plain = none ∧
      (up .s0).resolve ((up .s0).portMap.get (portIdx .s0)).egress .s0 = [] := by decide

/-- A MANAGE entry for every frame at N0. -/
def managing : State := withEntry 0 { enabled := true, priority := 0, ingress := 1, action := .manage } (up .n0)
/-- A Meridane frame of a Type with a body of a length. -/
def meridane (cls type domain grade len : Nat) : Frame :=
  part (headerBytes { cls := cls, type := type, domain := domain, grade := grade, bodyLen := len } ++ List.replicate len 0)

/-- A frame of each kind that a MANAGE entry can win: without a Class; a byte short of its header, and of its body; each
bad header; a body a byte short of its Type's fixed part, and one that has it; Class TIMING; another destination; another
port set; RESPONSE and ALARM_NOTICE; a queue of 4 and of 3. -/
theorem witness_managementFrameIsQueued :
    let got (f : Frame) : Bool := managing.winner .n0 f = some 0
    let pass (f : Frame) : Bool := got f && judgeFrame f.payload = .pass && frameClass managing.mgmt.partEther f = some 2
    let full (n : Nat) : State := managing.updMgmt fun m => { m with queue := List.replicate n (cmd 0x1D []) }
    (managing.port .n0).linkUp = true ∧ (managing.flow.get 0).action = .manage ∧
    got plain = true ∧ frameClass managing.mgmt.partEther plain = none ∧
    (∀ f ∈ [part ((message 0x1D).payload.take 27), part ((message 0x1D).payload.take 29), meridane 2 0x10 0 0 5,
      meridane 2 0x1A 0 0 11, meridane 2 0x20 0 0 3, meridane 2 0x21 0 0 19, meridane 1 2 0 0 5],
      got f = true ∧ judgeFrame f.payload = .short) ∧
    (∀ f ∈ [meridane 1 0 0 0 0, meridane 1 5 0 0 0, meridane 1 1 128 0 0, meridane 1 1 0 16 0],
      got f = true ∧ judgeFrame f.payload = .badHeader) ∧
    (∀ f ∈ [meridane 2 0x10 0 0 6, meridane 2 0x1A 0 0 12, meridane 2 0x20 0 0 4, meridane 2 0x21 0 0 20,
      { meridane 2 0x1D 0 0 2 with dst := 0x020000000009 }], pass f = true) ∧
    got (meridane 1 4 127 15 0) = true ∧ judgeFrame (meridane 1 4 127 15 0).payload = .pass ∧
    inPorts managing.mgmt.permitted .n0 = true ∧
    inPorts (managing.updMgmt fun m => { m with permitted := 2 }).mgmt.permitted .n0 = false ∧
    (full 4).mgmt.queue.length = 4 ∧ (full 3).mgmt.queue.length = 3 := by decide

/-- A RESPONSE whose body lacks a byte of its fixed part is short, not a command (R206). -/
theorem test_frameReceived_shortResponse :
    after (exec (.frameReceived 0 .n0 true (meridane 2 0x20 0 0 3)) managing) (fun t =>
      (t.port .n0).ctr.shortFrames = 1 && t.mgmt.ctr = {}) = true := by decide

/-- A TERMINATE entry for the timing group's and the Station Address's frames on N0 and S0. -/
def terminating : State :=
  withEntry 1 { enabled := true, priority := 0, ingress := 5, action := .terminate } (up .n0 (up .s0))

/-- A TERMINATE entry with a frame of another EtherType, a short one, one of Domain 128 and a good one, at both owners'
ports. -/
theorem witness_terminatedFrameHasAnOwner :
    let bad := part (headerBytes { cls := 1, type := 1, domain := 128 })
    (terminating.port .n0).linkUp = true ∧ (terminating.flow.get 1).action = .terminate ∧
    terminating.winner .n0 plain = some 1 ∧ frameClass terminating.mgmt.partEther plain ≠ some 1 ∧
    terminating.winner .n0 (part [1, 1]) = some 1 ∧ frameClass terminating.mgmt.partEther (part [1, 1]) = some 1 ∧
      judgeFrame (part [1, 1]).payload = .short ∧
    terminating.winner .n0 bad = some 1 ∧ frameClass terminating.mgmt.partEther bad = some 1 ∧
      judgeFrame bad.payload = .badHeader ∧
    terminating.winner .n0 (timing 1 0 0 []) = some 1 ∧ terminating.winner .s0 (timing 3 0 0 []) = some 1 ∧
      judgeFrame (timing 3 0 0 []).payload = .pass ∧ clientPort .pkt0 = .n0 ∧ sitePort 0 = .s0 := by decide

/-- N0 with a frame in each queue. -/
def waiting : State := withPort .n0 fun x => { x with linkUp := true, timingQ := [queued], bulkQ := [queued, queued] }

/-- A port that is down, one that transmits, one with empty queues, and both ways a frame is found. -/
theorem witness_egressTakesTimingFirst :
    (s0.port .n0).linkUp = false ∧ (waiting.port .n0).linkUp = true ∧ (waiting.port .n0).tx = none ∧
    (waiting.port .n0).timingQ = queued :: [] ∧
    ((withPort .n0 (fun x => { x with timingQ := [] }) waiting).port .n0).bulkQ = queued :: [queued] ∧
    ((withPort .n0 (fun x => { x with tx := some ⟨queued, true⟩ }) waiting).port .n0).tx.isSome = true ∧
    ((up .n0).port .n0).timingQ = [] ∧ ((up .n0).port .n0).bulkQ = [] := by decide

/-- The Timing Queue goes first (R17). -/
theorem test_egressMoment : after (exec (.egressMoment .n0) waiting) (fun t =>
    (t.port .n0).timingQ = [] && (t.port .n0).bulkQ.length = 2 && (t.port .n0).tx = some ⟨queued, true⟩) = true := by
  decide

/-- A CORRECT copy of a TIME_MARK that came in at N0 at residence 0 and leaves by S0. -/
def correcting (payload : List Byte) : State :=
  atTime 131072 (withPort .s0 fun x => { x with linkUp := true, timingQ := [⟨part payload, .passing true .n0 stamps0⟩] })

/-- A copy that carries a Correction field, and one a byte short of it. -/
theorem witness_correctionAtEgress :
    let a := (timing 1 0 0 []).payload.take 26
    ((correcting a).port .s0).linkUp = true ∧ ((correcting a).port .s0).tx = none ∧
      ((correcting a).port .s0).timingQ.head? = some ⟨part a, .passing true .n0 stamps0⟩ ∧
      26 ≤ (part a).payload.length ∧ beNat (a.take 1) = 1 ∧
    ((correcting (a.take 25)).port .s0).timingQ.head? = some ⟨part (a.take 25), .passing true .n0 stamps0⟩ ∧
      ¬ 26 ≤ (part (a.take 25)).payload.length := by decide

/-- 2 ns of residence are 131,072 units in the Correction field (R22). -/
theorem test_egressMoment_correct :
    after (exec (.egressMoment .s0) (correcting (timing 1 0 0 []).payload)) (fun t =>
      ((t.port .s0).tx.map fun x => beNat (slice 18 8 x.item.frame.payload)) = some 131072) = true := by decide

/-- S0 in the midst of a RESTART's response, and a port that sends nothing. -/
theorem witness_transmitEnd :
    let a := withPort .s0 fun x => { x with linkUp := true, tx := some ⟨⟨plain, .response (some .full)⟩, true⟩ }
    (s0.port .s0).tx = none ∧ (a.port .s0).tx = some ⟨⟨plain, .response (some .full)⟩, true⟩ := by decide

/-- RESTART FULL follows its response (R201): the link is down as after power-on. -/
theorem test_transmitEnd_restart :
    after (exec (.transmitEnd 0 .s0) (withPort .s0 fun x =>
      { x with linkUp := true, tx := some ⟨⟨plain, .response (some .full)⟩, true⟩ })) (fun t =>
        !(t.port .s0).linkUp && (t.port .s0).ctr = {}) = true := by decide

/-- A frame in transmission is counted at its end (R3, R23). -/
theorem test_transmitEnd : after (exec (.transmitEnd 0 .n0) (withPort .n0 fun x =>
    { x with linkUp := true, tx := some ⟨queued, true⟩ })) (fun t =>
      (t.port .n0).tx = none && (t.port .n0).ctr = { transmittedFrames := 1 }) = true := by decide

/-- The branches of the restart: Phase Valid true and false; an enabled session whose link is up; a holdover that runs,
and LOCKED without a record; a site that can serve at once; an output in bypass of an enabled reference. -/
theorem witness_restartDatapath : s0.servo.phaseValid = false ∧ locked.servo.phaseValid = true ∧
    locked.servo.state = .locked ∧ locked.holdover.record = none ∧ (holding true).servo.state = .holdover ∧
    (locked.ref .pkt0).state ≠ .disabled ∧
    ((withPin 2 { cfg := { function := .freqOut, source := .bypass .pkt0 } } locked).tpin 2).bypassRef = some .pkt0 ∧
    (let a := withSite 0 { cfg := { enabled := true, minGrade := 1, serveDelay := 0 }, state := .serving } (up .s0)
     (a.site 0).state ≠ .disabled ∧ (a.port (sitePort 0)).linkUp = true ∧ (a.site 0).cfg.minGrade ≤ 1 ∧
       ((a.restart .datapath).site 0).state = .serving ∧ (a.restart .datapath).servingSince = true) ∧
    (let a := withClient .pkt0 { cfg := { enabled := true }, state := .listening } (up .n0)
     ((a.client .pkt0).cfg.enabled && (a.port (clientPort .pkt0)).linkUp) = true) := by decide +kernel

/-- N0 down with an enabled session and LINE0 enabled, and a MUTED site whose grade is high enough. -/
def linksDown : State :=
  withClient .pkt0 { cfg := { enabled := true } }
    (withRef .line0 { cfg := { enabled := true }, state := .monitoring, defects := [.signalLost] }
      (withSite 0 { cfg := { enabled := true, minGrade := 1 }, state := .muted, muteReason := some .enabled }))

/-- A network port and a site port that are down, with what their link-up reaches; and a port already up. -/
theorem witness_linkUp :
    (linksDown.port .n0).linkUp = false ∧ portClient? .n0 = some .pkt0 ∧ (linksDown.client .pkt0).state = .idle ∧
      (linksDown.client .pkt0).cfg.enabled = true ∧ (linksDown.ref (lineRef .pkt0)).state ≠ .disabled ∧
    (linksDown.port .s0).linkUp = false ∧ portSite? .s0 = some 0 ∧ (linksDown.site 0).state = .muted ∧
      (linksDown.site 0).cfg.minGrade ≤ linksDown.holdover.announced ∧ 0 < (linksDown.site 0).cfg.serveDelay ∧
      (linksDown.site 0).serve.since = none ∧
    (let b := withSite 0 { (linksDown.site 0) with cfg := { enabled := true, minGrade := 1, serveDelay := 0 } } linksDown
     (b.site 0).state = .muted ∧ (b.site 0).cfg.minGrade ≤ b.holdover.announced ∧ (b.site 0).cfg.serveDelay = 0 ∧
      (b.site 0).serve.since = none) ∧
    ((up .n0).port .n0).linkUp = true := by decide

/-- Link-up starts the session and clears SIGNAL_LOST of the LINE reference (R30, R58). -/
theorem test_linkUp : after (exec (.linkUp 0 .n0) linksDown) (fun t =>
    (t.client .pkt0).state = .listening && (t.ref .line0).defects = [] && !(t.alarm.record 11).present) = true := by
  decide

/-- N0 up with frames in its queues, its session EXCHANGING and LINE0 enabled; S0 up with a site. -/
def linksUp : State :=
  withPort .s0 (fun x => { x with linkUp := true, tx := some ⟨queued, true⟩ })
    (withPort .n0 (fun x => { x with linkUp := true, timingQ := [queued], bulkQ := [queued, queued] })
      (withClient .pkt0 { cfg := { enabled := true }, state := .exchanging, master := some ⟨2, 9, 0⟩ }
        (withRef .line0 { cfg := { enabled := true }, state := .monitoring }
          (withSite 0 { cfg := { enabled := true }, state := .muted, muteReason := some .enabled }))))

/-- The same with a RESTART FULL that waits for its response, in N0's Bulk Queue. -/
def restarting : State :=
  (withPort .n0 (fun x => { x with bulkQ := [queued, ⟨plain, .response (some .full)⟩] }) linksUp).updMgmt fun m =>
    { m with queue := [cmd 0x1F [1]], waiting := some .full }

/-- The response is among the frames that N0 loses, and it is the only one of a RESTART. -/
theorem witness_linkDownRestarts :
    let lost := (restarting.port .n0).timingQ.map (fun f => f.role) ++ (restarting.port .n0).bulkQ.map (fun f => f.role)
    (restarting.port .n0).linkUp = true ∧ restarting.mgmt.waiting.isSome = true ∧ (restarting.port .n0).tx = none ∧
      FrameRole.response (some .full) ∈ lost ∧ FrameRole.response (some .datapath) ∉ lost := by decide

/-- A network port and a site port that are up, no RESTART waiting; and a port that is down. -/
theorem witness_linkDown :
    (linksUp.port .n0).linkUp = true ∧ linksUp.mgmt.waiting = none ∧ (linksUp.client .pkt0).state ≠ .idle ∧
      (linksUp.ref (lineRef .pkt0)).state ≠ .disabled ∧ (linksUp.port .s0).linkUp = true ∧
      portSite? .s0 = some 0 ∧ (linksUp.site 0).state ≠ .disabled ∧ (s0.port .n0).linkUp = false := by decide

/-- Three waiting frames are flushed (R19) and LINK_DOWN is present. -/
theorem test_linkDown : after (exec (.linkDown 0 .n0) linksUp) (fun t =>
    (t.port .n0).ctr = { flushed := 3 } && (t.client .pkt0).state = .idle && (t.ref .line0).defects = [.signalLost] &&
      (t.alarm.record 11).present) = true := by decide

/-- A port in its quiet interval. -/
def quiet : State :=
  { withPort .n0 fun x => { x with linkUp := true, quiet := some 0 } with
    clock := { counter := 9 * sec, residence := 9 * sec + 5 } }

/-- No interval, and one whose end at 10 s is 5 units before the next boundary. -/
theorem witness_quietInterval : (s0.port .n0).quiet = none ∧ (quiet.port .n0).quiet = some 0 ∧
    quiet.canReach (0 + 10 * secUnits - quiet.clock.residence) := by unfold State.canReach; decide

/-- The interval ends at 10 s of the Residence Clock (R18). -/
theorem test_quietIntervalExpires : after (exec (.quietIntervalExpires .n0) quiet) (fun t =>
    (t.port .n0).quiet = none && t.clock.residence = 10 * sec) = true := by decide

/-! ## Client Sessions -/

/-- A QUALITY_NOTICE of master 5, Epoch 3, Grade 9; `serving` is its flag. -/
def notice (source epoch : Nat) (serving : Bool) : Frame :=
  part (headerBytes { cls := 1, type := 2, flags := if serving then 1 else 0, grade := 9, epoch := epoch, bodyLen := 8 } ++
    beBytes 6 source ++ [0, 0])

/-- A session in LISTENING on N0. -/
def listening : State := withClient .pkt0 { cfg := { enabled := true }, state := .listening } (up .n0)
/-- Each outcome of a notice: with no master, serving and not; with one, foreign, not serving, and serving with the
Epoch kept and changed. -/
theorem witness_servingNotice :
    let src (f : Frame) : Addr := BitVec.ofNat 48 (beNat (slice 28 (min 6 (readHeader f.payload).bodyLen) f.payload))
    let h (f : Frame) := readHeader f.payload
    (listening.client .pkt0).state ≠ .idle ∧ (listening.client .pkt0).master = none ∧
      (h (notice 5 3 true)).domain = (listening.client .pkt0).cfg.domain ∧ (h (notice 5 3 true)).type = 2 ∧
      (h (notice 5 3 true)).serving = true ∧ (h (notice 5 3 false)).serving = false ∧
    (exchanging.client .pkt0).state ≠ .idle ∧ (exchanging.client .pkt0).master = some ⟨5, 9, 3⟩ ∧
      src (notice 6 3 true) ≠ 5 ∧ src (notice 5 3 false) = 5 ∧ src (notice 5 4 true) = 5 ∧
      (h (notice 5 4 true)).epoch ≠ 3 ∧ (h (notice 5 3 true)).epoch = 3 := by decide

/-- A serving notice makes its source the master (R32). -/
theorem test_clientNotice : after (.next (listening.clientSort .pkt0 (notice 5 3 true) stamps0)) (fun t =>
    (t.client .pkt0).state = .exchanging && (t.client .pkt0).master = some ⟨5, 9, 3⟩) = true := by decide

/-- A session with one query outstanding, sent at 100 ns, and a pair of no path delay. -/
def asking (pair : Option MarkPair) (t3 : Option Nat) : State :=
  exchanging { outstanding := [⟨4, t3, 0, 0⟩], pair := pair }

/-- The master's DELAY_REPLY, t4 = 1,000 ns. -/
def reply (seq : Nat) : Frame := { timing 4 seq 3 [] with src := 5 }

/-- A session of each state, and a frame for each test of R31 in order: another Domain, a DELAY_QUERY, a TIME_MARK and a
DELAY_REPLY in LISTENING; in EXCHANGING another source, another address, another Epoch, and a TIME_MARK of the master
stamped in an older Epoch and in the current one. -/
theorem witness_sessionSorts :
    let h (f : Frame) := readHeader f.payload
    let mark (epoch : Nat) : Frame := { timing 1 0 epoch [] with src := 5 }
    let x := exchanging.client .pkt0
    (s0.client .pkt0).state = .idle ∧ (listening.client .pkt0).state = .listening ∧
      (listening.client .pkt0).master = none ∧ x.state = .exchanging ∧ x.master = some ⟨5, 9, 3⟩ ∧
    (h (meridane 1 1 127 0 0)).domain ≠ x.cfg.domain ∧ (h (timing 3 0 3 [])).type = 3 ∧ (h (mark 3)).type = 1 ∧
      (h (timing 4 0 3 [])).type = 4 ∧ (h (mark 3)).domain = x.cfg.domain ∧
    (timing 1 0 3 []).src ≠ 5 ∧ ({ timing 4 0 3 [] with src := 5, dst := 6 } : Frame).dst ≠ exchanging.mgmt.station ∧
      (mark 3).src = 5 ∧ (h (mark 4)).epoch ≠ 3 ∧ (h (mark 3)).epoch = 3 ∧
    stamps0.epoch = exchanging.clock.epoch ∧ (⟨0, 255, 0⟩ : Ingress).epoch ≠ exchanging.clock.epoch := by decide

/-- A reply without a record, one whose query has not left, one without a pair, and one that completes; a record with a
round trip equal to that of the exchange (a tie), and a smaller one; and a pair that makes the round trip negative. -/
theorem witness_replyCompletes :
    let a := asking (some ⟨0, 0, 0, 3⟩) (some 6553600)
    let h := readHeader (reply 4).payload
    (a.client .pkt0).state = .exchanging ∧ (a.client .pkt0).master = some ⟨5, 9, 3⟩ ∧
      h.domain = (a.client .pkt0).cfg.domain ∧ h.type = 4 ∧ (reply 4).src = 5 ∧ (reply 4).dst = a.mgmt.station ∧
      h.epoch = 3 ∧
    (a.client .pkt0).outstanding.find? (fun q => q.seq = h.seq) = some ⟨4, some 6553600, 0, 0⟩ ∧
    (∀ r, r ∈ (a.client .pkt0).outstanding → r.seq ≠ (readHeader (reply 5).payload).seq) ∧
    ((asking none none).client .pkt0).outstanding.find? (fun q => q.seq = h.seq) = some ⟨4, none, 0, 0⟩ ∧
    ((asking none (some 0)).client .pkt0).pair = none ∧ (a.client .pkt0).pair = some ⟨0, 0, 0, 3⟩ ∧
    (let t4 : Int := h.seconds * 65536000000000 + h.nanos * 65536
     let reverse : Int := t4 - (6553600 : Nat) - h.correction
     let best (n : Int) : ClientSession := { a.client .pkt0 with best := some ⟨0, n⟩ }
     0 - 0 - 0 + reverse = 58982400 ∧ (best 58982400).best = some ⟨0, 58982400⟩ ∧ ¬ (58982400 : Int) < 0 + reverse ∧
      (58982399 : Int) < 0 + reverse ∧
      (∃ p : MarkPair, p = ⟨58982401, 0, 0, 3⟩ ∧ ((p.t2 : Int) - p.t1 - p.c1) + reverse < 0)) := by
  repeat' apply And.intro
  all_goals first | decide | exact ⟨_, rfl, by decide⟩

/-- t2 - t1 = 0, t4 - t3 = 1,000 - 100 = 900 ns: the round trip is 900 ns and the sample (900 - 0) / 2 = 450 ns (R40). -/
theorem test_reply : after (.next ((asking (some ⟨0, 0, 0, 3⟩) (some 6553600)).clientSort .pkt0 (reply 4) stamps0))
    (fun t => (t.client .pkt0).best = some ⟨450, 58982400⟩ && (t.client .pkt0).outstanding = []) = true := by decide

/-- A session with a master whose next due instant is at one eighth of a second, its list at 7 and at 8; one without. -/
theorem witness_queryDue :
    let a := exchanging { outstanding := List.replicate 7 ⟨0, none, 0, 0⟩ }
    let b := exchanging { outstanding := List.replicate 8 ⟨0, none, 0, 0⟩ }
    let due := nextDue (65536000000000 / (a.client .pkt0).rate) (a.client .pkt0).queryDone a.clock.counter
    (listening.client .pkt0).master = none ∧ (a.client .pkt0).master = some ⟨5, 9, 3⟩ ∧
      a.canReach (due - a.clock.counter) ∧ (a.client .pkt0).outstanding.length < 8 ∧
      8 ≤ (b.client .pkt0).outstanding.length ∧ (a.port .n0).linkUp = true := by unfold State.canReach; decide

/-- The query due at 125 ms takes Sequence 0 and waits in the Timing Queue (R36, R37). -/
theorem test_queryDue : after (exec (.queryDue .pkt0) (exchanging)) (fun t =>
    t.clock.counter = 8192000000000 && (t.client .pkt0).nextSeq = 1 &&
      (t.port .n0).timingQ.map (fun q => q.role) = [.delayQuery 0]) = true := by decide

/-- The oldest record times out at 1,000 ms, the notice interval at 3 s; sessions without either. -/
theorem witness_sessionTimers :
    let a := { exchanging { outstanding := [⟨0, none, 0, 1⟩] } with
      clock := { counter := 2 * sec + 1, residence := 3 } }
    let b := { exchanging with clock := { counter := 5 * sec + 1, residence := 3 * sec - 1 } }
    (listening.client .pkt0).outstanding = [] ∧ (listening.client .pkt0).state ≠ .exchanging ∧
    (a.client .pkt0).outstanding = ⟨0, none, 0, 1⟩ :: [] ∧ a.canReach (1 + 1000 * 65536000000 - a.clock.residence) ∧
    (b.client .pkt0).state = .exchanging ∧
      b.canReach ((b.client .pkt0).noticeStart + (b.client .pkt0).cfg.noticeTimeout * secUnits - b.clock.residence) := by
  unfold State.canReach; decide

/-- The fields of a Client Session Configuration. -/
def clientFields (enabled : Bool) (domain : Int) : List Byte :=
  encBool enabled ++ encNum domain ++ encIn queryRates 8 ++ encNum 99 ++ encNum (-100001) ++ encOptInt (some 4096) ++
    encNum 17

/-- A written configuration of a session that exchanges: one that disables it, one that moves its Domain. -/
theorem witness_putClient :
    (puts 3 0 (clientFields false 0) exchanging).putsOne (cmd 0x12 (putArgs 3 0 (clientFields false 0))) 3 0
        (clientFields false 0) ∧
    (puts 3 0 (clientFields true 128) exchanging).putsOne (cmd 0x12 (putArgs 3 0 (clientFields true 128))) 3 0
        (clientFields true 128) ∧
    8 ∈ queryRates ∧ (exchanging.client .pkt0).cfg.enabled = true ∧ (exchanging.client .pkt0).state ≠ .idle ∧
      held 0 127 128 ≠ (exchanging.client .pkt0).cfg.domain :=
  ⟨puts_one .., puts_one .., by decide⟩

/-- Both timeouts written shorter than what has run: the record is lost and the session listens again (R29). -/
theorem test_shorterTimeouts :
    let f := encBool true ++ encNum 0 ++ encIn queryRates 8 ++ encNum 100 ++ encNum 0 ++ encOptInt none ++ encNum 2
    after (exec (.put 0) (puts 3 0 f { exchanging { outstanding := [⟨4, none, 0, 0⟩] } with
      clock := { counter := 9, residence := 2 * sec } })) (fun t =>
        (t.client .pkt0).state = .listening && (t.client .pkt0).ctr = { lost := 1 } && (t.client .pkt0).noticeMissing) =
          true := by decide +kernel

/-- A reply that stays out is lost (R39). -/
theorem test_replyTimeout :
    after (exec (.replyTimeout .pkt0) { exchanging { outstanding := [⟨0, none, 0, 0⟩] } with
      clock := { counter := 9, residence := sec - 9 } }) (fun t =>
        (t.client .pkt0).outstanding = [] && (t.client .pkt0).ctr = { lost := 1 }) = true := by decide

/-- No notice for 3 s: LISTENING again, NOTICE_MISSING present (R33). -/
theorem test_noticeIntervalExpires :
    after (exec (.noticeIntervalExpires .pkt0) { exchanging with
      clock := { counter := 9, residence := 3 * sec - 9 } }) (fun t =>
        (t.client .pkt0).state = .listening && (t.client .pkt0).noticeMissing) = true := by decide

/-! ## References -/

/-- A PKT reference one second short of its Starve Seconds, and one at it. -/
def starving (n : Nat) : State :=
  withRef .pkt0 { cfg := { enabled := true, starveSeconds := 8 }, state := .monitoring, starve := n }

/-- Starve Count 7 and 8 against Starve Seconds 8. -/
theorem witness_starved :
    ((starving 7).ref (clientRef .pkt0)).starve < ((starving 7).ref (clientRef .pkt0)).cfg.starveSeconds ∧
    ((starving 8).ref (clientRef .pkt0)).cfg.starveSeconds ≤ ((starving 8).ref (clientRef .pkt0)).starve ∧
      ((starving 8).ref (clientRef .pkt0)).state ≠ .disabled := by decide

/-- A sample a nanosecond beyond Jump Limit and one at it, with PHASE_FAR present; no sample; a DISABLED reference. -/
theorem witness_judgeSample :
    let a := withRef .pkt0 { cfg := { enabled := true }, state := .qualified, lastE := some 0, defects := [.phaseFar]
                             starve := 7 }
    phaseCapable .pkt0 = true ∧ (a.ref .pkt0).state ≠ .disabled ∧ (s0.ref .pkt0).state = .disabled ∧
      (a.ref .pkt0).cfg.jumpLimit < ((201 : Int) - 0).natAbs ∧ ¬ (a.ref .pkt0).cfg.jumpLimit < ((200 : Int) - 0).natAbs ∧
      a.realign.params.maxOffset < (1000001 : Int).natAbs ∧ ¬ a.realign.params.maxOffset < (1000000 : Int).natAbs ∧
      (a.ref .pkt0).cfg.starveSeconds ≤ min ((a.ref .pkt0).starve + 1) 4294967295 := by decide

/-- STARVED at Starve Seconds (R54). -/
theorem test_starveCountReached : after (exec (.starveCountReached .pkt0) (starving 8)) (fun t =>
    (t.ref .pkt0).defects = [.starved]) = true := by decide

/-- GNSS enabled with a last accepted edge at 0, and pin 0 in PPS_IN. -/
def satellite (residence : Nat) : State :=
  { withPin 0 { cfg := { function := .ppsIn } } (withRef .gnss
      { cfg := { enabled := true }, state := .monitoring, lastEdge := some 0 }) with
    clock := { counter := 7 * sec - 65536, residence := residence } }

/-- A pin of another function; GNSS DISABLED; an edge a unit short of 500 ms after the last, and one at 500 ms. -/
theorem witness_ppsEdge :
    let a := satellite (500 * msUnits - 1)
    let b := satellite (500 * msUnits)
    (s0.tpin 0).cfg.function ≠ .ppsIn ∧ (a.tpin 0).cfg.function = .ppsIn ∧ (a.ref .gnss).state ≠ .disabled ∧
      (s0.ref .gnss).state = .disabled ∧ (a.ref .gnss).lastEdge = some 0 ∧
      (a.pass 0).clock.residence - 0 < 500 * msUnits ∧
      (∀ last, (b.ref .gnss).lastEdge = some last → 500 * msUnits ≤ (b.pass 0).clock.residence - last) :=
  ⟨by decide, by decide, by decide, by decide, by decide, by decide, by
    intro last h
    have e : last = 0 := (Option.some.inj h).symm
    subst e
    decide⟩

/-- An edge 1 ns before second 7 is taken to mark second 7: p is 10^9 * 7 less 6,999,999,999 ns, 1 ns (R52). -/
theorem test_ppsInputEdge : after (exec (.ppsInputEdge 0 0) (satellite sec)) (fun t =>
    t.gnss.samples = [⟨7, 1, 0⟩] && (t.tpin 0).ctr = { inputEdges := 1 } && (t.ref .gnss).lastEdge = some sec &&
      t.gnss.ctr = { unlabelledEdges := 1 }) = true := by decide

/-- An edge at second 7 labelled 9 while the relay is not in FREERUN: TOD_MISMATCH (R53). -/
theorem test_ppsInputEdge_mismatch :
    after (exec (.ppsInputEdge 0 0) { satellite sec with
      servo := { state := .holdover, phaseValid := true }, gnss := { held := some ⟨9, 8, 1, 12⟩ } }) (fun t =>
        (t.ref .gnss).defects = [.todMismatch] && t.gnss.held = none && t.gnss.samples = [⟨7, 2000000001, 0⟩]) =
          true := by decide

/-- Pin 1 in FREQ_IN with EXT enabled. -/
def external (x : Reference) : State := withPin 1 { cfg := { function := .freqIn } } (withRef .ext x)

/-- A pin of another function, EXT DISABLED and enabled, and a line clock whose link is down and up. -/
theorem witness_frequencyInputs :
    (s0.tpin 1).cfg.function ≠ .freqIn ∧ ((external {}).tpin 1).cfg.function = .freqIn ∧
      ((external {}).ref .ext).state = .disabled ∧
      ((external { state := .monitoring }).ref .ext).state ≠ .disabled ∧
      (s0.port (clientPort .pkt0)).linkUp = false ∧ ((up .n0).port (clientPort .pkt0)).linkUp = true := by decide

/-- Windows with both their ends: of PKT0 from its samples, of LINE0 and EXT from their captures; an edge of another
Epoch; and results at Accept Range and Wander Limit and beyond them. -/
theorem witness_frequencyWindows :
    let a : State := withClient .pkt0 { best := some ⟨-7, 9⟩ }
      (withRef .pkt0 { state := .qualified, cfg := { enabled := true }, pStart := some 3 } (withPort .n0 (fun x =>
        { x with lineCycles := 2000000000, lineEdge := some ⟨0, 0⟩ })
        (withRef .line0 { state := .monitoring, capStart := some 0, prevD := some 0, lastD := some 0 }
          (withRef .ext { state := .monitoring, capStart := some 9 }
            (withPin 1 { cfg := { function := .freqIn }, cycles := 160000000, lastInput := some ⟨0, 0⟩ })))))
    (a.ref .pkt0).pStart = some 3 ∧ a.sampleOf 16 .pkt0 = some (-7) ∧ phaseCapable .line0 = false ∧
      (a.ref .line0).winVoid = false ∧ (a.ref .line0).capStart = some 0 ∧
      a.captureOf .line0 = some (2000000000 * 524288) ∧ (a.ref .ext).capStart = some 9 ∧
      a.captureOf .ext = some (160000000 * 6553600) ∧
      ({ a with clock := { epoch := 1 } } : State).captureOf .ext = none ∧
    (a.ref .line0).cfg.acceptRange < (10000001 : Int).natAbs ∧ ¬ (a.ref .line0).cfg.acceptRange < (10000000 : Int).natAbs ∧
      (a.ref .line0).cfg.wanderLimit < (501 - 0 : Int).natAbs ∧ ¬ (a.ref .line0).cfg.wanderLimit < (500 - 0 : Int).natAbs ∧
      (a.ref .line0).prevD = some 0 ∧ (s0.ref .line0).state = .disabled ∧ (s0.ref .pkt0).pStart = none ∧
      (s0.ref .line0).capStart = none ∧ (∀ k, (s0.tpin k).cfg.function ≠ .freqIn) ∧
      (∀ j, (a.tpin j).cfg.function = .freqIn → j = 1) ∧
    ((withPin 2 { cfg := { function := .freqOut, source := .bypass .ext } }).tpin 2).bypassRef = some .ext := by
  decide +kernel

/-- Edges join the pin's cycles and clear SIGNAL_LOST of EXT (R58, R160). -/
theorem test_freqInputEdge :
    after (exec (.freqInputEdge 0 1 3) (external { state := .monitoring, defects := [.signalLost] })) (fun t =>
      (t.tpin 1).cycles = 3 && (t.ref .ext).defects = []) = true := by decide

/-- Cycles of N1's recovered clock (R58). -/
theorem test_lineClockCycle : after (exec (.lineClockCycle 0 .pkt1 125) (up .n1)) (fun t =>
    (t.port .n1).lineCycles = 125 && (t.port .n1).lineEdge = some ⟨0, 0⟩) = true := by decide

/-- GNSS enabled, with bytes of a record assembled, the last `gap` units ago. -/
def receiving (bytes : List Byte) (gap : Nat) : State :=
  { withRef .gnss { cfg := { enabled := true }, state := .monitoring, lastEdge := some 0 } with
    clock := { counter := 100 * msUnits, residence := 100 * msUnits }
    gnss := { partialRecord := bytes, lastByteAt := 100 * msUnits - gap } }

/-- GNSS DISABLED; hunting; 1 and 10 bytes with a gap of 20 ms, and one unit beyond it; the gap event's own instant. -/
theorem witness_todLine :
    let a := receiving [0xA5] (20 * msUnits)
    let b := receiving (0xA5 :: List.replicate 9 0) (20 * msUnits + 1)
    (s0.ref .gnss).state = .disabled ∧ (a.ref .gnss).state ≠ .disabled ∧
      (a.pass 0).clock.residence - a.gnss.lastByteAt ≤ 20 * msUnits ∧
      0 < a.gnss.partialRecord.length ∧ b.gnss.partialRecord.length < 11 ∧
      20 * msUnits < (b.pass 0).clock.residence - b.gnss.lastByteAt ∧ s0.gnss.partialRecord = [] ∧
      a.gnss.partialRecord ≠ [] ∧ a.canReach (a.gnss.lastByteAt + 20 * msUnits + 1 - a.clock.residence) := by
  unfold State.canReach; decide

/-- 0xA5 starts a record (R207). -/
theorem test_todByteReceived : after (exec (.todByteReceived 0 0xA5) (receiving [] 0)) (fun t =>
    t.gnss.partialRecord = [0xA5]) = true := by decide

/-- A framing error discards it (R207). -/
theorem test_todFramingError : after (exec (.todFramingError 0) (receiving [0xA5, 1] 0)) (fun t =>
    t.gnss.partialRecord = [] && t.gnss.ctr = { badRecord := 1 }) = true := by decide

/-- So does a gap beyond 20 ms (R207). -/
theorem test_todByteGap : after (exec .todByteGap (receiving [0xA5, 1] (20 * msUnits))) (fun t =>
    t.gnss.partialRecord = [] && t.clock.residence = 100 * msUnits + 1) = true := by decide

/-- The first eleven bytes of a record of label 7, fix 1, 8 satellites and grade 12. -/
def record (fix satellites grade : Byte) : List Byte := [0xA5, 0, 0, 0, 0, 0, 7, fix, satellites, grade, 0]

/-- Eleven bytes, GNSS enabled, no gap: a wrong checksum, no fix, a grade of 16, 64 satellites, a record 1 unit before
100 ms after the edge, and one at 100 ms with grade 15 and 63 satellites. -/
theorem witness_todRecord :
    let a := receiving (record 1 63 15) 0
    let sum (l : List Byte) : Nat := ((l.map BitVec.toNat).sum) % 256
    a.gnss.partialRecord.length = 11 ∧ s0.gnss.partialRecord.length ≠ 11 ∧ (a.ref .gnss).state ≠ .disabled ∧
      (a.pass 0).clock.residence - a.gnss.lastByteAt ≤ 20 * msUnits ∧
    (0xFB : Byte).toNat = sum (record 1 63 15) ∧ (0xFA : Byte).toNat ≠ sum (record 1 63 15) ∧
      (0xC3 : Byte).toNat = sum (record 2 7 14) ∧ beNat (slice 7 1 (record 2 7 14)) ≠ 1 ∧
      15 < beNat (slice 9 1 (record 1 0 16)) ∧ 63 < beNat (slice 8 1 (record 1 64 0)) ∧
      beNat (slice 9 1 (record 1 63 15)) ≤ 15 ∧ beNat (slice 8 1 (record 1 63 15)) ≤ 63 ∧
    (a.ref .gnss).lastEdge = some 0 ∧ ¬ a.clock.residence - 0 < 100 * msUnits ∧ a.clock.residence - 1 < 100 * msUnits := by
  decide

/-- 0xA5 + 7 + 1 + 8 + 12 is 0xC1: a valid record gives GNSS its Received Grade (R50, R51). -/
theorem test_todRecord : after (exec (.todRecord 0 0xC1) (receiving (record 1 8 12) 0)) (fun t =>
    (t.ref .gnss).grade = some 12 && t.gnss.ctr = { validRecords := 1 } && t.gnss.held = some ⟨7, 8, 1, 12⟩) = true := by
  decide

/-- A record with a wrong checksum is only counted (R50). -/
theorem test_todRecord_checksum : after (exec (.todRecord 0 0xC2) (receiving (record 1 8 12) 0)) (fun t =>
    (t.ref .gnss).grade = none && t.gnss.ctr = { badChecksum := 1 }) = true := by decide

/-- GNSS and EXT with their intervals started at 0, `left` units before the end of the one named. -/
def silent (residence : Nat) : State :=
  { withRef .ext { state := .monitoring, lastEdge := some 0 }
      (withRef .gnss { state := .monitoring, lastEdge := some 0, grade := some 9 }) with
    clock := { counter := 9, residence := residence }, gnss := { todStart := some 0 } }

/-- Each interval a unit before its end, its reference enabled and its defect absent. -/
theorem witness_intervals :
    let a := silent (2 * sec - 1)
    let b := silent (3 * sec - 1)
    let c := silent (sec - 1)
    (a.ref .gnss).state ≠ .disabled ∧ Defect.signalLost ∉ (a.ref .gnss).defects ∧ (a.ref .gnss).lastEdge = some 0 ∧
      a.canReach (0 + 2 * secUnits - a.clock.residence) ∧
    Defect.todMissing ∉ (b.ref .gnss).defects ∧ b.gnss.todStart = some 0 ∧
      b.canReach (0 + 3 * secUnits - b.clock.residence) ∧
    (c.ref .ext).state ≠ .disabled ∧ Defect.signalLost ∉ (c.ref .ext).defects ∧ (c.ref .ext).lastEdge = some 0 ∧
      c.canReach (0 + secUnits - c.clock.residence) := by unfold State.canReach; decide

/-- SIGNAL_LOST of GNSS at 2 s (R49). -/
theorem test_gnssSignalTimeout : after (exec .gnssSignalTimeout (silent (2 * sec - 1))) (fun t =>
    (t.ref .gnss).defects = [.signalLost] && t.clock.residence = 2 * sec) = true := by decide

/-- TOD_MISSING at 3 s, the Received Grade gone (R51). -/
theorem test_todIntervalTimeout : after (exec .todIntervalTimeout (silent (3 * sec - 1))) (fun t =>
    (t.ref .gnss).defects = [.todMissing] && (t.ref .gnss).grade = none) = true := by decide

/-- SIGNAL_LOST of EXT at 1 s (R58). -/
theorem test_extEdgeTimeout : after (exec .extEdgeTimeout (silent (sec - 1))) (fun t =>
    (t.ref .ext).defects = [.signalLost]) = true := by decide

/-- A reference whose timer started at 0, at 1 s of the Residence Clock before its end. -/
def timed (x : Reference) (residence : Nat) : State :=
  { withRef .pkt0 x with clock := { counter := 1, residence := residence } }

/-- A MONITORING reference with and without a measurement, and a RESTORING one, a unit before the end of their timers;
others take no such event. -/
theorem witness_qualified :
    let a := timed { state := .monitoring, qualify := ⟨0, some 0⟩, lastE := some 3 } (30 * sec - 1)
    let b := timed { state := .monitoring, qualify := ⟨0, some 0⟩ } (30 * sec - 1)
    let c := timed { state := .restoring, restore := ⟨0, some 0⟩ } (300 * sec - 1)
    (s0.ref .pkt0).state ≠ .monitoring ∧ (s0.ref .pkt0).state ≠ .restoring ∧
    (a.ref .pkt0).state = .monitoring ∧ (a.ref .pkt0).defects = [] ∧ (a.ref .pkt0).qualify.since = some 0 ∧
      a.canReach (0 + ((a.ref .pkt0).cfg.qualifyTime * secUnits - (a.ref .pkt0).qualify.base) - a.clock.residence) ∧
      (a.ref .pkt0).lastE.isSome = true ∧ (b.ref .pkt0).lastE.isSome = false ∧
    (c.ref .pkt0).state = .restoring ∧ (c.ref .pkt0).defects = [] ∧ (c.ref .pkt0).restore.since = some 0 ∧
      c.canReach (0 + ((c.ref .pkt0).cfg.restoreWait * secUnits - (c.ref .pkt0).restore.base) - c.clock.residence) := by
  unfold State.canReach; decide

/-- 30 s with a measurement: QUALIFIED (R64). -/
theorem test_qualifyTimeReached :
    after (exec (.qualifyTimeReached .pkt0)
      (timed { state := .monitoring, qualify := ⟨0, some 0⟩, lastE := some 3 } (30 * sec - 1))) (fun t =>
        (t.ref .pkt0).state = .qualified && t.clock.residence = 30 * sec) = true := by decide

/-- 300 s without a defect: QUALIFIED again (R66). -/
theorem test_restoreWaitReached :
    after (exec (.restoreWaitReached .pkt0) (timed { state := .restoring, restore := ⟨0, some 0⟩ } (300 * sec - 1)))
      (fun t => (t.ref .pkt0).state = .qualified) = true := by decide

/-- A QUALIFIED reference with a defect, a unit before the end of its hold-off; one without a defect. -/
theorem witness_holdOff :
    let a := timed { state := .qualified, defects := [.starved], holdOff := ⟨0, some 0⟩ } (2 * sec - 1)
    (s0.ref .pkt0).state ≠ .qualified ∧ (a.ref .pkt0).state = .qualified ∧ (a.ref .pkt0).defects ≠ [] ∧
      (Ref.pkt0 ≠ .gnss ∨ Defect.todMismatch ∉ (a.ref .pkt0).defects) ∧ (a.ref .pkt0).holdOff.since = some 0 ∧
      a.canReach (0 + ((a.ref .pkt0).cfg.holdOff * secUnits - (a.ref .pkt0).holdOff.base) - a.clock.residence) := by
  unfold State.canReach; decide

/-- The fields of a Reference Table entry. -/
def refFields (enabled : Bool) : List Byte :=
  encBool enabled ++ encIn declaredRates 10000000 ++ encNum 999 ++ encNum 11 ++ encNum 9 ++ encNum (-1) ++ encNum 9 ++
    encNum 10001 ++ encNum 16 ++ encNum 1 ++ encNum 1000001 ++ encIn policies .buildOut ++ encNum 16 ++
    encIn todBauds 115200

/-- A written entry that disables an enabled reference with a pin in bypass of it, and one that enables another. -/
theorem witness_putRef :
    let a := withPin 2 { cfg := { function := .freqOut, source := .bypass .pkt0 }, bypassOffset := some 5 }
      (withRef .pkt0 { cfg := { enabled := true }, state := .qualified })
    (puts 5 1 (refFields false) a).putsOne (cmd 0x12 (putArgs 5 1 (refFields false))) 5 1 (refFields false) ∧
    (puts 5 1 (refFields true)).putsOne (cmd 0x12 (putArgs 5 1 (refFields true))) 5 1 (refFields true) ∧
    10000000 ∈ declaredRates ∧ 115200 ∈ todBauds ∧ (a.ref .pkt0).cfg.enabled = true ∧
      (a.tpin 2).bypassRef = some .pkt0 ∧ (s0.ref .pkt0).cfg.enabled = false :=
  ⟨puts_one .., puts_one .., by decide⟩

/-- 2 s with a defect: FAILED, and REF_FAIL carries the set (R65, R67). -/
theorem test_holdOffExpires :
    after (exec (.holdOffExpires .pkt0)
      (timed { state := .qualified, defects := [.starved], holdOff := ⟨0, some 0⟩ } (2 * sec - 1))) (fun t =>
        (t.ref .pkt0).state = .failed && (t.alarm.record 1).cause = [.starved] && (t.alarm.record 1).present) = true := by
  decide

/-! ## Seconds and Epochs -/

/-- A LOCKED relay at a whole second, an accumulator with 59 seconds of I = 120. -/
def minute (second : Nat) : State :=
  { s0 with
    clock := { counter := second * sec, residence := second * sec }
    servo := { state := .locked, phaseValid := true, i := 120 }
    holdover := { acc := { count := 59, iSum := 59 * 120 } } }

/-- The last second before a minute, the one before it, a boundary that is due, and both reasons for no step. -/
theorem witness_secondBoundary :
    (minute 59).servo.phaseValid = true ∧ secondsOf (minute 59).clock.counter + 1 < secRange ∧
      (secondsOf (minute 59).clock.counter + 1) % 60 = 0 ∧ (secondsOf (minute 58).clock.counter + 1) % 60 ≠ 0 ∧
      ({ minute 60 with clock := { counter := 60 * sec, boundaryDue := true } } : State).clock.boundaryDue = true ∧
      ({ s0 with realign := { params := { stepPolicy := .never } } } : State).realign.params.stepPolicy = .never := by
  decide

/-- A boundary of a minute and of a second within one come to, one stood at already, and an instant that is no boundary. -/
theorem witness_arrive :
    (dueAt 60).boundaryDue = true ∧ secondsOf (dueAt 60).counter % 60 = 0 ∧ secondsOf (dueAt 59).counter % 60 ≠ 0 ∧
      (minute 59).clock.boundaryDue = false ∧ ({ minute 59 with clock := dueAt 60 } : State).clock.boundaryDue = true ∧
      ({ counter := 5 } : Clock).boundaryDue = false := by decide

/-- A relay with a decision PENDING for PKT0, and a Suspended Slew record of age 600 s. -/
def deciding (suspended : Option Suspended) (p : RealignParams := {}) : State :=
  { withRef .pkt0 { state := .qualified } with
    clock := { counter := 700 * sec, residence := 700 * sec }
    realign := { params := p, decision := .pending, decisionRef := some .pkt0, suspended := suspended } }

/-- A servo that follows PKT0, whose best exchange of this second gives the sample; it has qualified on one a
nanosecond away. -/
def following (x : Servo) (sample : Int) : State :=
  { withClient .pkt0 { best := some ⟨sample, 9⟩ } (withRef .pkt0
      { state := .qualified, cfg := { enabled := true }, lastE := some (sample - 1), grade := some 9 } locked) with
    servo := x }
/-- A boundary come to; the sample of a QUALIFIED phase reference, to be followed by the loop, decided on, or neither; and a
window that ends with a reference in the frequency role. -/
theorem witness_boundaryHandsOn :
    let v := following { state := .acquiring, acqFromHold := some false } 100
    let g := v.gather 1
    let j := ([Ref.gnss, .pkt0, .pkt1].foldl (fun t r => t.judgeSample (g.samples r) r) v).dropSamples g.second
    let w : State := { s0 with window := { isOpen := true }, selector := { freq := some .line0 } }
    (minute 59).atBoundary.isSome = true ∧ (minute 59).clock.inRange ∧ j.selector.phase = some .pkt0 ∧
      (j.ref .pkt0).state = .qualified ∧ j.clock.epoch = g.epoch ∧ (g.samples .pkt0).isSome = true ∧
      v.slewProgress.realign.decision = .decided ∧ v.servo.state = .acquiring ∧
      (deciding none).slewProgress.realign.decision = .pending ∧ s0.slewProgress.realign.decision = .none ∧
      (w.gather 16).ending = true ∧ w.selector.freq = some .line0 ∧ w.clock.epoch = (w.gather 16).epoch := by
  unfold Clock.inRange; decide +kernel

/-- A timer's end at the boundary of minute 1 finds the minute closed, with the servo state before the event (R117,
R119). -/
theorem test_closeComesFirst :
    ((minute 59).arrive (dueAt 60)).holdover.ring = [⟨1, 60, some 120, none, .locked⟩] := by decide

/-- The 60th qualifying second closes minute 1 with the mean 120 (R117, R119). -/
theorem test_secondBoundary : after (exec (.secondBoundary []) (minute 59)) (fun t =>
    t.clock.counter = 60 * sec && t.holdover.ring = [⟨1, 60, some 120, none, .locked⟩]) = true := by
  decide +kernel

/-- The last second of the counter's range, and any other; TIME_SET in FREERUN and not. -/
theorem witness_epochChanges :
    let a : State := { s0 with clock := { counter := secRange * secUnits - 5 } }
    let b : State := { asked 0x1A (beBytes 6 7 ++ beBytes 4 8) with servo := { state := .locked } }
    a.clock.boundaryDue = false ∧ secondsOf a.clock.counter + 1 = secRange ∧ secondsOf s0.clock.counter + 1 ≠ secRange ∧
      (asked 0x1A (beBytes 6 7 ++ beBytes 4 8)).headIs (cmd 0x1A (beBytes 6 7 ++ beBytes 4 8)) [] ∧
      (asked 0x1A (beBytes 6 7 ++ beBytes 4 8)).servo.state = .freerun ∧
      b.headIs (cmd 0x1A (beBytes 6 7 ++ beBytes 4 8)) [] ∧ b.servo.state ≠ .freerun ∧
      (let args := beBytes 6 7 ++ beBytes 4 1000000000
       (asked 0x1A args).headIs (cmd 0x1A args) [] ∧ 999999999 < beNat ((args.drop 6).take 4) ∧
        beNat (args.take 6) < secRange) := by
  unfold State.headIs; decide

/-- Beyond the last second the counter returns to 0 in a new Epoch (R91). -/
theorem test_counterWrap :
    after (exec .counterWrap { s0 with clock := { counter := secRange * secUnits - 5, epoch := 255 } }) (fun t =>
      t.clock.counter = 0 && t.clock.epoch = 0 && t.clock.residence = 5 && t.servo.ctr = { counterWraps := 1 }) = true := by
  decide

/-- TIME_SET to 7 s 8 ns (R95). -/
theorem test_timeSet : after (exec (.timeSet 0) (asked 0x1A (beBytes 6 7 ++ beBytes 4 8))) (fun t =>
    t.clock.counter = 7 * sec + 8 * 65536 && t.clock.epoch = 1 && t.servo.ctr = { timeSets := 1 } &&
      statusOf t = some 0) = true := by decide

/-- 10^9 ns are clamped, and the response carries the stored values (R95). -/
theorem test_timeSet_adjusted : after (exec (.timeSet 0) (asked 0x1A (beBytes 6 7 ++ beBytes 4 1000000000))) (fun t =>
    t.clock.counter = 7 * sec + 999999999 * 65536 && statusOf t = some 1 &&
      resultsOf t = beBytes 6 7 ++ beBytes 4 999999999) = true := by decide

/-! ## Realignment and servo -/

/-- A record that fits at both of its limits and one a nanosecond beyond; an E beyond Step Threshold and at it; an E
beyond Max Offset and at it; both policies; E equal to 0. -/
theorem witness_decision :
    let u : Suspended := ⟨.pkt0, 100, 100 * sec, true⟩
    let a := deciding (some u)
    let n := deciding none { stepPolicy := .never }
    a.realign.decisionRef = some .pkt0 ∧ a.realign.suspended = some u ∧
      a.clock.residence - u.at' ≤ a.realign.params.resumeWindow * secUnits ∧
      ((600 : Int) - u.b).natAbs ≤ a.realign.params.resumeTolerance ∧
      ¬ ((601 : Int) - u.b).natAbs ≤ a.realign.params.resumeTolerance ∧
    a.servo.phaseValid = false ∧ a.realign.params.stepThreshold < (1001 : Int).natAbs ∧
      ¬ a.realign.params.stepThreshold < (1000 : Int).natAbs ∧ a.realign.params.stepPolicy = .beforeServe ∧
      a.servingSince = false ∧
    n.realign.suspended = none ∧ n.realign.params.stepPolicy = .never ∧
      n.realign.params.maxOffset < (1000001 : Int).natAbs ∧ (1000000 : Int).natAbs ≤ n.realign.params.maxOffset ∧
      (n.ref .pkt0).state ≠ .disabled ∧ (n.ref .pkt0).cfg.policy = .slew ∧
      ({ a with servo := { state := .acquiring } } : State).servo.state = .acquiring := by decide

/-- E = 1,001 ns before any site has been served: the counter is stepped (R82, R93). -/
theorem test_decision_step : after (.next ((deciding none).takeDecision 1001)) (fun t =>
    t.clock.counter = 700 * sec + 1001 * 65536 && t.clock.epoch = 1 && t.realign.b = 0) = true := by decide

/-- A loop run in ACQUIRING on 256 ns: P = 256,000 * 128 / 256 and I = 256,000 * 32 / 65,536 (R107). -/
theorem test_loop : let x := ({ state := .acquiring } : Servo).loop 256
    x.f = 128125 ∧ x.i = 125 := by decide

/-- A servo in each state that the reports of R101 and R102 move, with the roles before each report. -/
theorem witness_servoUnderRoles :
    let on (state : ServoState) (phase freq : Option Ref) : State :=
      { s0 with servo := { state := state, phaseValid := true }, selector := { phase := phase, freq := freq } }
    (on .freqTrack none (some .line0)).servo.state = .freqTrack ∧ (on .locked (some .pkt0) none).servo.state ≠ .freqTrack ∧
    (on .holdover none none).selector.phase = none ∧ (on .holdover none none).servo.state ≠ .acquiring ∧
    (on .locked (some .pkt0) none).selector.phase = some .pkt0 ∧ Ref.pkt0 ≠ .pkt1 ∧
      (on .locked (some .pkt0) none).servo.state = .locked ∧ (on .locked (some .pkt0) (some .line0)).selector.freq.isSome = true ∧
    (on .holdover none none).selector.freq = none ∧ (on .holdover none none).servo.state = .holdover ∧
    (on .freqTrack none (some .line0)).selector.freq = some .line0 ∧ Ref.line0 ≠ .ext := by decide

/-- Eleven numbers for the Servo Parameters, the Pull Range lowered below F. -/
def servoFields : List Byte :=
  encNum 9 ++ encNum 1000 ++ encNum 256 ++ encNum 0 ++ encNum 0 ++ encNum 0 ++ encNum 0 ++ encNum 9 ++ encNum 1 ++
    encNum 99 ++ encNum 255

/-- A written Servo entry. -/
theorem witness_putServo :
    let a : State := { s0 with servo := { f := -1001, i := 1000 } }
    (puts 11 0 servoFields a).putsOne (cmd 0x12 (putArgs 11 0 servoFields)) 11 0 servoFields ∧
      held 1000 5000000 1000 ≠ a.servo.params.pullRange ∧ heldMag 1000 a.servo.f ≠ a.servo.f :=
  ⟨puts_one .., by decide⟩

/-- ACQUIRING with a run. -/
def acquiring (run : Nat) : Servo := { state := .acquiring, lockRun := run, acqFromHold := some false }
/-- LOCKED with a run. -/
def unlocking (run : Nat) : Servo := { state := .locked, phaseValid := true, unlockRun := run }

/-- Inputs at Lock Window and beyond it, at Unlock Window and beyond it, with runs that reach their counts and runs that
do not; and all the conditions under which the two rows complete. -/
theorem witness_lockAndUnlock :
    let a := following (acquiring 15) 100
    let b := following (unlocking 3) 1001
    (∀ k, k ≠ Ref.pkt0 → (a.ref k).state = .disabled) ∧ s0.servo.state ≠ .acquiring ∧ s0.servo.state ≠ .locked ∧
    (100 : Int).natAbs ≤ (acquiring 15).params.lockWindow ∧ (acquiring 15).params.lockWindow < (101 : Int).natAbs ∧
      (acquiring 15).params.lockCount ≤ min ((acquiring 15).lockRun + 1) 255 ∧
      min ((acquiring 14).lockRun + 1) 255 < (acquiring 14).params.lockCount ∧
    (1000 : Int).natAbs ≤ (unlocking 3).params.unlockWindow ∧ (unlocking 3).params.unlockWindow < (1001 : Int).natAbs ∧
      (unlocking 3).params.unlockCount ≤ min ((unlocking 3).unlockRun + 1) 255 ∧
      min ((unlocking 2).unlockRun + 1) 255 < (unlocking 2).params.unlockCount ∧
    secondsOf a.clock.counter + 1 < secRange ∧ (secondsOf a.clock.counter + 1) % 16 ≠ 0 ∧
      a.selector.phase = some .pkt0 ∧
      (a.ref .pkt0).state = .qualified ∧ (a.ref .pkt0).defects = [] ∧ (a.ref .pkt0).grade = some 9 ∧
      (a.ref .pkt0).cfg.minGrade ≤ 9 ∧ 0 < (a.ref .pkt0).cfg.starveSeconds ∧ a.sampleOf 1 .pkt0 = some 100 ∧
      (a.ref .pkt0).lastE = some 99 ∧ ((100 : Int) - 99).natAbs ≤ (a.ref .pkt0).cfg.jumpLimit ∧
      a.realign.decision = .decided ∧ a.realign.slew ≠ some false ∧ a.realign.b = 0 ∧
      b.sampleOf 1 .pkt0 = some 1001 ∧ (b.ref .pkt0).lastE = some 1000 := by
  refine ⟨fun k => ?_, by decide⟩
  cases k <;> decide

/-- The sixteenth sample within Lock Window locks (R109): Phase Valid, and the grade of a LOCKED relay is the Received
Grade less one (R130). -/
theorem test_lockCountReached : after (exec .lockCountReached (following (acquiring 15) 100)) (fun t =>
    t.servo.state = .locked && t.servo.phaseValid && t.holdover.announced = 8 && t.clock.counter = sec) = true := by
  decide +kernel

/-- A run at a Lock Count that was lowered waits for a sample that adds to it (R98). -/
theorem test_lockCountLowered : after (exec .lockCountReached (following (acquiring 200) 101)) (fun t =>
    t.servo.state = .acquiring && t.servo.lockRun = 200) = true := by decide +kernel

/-- The fourth sample beyond Unlock Window unlocks (R110): back to ACQUIRING with Phase Valid as it was. -/
theorem test_unlockCountReached : after (exec .unlockCountReached (following (unlocking 3) 1001)) (fun t =>
    t.servo.state = .acquiring && t.servo.phaseValid && t.servo.ctr.unlocks = 1) = true := by decide +kernel

/-- No record, one paused, and one that runs. -/
theorem witness_holdoverMinute :
    s0.holdover.record = none ∧ ((holding false).holdover.record.bind fun r => r.elapsed.since) = none ∧
      ((holding true).holdover.record.map fun r => r.elapsed.since) = some (some 0) ∧ (0 + 1) * 60 ≤ 4294967295 ∧
      (holding true).canReach (0 + ((0 + 1) * 60 * secUnits - 0) - (holding true).clock.residence) ∧
      (holding true).servo.state = .holdover := by unfold State.canReach; decide

/-- After one minute F is 1,000 + 90 / 60 rounded away from zero (R127). -/
theorem test_holdoverMinute : after (exec .holdoverMinute (holding true)) (fun t =>
    t.servo.f = 1002 && t.servo.i = 1002) = true := by decide

/-- A ring of `n` full minutes of 90, the newest last. -/
def minutes (n : Nat) : List RingEntry := (List.range n).map fun k => ⟨k + 1, 60, some 90, some .pkt0, .locked⟩

/-- A holdover entered with one usable entry fewer than Minimum Entries, and with just as many; with a drift to estimate;
one resumed; and the servo states that a change of state comes from. -/
theorem witness_enterHoldover :
    let a (n : Nat) (p : HoldoverParams) : State := { s0 with holdover := { params := p, ring := minutes n } }
    let kept (n : Nat) (p : HoldoverParams) := (((minutes n).take ((minutes n).length - p.guardMinutes)).drop
      ((minutes n).length - p.guardMinutes - p.averagingDepth)).filter fun e => e.lockedSeconds = 60
    (a 11 {}).holdover.record = none ∧ (kept 11 {}).length < ({} : HoldoverParams).minimumEntries ∧
      ({} : HoldoverParams).minimumEntries ≤ (kept 12 {}).length ∧ ({} : HoldoverParams).driftEstimation = false ∧
    (let p : HoldoverParams := { driftEstimation := true, driftMinimum := 4, minimumEntries := 4 }
     p.driftMinimum ≤ (kept 6 p).length ∧ 2 ≤ (kept 6 p).length) ∧
    (holding false).holdover.record.isSome = true ∧ (holding true).servo.phaseValid = true := by decide

/-- A slew with B in ns. -/
def slewing (b : Int) (held : Bool := false) : State := { s0 with realign := { b := b, slew := some held } }
/-- A suspended slew of 600 s of age but for a unit. -/
def suspendedSlew : State :=
  { s0 with
    clock := { counter := 9, residence := 600 * sec - 1 }, realign := { suspended := some ⟨.pkt0, 5, 0, false⟩ } }

/-- No slew and one held; B at Slew Rate, beyond it, and below zero; a suspended slew and none. -/
theorem witness_slewMoves :
    s0.realign.slew ≠ some false ∧ (slewing 7 true).realign.slew ≠ some false ∧ (slewing 10).realign.slew = some false ∧
      (slewing 10).realign.b.natAbs ≤ (slewing 10).realign.params.slewRate ∧
      (slewing (-11)).realign.params.slewRate < (slewing (-11)).realign.b.natAbs ∧ s0.realign.suspended = none ∧
      suspendedSlew.realign.suspended = some ⟨.pkt0, 5, 0, false⟩ ∧
      suspendedSlew.canReach (0 + suspendedSlew.realign.params.resumeWindow * secUnits - suspendedSlew.clock.residence) := by
  unfold State.canReach; decide

/-- The fields of the Realignment Parameters. -/
def realignFields : List Byte :=
  encIn stepPolicies .always ++ encNum 99 ++ encNum 1000 ++ encNum 0 ++ encNum 599 ++ encNum 9

/-- A written entry whose Resume Window the suspended slew has passed, and one with no suspended slew. -/
theorem witness_putRealign :
    (puts 9 0 realignFields suspendedSlew).putsOne (cmd 0x12 (putArgs 9 0 realignFields)) 9 0 realignFields ∧
    (puts 9 0 realignFields).putsOne (cmd 0x12 (putArgs 9 0 realignFields)) 9 0 realignFields ∧
    suspendedSlew.realign.suspended = some ⟨.pkt0, 5, 0, false⟩ ∧ s0.realign.suspended = none ∧
      held 1 86400 599 ≠ suspendedSlew.realign.params.resumeWindow ∧
      held 1 86400 599 * secUnits ≤ (suspendedSlew.pass 0).clock.residence - 0 :=
  ⟨puts_one .., puts_one .., by decide⟩

/-- B moves by Slew Rate toward zero (R84). -/
theorem test_slew : (slewing (-11)).slewProgress.realign.b = -1 := by decide

/-- The age reaches Resume Window (R87). -/
theorem test_suspendedSlewExpires : after (exec .suspendedSlewExpires suspendedSlew) (fun t =>
    t.realign.suspended = none && t.realign.ctr = { suspendedExpired := 1 }) = true := by decide

/-! ## Sites -/

/-- Site 0 with its port up. -/
def served (x : Site) (residence : Nat := 0) : State :=
  { up .s0 (withSite 0 x) with clock := { counter := 9, residence := residence } }

/-- A MUTED site whose Serve Delay runs and a PRESENT one, a unit before their ends; neither. -/
theorem witness_siteTimers :
    let a := served { state := .muted, serve := ⟨0, some 0⟩ } (5 * sec - 1)
    let b := served { state := .serving, present := true, lastQuery := some 0 } (10 * sec - 1)
    (s0.site 0).state ≠ .muted ∧ (s0.site 0).present = false ∧ (a.site 0).state = .muted ∧
      (a.site 0).serve.since = some 0 ∧
      a.canReach (0 + ((a.site 0).cfg.serveDelay * secUnits - (a.site 0).serve.base) - a.clock.residence) ∧
      (b.site 0).present = true ∧ (b.site 0).lastQuery = some 0 ∧
      b.canReach (0 + (b.site 0).cfg.queryTimeout * secUnits - b.clock.residence) := by unfold State.canReach; decide

/-- SERVING after the Serve Delay (R141). -/
theorem test_serveDelayExpires :
    after (exec (.serveDelayExpires 0) (served { state := .muted, serve := ⟨0, some 0⟩ } (5 * sec - 1))) (fun t =>
      (t.site 0).state = .serving && t.servingSince && (t.site 0).ctr = { serveEntries := 1 }) = true := by decide

/-- The fields of a Site Table entry. -/
def siteFields (enabled : Bool) (domain grade : Int) : List Byte :=
  encBool enabled ++ encNum domain ++ encOptInt none ++ encIn markRates 16 ++ encNum (-100001) ++ encNum grade ++
    encNum 61 ++ encNum 0 ++ encNum 61

/-- A SERVING site whose Domain a written entry would move, one that it disables, one whose Minimum Grade it raises above
the Announced Grade; and a site that it enables. -/
theorem witness_putSite :
    let a := served { state := .serving, cfg := { enabled := true, minGrade := 1 } }
    (puts 17 0 (siteFields true 1 1) a).putsOne (cmd 0x12 (putArgs 17 0 (siteFields true 1 1))) 17 0
        (siteFields true 1 1) ∧
    (puts 17 0 (siteFields false 1 1) a).putsOne (cmd 0x12 (putArgs 17 0 (siteFields false 1 1))) 17 0
        (siteFields false 1 1) ∧
    (puts 17 0 (siteFields true 0 2) a).putsOne (cmd 0x12 (putArgs 17 0 (siteFields true 0 2))) 17 0
        (siteFields true 0 2) ∧
    (puts 17 5 (siteFields true 0 2)).putsOne (cmd 0x12 (putArgs 17 5 (siteFields true 0 2))) 17 5
        (siteFields true 0 2) ∧
    16 ∈ markRates ∧ (a.site 0).state = .serving ∧ (a.site 0).cfg.enabled = true ∧
      held 0 127 1 ≠ (a.site 0).cfg.domain ∧ (a.site 0).cfg.vlan = none ∧ (a.site 0).cfg.markRate = 16 ∧
      held 0 15 2 ≠ (a.site 0).cfg.minGrade ∧ a.holdover.announced < held 0 15 2 ∧ (s0.site 5).cfg.enabled = false :=
  ⟨puts_one .., puts_one .., puts_one .., puts_one .., by decide⟩

/-- ABSENT after the Query Timeout (R152). -/
theorem test_presenceTimeout :
    after (exec (.presenceTimeout 0)
      (served { state := .serving, present := true, lastQuery := some 0 } (10 * sec - 1))) (fun t =>
        !(t.site 0).present && (t.alarm.record 27).present) = true := by decide

/-- A DISABLED site, another Type, another Domain; then a query stamped in another Epoch, to a MUTED site, over the
limit, and one that is answered. -/
theorem witness_siteSorts :
    let h (f : Frame) := readHeader f.payload
    (s0.site 0).state = .disabled ∧ ((served { state := .serving }).site 0).state ≠ .disabled ∧
      (h (timing 1 0 0 [])).type ≠ 3 ∧ (h (timing 3 0 0 [])).type = 3 ∧
      (h (timing 3 0 0 [])).domain ≠ ((served { state := .serving, cfg := { domain := 1 } }).site 0).cfg.domain ∧
      (h (timing 3 0 0 [])).domain = ((served { state := .serving }).site 0).cfg.domain ∧
      (⟨0, 1, 0⟩ : Ingress).epoch ≠ s0.clock.epoch ∧ stamps0.epoch = s0.clock.epoch ∧
      ((served { state := .muted }).site 0).state = .muted ∧
      ((served { state := .serving, queries := 128 }).site 0).cfg.queryLimit ≤ 128 ∧
      127 < ((served { state := .serving, queries := 127 }).site 0).cfg.queryLimit := by decide

/-- A query is answered with its own Sequence (R151). -/
theorem test_siteQuery : after (.next ((served { state := .serving }).siteSort 0 (timing 3 77 0 []) stamps0)) (fun t =>
    (t.port .s0).timingQ.map (fun q => beNat (slice 4 2 q.frame.payload)) = [77] && (t.site 0).present) = true := by
  decide

/-- A SERVING site whose next mark is at one sixteenth of a second; one that is not SERVING. -/
theorem witness_markDue :
    let a := served { state := .serving }
    (s0.site 0).state ≠ .serving ∧ (a.site 0).state = .serving ∧
      a.canReach (nextDue (65536000000000 / (a.site 0).rate) (a.site 0).markDone a.clock.counter - a.clock.counter) := by
  unfold State.canReach; decide

/-- A session of each state with room at its port, one whose port is down, and one with an Epoch change to tell. -/
theorem witness_offerNotice :
    (s0.site 0).state = .disabled ∧ ((served { state := .muted }).site 0).state ≠ .disabled ∧
      ((served { state := .serving, epochPending := true }).site 0).epochPending = true ∧
      ((served { state := .serving }).port .s0).linkUp = true ∧ ((served { state := .serving }).port .s0).timingQ.length < 16 ∧
      ((withSite 0 { state := .serving }).port .s0).linkUp = false := by decide

/-- The mark due at 62.5 ms (R145). -/
theorem test_markDue : after (exec (.markDue 0) (served { state := .serving })) (fun t =>
    t.clock.counter = 4096000000000 && (t.port .s0).timingQ.length = 1 && (t.site 0).nextMark = 1) = true := by decide

/-! ## Output pins -/

/-- Pin 2 as an output that is on. -/
def driving (x : Pin) (f : PinFunction) : State :=
  withPin 2 { x with cfg := { x.cfg with function := f, outEnabled := true } }

/-- An ACTIVE PPS_OUT pin 1 us before second 1 with Offset -1,000 ns, and one that is high; others. -/
theorem witness_ppsPulses :
    let a := atTime (sec / 2) (driving { cfg := { offset := -1000 } } .ppsOut)
    let b := driving { high := some (.atResidence 6553600000000) } .ppsOut
    (s0.tpin 2).cfg.function ≠ .ppsOut ∧ (a.tpin 2).cfg.function = .ppsOut ∧ (a.tpin 2).cfg.outEnabled = true ∧
      (a.tpin 2).squelched = false ∧ a.canReach (((1 : Int) * 65536000000000 - 1000 * 65536).toNat - a.clock.counter) ∧
    (b.tpin 2).high = some (.atResidence 6553600000000) ∧ b.canReach (6553600000000 - b.clock.residence) ∧
      (a.tpin 2).high = none := by unfold State.canReach; decide

/-- The edge of second 1 comes 1 us early under Offset -1,000 ns, and the pulse is 100 ms wide (R161). -/
theorem test_ppsOutputEdge :
    after (exec (.ppsOutputEdge 2) (atTime (sec / 2) (driving { cfg := { offset := -1000 } } .ppsOut))) (fun t =>
      t.clock.counter = sec - 65536000 && (t.tpin 2).ppsLast = some 1 &&
        (t.tpin 2).high = some (.atResidence (sec - 65536000 + 6553600000000))) = true := by decide

/-- A SQUELCHED pin goes through its instant without an edge (R164). -/
theorem test_ppsOutputEdge_squelched :
    after (exec (.ppsOutputEdge 2) (driving { squelched := true } .ppsOut)) (fun t =>
      t.clock.counter = sec && (t.tpin 2).high = none && (t.tpin 2).ctr = {} && (t.tpin 2).ppsFrom = sec) = true := by
  decide

/-- An edge of the very moment of un-squelching, taken after it, is produced (R164). -/
theorem test_unsquelchCoincides :
    after (exec (.ppsOutputEdge 2)
        (atTime sec (driving { squelched := true } .ppsOut)).deliverSquelch) (fun t =>
      (t.tpin 2).high.isSome && (t.tpin 2).ppsLast = some 1) = true := by decide

/-- The fields of a Pin Table entry. -/
def pinFields (f : PinFunction) (enabled : Bool) (squelch : Int) (source : FreqSource) : List Byte :=
  encIn pinFunctions f ++ encBool enabled ++ encNum squelch ++ encNum 100000 ++ encNum 0 ++ encIn pinRates 10000000 ++
    (match source with
      | .counter => [0, 0]
      | .bypass r => [1, BitVec.ofNat 8 (refIdx r).val])

/-- Squelch Grade above the Announced Grade and at it; a running output that a written entry would make an input, an
input function that another pin holds, and a pin that becomes an output squelched at once. -/
theorem witness_pins :
    let a := driving { cfg := { squelch := 2 } } .ppsOut
    let b := withPin 3 { cfg := { function := .ppsIn } }
    let f := pinFields .ppsIn false 0 .counter
    let g := pinFields .freqOut true 15 (.bypass .ext)
    let h := pinFields .freqOut true 0 .counter
    (a.tpin 2).cfg.outEnabled = true ∧ a.holdover.announced < (a.tpin 2).cfg.squelch ∧
      ¬ (driving { cfg := { squelch := 1 } } .ppsOut).holdover.announced < 1 ∧
    (puts 19 2 h a).putsOne (cmd 0x12 (putArgs 19 2 h)) 19 2 h ∧ PinFunction.ppsOut ≠ .freqOut ∧
    (puts 19 0 f b).putsOne (cmd 0x12 (putArgs 19 0 f)) 19 0 f ∧ (b.tpin 3).cfg.function = .ppsIn ∧ (0 : Fin 4) ≠ 3 ∧
    (puts 19 0 g).putsOne (cmd 0x12 (putArgs 19 0 g)) 19 0 g ∧ 10000000 ∈ pinRates ∧
      s0.holdover.announced < held 0 15 15 :=
  ⟨by decide, by decide, by decide, puts_one .., by decide, puts_one .., by decide, by decide, puts_one .., by decide⟩

/-- The pulse ends (R161). -/
theorem test_ppsPulseEnd :
    after (exec (.ppsPulseEnd 2) (driving { high := some (.atResidence 6553600000000) } .ppsOut)) (fun t =>
      (t.tpin 2).high = none && t.clock.residence = 6553600000000) = true := by decide

/-- A FREQ_OUT pin in each of its four phases; high by either clock; and one of another function. -/
theorem witness_frequencyOutput :
    let a (f : FreqPhase) := driving { phase := f } .freqOut
    let den := 10000000 * (1000000000000 + 0 : Int).toNat
    (s0.tpin 2).cfg.function ≠ .freqOut ∧ ((a (.onCounter 0)).tpin 2).cfg.function = .freqOut ∧
      ((a (.onCounter 0)).tpin 2).cfg.outEnabled = true ∧ ((a (.onCounter 0)).tpin 2).squelched = false ∧
      ((a (.onCounter 0)).tpin 2).phase = .onCounter 0 ∧ (a (.onCounter 0)).canReach (nextDue (65536000000000 / 10000000) 0 0 - 0) ∧
    ((a (.leavingCounter 0)).tpin 2).phase = .leavingCounter 0 ∧ ((a (.onBypass 9 0)).tpin 2).phase = .onBypass 9 0 ∧
      0 + (9 - 0) * (1000000000000 + 0 : Int).toNat < s0.clock.room * 2000000000000 ∧ 0 < den ∧
    ((a (.leavingBypass 9)).tpin 2).phase = .leavingBypass 9 ∧ ((a (.leavingBypass 9)).reachOsc 9).isSome = true ∧
    ((driving { high := some (.atResidence 5) } .freqOut).tpin 2).high = some (.atResidence 5) ∧
      (driving { high := some (.atResidence 5) } .freqOut).canReach (5 - 0) ∧
    ((driving { high := some (.atOsc 5) } .freqOut).tpin 2).high = some (.atOsc 5) := by unfold State.canReach; decide

/-- A live pin in bypass of EXT that has an offset, with Fallback as it was and EXT QUALIFIED or not; one that is squelched;
one in the gap after its last bypass cycle. -/
theorem witness_fallback :
    let cfg : PinCfg := { function := .freqOut, outEnabled := true, source := .bypass .ext }
    let a (ext : RefState) (x : Pin) : State := withPin 2 { x with cfg := cfg } (withRef .ext { state := ext })
    ((a .failed { fallback := false, bypassOffset := some 5 }).ref .ext).state ≠ .qualified ∧
      ((a .failed { fallback := false, bypassOffset := some 5 }).tpin 2).fallback = false ∧
      ((a .qualified { bypassOffset := some 5 }).ref .ext).state = .qualified ∧
      ((a .qualified { bypassOffset := some 5 }).tpin 2).bypassOffset.isSome = true ∧
      ((a .qualified {}).tpin 2).bypassOffset.isSome = false ∧ ((a .qualified {}).tpin 2).fallback = true ∧
      ((a .qualified {}).tpin 2).cfg.source = .bypass .ext ∧ (s0.tpin 2).cfg.function ≠ .freqOut ∧
      ((a .qualified { phase := .leavingBypass 0, squelched := true }).tpin 2).squelched = true := by decide

/-- In the gap after a bypass cycle the next cycle waits for the counter instant: no cycle shorter than a period (R163). -/
theorem test_fallbackGap :
    (bypassPhaseOf 10 99 (.leavingBypass 9) = .leavingCounter 99) ∧
      (bypassPhaseOf 9 99 (.leavingBypass 9) = .onBypass 9 0) := by decide

/-- 10 MHz on the counter: an edge each 100 ns, the pin high for 50 ns (R162). -/
theorem test_freqOutputEdge : after (exec (.freqOutputEdge 2) (driving {} .freqOut)) (fun t =>
    t.clock.counter = 6553600 && (t.tpin 2).high = some (.atResidence 9830400)) = true := by decide

/-- A bypass edge at the very instant of a second boundary, taken before the boundary's work (R164; log 4). -/
theorem test_bypassEdgeAtBoundary :
    after (exec (.freqOutputEdge 2) (driving { fallback := false, bypassOffset := some 0, phase := .onBypass oscSecond 0 }
      .freqOut)) (fun t => t.clock.counter = sec && t.clock.boundaryDue && (t.tpin 2).high.isSome) = true := by decide

/-- The half-cycle ends (R162). -/
theorem test_halfCycleEnd :
    after (exec (.halfCycleEnd 2) (driving { high := some (.atResidence 9830400) } .freqOut)) (fun t =>
      (t.tpin 2).high = none && t.clock.residence = 9830400) = true := by decide

/-! ## Alarms -/

/-- A relay with notices on, and one record in a state. -/
def alarmed (i : Fin 41) (r : AlarmRecord) (residence : Nat) (pulse : Bool := false) : State :=
  { s0 with
    clock := { counter := 9, residence := residence }
    alarm := { recs := s0.alarm.recs.set i.val r
               set := { notify := true, collector := some 5, pulseMode := pulse } } }

/-- A present and an absent record, neither of them NOTICE_OVERFLOW; a RAISING and a CLEARING record a
unit before the ends of their timers, routed to both, notices on and room in the queue. -/
theorem witness_alarmRecords :
    let a := alarmed 11 { state := .raising, present := true, timer := some 0 } (2 * sec - 1)
    let b := alarmed 11 { state := .clearing, timer := some 0 } (2 * sec - 1)
    (11 : Fin 41) ≠ recOverflow ∧ (a.alarm.record 11).present = true ∧ (b.alarm.record 11).present = false ∧
      (s0.alarm.record 0).state ≠ .raising ∧ (s0.alarm.record 0).state ≠ .clearing ∧
    (a.alarm.record 11).state = .raising ∧ (a.alarm.record 11).timer = some 0 ∧
      a.canReach (0 + (a.alarm.cfg.get (conditionOf 11)).raiseHold * secUnits - a.clock.residence) ∧
      (a.alarm.cfg.get (conditionOf 11)).route = .notice ∧ (a.alarm.cfg.get (conditionOf 11)).severity ≠ .off ∧
      a.alarm.set.notify = true ∧ a.alarm.queue.length < 16 ∧ (∀ n, n ∈ a.alarm.queue → n.record ≠ 11) ∧
      (a.alarm.cfg.get (conditionOf recOverflow)).route = .pin ∧ s0.alarm.set.notify = false ∧
    (b.alarm.record 11).state = .clearing ∧ (b.alarm.record 11).timer = some 0 ∧
      b.canReach (0 + (b.alarm.cfg.get (conditionOf 11)).clearDelay * secUnits - b.clock.residence) ∧
    (let c := alarmed 33 { state := .raising, present := true, timer := some 0 } 0 true
     c.alarm.set.pulseMode = true ∧ c.alarm.cfg.get (conditionOf 33) = ⟨.major, .both, 0, 0⟩ ∧
      (c.alarm.record 33).state = .raising ∧ (c.alarm.record 33).timer = some 0 ∧ c.canReach (0 + 0 * secUnits - 0)) := by
  unfold State.canReach; decide

/-- LINK_DOWN is raised 2 s after its report, with its notice (R172, R176). -/
theorem test_raiseHoldOffExpires :
    after (exec (.raiseHoldOffExpires 11) (alarmed 11 { state := .raising, present := true, timer := some 0 } (2 * sec - 1)))
      (fun t => (t.alarm.record 11).state = .raised && (t.alarm.record 11).raiseCount = 1 &&
        t.alarm.queue.map (fun n => n.record) = [11]) = true := by decide

/-- A raise with a notice of the record waiting rewrites it; one with the queue full leaves the record Pending (R176). -/
theorem test_raiseFindsQueue :
    let raise (i : Fin 41) (queue : List Notice) (p : State → Bool) : Bool :=
      let a := alarmed i { state := .raising, present := true, timer := some 0 } (2 * sec - 1)
      after (exec (.raiseHoldOffExpires i) { a with alarm := { a.alarm with queue := queue } }) p
    raise 11 [⟨11, .clear, .major, 4, none, []⟩] (fun t =>
      t.alarm.queue.map (fun n => (n.state, n.raiseCount)) = [(.raised, 1)] && t.alarm.ctr.noticesRewritten = 1) = true ∧
    raise 33 fullNotices (fun t => t.alarm.queue = fullNotices && (t.alarm.record 33).pending &&
      (t.alarm.record recOverflow).present && t.alarm.ctr.noticesDeferred = 1) = true := by decide

/-- And cleared 2 s after it went absent (R172). -/
theorem test_clearDelayExpires :
    after (exec (.clearDelayExpires 11) (alarmed 11 { state := .clearing, timer := some 0 } (2 * sec - 1))) (fun t =>
      (t.alarm.record 11).state = .clear && t.alarm.queue.length = 1) = true := by decide

/-- A notice that waits, and the end of a spacing of 125 ms. -/
def noticing (spacing : Option Nat) : State :=
  { up .n0 with
    alarm := { set := { notify := true, collector := some 5 }, queue := [⟨0, .raised, .major, 1, none, []⟩]
               spacing := spacing } }

/-- Notices off, no collector, no notice; a notice with no spacing and with one that runs. -/
theorem witness_noticeOffer :
    s0.alarm.set.notify = false ∧ s0.alarm.set.collector = none ∧ s0.alarm.queue = [] ∧
    (noticing none).alarm.set.notify = true ∧ (noticing none).alarm.set.collector = some 5 ∧
      (noticing none).alarm.queue = ⟨0, .raised, .major, 1, none, []⟩ :: [] ∧ (noticing none).canReach 0 ∧
      (noticing (some 0)).canReach (0 + (2 * 1000000000 + 8) / (2 * 8) * 65536 - (noticing (some 0)).clock.residence) ∧
      (∀ i, ((noticing none).alarm.record i).pending = false) := by
  unfold State.canReach; decide +kernel

/-- A queue of 15 behind the head with two records pending, of which one finds room and one does not; and a queue with room
for both. -/
theorem witness_noticeDrain :
    let recs := (s0.alarm.recs.set 1 { state := .raised, pending := true }).set 2 { state := .raised, pending := true }
    let rest := List.replicate 15 (⟨0, .raised, .major, 1, none, []⟩ : Notice)
    let waiting := (List.finRange 41).filter fun i => (recs.get i).pending
    waiting = [1, 2, 7] ∧ rest.length < 16 ∧ (rest ++ [(⟨1, .raised, .major, 0, none, []⟩ : Notice)]).length = 16 ∧
      waiting.length < 16 ∧ (recs.get recOverflow).present = false := by decide

/-- The head is offered to N0 at the end of the spacing: 10^9 / 8 ns (R181). -/
theorem test_noticeOffer : after (exec .noticeOffer (noticing (some 0))) (fun t =>
    t.clock.residence = 8192000000000 && (t.port .n0).bulkQ.length = 1 && t.alarm.queue = [] &&
      t.alarm.ctr = { noticesSent := 1 }) = true := by decide

/-- The test interval and a pulse, a unit before their ends; neither. -/
theorem witness_testAndPulse :
    let a : State := { atTime (sec - 1) with alarm := { s0.alarm with test := some 0 } }
    let b : State := { atTime (sec / 10 - 1) with alarm := { set := { pulseMode := true }, pulse := some 0, asserted := true } }
    s0.alarm.test = none ∧ s0.alarm.pulse = none ∧ a.alarm.test = some 0 ∧
      a.canReach (0 + 65536000000000 - a.clock.residence) ∧ b.alarm.pulse = some 0 ∧
      b.canReach (0 + b.alarm.set.pulseWidth * 65536000000 - b.clock.residence) := by unfold State.canReach; decide

/-- The fields of an Alarm Config entry. -/
def alarmFields (hold delay : Int) : List Byte := encIn severities .minor ++ encIn routes .both ++ encNum hold ++ encNum delay
/-- The fields of the Alarm Settings. -/
def settingsFields (notify : Bool) (collector : Option Addr) (pulse : Bool) : List Byte :=
  encFirst notify ++ encNum 65 ++ encOpt 6 encAddr collector ++ encEnum (portIdx .s5).val ++ encOptInt (some 4096) ++
    encEnum 1 ++ encEnum (if pulse then 1 else 0) ++ encNum 9

/-- A RAISING and a CLEARING record of LINK_DOWN, a written time below what they have run and one above it; settings that
are refused, that turn notices off, that turn them on, and that change Pin Mode each way; a pulse that has run for the new
width. -/
theorem witness_putAlarms :
    let a := alarmed 11 { state := .raising, present := true, timer := some 0 } (2 * sec - 1)
    let b := alarmed 11 { state := .clearing, timer := some 0 } (2 * sec - 1)
    let c : State := { b with alarm := { b.alarm with
      set := { notify := true, collector := some 5, pulseMode := true }, pulse := some 0, asserted := true } }
    (puts 21 6 (alarmFields 1 256) a).putsOne (cmd 0x12 (putArgs 21 6 (alarmFields 1 256))) 21 6 (alarmFields 1 256) ∧
    (puts 21 6 (alarmFields 2 1) b).putsOne (cmd 0x12 (putArgs 21 6 (alarmFields 2 1))) 21 6 (alarmFields 2 1) ∧
    (puts 22 0 (settingsFields true none false)).putsOne (cmd 0x12 (putArgs 22 0 (settingsFields true none false))) 22 0
      (settingsFields true none false) ∧
    (puts 22 0 (settingsFields false none false) a).putsOne (cmd 0x12 (putArgs 22 0 (settingsFields false none false)))
      22 0 (settingsFields false none false) ∧
    (puts 22 0 (settingsFields true (some 5) true) c).putsOne (cmd 0x12 (putArgs 22 0 (settingsFields true (some 5) true)))
      22 0 (settingsFields true (some 5) true) ∧
    conditionOf 11 = 6 ∧ (11 : Fin 41) ≠ recOverflow ∧ (a.alarm.record 11).timer = some 0 ∧
      (a.alarm.record 11).state = .raising ∧ (b.alarm.record 11).state = .clearing ∧
      held 0 255 1 ≠ (a.alarm.cfg.get 6).raiseHold ∧ held 0 255 2 = (a.alarm.cfg.get 6).raiseHold ∧
      held 0 255 1 * 65536000000000 ≤ (a.pass 0).clock.residence - 0 ∧
      ¬ held 0 255 256 * 65536000000000 ≤ (b.pass 0).clock.residence - 0 ∧
      a.alarm.set.notify = true ∧ s0.alarm.set.notify = false ∧ s0.alarm.set.pulseMode = false ∧
      (s0.alarm.record 7).pending = true ∧ s0.alarm.queue.length < 16 ∧ (∀ i, (a.alarm.recs.get i).pending = true → i = 7) ∧
      c.alarm.set.pulseMode = true ∧ c.alarm.pulse = some 0 ∧
      held 10 1000 9 * 65536000000 ≤ (c.pass 0).clock.residence - 0 :=
  ⟨puts_one .., puts_one .., puts_one .., puts_one .., puts_one .., by decide⟩

/-- Notices turned on: the record of FREERUN, pending since reset, is told (R178, R180). -/
theorem test_notifyOn :
    let f := settingsFields true (some 5) false
    after (exec (.put 0) (puts 22 0 f)) (fun t =>
      t.alarm.queue.map Notice.record = [7] && !(t.alarm.record 7).pending) = true := by decide +kernel

/-- A spacing of 125 ms that has run out is over when the rate is written, one that still runs is not (R181). -/
theorem test_slowerRate :
    let a (residence : Nat) := ((noticing (some 0)).alarm.writeSet ⟨0, 0⟩ residence
      { notify := true, collector := some 5, rate := 1 }).spacing
    a 8192000000000 = none ∧ a 8191999999999 = some 0 := by decide

/-- TEST goes absent after 1 s (R186). -/
theorem test_testIntervalExpires :
    after (exec .testIntervalExpires { atTime (sec - 1) with
      alarm := { recs := s0.alarm.recs.set 40 { state := .raised, present := true }, test := some 0 } }) (fun t =>
        t.alarm.test = none && !(t.alarm.record 40).present) = true := by decide

/-- The pulse of 100 ms ends (R185). -/
theorem test_pinPulseEnd :
    after (exec .pinPulseEnd { atTime (sec / 10 - 1) with
      alarm := { set := { pulseMode := true }, pulse := some 0, asserted := true } }) (fun t =>
        !t.alarm.asserted && t.alarm.pulse = none) = true := by decide

/-! ## Management -/

/-- GET and CONTINUE at the head of the queue: tables 25 and 26, starts at the last entry and one past it, a table with no
entry; ON_READ for the Alarm Table. -/
theorem witness_reads :
    (asked 0x10 [26, 0, 0, 1]).headIs (cmd 0x10 [26, 0, 0, 1]) [] ∧
    (asked 0x10 [0, 0, 63, 1]).headIs (cmd 0x10 [0, 0, 63, 1]) [] ∧ (asked 0x10 []).entryCount 0 = 64 ∧
    (asked 0x10 [0, 0, 64, 1]).headIs (cmd 0x10 [0, 0, 64, 1]) [] ∧
    (asked 0x11 [25, 1]).headIs (cmd 0x11 [25, 1]) [] ∧ (asked 0x11 [25, 1]).entryCount 25 = 31 ∧
    (asked 0x11 [15, 1]).headIs (cmd 0x11 [15, 1]) [] ∧ (asked 0x11 [15, 1]).entryCount 15 = 0 := by
  unfold State.headIs; decide

/-- Index 64 is no Flow entry (R194). -/
theorem test_get_badIndex : after (exec (.get 0) (asked 0x10 [0, 0, 64, 1])) (fun t => statusOf t = some 4) = true := by
  decide

/-- GET of Port Map entry 7: one entry of 18 bytes, ACTIVE_UPLINK with no compensations (R11, R194). -/
theorem test_get : after (exec (.get 0) (asked 0x10 [1, 0, 7, 1])) (fun t =>
    statusOf t = some 0 && resultsOf t = [1, 0, 7, 0, 18, 1, 0] ++ List.replicate 16 0) = true := by decide

/-- CONTINUE from an unset cursor reads entry 0 and sets the cursor to 1 (R195). -/
theorem test_continueRead : after (exec (.continueRead 0) (asked 0x11 [1, 1])) (fun t =>
    (resultsOf t).take 7 = [1, 0, 0, 0, 18, 0, 0xFC] && t.mgmt.cursors[1] = some 1) = true := by decide

/-- A PUT's table, access, index and count, each beyond its range; and a Port Map entry, its compensation clamped. -/
theorem witness_put :
    let args : List Byte := [1, 0, 7, 1] ++ ([0, BitVec.ofNat 8 7, 0, 18, 0, 3] ++ beBytesInt 8 10001 ++ beBytesInt 8 (-5))
    (asked 0x12 [26, 0, 0, 1]).headIs (cmd 0x12 [26, 0, 0, 1]) [] ∧
    (asked 0x12 [4, 0, 0, 1]).headIs (cmd 0x12 [4, 0, 0, 1]) [] ∧
    (asked 0x12 [1, 0, 8, 1]).headIs (cmd 0x12 [1, 0, 8, 1]) [] ∧ (asked 0x12 [1, 0, 8, 1]).entryCount 1 = 8 ∧
    (asked 0x12 [16, 0, 6, 1]).headIs (cmd 0x12 [16, 0, 6, 1]) [] ∧ s0.holdover.budget.length = 5 ∧
    (asked 0x12 [1, 0, 0, 9]).headIs (cmd 0x12 [1, 0, 0, 9]) [] ∧
    (asked 0x12 [0, 0, 0, 17]).headIs (cmd 0x12 [0, 0, 0, 17]) [] ∧
    (asked 0x12 [16, 0, 5, 9]).headIs (cmd 0x12 [16, 0, 5, 9]) [] ∧
    (asked 0x12 [21, 0, 11, 1, 0, 11, 0, 9]).headIs (cmd 0x12 [21, 0, 11, 1, 0, 11, 0, 9]) [] ∧
      ((cmd 0x12 [21, 0, 11, 1, 0, 11, 0, 9]).args.drop 4).length <
        4 + beNat (((cmd 0x12 [21, 0, 11, 1, 0, 11, 0, 9]).args.drop 6).take 2) ∧
    (asked 0x12 args).headIs (cmd 0x12 args) [] ∧ (cmd 0x12 args).type = 0x12 ∧
      (cmd 0x12 args).args.drop 4 = [0, BitVec.ofNat 8 7, 0, 18, if (⟨3, false⟩ : EgressSet).uplink then 1 else 0, 3] ++
        beBytesInt 8 10001 ++ beBytesInt 8 (-5) := by unfold State.headIs; decide

/-- A decoded Flow entry. -/
def rawFlow (priority dStart ether : Int) : RawFlow :=
  { enabled := true, priority := priority, ingress := 1, vlan := .any, vStart := 0, vStop := 4096, ether := some ether
    cls := .any, dStart := dStart, dStop := 127, dest := .any, action := .forward, egress := ⟨4, true⟩, offset := -1
    queue := .bulk }
/-- Its fields, with the bytes of its enumerations, Pinned written as 1, and an Action byte. -/
def flowBytes (x : RawFlow) (action : Byte) : List Byte := flowFields x 1 0 0 0 action 1 77

/-- A Flow entry for a Pinned target with an Action byte beyond its set and within it; for a free one with a window the
wrong way round, with an entry that it overlaps, and with none; and its numbers fit their fields. -/
theorem witness_putFlow :
    let x := rawFlow 4 0 0x88B5
    let y := rawFlow 0 128 0x0800
    (puts 0 0 (flowBytes x 5)).putsOne (cmd 0x12 (putArgs 0 0 (flowBytes x 5))) 0 0 (flowBytes x 5) ∧
    (puts 0 0 (flowBytes x 0)).putsOne (cmd 0x12 (putArgs 0 0 (flowBytes x 0))) 0 0 (flowBytes x 0) ∧
    (puts 0 63 (flowBytes x 0)).putsOne (cmd 0x12 (putArgs 0 63 (flowBytes x 0))) 0 63 (flowBytes x 0) ∧
    (s0.flow.get 0).pinned = true ∧ (s0.flow.get 63).pinned = false ∧ vlanKinds[0]? = some x.vlan ∧
      classMatches[0]? = some x.cls ∧ destMatches[0]? = some x.dest ∧ actions[0]? = some x.action ∧
      queueClasses[1]? = some x.queue ∧ held 0 3 4 = 3 ∧ held 1536 65535 0x88B5 = s0.mgmt.partEther ∧
      held 0 127 128 = 127 ∧ isField y.dStart ∧ isField y.priority := by
  refine ⟨puts_one .., puts_one .., puts_one .., ?_⟩
  unfold isField; decide

/-- R205 decodes the entry before the checks of R7: an Action byte of 5 for a Pinned target is BAD_VALUE, not PROTECTED. -/
theorem test_put_flowOrder :
    (s0.putFlow 0 (flowBytes (rawFlow 0 0 0x0800) 5) = .refused 5) ∧
      (s0.putFlow 0 (flowBytes (rawFlow 0 0 0x0800) 0) = .refused 7) := by decide

/-- Management Settings with a group address, without the command's port, with a Flow entry's literal EtherType, and
others. -/
theorem witness_putMgmt :
    let f (a : Addr) (ports : PortSet) (v : Int) : List Byte := encAddr a ++ encPorts ⟨ports, false⟩ ++ encNum v
    let a := withEntry 9 { etherType := .literal 0x0800 }
    (puts 2 0 (f 0x010000000000 1 1) a).putsOne (cmd 0x12 (putArgs 2 0 (f 0x010000000000 1 1))) 2 0 (f 0x010000000000 1 1) ∧
    (puts 2 0 (f 5 2 0x0800) a).putsOne (cmd 0x12 (putArgs 2 0 (f 5 2 0x0800))) 2 0 (f 5 2 0x0800) ∧
    (puts 2 0 (f 5 1 0x0800) a).putsOne (cmd 0x12 (putArgs 2 0 (f 5 1 0x0800))) 2 0 (f 5 1 0x0800) ∧
    (puts 2 0 (f 5 1 0x0801) a).putsOne (cmd 0x12 (putArgs 2 0 (f 5 1 0x0801))) 2 0 (f 5 1 0x0801) ∧
    (0x010000000000 : Addr).getLsbD 40 = true ∧ (5 : Addr).getLsbD 40 = false ∧ (2 : PortSet).getLsbD 0 = false ∧
      (1 : PortSet).getLsbD 0 = true ∧ (a.flow.get 9).etherType = .literal (held 1536 65535 0x0800) :=
  ⟨puts_one .., puts_one .., puts_one .., puts_one .., by decide⟩

/-- A compensation of 10,001 ns is clamped and answered ADJUSTED (R11, R196). -/
theorem test_put :
    after (exec (.put 0) (asked 0x12 ([1, 0, 7, 1, 0, 7, 0, 18, 0, 3] ++ beBytesInt 8 10001 ++ beBytesInt 8 (-5)))) (fun t =>
      t.portMap.get 7 = ⟨⟨3, false⟩, 10000, -5⟩ && statusOf t = some 1) = true := by decide

/-- A Port Map entry's fields, and the arguments of a PUT of two from index 7. -/
def mapFields (mask last : Byte) : List Byte := [0, mask] ++ List.replicate 15 0 ++ [last]
/-- See above. -/
def runArgs (second : List Byte) : List Byte :=
  [1, 0, 7, 2] ++ ([0, 7, 0, 18] ++ mapFields 3 0) ++ ([0, 0, 0, BitVec.ofNat 8 second.length] ++ second)

/-- A run of two entries, the second whole, from an index of the table's block. -/
theorem witness_putRun :
    let args := runArgs (mapFields 4 9)
    let run : List (Nat × List Byte) := [(7, mapFields 3 0), (0, mapFields 4 9)]
    (asked 0x12 args).headIs (cmd 0x12 args) [] ∧ (asked 0x12 args).entryCount 1 = 8 ∧ run.length ≤ 8 ∧
      (cmd 0x12 args).args = beBytes 1 1 ++ beBytes 2 7 ++ beBytes 1 run.length ++
        run.flatMap (fun x => beBytes 2 x.1 ++ beBytes 2 x.2.length ++ x.2) ∧
      ∀ x, x ∈ run → x.2.length < 65536 := by unfold State.headIs; decide +kernel

/-- A run of two Port Map entries from index 7 goes on at index 0; one whose second entry is a byte short keeps the first
and names index 0 (R196). -/
theorem test_put_run :
    let e := mapFields
    let run := runArgs
    after (exec (.put 0) (asked 0x12 (run (e 4 9)))) (fun t =>
      (t.portMap.get 7).egress = ⟨3, false⟩ && t.portMap.get 0 = ⟨⟨4, false⟩, 0, 9⟩ && statusOf t = some 0 &&
        (resultsOf t).take 3 = [2, 0xFF, 0xFF]) = true ∧
    after (exec (.put 0) (asked 0x12 (run ((e 4 9).take 17)))) (fun t =>
      (t.portMap.get 7).egress = ⟨3, false⟩ && t.portMap.get 0 = s0.portMap.get 0 && statusOf t = some 5 &&
        (resultsOf t).take 3 = [1, 0, 0]) = true := by decide +kernel

/-- A read-only table refuses (R196). -/
theorem test_put_readOnly : after (exec (.put 0) (asked 0x12 [4, 0, 0, 1])) (fun t =>
    statusOf t = some 6 && resultsOf t = [0, 0xFF, 0xFF]) = true := by decide

/-- PIN, UNPIN and CLEAR at indices 63 and 64, of a pinned entry and a free one, of the other kinds of tables, and of the
Budget Table's index 0, its last entry and Count. -/
theorem witness_clearPinUnpin :
    (asked 0x14 [0, 63]).headIs (cmd 0x14 [0, 63]) [] ∧ (asked 0x14 [0, 64]).headIs (cmd 0x14 [0, 64]) [] ∧
    (asked 0x15 [0, 0]).headIs (cmd 0x15 [0, 0]) [] ∧ (asked 0x13 [0, 0, 0]).headIs (cmd 0x13 [0, 0, 0]) [] ∧
      (s0.flow.get 0).pinned = true ∧ (s0.flow.get 63).pinned = false ∧
    (asked 0x13 [26, 0, 0]).headIs (cmd 0x13 [26, 0, 0]) [] ∧ (asked 0x13 [22, 0, 0]).headIs (cmd 0x13 [22, 0, 0]) [] ∧
    (asked 0x13 [25, 0, 0]).headIs (cmd 0x13 [25, 0, 0]) [] ∧ (asked 0x13 [16, 0, 4]).headIs (cmd 0x13 [16, 0, 4]) [] ∧
    (asked 0x13 [16, 0, 5]).headIs (cmd 0x13 [16, 0, 5]) [] ∧ (asked 0x13 [16, 0, 0]).headIs (cmd 0x13 [16, 0, 0]) [] ∧
      1 < s0.holdover.budget.length ∧
    (let a : State := { asked 0x13 [16, 0, 0] with holdover := { budget := [⟨0, 5, 6⟩] } }
     a.headIs (cmd 0x13 [16, 0, 0]) [] ∧ 0 < a.holdover.budget.length ∧ a.holdover.budget.length = 1) := by unfold State.headIs; decide

/-- The servo in each state with what its grade is computed from; a Slew record; a Budget entry that fits at index 0, between
its neighbours and at the end, and one that does not; Holdover Parameters with the grades kept and changed. -/
theorem witness_grades :
    let b (i : Nat) (n : Int) : State := puts 16 i (encNum n ++ encNum 16 ++ encNum (-1))
    let h (hop : Int) : List Byte :=
      encNum 61 ++ encNum 0 ++ encNum 0 ++ encFirst true ++ encNum 1 ++ encNum 1001 ++ encNum 10001 ++ encNum hop ++
        encNum 3 ++ encNum 6 ++ encNum 4 ++ encNum 2 ++ encNum 1 ++ encNum 8
    (b 0 0).putsOne (cmd 0x12 (putArgs 16 0 (encNum 0 ++ encNum 16 ++ encNum (-1)))) 16 0 (encNum 0 ++ encNum 16 ++ encNum (-1)) ∧
    (b 5 86401).putsOne (cmd 0x12 (putArgs 16 5 (encNum 86401 ++ encNum 16 ++ encNum (-1)))) 16 5
      (encNum 86401 ++ encNum 16 ++ encNum (-1)) ∧
    (puts 13 0 (h 1)).putsOne (cmd 0x12 (putArgs 13 0 (h 1))) 13 0 (h 1) ∧
    (puts 13 0 (h 2)).putsOne (cmd 0x12 (putArgs 13 0 (h 2))) 13 0 (h 2) ∧
    s0.holdover.budget.length = 5 ∧ s0.holdover.budget[4]? = some ⟨86400, 4, 8⟩ ∧ held 0 31536000 86401 = 86401 ∧
      ¬ 86400 < held 0 31536000 86400 ∧ s0.holdover.budget[2]? = some ⟨14400, 8, 11⟩ ∧
    locked.servo.state = .locked ∧ locked.selector.phase = some .pkt0 ∧ (locked.ref .pkt0).grade = some 9 ∧
      (holding true).servo.state = .holdover ∧ (holding true).holdover.record.isSome = true ∧
      (slewing 5).realign.slew.isSome = true :=
  ⟨puts_one .., puts_one .., puts_one .., puts_one .., by decide⟩

/-- CLEAR of the pinned management entry (R8). -/
theorem test_clear_pinned : after (exec (.clear 0) (asked 0x13 [0, 0, 0])) (fun t =>
    statusOf t = some 7 && (t.flow.get 0).enabled) = true := by decide

/-- CLEAR of the last Budget Table entry (R129). -/
theorem test_clear_budget : after (exec (.clear 0) (asked 0x13 [16, 0, 4])) (fun t =>
    statusOf t = some 0 && t.holdover.budget.length = 4) = true := by decide

/-- PIN (R8). -/
theorem test_pin : after (exec (.pin 0) (asked 0x14 [0, 63])) (fun t => (t.flow.get 63).pinned) = true := by decide

/-- UNPIN of the management entry (R8). -/
theorem test_unpin : after (exec (.unpin 0) (asked 0x15 [0, 0])) (fun t => !(t.flow.get 0).pinned) = true := by decide

/-- Two QUALIFIED phase references in the list, PKT1 the better; one role forced or neither. -/
def choosing (type : Nat) (args : List Byte) (forced revertive : Bool) : State :=
  { withRef .pkt0 { state := .qualified, lastE := some 0 } (withRef .pkt1 { state := .qualified, lastE := some 0 }
      (asked type args)) with
    selector := { cfg := { phaseList := [.pkt1, .pkt0], freqList := [.pkt1, .pkt0], revertive := revertive }
                  phase := some .pkt0, phaseForced := forced, freq := some .pkt0, freqForced := forced }
    servo := { state := .locked, phaseValid := true } }

/-- FORCE_SELECT of a third role, of id 6, of a reference out of the list, of one not QUALIFIED and of one that is;
RELEASE of a third role, of a role not forced and of a forced one, under both policies. -/
theorem witness_forceAndRelease :
    (choosing 0x17 [0] true true).rolesMatch ∧
    let a := choosing 0x16 [0, 2] false false
    let b := choosing 0x17 [0] true true
    a.headIs (cmd 0x16 [0, 2]) [] ∧ (choosing 0x16 [2, 0] false false).headIs (cmd 0x16 [2, 0]) [] ∧
      (choosing 0x16 [1, 6] false false).headIs (cmd 0x16 [1, 6]) [] ∧ Ref.gnss ∉ a.selector.cfg.phaseList ∧
      Ref.pkt1 ∈ a.selector.cfg.phaseList ∧ (a.ref .pkt1).state = .qualified ∧
      (withRef .pkt1 {} a).headIs (cmd 0x16 [0, 2]) [] ∧ ((withRef .pkt1 {} a).ref .pkt1).state ≠ .qualified ∧
    b.headIs (cmd 0x17 [0]) [] ∧ b.selector.phaseForced = true ∧ b.selector.phase = some .pkt0 ∧
      Ref.pkt0 ∈ b.selector.cfg.phaseList ∧ (b.ref .pkt0).state = .qualified ∧ b.selector.cfg.revertive = true ∧
      (choosing 0x17 [1] true false).headIs (cmd 0x17 [1]) [] ∧ (choosing 0x17 [1] true false).selector.freqForced = true ∧
      (choosing 0x17 [1] true false).selector.cfg.revertive = false ∧ (choosing 0x17 [2] true false).headIs (cmd 0x17 [2]) [] ∧
      (choosing 0x17 [1] false false).selector.freqForced = false := ⟨⟨rfl, rfl⟩, by unfold State.headIs; decide⟩

/-- A written configuration that names an id twice, one that removes the selected reference, one that keeps it, the one
that is held; an id of 6; and roles with a candidate forced, not forced, lapsed and absent, with and without ranking. -/
theorem witness_selector :
    let f (phase freq : List Ref) : List Byte := encList encRef phase ++ encList encRef freq ++ encFirst false ++ encFirst true
    let a := choosing 0x12 (putArgs 7 0 (f [.pkt0, .pkt0] [])) true false
    let b := choosing 0x12 (putArgs 7 0 (f [.pkt1] [.pkt0])) true false
    let wrong : List Byte := beBytes 1 1 ++ [6] ++ beBytes 1 0 ++ [] ++ [0, 0]
    a.putsOne (cmd 0x12 (putArgs 7 0 (f [.pkt0, .pkt0] []))) 7 0 (f [.pkt0, .pkt0] []) ∧
    b.putsOne (cmd 0x12 (putArgs 7 0 (f [.pkt1] [.pkt0]))) 7 0 (f [.pkt1] [.pkt0]) ∧
    (puts 7 0 wrong).putsOne (cmd 0x12 (putArgs 7 0 wrong)) 7 0 wrong ∧
    ¬ [Ref.pkt0, .pkt0].Nodup ∧ [Ref.pkt1].Nodup ∧ (refIdx .pkt1).val ≤ 2 ∧ 5 < (6 : Byte).toNat ∧
    b.selector.phase = some .pkt0 ∧ Ref.pkt0 ∉ [Ref.pkt1] ∧ b.selector.freq = some .pkt0 ∧ Ref.pkt0 ∈ [Ref.pkt0] ∧
      (b.ref .pkt0).state = .qualified ∧ b.selector.freqForced = true ∧ b.selector.cfg.ranking = false ∧
      Ref.pkt0 ∈ b.selector.cfg.phaseList ∧ b.selector.phaseForced = true ∧
      (choosing 0x17 [0] false true).selector.phaseForced = false ∧ s0.selector.phase = none ∧
      ((withRef .pkt0 {} b).ref .pkt0).state ≠ .qualified :=
  ⟨⟨⟨[], rfl, rfl⟩, rfl, rfl⟩, ⟨⟨[], rfl, rfl⟩, rfl, rfl⟩, puts_one .., by decide⟩

/-- The phase role forced onto PKT1 (R76). -/
theorem test_forceSelect : after (exec (.forceSelect 0) (choosing 0x16 [0, 2] false false)) (fun t =>
    t.selector.phase = some .pkt1 && t.selector.phaseForced && statusOf t = some 0) = true := by decide

/-- Released under REVERTIVE, the best candidate is taken (R73, R77). -/
theorem test_release : after (exec (.release 0) (choosing 0x17 [0] true true)) (fun t =>
    t.selector.phase = some .pkt1 && !t.selector.phaseForced && t.selector.freq = some .pkt0) = true := by decide

/-- SLEW_HOLD and SLEW_RELEASE with a Slew record of either kind, and with none. -/
theorem witness_slewHold :
    (asked 0x18 []).headIs (cmd 0x18 []) [] ∧ (asked 0x19 []).headIs (cmd 0x19 []) [] ∧ s0.realign.slew = none ∧
      (slewing 5).realign.slew = some false ∧ (slewing 5 true).realign.slew = some true ∧
      ({ slewing 5 with mgmt := (asked 0x18 []).mgmt } : State).headIs (cmd 0x18 []) [] := by
  unfold State.headIs; decide

/-- Held (R85). -/
theorem test_slewHold : after (exec (.slewHold 0) { asked 0x18 [] with realign := { b := 5, slew := some false } })
    (fun t => t.realign.slew = some true && t.realign.b = 5) = true := by decide

/-- Released (R85). -/
theorem test_slewRelease : after (exec (.slewRelease 0) { asked 0x19 [] with realign := { b := 5, slew := some true } })
    (fun t => t.realign.slew = some false) = true := by decide

/-- ACK of index 40, 41 and ALL, TEST_ALARM, STATUS, COUNTERS_CLEAR, and the Types beside 0x10 and 0x1F. -/
theorem witness_otherCommands :
    (asked 0x1B [40]).headIs (cmd 0x1B [40]) [] ∧ (asked 0x1B [41]).headIs (cmd 0x1B [41]) [] ∧
    (asked 0x1B [255]).headIs (cmd 0x1B [255]) [] ∧ (asked 0x1C []).headIs (cmd 0x1C []) [] ∧
    (asked 0x1D []).headIs (cmd 0x1D []) [] ∧ (asked 0x1E []).headIs (cmd 0x1E []) [] ∧
    (asked 0x0F []).headIs (cmd 0x0F []) [] ∧ (asked 0x22 []).headIs (cmd 0x22 []) [] := by unfold State.headIs; decide

/-- ACK of FREERUN releases ALARM_N (R182, R184). -/
theorem test_ack : after (exec (.ack 0) (asked 0x1B [7])) (fun t =>
    (t.alarm.record 7).acked && !t.alarm.asserted && statusOf t = some 0) = true := by decide

/-- TEST_ALARM raises TEST (R186). -/
theorem test_testAlarm : after (exec (.testAlarm 0) (asked 0x1C [])) (fun t =>
    (t.alarm.record 40).state = .raised && t.alarm.test = some 0) = true := by decide

/-- STATUS of a relay after reset: FREERUN, not valid, nothing selected or forced, Announced Grade 1 (R199). -/
theorem test_status : after (exec (.status 0) (asked 0x1D [])) (fun t =>
    (resultsOf t).take 16 = [0, 0, 0, 0, 0, 0, 0, 0, 0, 0, 0, 0, 0, 0, 0, 1]) = true := by decide

/-- COUNTERS_CLEAR (R200): Commands Executed then counts the command itself. -/
theorem test_countersClear :
    after (exec (.countersClear 0) (withPort .n0 (fun x => { x with ctr := { flushed := 3 } }) (asked 0x1E []))) (fun t =>
      (t.port .n0).ctr = {} && t.mgmt.ctr = { commandsExecuted := 1 }) = true := by
  decide +kernel

/-- A Type that is no command (R198). -/
theorem test_unknownCommand : after (exec (.unknownCommand 0) (asked 0x0F [])) (fun t => statusOf t = some 2) = true := by
  decide

/-- RESTART of scopes 0, 1 and 2, with room for the response and without. -/
theorem witness_restart :
    (asked 0x1F [0]).headIs (cmd 0x1F [0]) [] ∧ (asked 0x1F [1]).headIs (cmd 0x1F [1]) [] ∧
    (asked 0x1F [2]).headIs (cmd 0x1F [2]) [] ∧ ((asked 0x1F [0]).port .n0).bulkOpen = true ∧
    ((withPort .n0 (fun x => { x with linkUp := false }) (asked 0x1F [0])).port .n0).bulkOpen = false := by
  unfold State.headIs; decide

/-- The response waits and the command stays at the head (R201). -/
theorem test_restartDatapath : after (exec (.restartDatapath 0) (asked 0x1F [0])) (fun t =>
    t.mgmt.queue.length = 1 && t.mgmt.waiting = some .datapath && (t.port .n0).bulkQ.length = 1) = true := by decide

/-- A RESTART FULL whose response is refused follows at once and reads the straps again (R190, R201, R202). -/
theorem test_restartFull :
    after (exec (.restartFull ⟨0, 9⟩) (withPort .n0 (fun x => { x with linkUp := false }) (atTime sec (asked 0x1F [1])))) (fun t =>
      t.mgmt.queue = [] && t.clock.counter = 0 && t.mgmt.station = 0x024D44000009) = true := by decide

/-- A header with every field at the top of its width, a body of its length and bytes after it. -/
theorem witness_headerReadsBack :
    let h : Header := { cls := 255, type := 255, domain := 255, flags := 255, seq := 65535, grade := 255, epoch := 255
                        seconds := 2 ^ 48 - 1, nanos := 2 ^ 32 - 1, correction := -(2 ^ 63), bodyLen := 2 }
    h.cls < 2 ^ 8 ∧ h.type < 2 ^ 8 ∧ h.domain < 2 ^ 8 ∧ h.flags < 2 ^ 8 ∧ h.seq < 2 ^ 16 ∧ h.grade < 2 ^ 8 ∧
      h.epoch < 2 ^ 8 ∧ h.seconds < 2 ^ 48 ∧ h.nanos < 2 ^ 32 ∧ -(2 ^ 63) ≤ h.correction ∧ h.correction < 2 ^ 63 ∧
      h.bodyLen < 2 ^ 16 ∧ ([1, 2] : List Byte).length = h.bodyLen := by decide

/-- The 28 bytes of a header, written out field by field in the order of 11 ("The Meridane frame"). -/
theorem test_header :
    headerBytes { cls := 1, type := 4, domain := 2, flags := 3, seq := 0x0405, grade := 6, epoch := 7
                  seconds := 0x08090A0B0C0D, nanos := 0x0E0F1011, correction := -2, bodyLen := 0x1213 } =
      [1, 4, 2, 3, 4, 5, 6, 7, 8, 9, 0x0A, 0x0B, 0x0C, 0x0D, 0x0E, 0x0F, 0x10, 0x11, 0xFF, 0xFF, 0xFF, 0xFF, 0xFF,
       0xFF, 0xFF, 0xFE, 0x12, 0x13] := by decide

end Sys2Proof.Tests
end

section
/-! PROOFS. What a step keeps of the capacities (R16, R37, R116, R129, R176, R191), of the sequences of a query list (R37)
and of the law of the Flow Table (R6): one relation, closed under composition, and a lemma for each operation that an
event is made of. -/
namespace Sys2Proof.Machine
open Sys2Proof

/-! ## The sequences of an Outstanding Query List (R37) -/

/-- The Sequences of the outstanding queries. -/
def ClientSession.seqs (x : ClientSession) : List Nat := x.outstanding.map QueryRec.seq

/-- The Sequences of the outstanding queries are distinct, and the next one is free. -/
def ClientSession.seqsFree (x : ClientSession) : Prop := x.seqs.Nodup ∧ x.nextSeq ∉ x.seqs

theorem ClientSession.seqsFree_of_sublist {x y : ClientSession} (hs : y.seqs.Sublist x.seqs)
    (hn : y.nextSeq = x.nextSeq) (h : x.seqsFree) : y.seqsFree :=
  ⟨h.1.sublist hs, hn ▸ fun m => h.2 (hs.subset m)⟩

theorem ClientSession.seqsFree_of_empty {x : ClientSession} (h : x.outstanding = []) : x.seqsFree := by
  simp [ClientSession.seqsFree, ClientSession.seqs, h]

/-- Every session keeps distinct Sequences with a free next one. -/
def SeqsKept (s t : State) : Prop := ∀ c, (s.client c).seqsFree → (t.client c).seqsFree

theorem SeqsKept.refl (s : State) : SeqsKept s s := fun _ => id

theorem SeqsKept.trans {s t u : State} (a : SeqsKept s t) (b : SeqsKept t u) : SeqsKept s u := fun c h => b c (a c h)

/-- `trans` with its arguments the other way round, the last operation first. -/
theorem SeqsKept.after {s t u : State} (b : SeqsKept t u) (a : SeqsKept s t) : SeqsKept s u := a.trans b

theorem SeqsKept.ite {s t u : State} {c : Prop} [Decidable c] (a : SeqsKept s t) (b : SeqsKept s u) :
    SeqsKept s (if c then t else u) := by split <;> assumption

theorem SeqsKept.foldl {α : Type} (f : State → α → State) (h : ∀ t a, SeqsKept t (f t a)) :
    ∀ (l : List α) (s : State), SeqsKept s (l.foldl f s)
  | [], s => SeqsKept.refl s
  | a :: l, s => (h s a).trans (SeqsKept.foldl f h l (f s a))

/-- An operation that does not touch the Client Sessions. -/
theorem SeqsKept.of_sessions {s t : State} (h : t.sessions = s.sessions) : SeqsKept s t := by
  intro c
  unfold State.client
  rw [h]
  exact id

theorem Down.seqs {s t : State} (d : Down s t) : SeqsKept s t := SeqsKept.of_sessions d.sessions

theorem UpstreamKept.seqs {own : List Ref} {s t : State} (k : UpstreamKept own [] s t) : SeqsKept s t := by
  intro c
  rw [k.sessions c List.not_mem_nil]
  exact id

theorem seqs_updClient (s : State) (c : Client) (f : ClientSession → ClientSession)
    (h : (s.client c).seqsFree → (f (s.client c)).seqsFree) : SeqsKept s (s.updClient c f) := by
  intro q
  rw [State.client_updClient]
  split
  · next e => rw [e]; exact h
  · exact id

/-! ### Client Sessions -/

theorem seqs_moveClient (s : State) (c : Client) (f : ClientSession → ClientSession)
    (h : (s.client c).seqsFree → (f (s.client c)).seqsFree) : SeqsKept s (s.moveClient c f) :=
  (kept_syncPkt _ c).seqs.after (seqs_updClient s c f h)

theorem seqs_countClient (s : State) (c : Client) (f : ClientCounters → ClientCounters) :
    SeqsKept s (s.countClient c f) := seqs_updClient s c _ id

theorem seqs_clientStart (s : State) (c : Client) : SeqsKept s (s.clientStart c) :=
  SeqsKept.ite (seqs_moveClient s c _ fun _ => ClientSession.seqsFree_of_empty rfl) (SeqsKept.refl s)

theorem seqs_clientStop (s : State) (c : Client) : SeqsKept s (s.clientStop c) :=
  SeqsKept.ite (SeqsKept.refl s) (seqs_moveClient s c _ fun _ => ClientSession.seqsFree_of_empty rfl)

theorem seqs_clientRetune (s : State) (c : Client) : SeqsKept s (s.clientRetune c) :=
  SeqsKept.ite (SeqsKept.refl s) (seqs_moveClient s c _ fun _ => ClientSession.seqsFree_of_empty rfl)

theorem seqs_noticeExpired (s : State) (c : Client) : SeqsKept s (s.noticeExpired c) :=
  seqs_moveClient s c _ fun _ => ClientSession.seqsFree_of_empty rfl

theorem seqs_masterNotice (res : Nat) (m : Master) (x : ClientSession) :
    x.seqsFree → (x.masterNotice res m).seqsFree := by
  unfold ClientSession.masterNotice
  dsimp only
  split <;> exact id

theorem seqs_clientNotice (s : State) (c : Client) (h : Header) (body : List Byte) :
    SeqsKept s (s.clientNotice c h body) := by
  unfold State.clientNotice
  dsimp only
  split
  · exact SeqsKept.ite (seqs_moveClient s c _ id) (seqs_countClient s c _)
  · exact SeqsKept.ite (seqs_countClient s c _) (SeqsKept.ite (seqs_countClient s c _)
      (seqs_moveClient s c _ (seqs_masterNotice _ _ _)))

theorem seqs_takeMark (s : State) (c : Client) (h : Header) (stamps : Ingress) :
    SeqsKept s (s.takeMark c h stamps) :=
  SeqsKept.ite (seqs_countClient s c _) (seqs_updClient s c _ id)

theorem ClientSession.dropQuery_seqsFree (seq : Nat) (x : ClientSession) (h : x.seqsFree) :
    (x.dropQuery seq).seqsFree :=
  ClientSession.seqsFree_of_sublist (List.filter_sublist.map _) rfl h

theorem ClientSession.compete_nextSeq (e : Exchange) (x : ClientSession) : (x.compete e).nextSeq = x.nextSeq := by
  unfold ClientSession.compete
  split
  · rfl
  · split
    · rfl
    · split <;> rfl

theorem ClientSession.compete_seqsFree (e : Exchange) (x : ClientSession) (h : x.seqsFree) :
    (x.compete e).seqsFree := by
  unfold ClientSession.seqsFree ClientSession.seqs
  rw [(ClientSession.compete_same e x).2, ClientSession.compete_nextSeq]
  exact h

theorem ClientSession.reply_seqsFree (h : Header) (x : ClientSession) (w : x.seqsFree) : (x.reply h).seqsFree := by
  unfold ClientSession.reply
  split
  · exact w
  · dsimp only
    split
    · exact x.dropQuery_seqsFree h.seq w
    · exact ClientSession.compete_seqsFree _ _ (x.dropQuery_seqsFree h.seq w)

theorem seqs_clientExchange (s : State) (c : Client) (m : Master) (f : Frame) (h : Header) (stamps : Ingress) :
    SeqsKept s (s.clientExchange c m f h stamps) :=
  SeqsKept.ite (seqs_countClient s c _) (SeqsKept.ite (seqs_countClient s c _)
    (SeqsKept.ite (seqs_takeMark s c h stamps) (seqs_updClient s c _ (ClientSession.reply_seqsFree h _))))

theorem seqs_clientSort (s : State) (c : Client) (f : Frame) (stamps : Ingress) :
    SeqsKept s (s.clientSort c f stamps) := by
  unfold State.clientSort
  dsimp only
  refine SeqsKept.ite (seqs_countClient s c _) (SeqsKept.ite (seqs_countClient s c _)
    (SeqsKept.ite (seqs_countClient s c _) (SeqsKept.ite (seqs_clientNotice s c _ _) ?_)))
  split
  · exact SeqsKept.ite (seqs_countClient s c _) (seqs_countClient s c _)
  · exact seqs_clientExchange s c _ f _ stamps

theorem seqs_captureT3 (s : State) (c : Client) (seq counter : Nat) :
    SeqsKept s (s.updClient c (ClientSession.captureT3 seq counter)) := by
  have same : ((s.client c).captureT3 seq counter).seqs = (s.client c).seqs := by
    unfold ClientSession.seqs ClientSession.captureT3
    rw [List.map_map]
    refine List.map_congr_left fun q _ => ?_
    dsimp only [Function.comp]
    split <;> rfl
  exact seqs_updClient s c _ (ClientSession.seqsFree_of_sublist (same ▸ List.Sublist.refl _) rfl)

theorem seqs_loseOldest (s : State) (c : Client) : SeqsKept s (s.updClient c ClientSession.loseOldest) :=
  seqs_updClient s c _ (ClientSession.seqsFree_of_sublist ((List.drop_sublist 1 _).map _) rfl)

theorem seqs_sessionsEpoch (s : State) : SeqsKept s s.sessionsEpoch :=
  SeqsKept.foldl _ (fun t c => seqs_updClient t c _ fun _ => ClientSession.seqsFree_of_empty rfl) _ _

theorem seqs_turnSecond (s : State) : SeqsKept s s.turnSecond :=
  (SeqsKept.foldl (fun (t : State) k => t.updSite k Site.boundary) (fun _ _ => SeqsKept.of_sessions rfl) allSites _).after
    (SeqsKept.foldl (fun (t : State) c => t.updClient c (ClientSession.boundary t.clock.counter))
      (fun t c => seqs_updClient t c _ id) allClients s)

/-! ### The operations that leave the sessions alone -/

theorem seqs_offer (s : State) (p : Port) (q : QueueClass) (f : QFrame) : SeqsKept s (s.offer p q f).1 := by
  unfold State.offer
  dsimp only
  split
  · exact SeqsKept.refl s
  · cases q <;> dsimp only <;> split <;> exact SeqsKept.refl s

/-- An operation that goes on from an offer keeps the Sequences when both continuations do. -/
theorem seqs_offerThen {s t : State} (p : Port) (q : QueueClass) (f : QFrame) (yes no : State → State)
    (hs : SeqsKept s t) (hy : ∀ u, SeqsKept u (yes u)) (hn : ∀ u, SeqsKept u (no u)) :
    SeqsKept s (match t.offer p q f with
      | (u, true) => yes u
      | (u, false) => no u) := by
  have h := seqs_offer t p q f
  split
  · next u e => rw [e] at h; exact (hs.trans h).trans (hy u)
  · next u e => rw [e] at h; exact (hs.trans h).trans (hn u)

theorem seqs_offerMark (s : State) (k : Fin 6) : SeqsKept s (s.offerMark k) :=
  seqs_offerThen _ _ _ _ _ (SeqsKept.of_sessions rfl) (fun _ => SeqsKept.of_sessions rfl)
    (fun _ => SeqsKept.of_sessions rfl)

theorem seqs_offerNotice (s : State) (k : Fin 6) : SeqsKept s (s.offerNotice k) :=
  SeqsKept.ite (SeqsKept.refl s) (seqs_offerThen _ _ _ _ _ (SeqsKept.of_sessions rfl)
    (fun _ => SeqsKept.of_sessions rfl) (fun _ => SeqsKept.of_sessions rfl))

theorem seqs_answerQuery (s : State) (k : Fin 6) (f : Frame) (stamps : Ingress) :
    SeqsKept s (s.answerQuery k f stamps) :=
  seqs_offerThen _ _ _ id _ (SeqsKept.of_sessions rfl) (fun u => SeqsKept.refl u) (fun _ => SeqsKept.of_sessions rfl)

theorem seqs_siteSort (s : State) (k : Fin 6) (f : Frame) (stamps : Ingress) : SeqsKept s (s.siteSort k f stamps) := by
  unfold State.siteSort
  dsimp only
  refine SeqsKept.ite (SeqsKept.of_sessions rfl) (SeqsKept.ite (SeqsKept.of_sessions rfl)
    (SeqsKept.ite (SeqsKept.of_sessions rfl) ?_))
  have h : SeqsKept s (s.markPresent k) := SeqsKept.of_sessions rfl
  exact h.trans (SeqsKept.ite (SeqsKept.of_sessions rfl) (SeqsKept.ite (SeqsKept.of_sessions rfl)
    (SeqsKept.ite (SeqsKept.of_sessions rfl) (seqs_answerQuery _ k f stamps))))

theorem seqs_pins (s : State) (f : State → Fin 4 → Pin → Pin) :
    SeqsKept s (allPins.foldl (fun t k => t.updPin k (f t k)) s) :=
  SeqsKept.foldl (fun (t : State) k => t.updPin k (f t k)) (fun _ _ => SeqsKept.of_sessions rfl) _ _

theorem seqs_pinsOffset (s : State) (r : Ref) (d : Int) : SeqsKept s (s.pinsOffset r d) := seqs_pins s _

theorem seqs_pinsDiscardOffset (s : State) (r : Ref) : SeqsKept s (s.pinsDiscardOffset r) := seqs_pins s _

theorem seqs_announce (s : State) (r : Ref) : SeqsKept s (s.announce r) := (kept_announce s r).seqs

theorem seqs_blankGnss (s : State) (r : Ref) : SeqsKept s (s.blankGnss r) :=
  SeqsKept.ite (SeqsKept.of_sessions rfl) (SeqsKept.refl s)

theorem seqs_refEnable (s : State) (r : Ref) : SeqsKept s (s.refEnable r) :=
  (seqs_announce _ r).after ((seqs_blankGnss _ r).after (SeqsKept.of_sessions rfl))

theorem seqs_refDisable (s : State) (r : Ref) : SeqsKept s (s.refDisable r) :=
  (seqs_announce _ r).after ((seqs_pinsDiscardOffset _ r).after ((seqs_blankGnss _ r).after (SeqsKept.of_sessions rfl)))

theorem seqs_setDefects (s : State) (r : Ref) (f : List Defect → List Defect) : SeqsKept s (s.setDefects r f) :=
  (kept_setDefects s r f).seqs

theorem seqs_gnssEdge (s : State) : SeqsKept s s.gnssEdge :=
  SeqsKept.ite (SeqsKept.refl s) (SeqsKept.ite (SeqsKept.of_sessions rfl)
    ((seqs_setDefects _ .gnss _).after (SeqsKept.of_sessions rfl)))

theorem seqs_gnssLost (s : State) : SeqsKept s s.gnssLost :=
  (seqs_setDefects _ .gnss _).after (SeqsKept.of_sessions rfl)

theorem seqs_todJudge (s : State) (bs : List Byte) : SeqsKept s (s.todJudge bs) :=
  SeqsKept.ite (SeqsKept.of_sessions rfl) (SeqsKept.ite (SeqsKept.of_sessions rfl)
    (SeqsKept.ite (SeqsKept.of_sessions rfl) (SeqsKept.ite (SeqsKept.of_sessions rfl)
      ((kept_judge _ .gnss _ _).seqs.after (SeqsKept.of_sessions rfl)))))

theorem seqs_todGapCheck (s : State) : SeqsKept s s.todGapCheck :=
  SeqsKept.ite (SeqsKept.of_sessions rfl) (SeqsKept.refl s)

theorem seqs_todByte (s : State) (b : Byte) : SeqsKept s (s.todByte b) := by
  unfold State.todByte
  dsimp only
  exact SeqsKept.ite (SeqsKept.refl s) ((seqs_todGapCheck s).trans
    (SeqsKept.ite (SeqsKept.ite (SeqsKept.of_sessions rfl) (SeqsKept.of_sessions rfl))
      (SeqsKept.ite (SeqsKept.of_sessions rfl) ((seqs_todJudge _ _).after (SeqsKept.of_sessions rfl)))))

theorem seqs_todFraming (s : State) : SeqsKept s s.todFraming :=
  SeqsKept.ite (SeqsKept.refl s) (SeqsKept.of_sessions rfl)

theorem seqs_extEdge (s : State) : SeqsKept s s.extEdge :=
  SeqsKept.ite (SeqsKept.refl s) ((seqs_setDefects _ .ext _).after (SeqsKept.of_sessions rfl))

theorem seqs_judgeSample (s : State) (sample : Option Int) (r : Ref) : SeqsKept s (s.judgeSample sample r) :=
  SeqsKept.ite (SeqsKept.refl s) ((kept_measured _ r).seqs.after ((seqs_setDefects _ r _).after
    (SeqsKept.of_sessions rfl)))

theorem seqs_loopInput (s : State) (e : Int) : SeqsKept s (s.loopInput e) := by
  unfold State.loopInput
  dsimp only
  have h : SeqsKept s (if s.servo.clamps e then (s.updServo (Servo.loop e)).raiseTransient
      else (s.updServo (Servo.loop e)).clearTransient) :=
    SeqsKept.ite (SeqsKept.of_sessions rfl) (SeqsKept.of_sessions rfl)
  exact h.trans (SeqsKept.ite (SeqsKept.of_sessions rfl)
    (SeqsKept.ite ((down_takeLock _).seqs.after (SeqsKept.of_sessions rfl))
      ((down_takeUnlock _).seqs.after (SeqsKept.of_sessions rfl))))

theorem seqs_noInput (s : State) : SeqsKept s s.noInput := SeqsKept.ite (SeqsKept.of_sessions rfl) (SeqsKept.refl s)

theorem seqs_giveInput (s : State) (e : Int) : SeqsKept s (s.giveInput e) :=
  SeqsKept.ite (seqs_loopInput s e) (SeqsKept.refl s)

theorem seqs_putSlew (s : State) (slew : Option Bool) : SeqsKept s (s.putSlew slew) := (down_putSlew s slew).seqs

theorem seqs_slewProgress (s : State) : SeqsKept s s.slewProgress :=
  SeqsKept.ite (SeqsKept.ite ((seqs_putSlew _ none).after (SeqsKept.of_sessions rfl)) (SeqsKept.of_sessions rfl))
    (SeqsKept.refl s)

theorem seqs_discardSuspended (s : State) : SeqsKept s s.discardSuspended := by
  unfold State.discardSuspended; split <;> exact SeqsKept.refl s

theorem seqs_expireSuspended (s : State) : SeqsKept s s.expireSuspended := by
  unfold State.expireSuspended; split <;> exact SeqsKept.refl s

theorem seqs_resume (s : State) (u : Suspended) : SeqsKept s (s.resume u) :=
  (seqs_putSlew _ _).after (SeqsKept.of_sessions rfl)

theorem seqs_absorb (s : State) (e : Int) : SeqsKept s (s.absorb e) :=
  SeqsKept.ite (SeqsKept.of_sessions rfl) (SeqsKept.ite (SeqsKept.of_sessions rfl)
    ((seqs_putSlew _ _).after (SeqsKept.of_sessions rfl)))

theorem seqs_judgeWindow (s : State) (meanF : Int) (d : Option Int) (r : Ref) :
    SeqsKept s (s.judgeWindow meanF d r) := by
  unfold State.judgeWindow
  dsimp only
  refine SeqsKept.ite (SeqsKept.refl s) ?_
  split
  · exact SeqsKept.of_sessions rfl
  · exact (down_pinsFallback _ r).seqs.after ((seqs_pinsOffset _ r _).after ((kept_measured _ r).seqs.after
      ((seqs_setDefects _ r _).after (SeqsKept.of_sessions rfl))))

theorem seqs_windowsWork (s : State) (g : Gathered) : SeqsKept s (s.windowsWork g) := by
  unfold State.windowsWork
  dsimp only
  have h : SeqsKept s (if g.ending then allRefs.foldl (fun t r => t.judgeWindow g.meanF (g.result t r) r) s else s) :=
    SeqsKept.ite (SeqsKept.foldl _ (fun t r => seqs_judgeWindow t _ _ r) _ _) (SeqsKept.refl s)
  refine SeqsKept.ite (SeqsKept.refl s) (h.trans (SeqsKept.ite ?_ (SeqsKept.of_sessions rfl)))
  exact (SeqsKept.of_sessions rfl).after (SeqsKept.foldl (fun (t : State) r =>
    t.updRef r (beginWindow (g.samples r) (g.caps r))) (fun _ _ => SeqsKept.of_sessions rfl) allRefs _)

theorem seqs_freqResult (s : State) (d : Option Int) : SeqsKept s (s.freqResult d) := by
  unfold State.freqResult
  dsimp only
  split
  · cases d <;> exact SeqsKept.of_sessions rfl
  · exact SeqsKept.refl s

theorem seqs_trackingWork (s : State) (g : Gathered) : SeqsKept s (s.trackingWork g) := by
  unfold State.trackingWork
  split
  · exact SeqsKept.refl s
  · split
    · exact SeqsKept.refl s
    · exact seqs_freqResult s _

end Sys2Proof.Machine
end

section
/-! PROOFS. The relation that every event keeps, `LawsKept`, and the operations that move the clocks, the Epoch or the
Management Unit, which `Calm` does not speak of. -/
namespace Sys2Proof.Machine
open Sys2Proof

/-! ## The relation -/

/-- The capacities (R16, R37, R116, R129, R176, R191), the free Sequences (R37), the law of the Flow Table (R6) and the
individual Station Address (R190) are kept. -/
structure LawsKept (s t : State) : Prop where
  room  : s.WithinRoom → t.WithinRoom
  seqs  : SeqsKept s t
  flow  : s.flowDisjoint → t.flowDisjoint
  group : groupBit s.mgmt.station = false → groupBit t.mgmt.station = false

theorem LawsKept.refl (s : State) : LawsKept s s := ⟨id, SeqsKept.refl s, id, id⟩

theorem LawsKept.trans {s t u : State} (a : LawsKept s t) (b : LawsKept t u) : LawsKept s u :=
  ⟨fun h => b.room (a.room h), a.seqs.trans b.seqs, fun h => b.flow (a.flow h), fun h => b.group (a.group h)⟩

/-- `trans` with its arguments the other way round, the last operation first. -/
theorem LawsKept.after {s t u : State} (b : LawsKept t u) (a : LawsKept s t) : LawsKept s u := a.trans b

theorem LawsKept.ite {s t u : State} {c : Prop} [Decidable c] (a : LawsKept s t) (b : LawsKept s u) :
    LawsKept s (if c then t else u) := by split <;> assumption

theorem LawsKept.foldl {α : Type} (f : State → α → State) (h : ∀ t a, LawsKept t (f t a)) :
    ∀ (l : List α) (s : State), LawsKept s (l.foldl f s)
  | [], s => LawsKept.refl s
  | a :: l, s => (h s a).trans (LawsKept.foldl f h l (f s a))

/-- The law of the Flow Table reads the table and the Part EtherType alone. -/
theorem State.flowDisjoint_congr {s t : State} (hf : t.flow = s.flow) (hp : t.mgmt.partEther = s.mgmt.partEther)
    (h : s.flowDisjoint) : t.flowDisjoint := by
  unfold State.flowDisjoint at *
  rw [hf, hp]
  exact h

theorem Calm.laws {s t : State} (c : Calm s t) (q : SeqsKept s t) : LawsKept s t :=
  ⟨c.room, q, State.flowDisjoint_congr c.flow (by rw [c.mgmt]), by rw [c.mgmt]; exact id⟩

theorem Quiet.laws {s t : State} (c : Quiet s t) (q : SeqsKept s t) : LawsKept s t := c.calm.laws q

theorem Fair.laws {s t : State} (c : Fair s t) (q : SeqsKept s t) : LawsKept s t := c.calm.laws q

/-- An operation that leaves the ports, the sessions, the Epoch, the Flow Table and the Management Unit alone. -/
theorem LawsKept.of_fields {s t : State} (ports : t.ports = s.ports) (sessions : t.sessions = s.sessions)
    (epoch : t.clock.epoch = s.clock.epoch) (hold : s.holdover.withinRoom → t.holdover.withinRoom)
    (notices : s.alarm.noticesLaw → t.alarm.noticesLaw) (mgmt : t.mgmt = s.mgmt)
    (tod : s.gnss.partialRecord.length ≤ 11 → t.gnss.partialRecord.length ≤ 11) (flow : t.flow = s.flow) :
    LawsKept s t := by
  refine ⟨fun h => ⟨fun p => ?_, fun c => ?_, hold h.hold, notices h.notices, mgmt ▸ h.command, tod h.tod⟩,
    SeqsKept.of_sessions sessions, State.flowDisjoint_congr flow (by rw [mgmt]), by rw [mgmt]; exact id⟩
  · unfold State.port
    rw [ports]
    exact h.ports p
  · unfold State.client
    rw [sessions, epoch]
    exact h.clients c

/-! ## The passing of time -/

theorem Clock.pass_epoch (f : Int) (dt : Nat) (c : Clock) : (c.pass f dt).epoch = c.epoch := by
  unfold Clock.pass
  dsimp only
  split
  · rfl
  · split <;> rfl

theorem Clock.reach_epoch {f : Int} {d : Nat} {c c' : Clock} (h : c.reach f d = some c') : c'.epoch = c.epoch := by
  unfold Clock.reach at h
  split at h
  · cases h; rfl
  · split at h
    · cases h; rfl
    · split at h
      · cases h; rfl
      · cases h

theorem Clock.toBoundary_epoch {f : Int} {c c' : Clock} (h : c.toBoundary f = some c') : c'.epoch = c.epoch := by
  unfold Clock.toBoundary at h
  split at h
  · cases h; rfl
  · split at h
    · cases h; rfl
    · cases h

theorem Clock.reachOsc_epoch {f : Int} {d : Nat} {c c' : Clock} (h : c.reachOsc f d = some c') :
    c'.epoch = c.epoch := by
  unfold Clock.reachOsc at h
  dsimp only at h
  split at h
  · cases h; rfl
  · split at h
    · cases h; rfl
    · exact Clock.toBoundary_epoch (Option.mem_filter_iff.1 h).1

theorem laws_pass (s : State) (dt : Nat) : LawsKept s (s.pass dt) :=
  LawsKept.of_fields rfl rfl (Clock.pass_epoch _ dt s.clock) id id rfl id rfl

theorem laws_arrive (s : State) (c : Clock) (h : c.epoch = s.clock.epoch) : LawsKept s (s.arrive c) :=
  LawsKept.of_fields rfl rfl h (State.arrive_withinRoom s c) id rfl id rfl

/-- An operation taken at an instant that the clocks are brought to. -/
theorem laws_reach {s u : State} {d : Nat} (h : s.reach d = some u) : LawsKept s u := by
  obtain ⟨c, hc, rfl⟩ := Option.map_eq_some_iff.1 h
  exact laws_arrive s c (Clock.reach_epoch hc)

theorem laws_reachOsc {s u : State} {d : Nat} (h : s.reachOsc d = some u) : LawsKept s u := by
  obtain ⟨c, hc, rfl⟩ := Option.map_eq_some_iff.1 h
  exact laws_arrive s c (Clock.reachOsc_epoch hc)

theorem laws_atReach (s : State) (d : Nat) (act : State → State) (h : ∀ u, LawsKept u (act u)) :
    LawsKept s (s.atInstant (s.reach d) act) := by
  unfold State.atInstant
  split
  · next u e => exact (laws_reach e).trans (h u)
  · exact LawsKept.refl s

theorem laws_atReachOsc (s : State) (osc : Nat) (act : State → State) (h : ∀ u, LawsKept u (act u)) :
    LawsKept s (s.atInstant (s.reachOsc osc) act) := by
  unfold State.atInstant
  split
  · next u e => exact (laws_reachOsc e).trans (h u)
  · exact LawsKept.refl s

theorem laws_atTimer (s : State) (t : Timer) (seconds : Nat) (act : State → State) (h : ∀ u, LawsKept u (act u)) :
    LawsKept s (s.atTimer t seconds act) := by
  unfold State.atTimer
  split
  · exact laws_atReach s _ act h
  · exact LawsKept.refl s

theorem laws_atEnd (s : State) (instant : Option Nat) (act : State → State) (h : ∀ u, LawsKept u (act u)) :
    LawsKept s (s.atEnd instant act) := by
  unfold State.atEnd
  split
  · exact laws_atReach s _ act h
  · exact LawsKept.refl s

theorem laws_afterSpan (s : State) (start : Option Nat) (span : Nat) (act : State → State)
    (h : ∀ u, LawsKept u (act u)) : LawsKept s (s.afterSpan start span act) := by
  unfold State.afterSpan
  split
  · exact laws_atReach s _ act h
  · exact LawsKept.refl s

/-! ## A change of Epoch (R94) -/

/-- Every session is emptied by a change of Epoch (R43, R94). -/
theorem State.sessionsEpoch_client (s : State) (c : Client) :
    s.sessionsEpoch.client c = { (s.client c).emptied with queryDone := s.clock.counter } := by
  unfold State.sessionsEpoch allClients
  simp only [List.foldl_cons, List.foldl_nil, State.client_updClient]
  cases c <;> rfl

/-- The lists are emptied with the Epoch they were kept in, so that a new clock finds them within their law (R37, R43). -/
theorem laws_newEpoch (s : State) (c : Clock) : LawsKept s (s.withClock c).sessionsEpoch := by
  have same : ∀ t : State, t.sessionsEpoch = { t with sessions := t.sessionsEpoch.sessions } := fun _ => rfl
  refine ⟨fun h => ?_, (seqs_sessionsEpoch _).after (SeqsKept.of_sessions rfl), ?_, ?_⟩
  · rw [same]
    refine ⟨h.ports, fun q => ?_, h.hold, h.notices, h.command, h.tod⟩
    refine ClientSession.empty_room _ _ ?_
    exact congrArg ClientSession.outstanding (State.sessionsEpoch_client (s.withClock c) q)
  · rw [same]; exact id
  · rw [same]; exact id

theorem laws_monitorEpoch (s : State) : LawsKept s s.monitorEpoch :=
  (quiet_monitorEpoch s).laws ((SeqsKept.of_sessions rfl).after (SeqsKept.foldl
    (fun (t : State) r => t.updRef r Reference.epoch) (fun _ _ => SeqsKept.of_sessions rfl) allRefs s))

theorem laws_ringEpoch (s : State) (before : Nat) : LawsKept s (s.ringEpoch before) := by
  refine (quiet_ringEpoch s before).laws ?_
  unfold State.ringEpoch
  dsimp only
  split
  · exact SeqsKept.of_sessions rfl
  · split <;> exact SeqsKept.of_sessions rfl

theorem laws_sitesEpoch (s : State) : LawsKept s s.sitesEpoch := by
  refine (quiet_sitesEpoch s).laws ?_
  unfold State.sitesEpoch
  refine SeqsKept.foldl _ (fun t k => ?_) allSites s
  exact SeqsKept.of_sessions rfl

theorem laws_pinsEpoch (s : State) : LawsKept s s.pinsEpoch := (quiet_pinsEpoch s).laws (seqs_pins s _)

theorem laws_discardSuspended (s : State) : LawsKept s s.discardSuspended :=
  (slewed_discardSuspended s).calm.laws (seqs_discardSuspended s)

theorem laws_epochChange (s : State) (c : Clock) (before : Nat) :
    LawsKept s ((s.withClock c).epochChange before) := by
  unfold State.epochChange State.realEpoch
  exact (laws_pinsEpoch _).after ((laws_sitesEpoch _).after ((laws_ringEpoch _ before).after
    ((laws_discardSuspended _).after ((laws_monitorEpoch _).after (laws_newEpoch s c)))))

theorem laws_moveCounter (s : State) (counter : Nat) : LawsKept s (s.moveCounter counter) :=
  laws_epochChange s _ _

theorem laws_timeStep (s : State) (v : Int) : LawsKept s (s.timeStep v) :=
  (laws_moveCounter _ _).after ((quiet_countServo s _).laws (SeqsKept.of_sessions rfl))

theorem laws_timeSet (s : State) (seconds nanos : Nat) : LawsKept s (s.timeSet seconds nanos) :=
  (laws_moveCounter _ _).after ((quiet_countServo s _).laws (SeqsKept.of_sessions rfl))

theorem laws_counterCarry (s : State) (c : Clock) : LawsKept s (s.withClock c).counterCarry := by
  have h := laws_epochChange (s.countServo fun k => { k with counterWraps := bump k.counterWraps }) (c.moveTo 0) counterTop
  exact ((quiet_countServo s _).laws (SeqsKept.of_sessions rfl)).trans h

/-! ## The second boundary -/

theorem laws_decideFresh (s : State) (e : Int) : LawsKept s (s.decideFresh e) := by
  have noInput : ∀ t : State, LawsKept t t.noInput := fun t => (fair_noInput t).laws (seqs_noInput t)
  unfold State.decideFresh
  dsimp only
  refine LawsKept.ite ?_ (LawsKept.ite ?_ ?_)
  · exact (noInput _).after ((laws_timeStep _ e).after ((slewed_updReal s _ rfl).calm.laws (SeqsKept.of_sessions rfl)))
  · have far := (noInput _).after ((slewed_countReal s fun c => { c with tooFar := bump c.tooFar }).calm.laws
      (SeqsKept.of_sessions rfl))
    split
    · exact far.trans ((fair_setDefects _ _ _).laws (seqs_setDefects _ _ _))
    · exact far
  · exact ((fair_giveInput _ 0).laws (seqs_giveInput _ 0)).after ((slewed_absorb s e).calm.laws (seqs_absorb s e))

theorem laws_takeDecision (s : State) (e : Int) : LawsKept s (s.takeDecision e) := by
  unfold State.takeDecision
  dsimp only
  have h := (slewed_countReal s fun c => { c with decisions := bump c.decisions }).calm.laws (SeqsKept.of_sessions rfl)
  generalize s.countReal (fun c => { c with decisions := bump c.decisions }) = s0 at h ⊢
  refine h.trans ?_
  split
  · exact laws_decideFresh s0 e
  · next u _ =>
    exact LawsKept.ite
      (((fair_giveInput _ _).laws (seqs_giveInput _ _)).after ((slewed_resume s0 u).calm.laws (seqs_resume s0 u)))
      ((laws_decideFresh _ e).after (laws_discardSuspended s0))

theorem laws_followSample (s : State) (e : Option Int) : LawsKept s (s.followSample e) := by
  have noInput : ∀ t : State, LawsKept t t.noInput := fun t => (fair_noInput t).laws (seqs_noInput t)
  unfold State.followSample
  dsimp only
  refine ((slewed_slewProgress s).calm.laws (seqs_slewProgress s)).trans ?_
  split
  · exact noInput _
  · split
    · exact laws_takeDecision _ _
    · exact (fair_giveInput _ _).laws (seqs_giveInput _ _)
    · exact noInput _

theorem laws_samplesWork (s : State) (g : Gathered) : LawsKept s (s.samplesWork g) := by
  unfold State.samplesWork
  dsimp only
  exact (laws_followSample _ _).after (((quiet_dropSamples _ _).laws (SeqsKept.of_sessions rfl)).after
    (LawsKept.foldl (fun (t : State) r => t.judgeSample (g.samples r) r)
      (fun t r => (fair_judgeSample t _ r).laws (seqs_judgeSample t _ r)) [.gnss, .pkt0, .pkt1] s))

theorem laws_work (g : Gathered) (s : State) (w : BoundaryWork) : LawsKept s (s.work g w) := by
  cases w with
  | samples => exact laws_samplesWork s g
  | windows => exact (fair_windowsWork s g).laws (seqs_windowsWork s g)
  | tracking => exact (fair_trackingWork s g).laws (seqs_trackingWork s g)
  | grade => exact (quiet_regrade s).laws (down_regrade s).seqs
  | notices => exact (quiet_notices s).laws (SeqsKept.foldl _ seqs_offerNotice _ _)

theorem laws_boundary (s : State) (b : Nat) (order : List BoundaryWork) : LawsKept s (s.boundary b order) :=
  ((quiet_addMeanF _ b).laws (SeqsKept.of_sessions rfl)).after ((LawsKept.foldl _ (laws_work (s.gather b)) _ _).after
    ((quiet_turnSecond s).laws (seqs_turnSecond s)))

theorem laws_secondBoundary (s : State) (order : List BoundaryWork) : LawsKept s (s.secondBoundary order) := by
  unfold State.secondBoundary State.atBoundary
  split
  · next u e =>
    obtain ⟨c, hc, rfl⟩ := Option.map_eq_some_iff.1 e
    have settle : LawsKept (s.arrive c) ((s.arrive c).withClock c.settle) :=
      LawsKept.of_fields rfl rfl rfl id id rfl id rfl
    exact (laws_boundary _ _ _).after (settle.after (laws_arrive s c (Clock.toBoundary_epoch hc)))
  · exact LawsKept.refl s

theorem laws_boundaryWhere (s : State) (state : ServoState) (reached : Servo → Bool) :
    LawsKept s (s.boundaryWhere state reached) := LawsKept.ite (laws_secondBoundary s []) (LawsKept.refl s)

end Sys2Proof.Machine
end

section
/-! PROOFS. The restarts, the traffic path and the Management Unit keep the laws of `LawsKept`. -/
namespace Sys2Proof.Machine
open Sys2Proof

/-! ## RESTART DATAPATH, block by block -/

theorem calm_restartTraffic (s : State) : Calm s s.restartTraffic :=
  (Quiet.foldl (fun (t : State) p => (t.updPort p restartPort).report (recTimingLoss p) false) (fun t p =>
    (quiet_report _ _ _).after (quiet_updPort t p restartPort (fun _ => rfl) fun _ _ => ⟨Nat.zero_le _, Nat.zero_le _⟩))
    allPorts s).calm

theorem calm_restartSessions (s : State) : Calm s s.restartSessions := by
  unfold State.restartSessions
  refine (Quiet.foldl _ (fun t c => ?_) allClients s).calm
  refine quiet_updClient t c _ ?_ fun _ => ClientSession.empty_room _ _ ?_ <;> split <;> rfl

theorem calm_restartSelection (s : State) : Calm s s.restartSelection :=
  (calm_updSel s _ rfl).trans (slewed_updReal _ _ rfl).calm

theorem calm_restartServo (s : State) (g : Nat) : Calm s (s.restartServo g) := by
  unfold State.restartServo
  exact (((quiet_updServo s (fun x => { x.clearRuns with acqFromHold := none }) rfl
    (fun h => ⟨h.1, h.2.1, Nat.zero_le _, Nat.zero_le _, h.2.2.2.2⟩) rfl rfl).calm.trans
    (quiet_clearTransient _).calm).trans (setServo_moved _ _ g).calm).trans (quiet_servoConditions _).calm

theorem calm_restartRef (s : State) (r : Ref) : Calm s (s.restartRef r) := by
  unfold State.restartRef
  split
  · exact Calm.refl s
  · exact ((((calm_updRef s r _ rfl).trans (quiet_blankGnss _ r).calm).trans
      (quiet_pinsDiscardOffset _ r).calm).trans (quiet_refReport _ r).calm).trans (quiet_pinsFallback _ r).calm

theorem calm_restartMonitor (s : State) : Calm s s.restartMonitor := by
  have fold : ∀ (l : List Ref) (t : State), Calm t (l.foldl State.restartRef t) := by
    intro l
    induction l with
    | nil => exact Calm.refl
    | cons r l ih => exact fun t => (calm_restartRef t r).trans (ih _)
  exact fold allRefs s

theorem quiet_restartHoldover (s : State) : Quiet s s.restartHoldover :=
  ((quiet_updHold s (fun x => { x with settle := none, frozen := none }) rfl rfl rfl id id).trans
    (quiet_report _ _ _)).trans (quiet_regrade _)

theorem restartSite_cfg (x : Site) : (restartSite x).cfg = x.cfg := by
  unfold restartSite disabledSite
  split <;> rfl

theorem quiet_restartSites (s : State) : Quiet s s.restartSites := by
  unfold State.restartSites
  refine ((quiet_serving s false).trans (Quiet.foldl (fun (t : State) k => t.updSite k restartSite) (fun t k =>
    quiet_updSite t k restartSite (restartSite_cfg _)) allSites _)).trans ?_
  exact Quiet.foldl (fun (t : State) k => (t.serveCheck k).siteConditions k) (fun t k =>
    (quiet_serveCheck t k).trans (quiet_siteConditions _ k)) allSites _

/-- The blocks' actions at the restart event, before the Command Queue goes and the counters are cleared (R201). -/
def State.restartBlocks (s : State) : State :=
  ((((((s.restartTraffic).restartSessions).restartSelection).restartServo s.holdover.announced).restartMonitor
    ).restartHoldover).restartSites.deliverSquelch

theorem State.restartDatapath_eq (s : State) : s.restartDatapath = s.restartBlocks.restartMgmt.zeroCounters := rfl

theorem calm_restartBlocks (s : State) : Calm s s.restartBlocks :=
  (((((((calm_restartTraffic s).trans (calm_restartSessions _)).trans (calm_restartSelection _)).trans
    (calm_restartServo _ _)).trans (calm_restartMonitor _)).trans (quiet_restartHoldover _).calm).trans
    (quiet_restartSites _).calm).trans (quiet_deliverSquelch _).calm

theorem seqs_restartSessions (s : State) : SeqsKept s s.restartSessions := by
  unfold State.restartSessions
  refine SeqsKept.foldl _ (fun t c => seqs_updClient t c _ fun _ => ?_) allClients s
  split <;> exact ClientSession.seqsFree_of_empty rfl

theorem seqs_restartServo (s : State) (g : Nat) : SeqsKept s (s.restartServo g) :=
  (down_servoConditions _).seqs.after ((down_setServo _ _ g).seqs.after (SeqsKept.of_sessions rfl))

theorem seqs_restartRef (s : State) (r : Ref) : SeqsKept s (s.restartRef r) :=
  SeqsKept.ite (SeqsKept.refl s) ((down_pinsFallback _ r).seqs.after (SeqsKept.after (SeqsKept.of_sessions rfl)
    ((seqs_pinsDiscardOffset _ r).after ((seqs_blankGnss _ r).after (SeqsKept.of_sessions rfl)))))

theorem seqs_restartSites (s : State) : SeqsKept s s.restartSites := by
  unfold State.restartSites
  refine SeqsKept.trans (SeqsKept.of_sessions (s := s) rfl)
    ((SeqsKept.foldl (fun (t : State) k => (t.serveCheck k).siteConditions k) (fun t k =>
      (down_siteConditions _ k).seqs.after (down_serveCheck t k).seqs) allSites _).after
    (SeqsKept.foldl (fun (t : State) k => t.updSite k restartSite) (fun _ _ => SeqsKept.of_sessions rfl) allSites
      { s with servingSince := false }))

theorem seqs_restartTraffic (s : State) : SeqsKept s s.restartTraffic :=
  SeqsKept.foldl (fun (t : State) p => (t.updPort p restartPort).report (recTimingLoss p) false)
    (fun _ _ => SeqsKept.of_sessions rfl) allPorts s

theorem seqs_restartSelection (s : State) : SeqsKept s s.restartSelection := SeqsKept.of_sessions rfl

theorem seqs_restartMonitor (s : State) : SeqsKept s s.restartMonitor :=
  SeqsKept.foldl State.restartRef seqs_restartRef allRefs s

theorem seqs_restartHoldover (s : State) : SeqsKept s s.restartHoldover := by
  unfold State.restartHoldover
  exact (down_regrade _).seqs.after (SeqsKept.of_sessions rfl)

theorem seqs_restartBlocks (s : State) : SeqsKept s s.restartBlocks :=
  (down_deliverSquelch _).seqs.after ((seqs_restartSites _).after ((seqs_restartHoldover _).after
    ((seqs_restartMonitor _).after ((seqs_restartServo _ _).after ((seqs_restartSelection _).after
      ((seqs_restartSessions _).after (seqs_restartTraffic s)))))))

theorem laws_restartMgmt (s : State) : LawsKept s s.restartMgmt :=
  ⟨fun h => ⟨h.ports, h.clients, h.hold, h.notices, Nat.zero_le _, h.tod⟩, SeqsKept.refl s, id, id⟩

/-! ## Counters (R200) -/

@[simp] theorem State.zeroCounters_port (s : State) (p : Port) :
    s.zeroCounters.port p = { s.port p with ctr := {} } := get_map s.ports (portIdx p) _

@[simp] theorem State.zeroCounters_client (s : State) (c : Client) :
    s.zeroCounters.client c = { s.client c with ctr := {} } := get_map s.sessions (clientIdx c) _

@[simp] theorem State.zeroCounters_ref (s : State) (r : Ref) :
    s.zeroCounters.ref r = { s.ref r with ctr := {} } := get_map s.refs (refIdx r) _

@[simp] theorem State.zeroCounters_site (s : State) (k : Fin 6) :
    s.zeroCounters.site k = { s.site k with ctr := {} } := get_map s.sites k _

@[simp] theorem State.zeroCounters_tpin (s : State) (k : Fin 4) :
    s.zeroCounters.tpin k = { s.tpin k with ctr := {} } := get_map s.pins k _

@[simp] theorem State.zeroCounters_flow (s : State) (i : Fin 64) :
    s.zeroCounters.flow.get i = { s.flow.get i with hitCount := 0 } := get_map s.flow i _

/-- What the matching and the overlap of entries read: everything but Pinned and the Hit Count. -/
def FlowEntry.sameMatch (x y : FlowEntry) : Prop := y = { x with pinned := y.pinned, hitCount := y.hitCount }

/-- The law of the Flow Table does not read Pinned or the Hit Counts (R6). -/
theorem State.flowDisjoint_sameMatch {s t : State} (hf : ∀ i, (s.flow.get i).sameMatch (t.flow.get i))
    (hp : t.mgmt.partEther = s.mgmt.partEther) (h : s.flowDisjoint) : t.flowDisjoint := by
  intro i j hij
  rw [hp, hf i, hf j]
  exact h i j hij

theorem laws_zeroCounters (s : State) : LawsKept s s.zeroCounters := by
  refine ⟨fun h => ⟨fun p => ?_, fun c => ?_, h.hold, h.notices.congr rfl rfl rfl, h.command, h.tod⟩, fun c => ?_,
    State.flowDisjoint_sameMatch (fun i => ?_) rfl, id⟩
  · rw [State.zeroCounters_port]; exact h.ports p
  · rw [State.zeroCounters_client]; exact h.clients c
  · rw [State.zeroCounters_client]; exact id
  · rw [State.zeroCounters_flow]; rfl

theorem laws_restartDatapath (s : State) : LawsKept s s.restartDatapath := by
  rw [State.restartDatapath_eq]
  exact (laws_zeroCounters _).after ((laws_restartMgmt _).after
    ((calm_restartBlocks s).laws (seqs_restartBlocks s)))

/-! ## Power-on (R202) -/

theorem powerUp_flow (s : State) (straps : BitVec 4) (i : Fin 64) :
    (s.powerUp straps).flow.get i = if i = 0 then managementEntry else {} := by
  revert i
  show ∀ i, defaultFlow.get i = _
  decide

/-- Only entry 0 is enabled after power-on (R10). -/
theorem powerUp_flowDisjoint (s : State) (straps : BitVec 4) : (s.powerUp straps).flowDisjoint := by
  intro i j hij hi hj
  rw [powerUp_flow] at hi hj
  split at hi
  · next e =>
    rw [if_neg (fun e' => hij (e.trans e'.symm))] at hj
    cases hj
  · cases hi

theorem strapAddress_group (straps : BitVec 4) : groupBit (strapAddress straps) = false := by
  revert straps; decide

theorem laws_powerUp (s : State) (straps : BitVec 4) : LawsKept s (s.powerUp straps) := by
  have notices : (s.powerUp straps).alarm.noticesLaw :=
    ⟨Nat.zero_le _, List.nodup_nil, fun _ m => absurd m List.not_mem_nil, fun h => Bool.noConfusion h, fun _ => rfl⟩
  have budget : budgetInOrder defaultBudget := ⟨by decide, fun b h => by cases h; rfl⟩
  refine ⟨fun _ => ⟨fun p => ?_, fun c => ?_, ⟨Nat.zero_le _, show defaultBudget.length ≤ 8 by decide, budget⟩, notices, Nat.zero_le _,
    Nat.zero_le _⟩, fun c _ => ClientSession.seqsFree_of_empty ?_, fun _ => powerUp_flowDisjoint s straps,
    fun _ => strapAddress_group straps⟩
  · cases p <;> exact ⟨Nat.zero_le _, Nat.zero_le _⟩
  · exact ClientSession.empty_room _ _ (by cases c <;> rfl)
  · cases c <;> rfl

theorem laws_restart (s : State) (scope : RestartScope) : LawsKept s (s.restart scope) := by
  cases scope with
  | datapath => exact laws_restartDatapath s
  | full => exact laws_powerUp s _

theorem laws_countMgmt (s : State) (f : MgmtCounters → MgmtCounters) : LawsKept s (s.countMgmt f) :=
  ⟨fun h => ⟨h.ports, h.clients, h.hold, h.notices, h.command, h.tod⟩, SeqsKept.refl s, id, id⟩

theorem laws_restartAfterLoss (s : State) (scope : Option RestartScope) : LawsKept s (s.restartAfterLoss scope) := by
  cases scope with
  | none => exact LawsKept.refl s
  | some scope => exact (laws_restart _ scope).after (laws_countMgmt s _)

/-! ## The traffic path -/

theorem laws_countPort (s : State) (p : Port) (f : PortCounters → PortCounters) : LawsKept s (s.countPort p f) :=
  (quiet_countPort s p f).laws (SeqsKept.of_sessions rfl)

theorem laws_offer (s : State) (p : Port) (q : QueueClass) (f : QFrame) : LawsKept s (s.offer p q f).1 :=
  (quiet_offer s p q f).laws (seqs_offer s p q f)

/-- An operation that goes on from an offer keeps the laws when both continuations do. -/
theorem laws_offerThen {s t : State} (p : Port) (q : QueueClass) (f : QFrame) (yes no : State → State)
    (hs : LawsKept s t) (hy : ∀ u, LawsKept u (yes u)) (hn : ∀ u, LawsKept u (no u)) :
    LawsKept s (match t.offer p q f with
      | (u, true) => yes u
      | (u, false) => no u) := by
  have h := laws_offer t p q f
  split
  · next u e => rw [e] at h; exact (hs.trans h).trans (hy u)
  · next u e => rw [e] at h; exact (hs.trans h).trans (hn u)

theorem laws_forward (s : State) (p : Port) (e : EgressSet) (q : QueueClass) (x : QFrame) :
    LawsKept s (s.forward p e q x) := by
  unfold State.forward
  split
  · exact laws_countPort s p _
  · exact LawsKept.foldl (fun (t : State) k => (t.offer k q x).1) (fun t k => laws_offer t k q x) _ s

theorem laws_judgedThen (s : State) (p : Port) (f : Frame) (next : State → State) (h : ∀ t, LawsKept t (next t)) :
    LawsKept s (s.judgedThen p f next) := by
  unfold State.judgedThen
  split
  · exact h s
  · exact laws_countPort s p _
  · exact laws_countPort s p _

theorem laws_acceptCommand (s : State) (p : Port) (f : Frame) : LawsKept s (s.acceptCommand p f) := by
  unfold State.acceptCommand
  dsimp only
  refine LawsKept.ite (laws_countMgmt s _) (LawsKept.ite (laws_countMgmt s _) (LawsKept.ite (laws_countMgmt s _)
    (LawsKept.ite (laws_countMgmt s _) ?_)))
  split
  · next room =>
    refine ⟨fun h => ⟨h.ports, h.clients, h.hold, h.notices, ?_, h.tod⟩, SeqsKept.refl s, id, id⟩
    show (s.mgmt.queue ++ [commandOf p f]).length ≤ commandCapacity
    rw [List.length_append]
    exact room
  · exact laws_countMgmt s _

theorem laws_manage (s : State) (p : Port) (f : Frame) : LawsKept s (s.manage p f) := by
  unfold State.manage
  split
  · exact LawsKept.ite (laws_judgedThen s p f _ fun t => laws_acceptCommand t p f) (laws_acceptCommand s p f)
  · exact laws_acceptCommand s p f

theorem laws_ownerTakes (s : State) (p : Port) (f : Frame) (stamps : Ingress) :
    LawsKept s (s.ownerTakes p f stamps) := by
  unfold State.ownerTakes
  split
  · exact (fair_clientSort s _ f stamps).laws (seqs_clientSort s _ f stamps)
  · exact (quiet_siteSort s _ f stamps).laws (seqs_siteSort s _ f stamps)
  · exact LawsKept.refl s

theorem laws_actOn (s : State) (p : Port) (f : Frame) (stamps : Ingress) (e : FlowEntry) :
    LawsKept s (s.actOn p f stamps e) := by
  unfold State.actOn
  split
  · exact laws_forward s p _ _ _
  · exact laws_forward s p _ _ _
  · exact LawsKept.ite (laws_judgedThen s p f _ fun t => laws_ownerTakes t p f stamps) (laws_countPort s p _)
  · exact laws_manage s p f
  · exact laws_countPort s p _

/-- One entry of the Flow Table changed in Pinned or the Hit Count, or disabled, keeps the law of R6. -/
theorem laws_updFlow (s : State) (i : Fin 64) (g : FlowEntry → FlowEntry)
    (h : ∀ e, e.sameMatch (g e) ∨ (g e).enabled = false) : LawsKept s { s with flow := updAt s.flow i g } := by
  refine ⟨fun h => ⟨h.ports, h.clients, h.hold, h.notices, h.command, h.tod⟩, SeqsKept.refl s, fun w => ?_, id⟩
  intro a b hab ha hb
  have entry : ∀ k, ((updAt s.flow i g).get k).enabled = true → (s.flow.get k).sameMatch ((updAt s.flow i g).get k) := by
    intro k
    rw [get_updAt]
    split
    · intro e
      rcases h (s.flow.get k) with same | off
      · exact same
      · rw [off] at e; cases e
    · exact fun _ => rfl
  have sa : (s.flow.get a).sameMatch ((updAt s.flow i g).get a) := entry a ha
  have sb : (s.flow.get b).sameMatch ((updAt s.flow i g).get b) := entry b hb
  dsimp only at ha hb ⊢
  rw [sa] at ha ⊢
  rw [sb] at hb ⊢
  exact w a b hab ha hb

theorem laws_classify (s : State) (p : Port) (f : Frame) (stamps : Ingress) : LawsKept s (s.classify p f stamps) := by
  unfold State.classify
  split
  · next i _ => exact (laws_actOn _ p f stamps _).after (laws_updFlow s i _ fun _ => .inl rfl)
  · exact (laws_forward _ p _ _ _).after (laws_countPort s p _)

theorem laws_receive (s : State) (p : Port) (ok : Bool) (f : Frame) : LawsKept s (s.receive p ok f) :=
  LawsKept.ite ((laws_classify _ p f _).after (laws_countPort s p _)) (laws_countPort s p _)

theorem laws_linkClient (s : State) (p : Port) (up : Bool) : LawsKept s (s.linkClient p up) := by
  unfold State.linkClient
  split
  · exact LawsKept.refl s
  · next c _ =>
    have line : ∀ t : State, LawsKept t (t.syncLine c) := fun t => (fair_syncLine t c).laws (kept_setDefects t _ _).seqs
    exact LawsKept.ite ((line _).after ((fair_clientStart s c).laws (seqs_clientStart s c)))
      ((line _).after ((fair_clientStop s c).laws (seqs_clientStop s c)))

theorem laws_linkSite (s : State) (p : Port) (up : Bool) : LawsKept s (s.linkSite p up) := by
  unfold State.linkSite
  split
  · exact LawsKept.refl s
  · next k _ =>
    exact LawsKept.ite ((quiet_siteLinkUp s k).laws (down_siteLinkUp s k).seqs)
      ((quiet_siteLinkDown s k).laws (down_siteLinkDown s k).seqs)

/-- A port changed within its capacities. -/
theorem laws_updPort (s : State) (p : Port) (f : PortState → PortState)
    (h : (s.port p).withinRoom → (f (s.port p)).withinRoom) : LawsKept s (s.updPort p f) := by
  refine ⟨fun w => ⟨fun q => ?_, w.clients, w.hold, w.notices, w.command, w.tod⟩, SeqsKept.of_sessions rfl, id, id⟩
  rw [State.port_updPort]
  split
  · next e => subst e; exact h (w.ports q)
  · exact w.ports q

theorem laws_report (s : State) (i : Fin 41) (present : Bool) : LawsKept s (s.report i present) :=
  (quiet_report s i present).laws (SeqsKept.of_sessions rfl)

theorem laws_linkUp (s : State) (p : Port) : LawsKept s (s.linkUp p) :=
  (laws_report _ _ false).after ((laws_linkSite _ p true).after ((laws_linkClient _ p true).after
    (laws_updPort s p _ id)))

theorem laws_linkDown (s : State) (p : Port) : LawsKept s (s.linkDown p) :=
  (laws_restartAfterLoss _ _).after ((laws_report _ _ true).after ((laws_linkSite _ p false).after
    ((laws_linkClient _ p false).after (((quiet_flush _ p).laws (SeqsKept.of_sessions rfl)).after
      (laws_updPort s p _ id)))))

theorem laws_atEgress (s : State) (p : Port) (x : QFrame) : LawsKept s (s.atEgress p x).1 := by
  unfold State.atEgress State.correct
  dsimp only
  split
  · split
    · exact LawsKept.ite (LawsKept.refl s) (laws_countPort s p _)
    · exact laws_countPort s p fun c => { c with notCorrectable := bump c.notCorrectable }
  · exact LawsKept.refl s
  · exact LawsKept.refl s
  · split
    · exact (quiet_captureT3 s _ _ _).laws (seqs_captureT3 s _ _ _)
    · exact LawsKept.refl s
  all_goals exact LawsKept.refl s

theorem PortState.takeNext_withinRoom (x : PortState) (h : x.withinRoom) : x.takeNext.withinRoom := by
  unfold PortState.takeNext
  split
  · next e => exact ⟨Nat.le_trans (by rw [e]; exact Nat.le_succ _) h.1, h.2⟩
  · exact ⟨h.1, Nat.le_trans (by rw [List.length_drop]; exact Nat.sub_le _ _) h.2⟩

theorem laws_egress (s : State) (p : Port) : LawsKept s (s.egress p) := by
  unfold State.egress
  dsimp only
  split
  · exact LawsKept.refl s
  · exact LawsKept.ite ((laws_updPort _ p _ id).after ((laws_atEgress _ p _).after
      (laws_updPort s p _ (PortState.takeNext_withinRoom _)))) (LawsKept.refl s)

theorem laws_endTransmit (s : State) (p : Port) (t : TxFrame) : LawsKept s (s.endTransmit p t) := by
  unfold State.endTransmit
  dsimp only
  have sent := LawsKept.ite (c := t.counted = true)
    ((laws_countPort _ p fun c => { c with transmittedFrames := bump c.transmittedFrames }).after
      (laws_updPort s p (fun x => { x with tx := none }) id)) (laws_updPort s p (fun x => { x with tx := none }) id)
  split
  · exact LawsKept.ite ((laws_restart _ _).after sent) sent
  · exact sent

end Sys2Proof.Machine
end

section
/-! PROOFS. The management commands keep the laws of `LawsKept`: every table's PUT, and the completion of each command. -/
namespace Sys2Proof.Machine
open Sys2Proof

/-! ## Entries written (R196) -/

/-- A written entry keeps the laws; a refused one leaves nothing. -/
def EntryResult.keeps (s : State) : EntryResult → Prop
  | .refused _ => True
  | .written t _ => LawsKept s t

theorem EntryResult.keeps_ite {s : State} {c : Prop} [Decidable c] {x y : EntryResult} (a : x.keeps s) (b : y.keeps s) :
    (if c then x else y).keeps s := by split <;> assumption

/-- Whether two values agree or one of them is the value that stands for all is symmetric. -/
theorem wild_comm {α : Type} [DecidableEq α] (a x y : α) :
    (decide (x = a) || decide (y = a) || decide (x = y)) = (decide (y = a) || decide (x = a) || decide (y = x)) := by
  rw [Bool.or_comm (decide (x = a)), decide_eq_decide.2 (eq_comm (a := x) (b := y))]

theorem vlanMeet_comm (x y : FlowEntry) : vlanMeet x y = vlanMeet y x := by
  unfold vlanMeet
  cases x.vlan <;> cases y.vlan <;> simp only [windowsMeet, and_comm]

/-- Overlap is symmetric (R6). -/
theorem flowOverlap_comm (part : Nat) (x y : FlowEntry) : flowOverlap part x y = flowOverlap part y x := by
  have domain : windowsMeet x.dStart x.dStop y.dStart y.dStop = windowsMeet y.dStart y.dStop x.dStart x.dStop := by
    simp only [windowsMeet, and_comm]
  have ether : ((x.etherType.value part).isNone || (y.etherType.value part).isNone ||
      decide (x.etherType.value part = y.etherType.value part)) = ((y.etherType.value part).isNone ||
      (x.etherType.value part).isNone || decide (y.etherType.value part = x.etherType.value part)) := by
    rw [Bool.or_comm (x.etherType.value part).isNone, decide_eq_decide.2 eq_comm]
  unfold flowOverlap
  rw [BitVec.and_comm, vlanMeet_comm, domain, ether, wild_comm .any x.cls, wild_comm .any x.dest,
    Bool.and_comm (decide (x.cls = .timing))]

/-- No other enabled entry of its Priority overlaps an entry that passes check 6 of R7. -/
theorem State.overlaps_false {s : State} {i : Fin 64} {e : FlowEntry} (h : s.overlaps i e = false) (j : Fin 64)
    (hj : j ≠ i) (on : (s.flow.get j).enabled = true) (same : (s.flow.get j).priority = e.priority) :
    flowOverlap s.mgmt.partEther e (s.flow.get j) = false := by
  have := List.any_eq_false.1 h j (List.mem_finRange j)
  simpa [hj, on, same] using this

theorem keeps_putFlow (s : State) (i : Fin 64) (bs : List Byte) : (s.putFlow i bs).keeps s := by
  unfold State.putFlow
  split
  · trivial
  · next x _ =>
    dsimp only
    generalize x.store s.mgmt.partEther = e
    refine EntryResult.keeps_ite trivial (EntryResult.keeps_ite trivial ?_)
    split
    · trivial
    · next free =>
      refine ⟨fun h => ⟨h.ports, h.clients, h.hold, h.notices, h.command, h.tod⟩, SeqsKept.refl s, fun w a b => ?_, id⟩
      have entry : ∀ k, (s.flow.set i.val e i.isLt).get k = if k = i then e else s.flow.get k :=
        fun k => get_updAt s.flow i k fun _ => e
      have clear : ∀ j, j ≠ i → e.enabled = true → (s.flow.get j).enabled = true →
          (s.flow.get j).priority = e.priority → flowOverlap s.mgmt.partEther e (s.flow.get j) = false := by
        intro j hj on
        exact State.overlaps_false (by simpa [on] using free) j hj
      intro hab ha hb hp
      dsimp only at ha hb hp ⊢
      simp only [entry] at ha hb hp ⊢
      by_cases ea : a = i
      · have eb : b ≠ i := fun eb => hab (ea.trans eb.symm)
        rw [if_pos ea] at ha hp ⊢
        rw [if_neg eb] at hb hp ⊢
        exact clear b eb ha hb hp.symm
      · rw [if_neg ea] at ha hp ⊢
        by_cases eb : b = i
        · rw [if_pos eb] at hb hp ⊢
          rw [flowOverlap_comm]
          exact clear a ea hb ha hp
        · rw [if_neg eb] at hb hp ⊢
          exact w a b hab ha hb hp

theorem keeps_putPortMap (s : State) (i : Fin 8) (bs : List Byte) : (s.putPortMap i bs).keeps s := by
  unfold State.putPortMap
  dsimp only
  split
  · trivial
  · exact LawsKept.of_fields rfl rfl rfl id id rfl id rfl

/-- Two EtherType matches meet under a Part EtherType (R6, R9). -/
def EtherMatch.meet (part : Nat) (a b : EtherMatch) : Bool :=
  (a.value part).isNone || (b.value part).isNone || a.value part = b.value part

theorem EtherMatch.meet_newPart {old new : Nat} {a b : EtherMatch} (ha : a ≠ .literal new) (hb : b ≠ .literal new)
    (h : a.meet new b = true) : a.meet old b = true := by
  cases a <;> cases b <;> simp_all [EtherMatch.meet, EtherMatch.value]

/-- With no literal of the new Part EtherType in the table, a change of it brings no two entries to overlap (R9). -/
theorem flowOverlap_newPart {old new : Nat} {x y : FlowEntry} (hx : x.etherType ≠ .literal new)
    (hy : y.etherType ≠ .literal new) (h : flowOverlap new x y = true) : flowOverlap old x y = true := by
  unfold flowOverlap at *
  simp only [Bool.and_eq_true] at h ⊢
  obtain ⟨⟨⟨⟨⟨ports, vlan⟩, ether⟩, cls⟩, domain⟩, dest⟩ := h
  exact ⟨⟨⟨⟨⟨ports, vlan⟩, EtherMatch.meet_newPart hx hy ether⟩, cls⟩, domain⟩, dest⟩

theorem State.flowHolds_false {s : State} {v : Nat} (h : ¬ s.flowHolds v = true) (j : Fin 64) :
    (s.flow.get j).etherType ≠ .literal v := by
  have := List.any_eq_false.1 (Bool.eq_false_iff.2 h) j (List.mem_finRange j)
  simpa using this

theorem keeps_putMgmt (s : State) (p : Port) (bs : List Byte) : (s.putMgmt p bs).keeps s := by
  unfold State.putMgmt
  dsimp only
  split
  · trivial
  · split
    · trivial
    · next group =>
      refine EntryResult.keeps_ite trivial ?_
      split
      · trivial
      · next free =>
        refine ⟨fun h => ⟨h.ports, h.clients, h.hold, h.notices, h.command, h.tod⟩, SeqsKept.refl s,
          fun w i j hij hi hj hp => ?_, fun _ => Bool.eq_false_iff.2 group⟩
        refine Bool.eq_false_iff.2 fun overlap => ?_
        have := flowOverlap_newPart (old := s.mgmt.partEther) (State.flowHolds_false free i)
          (State.flowHolds_false free j) overlap
        rw [w i j hij hi hj hp] at this
        cases this

/-- A session changed within its list's law. -/
theorem laws_updClient (s : State) (c : Client) (f : ClientSession → ClientSession)
    (room : (s.client c).withinRoom s.clock.epoch → (f (s.client c)).withinRoom s.clock.epoch)
    (seqs : (s.client c).seqsFree → (f (s.client c)).seqsFree) : LawsKept s (s.updClient c f) := by
  refine ⟨fun h => ⟨h.ports, fun q => ?_, h.hold, h.notices, h.command, h.tod⟩, seqs_updClient s c f seqs, id, id⟩
  rw [State.client_updClient]
  split
  · next e => subst e; exact room (h.clients q)
  · exact h.clients q

theorem laws_clientChanged (s : State) (c : Client) (old : ClientCfg) : LawsKept s (s.clientChanged c old) := by
  have expired : ∀ t : State, LawsKept t (t.noticeCheck c) := fun t =>
    LawsKept.ite ((fair_noticeExpired t c).laws (seqs_noticeExpired t c)) (LawsKept.refl t)
  have moved : LawsKept s (if old.enabled && !(s.client c).cfg.enabled then s.clientStop c
      else if !old.enabled && (s.client c).cfg.enabled then s.clientStart c
      else if old.domain ≠ (s.client c).cfg.domain ∨ old.queryVlan ≠ (s.client c).cfg.queryVlan then s.clientRetune c
      else s) :=
    LawsKept.ite ((fair_clientStop s c).laws (seqs_clientStop s c))
      (LawsKept.ite ((fair_clientStart s c).laws (seqs_clientStart s c))
        (LawsKept.ite ((fair_clientRetune s c).laws (seqs_clientRetune s c)) (LawsKept.refl s)))
  unfold State.clientChanged
  dsimp only
  refine moved.trans ?_
  generalize (if old.enabled && !(s.client c).cfg.enabled then s.clientStop c
      else if !old.enabled && (s.client c).cfg.enabled then s.clientStart c
      else if old.domain ≠ (s.client c).cfg.domain ∨ old.queryVlan ≠ (s.client c).cfg.queryVlan then s.clientRetune c
      else s) = s1
  have aged : LawsKept s1 (if old.replyTimeout = (s.client c).cfg.replyTimeout then s1
      else s1.updClient c (ClientSession.loseAged s.res)) := by
    refine LawsKept.ite (LawsKept.refl s1) (laws_updClient s1 c _ (fun h => ?_) fun h => ?_)
    · exact ⟨Nat.le_trans (List.length_filter_le _ _) h.1, fun q m => h.2 q (List.mem_of_mem_filter m)⟩
    · exact ClientSession.seqsFree_of_sublist (List.filter_sublist.map _) rfl h
  exact LawsKept.ite aged ((expired _).after aged)

theorem keeps_putClient (s : State) (c : Client) (bs : List Byte) : (s.putClient c bs).keeps s := by
  unfold State.putClient
  split
  · trivial
  · exact (laws_clientChanged _ c _).after (laws_updClient s c _ id id)

theorem laws_updRef (s : State) (r : Ref) (f : Reference → Reference) : LawsKept s (s.updRef r f) :=
  LawsKept.of_fields rfl rfl rfl id id rfl id rfl

theorem laws_qualifyRef (s : State) (r : Ref) : LawsKept s (s.qualifyRef r) :=
  (fair_qualifyRef s r).laws (kept_qualifyRef s r).seqs

theorem laws_qualifyExpired (s : State) (r : Ref) : LawsKept s (s.qualifyExpired r) :=
  (fair_qualifyExpired s r).laws (kept_qualifyExpired s r).seqs

theorem laws_holdOffExpired (s : State) (r : Ref) : LawsKept s (s.holdOffExpired r) :=
  (fair_holdOffExpired s r).laws (kept_holdOffExpired s r).seqs

theorem laws_judge (s : State) (r : Ref) (grade : Option Nat) (f : List Defect → List Defect) :
    LawsKept s (s.judge r grade f) := (fair_judge s r grade f).laws (kept_judge s r grade f).seqs

theorem laws_setDefects (s : State) (r : Ref) (f : List Defect → List Defect) : LawsKept s (s.setDefects r f) :=
  laws_judge s r _ f

theorem laws_timersCheck (s : State) (r : Ref) : LawsKept s (s.timersCheck r) := by
  unfold State.timersCheck
  dsimp only
  split
  · exact LawsKept.ite (laws_qualifyExpired s r) (LawsKept.refl s)
  · exact LawsKept.ite (laws_holdOffExpired s r) (LawsKept.refl s)
  · exact LawsKept.ite (laws_qualifyRef s r) (LawsKept.refl s)
  · exact LawsKept.refl s
  · exact LawsKept.refl s

theorem laws_refChanged (s : State) (r : Ref) (old : RefCfg) : LawsKept s (s.refChanged r old) := by
  unfold State.refChanged
  dsimp only
  have baud : LawsKept s (if r = .gnss ∧ old.todBaud ≠ (s.ref r).cfg.todBaud then s.baudChanged else s) :=
    LawsKept.ite ((quiet_updGnss s (fun g => { g with partialRecord := [], held := none }) fun _ => Nat.zero_le _).laws
      (SeqsKept.of_sessions rfl)) (LawsKept.refl s)
  refine baud.trans ?_
  generalize (if r = .gnss ∧ old.todBaud ≠ (s.ref r).cfg.todBaud then s.baudChanged else s) = s1
  refine (laws_updRef s1 r fun x =>
    { x with
      lastE := if old.compensation = (s.ref r).cfg.compensation then x.lastE else none
      winVoid := x.winVoid || (r = .ext && old.declaredRate ≠ (s.ref r).cfg.declaredRate) }).trans ?_
  generalize s1.updRef r (fun x =>
    { x with
      lastE := if old.compensation = (s.ref r).cfg.compensation then x.lastE else none
      winVoid := x.winVoid || (r = .ext && old.declaredRate ≠ (s.ref r).cfg.declaredRate) }) = s2
  have graded : LawsKept s2 (if old.minGrade = (s.ref r).cfg.minGrade ∧ old.gradeCap = (s.ref r).cfg.gradeCap then s2
      else s2.judge r (s2.gradeAgain r) id) := LawsKept.ite (LawsKept.refl s2) (laws_judge s2 r _ id)
  refine graded.trans ?_
  generalize (if old.minGrade = (s.ref r).cfg.minGrade ∧ old.gradeCap = (s.ref r).cfg.gradeCap then s2
      else s2.judge r (s2.gradeAgain r) id) = s3
  cases refClient? r with
  | none => exact LawsKept.ite (LawsKept.refl s3) (laws_timersCheck s3 r)
  | some c =>
    dsimp only
    have starved : LawsKept s3 (if old.starveSeconds = (s.ref r).cfg.starveSeconds then s3 else s3.starveCheck c) :=
      LawsKept.ite (LawsKept.refl s3) (laws_setDefects s3 _ _)
    exact LawsKept.ite starved ((laws_timersCheck _ r).after starved)

theorem keeps_putRef (s : State) (r : Ref) (bs : List Byte) : (s.putRef r bs).keeps s := by
  unfold State.putRef
  split
  · trivial
  · next cfg _ _ =>
    dsimp only
    have stored := laws_updRef s r fun x => { x with cfg := cfg }
    generalize s.updRef r (fun x => { x with cfg := cfg }) = s1 at stored ⊢
    exact stored.trans (LawsKept.ite ((fair_refDisable s1 r).laws (seqs_refDisable s1 r))
      (LawsKept.ite ((fair_refEnable s1 r).laws (seqs_refEnable s1 r))
        (LawsKept.ite (laws_refChanged s1 r _) (LawsKept.refl s1))))

theorem laws_reevaluate (s : State) : LawsKept s s.reevaluate := (fair_reevaluate s).laws (kept_reevaluate s).seqs

theorem laws_updSel (s : State) (f : Selector → Selector) : LawsKept s (s.updSel f) :=
  LawsKept.of_fields rfl rfl rfl id id rfl id rfl

theorem laws_updReal (s : State) (f : Realign → Realign) : LawsKept s (s.updReal f) :=
  LawsKept.of_fields rfl rfl rfl id id rfl id rfl

theorem keeps_putSelector (s : State) (bs : List Byte) : (s.putSelector bs).keeps s := by
  unfold State.putSelector
  split
  · trivial
  · exact EntryResult.keeps_ite trivial (EntryResult.keeps_ite (LawsKept.refl s)
      ((laws_reevaluate _).after (laws_updSel s _)))

theorem laws_expireSuspended (s : State) : LawsKept s s.expireSuspended :=
  (slewed_expireSuspended s).calm.laws (seqs_expireSuspended s)

theorem laws_suspendedCheck (s : State) : LawsKept s s.suspendedCheck := by
  unfold State.suspendedCheck
  split
  · exact LawsKept.refl s
  · exact LawsKept.ite (laws_expireSuspended s) (LawsKept.refl s)

theorem keeps_putRealign (s : State) (bs : List Byte) : (s.putRealign bs).keeps s := by
  unfold State.putRealign
  split
  · trivial
  · next p _ _ =>
    dsimp only
    have stored : LawsKept s (if p.maxOffset = s.realign.params.maxOffset then s.updReal fun x => { x with params := p }
        else (s.updReal fun x => { x with params := p }).updReal (writeMaxOffset p.maxOffset)) :=
      LawsKept.ite (laws_updReal s _) ((laws_updReal _ _).after (laws_updReal s _))
    exact LawsKept.ite stored ((laws_suspendedCheck _).after stored)

theorem keeps_putServo (s : State) (bs : List Byte) : (s.putServo bs).keeps s := by
  unfold State.putServo
  split
  · trivial
  · exact LawsKept.of_fields rfl rfl rfl id id rfl id rfl

theorem laws_regrade (s : State) : LawsKept s s.regrade := (quiet_regrade s).laws (down_regrade s).seqs

theorem laws_updHold (s : State) (f : Holdover → Holdover) (h : s.holdover.withinRoom → (f s.holdover).withinRoom) :
    LawsKept s (s.updHold f) := LawsKept.of_fields rfl rfl rfl h id rfl id rfl

theorem keeps_putHoldover (s : State) (bs : List Byte) : (s.putHoldover bs).keeps s := by
  unfold State.putHoldover
  split
  · trivial
  · exact LawsKept.ite (laws_updHold s _ id) ((laws_regrade _).after (laws_updHold s _ id))

end Sys2Proof.Machine
end

section
/-! PROOFS. The rest of the tables' PUTs, the management commands, and what every command of the relay keeps. -/
namespace Sys2Proof.Machine
open Sys2Proof

/-! ## Budget Table, sites, pins, alarms -/

/-- An entry whose threshold lies between its neighbours keeps the order (R129). -/
theorem budgetInOrder_put {t : List BudgetEntry} {i : Nat} {b : BudgetEntry} (h : budgetInOrder t)
    (hi : i ≤ t.length) (fits : budgetFits t i b.threshold = true) :
    budgetInOrder (if i = t.length then t ++ [b] else t.set i b) := by
  obtain ⟨order, head⟩ := h
  have below : ∀ k (hk : k < t.length), k < i → t[k].threshold < b.threshold := by
    intro k hk hki
    have h0 : i ≠ 0 := by omega
    simp only [budgetFits, h0, if_false, Bool.and_eq_true] at fits
    have prev : (t[i - 1]'(by omega)).threshold < b.threshold := by
      have := fits.1
      rw [List.getElem?_eq_getElem (by omega)] at this
      simpa using this
    rcases Nat.lt_or_ge k (i - 1) with lt | ge
    · exact Nat.lt_trans (List.pairwise_iff_getElem.1 order k (i - 1) hk (by omega) lt) prev
    · have : k = i - 1 := by omega
      subst this
      exact prev
  have above : ∀ k (hk : k < t.length), i < k → b.threshold < t[k].threshold := by
    intro k hk hik
    by_cases h0 : i = 0
    · subst h0
      simp only [budgetFits, if_true, decide_eq_true_eq] at fits
      rw [fits]
      exact Nat.lt_of_le_of_lt (Nat.zero_le _) (List.pairwise_iff_getElem.1 order 0 k (by omega) hk hik)
    · simp only [budgetFits, h0, if_false, Bool.and_eq_true] at fits
      have next : b.threshold < (t[i + 1]'(by omega)).threshold := by
        have := fits.2
        rw [List.getElem?_eq_getElem (by omega)] at this
        simpa using this
      rcases Nat.lt_or_ge (i + 1) k with lt | ge
      · exact Nat.lt_trans next (List.pairwise_iff_getElem.1 order (i + 1) k (by omega) hk lt)
      · have : k = i + 1 := by omega
        subst this
        exact next
  have first : i = 0 → b.threshold = 0 := by
    rintro rfl
    simpa [budgetFits] using fits
  split
  · next e =>
    refine ⟨List.pairwise_append.2 ⟨order, List.pairwise_singleton _ _, fun x hx y hy => ?_⟩, fun x hx => ?_⟩
    · obtain ⟨k, hk, rfl⟩ := List.getElem_of_mem hx
      rw [List.mem_singleton.1 hy]
      exact below k hk (by omega)
    · cases t with
      | nil => cases hx; exact first e
      | cons a l => exact head x hx
  · next ne =>
    have entry : ∀ k (hk : k < t.length), (t.set i b)[k]'(by simpa using hk) = if i = k then b else t[k] :=
      fun k hk => List.getElem_set (by simpa using hk)
    refine ⟨List.pairwise_iff_getElem.2 fun j k hj hk hjk => ?_, fun x hx => ?_⟩
    · rw [List.length_set] at hj hk
      rw [entry j hj, entry k hk]
      by_cases ej : i = j
      · rw [if_pos ej, if_neg (by omega)]
        exact above k hk (by omega)
      · rw [if_neg ej]
        by_cases ek : i = k
        · rw [if_pos ek]
          exact below j hj (by omega)
        · rw [if_neg ek]
          exact List.pairwise_iff_getElem.1 order j k hj hk hjk
    · rw [List.head?_eq_getElem?, List.getElem?_eq_getElem (by rw [List.length_set]; omega)] at hx
      rw [← Option.some.inj hx, entry 0 (by omega)]
      split
      · next e => exact first e
      · exact head _ (by rw [List.head?_eq_getElem?, List.getElem?_eq_getElem])

theorem keeps_putBudget (s : State) (i : Nat) (bs : List Byte) : (s.putBudget i bs).keeps s := by
  unfold State.putBudget
  dsimp only
  split
  · trivial
  · next b _ _ =>
    split
    · trivial
    · next range =>
      split
      · trivial
      · next fits =>
        refine (laws_regrade _).after (laws_updHold s _ fun h => ⟨h.1, ?_, ?_⟩)
        · dsimp only
          split
          · rw [List.length_append, List.length_singleton]; omega
          · rw [List.length_set]; exact h.2.1
        · exact budgetInOrder_put h.2.2 (by omega) (by simpa using fits)

/-- An entry removed keeps the order, unless it is entry 0 of several (R129). -/
theorem budgetInOrder_erase {t : List BudgetEntry} {i : Nat} (h : budgetInOrder t) (hi : ¬ (i = 0 ∧ 1 < t.length)) :
    budgetInOrder (t.eraseIdx i) := by
  refine ⟨h.1.sublist (List.eraseIdx_sublist t i), fun b hb => ?_⟩
  match t, i with
  | [], _ => cases hb
  | [a], 0 => cases hb
  | a :: c :: l, 0 => exact absurd ⟨rfl, by simp⟩ hi
  | a :: l, k + 1 => exact h.2 b hb

theorem laws_updSite (s : State) (k : Fin 6) (f : Site → Site) : LawsKept s (s.updSite k f) :=
  LawsKept.of_fields rfl rfl rfl id id rfl id rfl

theorem laws_siteConditions (s : State) (k : Fin 6) : LawsKept s (s.siteConditions k) :=
  (quiet_siteConditions s k).laws (down_siteConditions s k).seqs

theorem laws_enterServing (s : State) (k : Fin 6) : LawsKept s (s.enterServing k) :=
  (quiet_enterServing s k).laws (down_enterServing s k).seqs

theorem laws_siteAbsent (s : State) (k : Fin 6) : LawsKept s (s.siteAbsent k) :=
  (laws_siteConditions _ k).after (laws_updSite s k _)

theorem laws_siteChanged (s : State) (k : Fin 6) (old : SiteCfg) : LawsKept s (s.siteChanged k old) := by
  unfold State.siteChanged
  dsimp only
  have graded : LawsKept s (if old.minGrade = (s.site k).cfg.minGrade then s else s.siteGrade k) :=
    LawsKept.ite (LawsKept.refl s) ((quiet_siteGrade s k).laws (down_siteGrade s k).seqs)
  refine graded.trans ?_
  generalize (if old.minGrade = (s.site k).cfg.minGrade then s else s.siteGrade k) = s1
  have served : LawsKept s1 (if old.serveDelay ≠ (s.site k).cfg.serveDelay ∧ (s1.site k).serveElapsed s.res = true
      then s1.enterServing k else s1) := LawsKept.ite (laws_enterServing s1 k) (LawsKept.refl s1)
  exact LawsKept.ite ((laws_siteAbsent _ k).after served) served

theorem laws_siteEnable (s : State) (k : Fin 6) : LawsKept s (s.siteEnable k) :=
  (laws_siteConditions _ k).after (((quiet_serveCheck _ k).laws (down_serveCheck _ k).seqs).after (laws_updSite s k _))

theorem laws_siteDisable (s : State) (k : Fin 6) : LawsKept s (s.siteDisable k) :=
  (laws_siteConditions _ k).after ((laws_updSite _ k _).after
    (LawsKept.ite ((quiet_withdraw s k).laws (down_withdraw s k).seqs) (LawsKept.refl s)))

theorem keeps_putSite (s : State) (k : Fin 6) (bs : List Byte) : (s.putSite k bs).keeps s := by
  unfold State.putSite
  split
  · trivial
  · next cfg _ _ =>
    dsimp only
    refine EntryResult.keeps_ite trivial ?_
    have stored := laws_updSite s k fun y => { y with cfg := cfg }
    generalize s.updSite k (fun y => { y with cfg := cfg }) = s1 at stored ⊢
    exact stored.trans (LawsKept.ite (laws_siteDisable s1 k) (LawsKept.ite (laws_siteEnable s1 k)
      (LawsKept.ite (laws_siteChanged s1 k _) (LawsKept.refl s1))))

theorem laws_updPin (s : State) (k : Fin 4) (f : Pin → Pin) : LawsKept s (s.updPin k f) :=
  LawsKept.of_fields rfl rfl rfl id id rfl id rfl

theorem laws_useFree (s : State) : LawsKept s s.useFree := LawsKept.of_fields rfl rfl rfl id id rfl id rfl

theorem laws_pinDrive (s : State) (k : Fin 4) (was : Bool) : LawsKept s (s.pinDrive k was) := by
  unfold State.pinDrive
  dsimp only
  exact LawsKept.ite (LawsKept.ite (LawsKept.refl s) (LawsKept.ite ((laws_useFree _).after (laws_updPin s k _))
    (laws_updPin s k _))) (laws_updPin s k _)

theorem keeps_putPin (s : State) (k : Fin 4) (bs : List Byte) : (s.putPin k bs).keeps s := by
  unfold State.putPin
  split
  · trivial
  · dsimp only
    refine EntryResult.keeps_ite trivial (EntryResult.keeps_ite trivial ?_)
    have taken : ∀ (t : State) (a b : PinFunction), LawsKept t (t.freqInTaken a b) := fun t _ _ =>
      LawsKept.ite (laws_updRef t _ _) (LawsKept.refl t)
    exact (laws_updPin _ k _).after ((laws_pinDrive _ k _).after ((taken _ _ _).after (laws_updPin s k _)))

theorem laws_updAlarm (s : State) (f : Alarm → Alarm) (h : s.alarm.noticesLaw → (f s.alarm).noticesLaw) :
    LawsKept s (s.updAlarm f) := LawsKept.of_fields rfl rfl rfl id h rfl id rfl

theorem Alarm.ripe_calm (now : Stamp) (res : Nat) (raise clear : Bool) (a : Alarm) (i : Fin 41) :
    AlarmCalm a (a.ripe now res raise clear i) := by
  unfold Alarm.ripe
  dsimp only
  split
  · exact Alarm.raiseExpired_calm now res i a
  · split
    · exact Alarm.clearExpired_calm now res i a
    · exact AlarmCalm.refl a

theorem Alarm.writeCfg_noticesLaw (now : Stamp) (res : Nat) (c : Fin 12) (new : AlarmCfg) (a : Alarm)
    (h : a.noticesLaw) : (a.writeCfg now res c new).noticesLaw := by
  unfold Alarm.writeCfg
  exact (AlarmCalm.foldl _ (Alarm.ripe_calm now res _ _) _ _).room (Alarm.noticesLaw.congr_evalPin
    (h.congr rfl rfl rfl))

theorem keeps_putAlarmCfg (s : State) (c : Fin 12) (bs : List Byte) : (s.putAlarmCfg c bs).keeps s := by
  unfold State.putAlarmCfg
  split
  · trivial
  · exact laws_updAlarm s _ (Alarm.writeCfg_noticesLaw _ _ c _ s.alarm)

/-- Setting Pending flags alone leaves the queue, the settings and the configuration. -/
theorem Alarm.pendAll_set (l : List Notice) (a : Alarm) :
    (l.foldl (fun b n => b.updRec n.record fun r => { r with pending := true }) a).set = a.set := by
  induction l generalizing a with
  | nil => rfl
  | cons n l ih => exact ih _

theorem Alarm.notifyOff_noticesLaw (a : Alarm) (h : a.set.notify = false) : a.notifyOff.noticesLaw := by
  have off : a.notifyOff.set.notify = false := by
    show (a.queue.foldl _ a).set.notify = false
    rw [Alarm.pendAll_set, h]
  exact ⟨Nat.zero_le _, List.nodup_nil, fun _ m => absurd m List.not_mem_nil, fun n => (Bool.eq_false_iff.1 off n).elim,
    fun _ => rfl⟩

/-- Alarm settings written keep the law of the Notice Queue: notices turned off empty the queue into Pending, and
notices turned on drain it (R178, R180). -/
theorem Alarm.notifyChange_noticesLaw (now : Stamp) (res : Nat) (was : Bool) (a : Alarm) (room : a.queue.length ≤ 16)
    (once : (a.queue.map Notice.record).Nodup) (free : ∀ n, n ∈ a.queue → (a.record n.record).pending = false)
    (drawn : was = true → a.queue.length < 16 → ∀ i, (a.record i).pending = false)
    (off : was = false → a.queue = []) : (a.notifyChange now res was).noticesLaw := by
  unfold Alarm.notifyChange
  split
  · next e => subst e; exact ⟨room, once, free, drawn, off⟩
  · next ne =>
    split
    · next on =>
      have := (Alarm.drain_spec now res { a with spacing := none }).2.2.2
      exact this (.inr ⟨on, room, once, free⟩)
    · next no => exact Alarm.notifyOff_noticesLaw a (by simpa using no)

/-- `b` differs from `a` in nothing that the law of the Notice Queue reads but the settings. -/
theorem Alarm.writeSet_noticesLaw (now : Stamp) (res : Nat) (new : AlarmSettings) (a : Alarm) (h : a.noticesLaw) :
    (a.writeSet now res new).noticesLaw := by
  have spacing : (a.endSpacing res).queue = a.queue ∧ (a.endSpacing res).recs = a.recs := by
    unfold Alarm.endSpacing
    split
    · split <;> exact ⟨rfl, rfl⟩
    · exact ⟨rfl, rfl⟩
  have mode : ∀ (b : Alarm) (was : Bool), (b.modeChange was).queue = b.queue ∧ (b.modeChange was).recs = b.recs := by
    intro b was
    unfold Alarm.modeChange Alarm.endPulse Alarm.evalPin
    split
    · exact ⟨rfl, rfl⟩
    · split
      · exact ⟨rfl, rfl⟩
      · exact ⟨rfl, rfl⟩
  have pulse : ∀ b : Alarm, (b.pulseCheck res).queue = b.queue ∧ (b.pulseCheck res).recs = b.recs := by
    intro b
    unfold Alarm.pulseCheck Alarm.endPulse
    split
    · split <;> exact ⟨rfl, rfl⟩
    · exact ⟨rfl, rfl⟩
  unfold Alarm.writeSet
  have hq := ((pulse _).1.trans (mode { a.endSpacing res with set := new } a.set.pulseMode).1).trans spacing.1
  have hr := ((pulse _).2.trans (mode { a.endSpacing res with set := new } a.set.pulseMode).2).trans spacing.2
  generalize ({ a.endSpacing res with set := new }.modeChange a.set.pulseMode).pulseCheck res = b at hq hr
  have rec' : ∀ i, b.record i = a.record i := fun i => by unfold Alarm.record; rw [hr]
  refine Alarm.notifyChange_noticesLaw now res a.set.notify b (hq ▸ h.room) (hq ▸ h.once) (fun n m => ?_)
    (fun on room i => ?_) (fun no => hq.trans (h.off no))
  · rw [rec']; exact h.free n (hq ▸ m)
  · rw [rec']; exact h.drawn on (hq ▸ room) i

theorem keeps_putAlarmSet (s : State) (bs : List Byte) : (s.putAlarmSet bs).keeps s := by
  unfold State.putAlarmSet
  split
  · trivial
  · exact EntryResult.keeps_ite trivial (laws_updAlarm s _ (Alarm.writeSet_noticesLaw _ _ _ s.alarm))

/-- Every entry written keeps the laws. -/
theorem keeps_putEntry (s : State) (p : Port) (table index : Nat) (bs : List Byte) :
    (s.putEntry p table index bs).keeps s := by
  have dite' : ∀ {c : Prop} [Decidable c] (x : c → EntryResult), (∀ h, (x h).keeps s) →
      (if h : c then x h else .refused stBadIndex).keeps s := by
    intro c _ x hx
    split
    · exact hx _
    · trivial
  unfold State.putEntry
  split
  · exact dite' _ fun h => keeps_putFlow s ⟨index, h⟩ bs
  · exact dite' _ fun h => keeps_putPortMap s ⟨index, h⟩ bs
  · exact keeps_putMgmt s p bs
  · exact keeps_putClient s _ bs
  · split
    · exact keeps_putRef s _ bs
    · trivial
  · exact keeps_putSelector s bs
  · exact keeps_putRealign s bs
  · exact keeps_putServo s bs
  · exact keeps_putHoldover s bs
  · exact keeps_putBudget s index bs
  · exact dite' _ fun h => keeps_putSite s ⟨index, h⟩ bs
  · exact dite' _ fun h => keeps_putPin s ⟨index, h⟩ bs
  · exact dite' _ fun h => keeps_putAlarmCfg s ⟨index, h⟩ bs
  · exact keeps_putAlarmSet s bs
  · trivial

theorem laws_putRun (p : Port) (table : Nat) : ∀ (n index : Nat) (bs : List Byte) (acc : RunResult),
    LawsKept acc.state (State.putRun p table n index bs acc).state
  | 0, _, _, acc => LawsKept.refl _
  | n + 1, index, bs, acc => by
    unfold State.putRun
    split
    · exact LawsKept.refl _
    · next fields rest _ =>
      have entry := keeps_putEntry acc.state p table index fields
      split
      · exact LawsKept.refl _
      · next t adjusted e =>
        rw [e] at entry
        exact entry.trans (laws_putRun p table n (nextInBlock table index) rest
          { acc with state := t, adjusted := acc.adjusted || adjusted, count := acc.count + 1
                     stored := acc.stored ++ t.encEntry table index })

/-! ## The commands (R191) -/

theorem laws_updMgmt (s : State) (f : Mgmt → Mgmt) (hq : (f s.mgmt).queue.length ≤ s.mgmt.queue.length)
    (hp : (f s.mgmt).partEther = s.mgmt.partEther) (ha : (f s.mgmt).station = s.mgmt.station) :
    LawsKept s (s.updMgmt f) :=
  ⟨fun h => ⟨h.ports, h.clients, h.hold, h.notices, Nat.le_trans hq h.command, h.tod⟩, SeqsKept.refl s,
    State.flowDisjoint_congr rfl hp, fun h => (congrArg groupBit ha).trans h⟩

theorem laws_readFrom (s : State) (table start count : Nat) : LawsKept s (s.readFrom table start count).state := by
  have cursor : ∀ (t : State) (i : Nat), LawsKept t (t.updMgmt (Mgmt.setCursor table i)) := fun t i => by
    refine laws_updMgmt t _ ?_ ?_ ?_ <;> unfold Mgmt.setCursor <;> split <;> rfl
  have ack : LawsKept s (s.ackRead table (readIndices start (usedCount count (s.entryCount table)) (s.entryCount table))) :=
    LawsKept.ite (laws_updAlarm s _ (Alarm.ackAll_calm _ s.alarm).room) (LawsKept.refl s)
  exact (cursor _ _).after ack

/-- What a command runs to keeps the laws in both cases of a test. -/
theorem laws_replyIte {s : State} {c : Prop} [Decidable c] {x y : Reply} (a : LawsKept s x.state)
    (b : LawsKept s y.state) : LawsKept s (if c then x else y).state := by split <;> assumption

theorem laws_runPut (s : State) (c : Command) : LawsKept s (runPut s c).state :=
  laws_replyIte (LawsKept.refl s) (laws_replyIte (LawsKept.refl s) (laws_replyIte (LawsKept.refl s)
    (laws_replyIte (LawsKept.refl s) (laws_putRun c.ingress _ _ _ _ ⟨s, false, 0, [], none⟩))))

theorem laws_clearFlow (s : State) (index : Nat) : LawsKept s (clearFlow s index).state := by
  unfold clearFlow
  split
  · exact laws_replyIte (LawsKept.refl s) (laws_updFlow s _ _ fun _ => .inr rfl)
  · exact LawsKept.refl s

theorem laws_clearBudget (s : State) (index : Nat) : LawsKept s (clearBudget s index).state := by
  unfold clearBudget
  dsimp only
  refine laws_replyIte (LawsKept.refl s) ?_
  split
  · exact LawsKept.refl s
  · next first =>
    exact (laws_regrade _).after (laws_updHold s _ fun h =>
      ⟨h.1, Nat.le_trans (List.eraseIdx_sublist _ _).length_le h.2.1, budgetInOrder_erase h.2.2 first⟩)

theorem laws_runClear (s : State) (c : Command) : LawsKept s (runClear s c).state :=
  laws_replyIte (LawsKept.refl s) (laws_replyIte (laws_clearFlow s _) (laws_replyIte (laws_clearBudget s _)
    (laws_replyIte (LawsKept.refl s) (LawsKept.refl s))))

theorem laws_pinFlow (s : State) (pinned : Bool) (index : Nat) : LawsKept s (pinFlow s pinned index).state := by
  unfold pinFlow
  split
  · exact laws_updFlow s _ _ fun _ => .inl rfl
  · exact LawsKept.refl s

theorem laws_force (s : State) (phase : Bool) (r : Ref) : LawsKept s (s.force phase r) := by
  unfold State.force
  dsimp only
  have select : ∀ (t : State) (g : Nat), LawsKept t (t.applyPhase (some r) g) ∧ LawsKept t (t.applyFreq (some r) g) :=
    fun t g => ⟨(applyPhase_spec t _ g).1.laws (down_applyPhase t _ g).seqs,
      (applyFreq_spec t _ g).1.laws (down_applyFreq t _ g).seqs⟩
  exact LawsKept.ite ((laws_reevaluate _).after ((select _ _).1.after (laws_updSel s _)))
    ((laws_reevaluate _).after ((select _ _).2.after (laws_updSel s _)))

theorem laws_runForce (s : State) (c : Command) : LawsKept s (runForce s c).state := by
  unfold runForce
  dsimp only
  refine laws_replyIte (LawsKept.refl s) ?_
  cases refOfNat? (c.arg 1 1) with
  | none => exact LawsKept.refl s
  | some r =>
    exact laws_replyIte (LawsKept.refl s) (laws_replyIte (LawsKept.refl s) (laws_force s (c.arg 0 1 = 0) r))

theorem laws_runRelease (s : State) (c : Command) : LawsKept s (runRelease s c).state := by
  unfold runRelease
  split
  · exact LawsKept.ite ((laws_reevaluate _).after (laws_updSel s _)) (LawsKept.refl s)
  · exact LawsKept.ite ((laws_reevaluate _).after (laws_updSel s _)) (LawsKept.refl s)
  · exact LawsKept.refl s

theorem laws_runTimeSet (s : State) (c : Command) : LawsKept s (runTimeSet s c).state :=
  laws_replyIte (LawsKept.refl s) (laws_replyIte (laws_timeSet s _ _) (laws_timeSet s _ _))

theorem laws_runAck (s : State) (c : Command) : LawsKept s (runAck s c).state := by
  unfold runAck
  dsimp only
  split
  · exact laws_updAlarm s _ (Alarm.ackAll_calm _ s.alarm).room
  · split
    · exact laws_updAlarm s _ (Alarm.ackAll_calm _ s.alarm).room
    · exact LawsKept.refl s

theorem laws_runGet (s : State) (c : Command) : LawsKept s (runGet s c).state :=
  laws_replyIte (LawsKept.refl s) (laws_replyIte (LawsKept.refl s) (laws_readFrom s _ _ _))

theorem laws_runContinue (s : State) (c : Command) : LawsKept s (runContinue s c).state :=
  laws_replyIte (LawsKept.refl s) (laws_replyIte (LawsKept.refl s) (laws_readFrom s _ _ _))

theorem laws_runRestart (s : State) (c : Command) : LawsKept s (runRestart s c).state := by
  unfold runRestart; split <;> exact LawsKept.refl s

theorem laws_runTest (s : State) (c : Command) : LawsKept s (runTest s c).state :=
  (laws_report s recTest true).trans
    (laws_updAlarm (s.report recTest true) (fun a => { a with test := some s.res }) fun h => h.congr rfl rfl rfl)

theorem laws_answer (s : State) (c : Command) (x : Reply) : LawsKept x.state (s.answer c x) := by
  unfold State.answer
  dsimp only
  have finish : ∀ t : State, LawsKept t (t.updMgmt (Mgmt.finish x.restart)) := fun t => by
    refine laws_updMgmt t _ ?_ ?_ ?_ <;> unfold Mgmt.finish <;> cases x.restart
    · exact (List.length_drop ..).trans_le (Nat.sub_le _ _)
    all_goals rfl
  have sent := (finish _).after (laws_useFree x.state)
  refine laws_offerThen _ _ _ id _ sent LawsKept.refl fun u => ?_
  cases x.restart with
  | none => exact laws_countMgmt u _
  | some scope => exact laws_restartAfterLoss u (some scope)

/-- The completion of a command keeps the laws when what it runs to does. -/
theorem laws_complete (s : State) (dt : Nat) (kind : Command → Bool) (run : State → Command → Reply)
    (h : ∀ t c, LawsKept t (run t c).state) : LawsKept s (s.complete dt kind run) := by
  unfold State.complete
  split
  · exact LawsKept.refl s
  · exact LawsKept.ite ((laws_answer _ _ _).after ((h _ _).after (laws_pass s dt))) (LawsKept.refl s)

end Sys2Proof.Machine
end

section
/-! PROOFS. What every step keeps: the capacities and the laws of the lists (O5), and the law of the Flow Table (O9). -/
namespace Sys2Proof.Machine
open Sys2Proof

/-! ## The query due, which alone uses the next Sequence -/

/-- What a step keeps: the laws of `LawsKept`, but that the next Sequence may have been used. -/
structure StepLaws (s t : State) : Prop where
  room  : s.WithinRoom → t.WithinRoom
  seqs  : ∀ c, (s.client c).seqsFree → (t.client c).seqs.Nodup
  flow  : s.flowDisjoint → t.flowDisjoint
  group : groupBit s.mgmt.station = false → groupBit t.mgmt.station = false

theorem LawsKept.step {s t : State} (h : LawsKept s t) : StepLaws s t :=
  ⟨h.room, fun c w => (h.seqs c w).1, h.flow, h.group⟩

theorem LawsKept.thenStep {s t u : State} (a : LawsKept s t) (b : StepLaws t u) : StepLaws s u :=
  ⟨fun h => b.room (a.room h), fun c w => b.seqs c (a.seqs c w), fun h => b.flow (a.flow h),
    fun h => b.group (a.group h)⟩

theorem State.offer_client (s : State) (p : Port) (q : QueueClass) (f : QFrame) (c : Client) :
    (s.offer p q f).1.client c = s.client c := by
  unfold State.offer
  dsimp only
  split
  · rfl
  · cases q <;> dsimp only <;> split <;> rfl

/-- A query takes the next Sequence, which is free; one that finds no room is withdrawn (R37). -/
theorem sendQuery_seqs (s : State) (c q : Client) (m : Master) (h : (s.client q).seqsFree) :
    ((s.sendQuery c m).client q).seqs.Nodup := by
  unfold State.sendQuery
  dsimp only
  split
  · exact (seqs_countClient s c _ q h).1
  · have sent : ((s.updClient c fun y =>
        { y with
          outstanding := y.outstanding ++ [{ seq := y.nextSeq, t3 := none, epoch := s.clock.epoch, created := s.res }]
          nextSeq := (y.nextSeq + 1) % 65536 }).client q).seqs.Nodup := by
      rw [State.client_updClient]
      split
      · unfold ClientSession.seqs
        rw [List.map_append, List.nodup_append]
        refine ⟨h.1, List.nodup_singleton _, fun a ha b hb e => h.2 ?_⟩
        have used : a = (s.client q).nextSeq := e.trans (List.mem_singleton.1 hb)
        exact used ▸ ha
      · exact h.1
    generalize (s.updClient c fun y =>
        { y with
          outstanding := y.outstanding ++ [{ seq := y.nextSeq, t3 := none, epoch := s.clock.epoch, created := s.res }]
          nextSeq := (y.nextSeq + 1) % 65536 }) = s1 at sent ⊢
    have offered := State.offer_client s1 (clientPort c) .timing ⟨s.queryFrame c m, .delayQuery (s.client c).nextSeq⟩ q
    split
    · next s2 e => rw [e] at offered; rw [offered]; exact sent
    · next s2 e =>
      rw [e] at offered
      rw [State.client_updClient, offered]
      split
      · exact sent.sublist (List.filter_sublist.map _)
      · exact sent

theorem stepLaws_queryAt (s : State) (c : Client) (m : Master) (due : Nat) : StepLaws s (s.queryAt c m due) := by
  unfold State.queryAt
  have calm := (quiet_sendQuery (s.updClient c fun x => { x with queryDone := due }) c m).calm
  have marked : LawsKept s (s.updClient c fun x => { x with queryDone := due }) := laws_updClient s c _ id id
  exact marked.thenStep ⟨calm.room, fun q h => sendQuery_seqs _ c q m h,
    State.flowDisjoint_congr calm.flow (by rw [calm.mgmt]), by rw [calm.mgmt]; exact id⟩

/-! ## The events of the pins, the timers and the alarms -/

theorem laws_reachFall (s : State) (k : Fin 4) : LawsKept s (s.fallAt k) := by
  unfold State.fallAt
  split
  · next fall _ =>
    cases fall with
    | atResidence t => exact laws_atReach s _ _ fun u => laws_updPin u k _
    | atOsc t => exact laws_atReachOsc s t _ fun u => laws_updPin u k _
  · exact LawsKept.refl s

theorem laws_freqEdge (s : State) (k : Fin 4) : LawsKept s (s.freqEdge k) := by
  unfold State.freqEdge
  split
  · exact laws_atReach s _ _ fun u => laws_updPin u k _
  · exact laws_atReach s _ _ fun u => laws_updPin u k _
  · exact laws_atReachOsc s _ _ fun u => laws_updPin u k _
  · unfold State.leaveBypassEdge
    split
    · next u e =>
      unfold State.atInstant
      split
      · next v e' => exact (laws_updPin v k _).after ((laws_reach e').after (laws_reachOsc e))
      · exact LawsKept.refl s
    · exact LawsKept.refl s

theorem laws_offerHead (s : State) (collector : Addr) (n : Notice) : LawsKept s (s.offerHead collector n) := by
  unfold State.offerHead
  have counted : ∀ (u : State) (f : AlarmCounters → AlarmCounters),
      LawsKept u (u.updAlarm fun a => { a with ctr := f a.ctr }) :=
    fun u _ => laws_updAlarm u _ fun h => h.congr rfl rfl rfl
  exact laws_offerThen _ _ _ _ _ ((laws_updAlarm _ _ (Alarm.takeHead_calm _ _ _).room).after (laws_useFree s))
    (fun u => counted u fun c => { c with noticesSent := bump c.noticesSent })
    (fun u => counted u fun c => { c with noticesDiscarded := bump c.noticesDiscarded })

theorem laws_noticeOffer (s : State) : ∃ t, execNoticeOffer s = .next t ∧ LawsKept s t := by
  refine ⟨_, rfl, ?_⟩
  split
  · next n _ collector _ _ =>
    refine LawsKept.ite ?_ (LawsKept.refl s)
    unfold State.sendNotice
    split
    · exact laws_atReach s _ _ fun u => laws_offerHead u collector n
    · exact laws_offerHead s collector n
  · exact LawsKept.refl s

theorem laws_dropPartial (s : State) : LawsKept s (s.updGnss Gnss.dropPartial) :=
  (quiet_dropPartial s).laws (SeqsKept.of_sessions rfl)

theorem laws_minutePassed (s : State) : LawsKept s s.minutePassed :=
  (quiet_minutePassed s).laws (down_minutePassed s).seqs

theorem laws_markAt (s : State) (k : Fin 6) (due : Nat) : LawsKept s (s.markAt k due) :=
  ((quiet_offerMark _ k).laws (seqs_offerMark _ k)).after (laws_updSite s k _)

theorem laws_ppsEdge (s : State) (k : Fin 4) : LawsKept s (s.ppsEdge k) :=
  ((fair_gnssEdge _).laws (seqs_gnssEdge _)).after (laws_updPin s k _)

theorem laws_freqEdges (s : State) (k : Fin 4) (edges : Nat) : LawsKept s (s.freqEdges k edges) :=
  ((fair_extEdge _).laws (seqs_extEdge _)).after (laws_updPin s k _)

theorem laws_quietOver (s : State) (p : Port) : LawsKept s (s.quietOver p) :=
  (laws_report _ _ false).after (laws_updPort s p _ id)

/-! ## Every command -/

/-- An event that happens only where its guard holds. -/
theorem stepLaws_ite {s t : State} {c : Prop} [Decidable c] (h : LawsKept s t) : StepLaws s (if c then t else s) :=
  (LawsKept.ite h (LawsKept.refl s)).step

/-- What every command keeps. -/
theorem exec_stepLaws (i : Instr) (s : State) : ∃ t, exec i s = .next t ∧ StepLaws s t := by
  have pass := fun dt => laws_pass s dt
  have command := fun dt kind run h => (laws_complete s dt kind run h).step
  cases i with
  | powerOn straps => exact ⟨_, rfl, (laws_powerUp s straps).step⟩
  | resetPin straps => exact ⟨_, rfl, (laws_powerUp s straps).step⟩
  | frameReceived dt p ok f => exact ⟨_, rfl, stepLaws_ite ((laws_receive _ p ok f).after (pass dt))⟩
  | linkUp dt p => exact ⟨_, rfl, (LawsKept.ite (LawsKept.refl s) ((laws_linkUp _ p).after (pass dt))).step⟩
  | linkDown dt p => exact ⟨_, rfl, stepLaws_ite ((laws_linkDown _ p).after (pass dt))⟩
  | egressMoment p => exact ⟨_, rfl, (laws_egress s p).step⟩
  | transmitEnd dt p =>
    refine ⟨_, rfl, ?_⟩
    split
    · next t _ => exact ((laws_endTransmit _ p t).after (pass dt)).step
    · exact (LawsKept.refl s).step
  | secondBoundary order => exact ⟨_, rfl, (laws_secondBoundary s order).step⟩
  | counterWrap =>
    refine ⟨_, rfl, ?_⟩
    split
    · next c _ => exact (laws_counterCarry s c).step
    · exact (LawsKept.refl s).step
  | ppsInputEdge dt k => exact ⟨_, rfl, stepLaws_ite ((laws_ppsEdge _ k).after (pass dt))⟩
  | freqInputEdge dt k edges => exact ⟨_, rfl, stepLaws_ite ((laws_freqEdges _ k edges).after (pass dt))⟩
  | todRecord dt b =>
    exact ⟨_, rfl, stepLaws_ite (((fair_todByte _ b).laws (seqs_todByte _ b)).after (pass dt))⟩
  | todFramingError dt => exact ⟨_, rfl, (((quiet_todFraming _).laws (seqs_todFraming _)).after (pass dt)).step⟩
  | todByteGap =>
    exact ⟨_, rfl, (LawsKept.ite (LawsKept.refl s) (laws_atReach s _ _ fun u => laws_dropPartial u)).step⟩
  | quietIntervalExpires p =>
    refine ⟨_, rfl, ?_⟩
    split
    · exact (laws_atReach s _ _ fun u => laws_quietOver u p).step
    · exact (LawsKept.refl s).step
  | queryDue c =>
    refine ⟨_, rfl, ?_⟩
    split
    · next m _ =>
      dsimp only
      unfold State.atInstant
      split
      · next u e => exact (laws_reach e).thenStep (stepLaws_queryAt u c m _)
      · exact (LawsKept.refl s).step
    · exact (LawsKept.refl s).step
  | replyTimeout c =>
    refine ⟨_, rfl, ?_⟩
    split
    · exact (laws_atReach s _ _ fun u => (quiet_loseOldest u c).laws (seqs_loseOldest u c)).step
    · exact (LawsKept.refl s).step
  | noticeIntervalExpires c =>
    exact ⟨_, rfl, stepLaws_ite (laws_atReach s _ _ fun u => (fair_noticeExpired u c).laws (seqs_noticeExpired u c))⟩
  | gnssSignalTimeout =>
    exact ⟨_, rfl, (laws_atEnd s _ _ fun u => (fair_gnssLost u).laws (seqs_gnssLost u)).step⟩
  | todIntervalTimeout => exact ⟨_, rfl, (laws_atEnd s _ _ fun u => laws_judge u .gnss none _).step⟩
  | extEdgeTimeout => exact ⟨_, rfl, (laws_atEnd s _ _ fun u => laws_setDefects u .ext _).step⟩
  | starveCountReached c => exact ⟨_, rfl, stepLaws_ite (laws_setDefects s _ _)⟩
  | qualifyTimeReached r => exact ⟨_, rfl, stepLaws_ite (laws_atTimer s _ _ _ fun u => laws_qualifyExpired u r)⟩
  | holdOffExpires r => exact ⟨_, rfl, stepLaws_ite (laws_atTimer s _ _ _ fun u => laws_holdOffExpired u r)⟩
  | restoreWaitReached r => exact ⟨_, rfl, stepLaws_ite (laws_atTimer s _ _ _ fun u => laws_qualifyRef u r)⟩
  | suspendedSlewExpires =>
    refine ⟨_, rfl, ?_⟩
    split
    · exact (laws_atReach s _ _ laws_expireSuspended).step
    · exact (LawsKept.refl s).step
  | lockCountReached => exact ⟨_, rfl, (laws_boundaryWhere s _ _).step⟩
  | unlockCountReached => exact ⟨_, rfl, (laws_boundaryWhere s _ _).step⟩
  | holdoverMinute =>
    refine ⟨_, rfl, ?_⟩
    split
    · exact stepLaws_ite (laws_atTimer s _ _ _ laws_minutePassed)
    · exact (LawsKept.refl s).step
  | serveDelayExpires k => exact ⟨_, rfl, stepLaws_ite (laws_atTimer s _ _ _ fun u => laws_enterServing u k)⟩
  | presenceTimeout k =>
    refine ⟨_, rfl, ?_⟩
    split
    · exact stepLaws_ite (laws_atReach s _ _ fun u => laws_siteAbsent u k)
    · exact (LawsKept.refl s).step
  | markDue k => exact ⟨_, rfl, stepLaws_ite (laws_atReach s _ _ fun u => laws_markAt u k _)⟩
  | ppsOutputEdge k => exact ⟨_, rfl, stepLaws_ite (laws_atReach s _ _ fun u => laws_updPin u k _)⟩
  | ppsPulseEnd k => exact ⟨_, rfl, stepLaws_ite (laws_reachFall s k)⟩
  | raiseHoldOffExpires i =>
    exact ⟨_, rfl, stepLaws_ite (laws_afterSpan s _ _ _ fun u =>
      laws_updAlarm u _ (Alarm.raiseExpired_calm _ _ i u.alarm).room)⟩
  | clearDelayExpires i =>
    exact ⟨_, rfl, stepLaws_ite (laws_afterSpan s _ _ _ fun u =>
      laws_updAlarm u _ (Alarm.clearExpired_calm _ _ i u.alarm).room)⟩
  | noticeOffer =>
    obtain ⟨t, e, h⟩ := laws_noticeOffer s
    exact ⟨t, e, h.step⟩
  | testIntervalExpires =>
    exact ⟨_, rfl, (laws_afterSpan s _ _ _ fun u =>
      (laws_report _ _ _).after (laws_updAlarm u _ fun h => h.congr rfl rfl rfl)).step⟩
  | pinPulseEnd =>
    exact ⟨_, rfl, (laws_afterSpan s _ _ _ fun u => laws_updAlarm u _ fun h => h.congr rfl rfl rfl).step⟩
  | get dt => exact ⟨_, rfl, command dt _ _ laws_runGet⟩
  | continueRead dt => exact ⟨_, rfl, command dt _ _ laws_runContinue⟩
  | put dt => exact ⟨_, rfl, command dt _ _ laws_runPut⟩
  | clear dt => exact ⟨_, rfl, command dt _ _ laws_runClear⟩
  | pin dt => exact ⟨_, rfl, command dt _ _ fun t _ => laws_pinFlow t true _⟩
  | unpin dt => exact ⟨_, rfl, command dt _ _ fun t _ => laws_pinFlow t false _⟩
  | forceSelect dt => exact ⟨_, rfl, command dt _ _ laws_runForce⟩
  | release dt => exact ⟨_, rfl, command dt _ _ laws_runRelease⟩
  | slewHold dt => exact ⟨_, rfl, command dt _ _ fun t _ => laws_updReal t fun x => { x with slew := x.slew.map fun _ => true }⟩
  | slewRelease dt => exact ⟨_, rfl, command dt _ _ fun t _ => laws_updReal t fun x => { x with slew := x.slew.map fun _ => false }⟩
  | timeSet dt => exact ⟨_, rfl, command dt _ _ laws_runTimeSet⟩
  | ack dt => exact ⟨_, rfl, command dt _ _ laws_runAck⟩
  | testAlarm dt => exact ⟨_, rfl, command dt _ _ laws_runTest⟩
  | status dt => exact ⟨_, rfl, command dt _ _ fun t _ => LawsKept.refl t⟩
  | countersClear dt => exact ⟨_, rfl, command dt _ _ fun t _ => laws_zeroCounters t⟩
  | restartDatapath dt => exact ⟨_, rfl, command dt _ _ laws_runRestart⟩
  | restartFull input =>
    exact ⟨_, rfl, command input.dt _ _ fun t c => (laws_runRestart _ c).after
      (laws_updMgmt t (fun m => { m with straps := input.straps }) (Nat.le_refl _) rfl rfl)⟩
  | unknownCommand dt => exact ⟨_, rfl, command dt _ _ fun t _ => LawsKept.refl t⟩
  | todByteReceived dt b => exact ⟨_, rfl, (((fair_todByte _ b).laws (seqs_todByte _ b)).after (pass dt)).step⟩
  | freqOutputEdge k => exact ⟨_, rfl, stepLaws_ite (laws_freqEdge s k)⟩
  | halfCycleEnd k => exact ⟨_, rfl, stepLaws_ite (laws_reachFall s k)⟩
  | lineClockCycle dt c cycles =>
    exact ⟨_, rfl, stepLaws_ite ((laws_updPort _ (clientPort c) _ id).after (pass dt))⟩

/-- What a step keeps. -/
theorem step_stepLaws {s t : State} (h : step s = .next t) : StepLaws s t := by
  unfold step at h
  split at h
  · cases h; exact (LawsKept.refl s).step
  · next c rest _ =>
    obtain ⟨u, hu, laws⟩ := exec_stepLaws c { s with pending := rest }
    rw [hu] at h
    cases h
    have queue : LawsKept s { s with pending := rest } := LawsKept.of_fields rfl rfl rfl id id rfl id rfl
    exact queue.thenStep laws

/-- Settles O5: the capacities and the laws of the lists are part of what every command keeps. -/
theorem stepKeepsCapacities : Obligations.StepKeepsCapacities := by
  intro s t h
  have laws := step_stepLaws h
  exact ⟨laws.room, fun c distinct next => laws.seqs c ⟨distinct, next⟩⟩

/-- Settles O9: so is the law of the Flow Table, under every write of the table and of the Part EtherType. -/
theorem stepKeepsFlowTableLaw : Obligations.StepKeepsFlowTableLaw := by
  intro s t h
  have laws := step_stepLaws h
  exact ⟨laws.flow, laws.group⟩

end Sys2Proof.Machine
end

section
/-! PROOFS. The traffic path (01): matching and overlap (O10), the winning entry (O13), the egress set (O14), and what a
received frame comes to (O12, O15, O16, O18). -/
namespace Sys2Proof.Machine
open Sys2Proof

/-! ## Matching and overlap (R4, R6) -/

/-- All that a match says of an entry (R4). -/
theorem FlowEntry.matchesFrame_iff (part : Nat) (station : Addr) (p : Port) (f : Frame) (e : FlowEntry) :
    e.matchesFrame part station p f = true ↔ e.enabled = true ∧ inPorts e.ingress p = true ∧ e.matchVlan f = true ∧
      e.matchEther part f = true ∧ e.matchClass part f = true ∧ e.matchDest station f = true := by
  simp [FlowEntry.matchesFrame, and_assoc]

theorem ingress_meet {x y : FlowEntry} {p : Port} (hx : inPorts x.ingress p = true) (hy : inPorts y.ingress p = true) :
    x.ingress &&& y.ingress ≠ 0 := by
  intro zero
  have bit : (x.ingress &&& y.ingress).getLsbD (portIdx p).val = true := by
    rw [BitVec.getLsbD_and, Bool.and_eq_true]
    exact ⟨hx, hy⟩
  rw [zero] at bit
  simp at bit

/-- Two windows that hold one value meet. -/
theorem windowsMeet_of_mem {a b c d v : Nat} (h : a ≤ v ∧ v ≤ b) (k : c ≤ v ∧ v ≤ d) : windowsMeet a b c d = true := by
  simp only [windowsMeet, decide_eq_true_eq]; omega

/-- What an entry that looks at the tag says of the tag of a frame that it matches (R4). -/
theorem vlan_of_match {x : FlowEntry} {f : Frame} (h : x.matchVlan f = true) :
    (x.vlan = .untagged → f.tag = none) ∧
      (x.vlan = .tagged → ∃ t, f.tag = some t ∧ x.vStart ≤ t.vid.toNat ∧ t.vid.toNat ≤ x.vStop) := by
  unfold FlowEntry.matchVlan at h
  cases ev : x.vlan <;> cases et : f.tag <;> simp_all

theorem vlanMeet_of_match {x y : FlowEntry} {f : Frame} (hx : x.matchVlan f = true) (hy : y.matchVlan f = true) :
    vlanMeet x y = true := by
  obtain ⟨xUntagged, xTagged⟩ := vlan_of_match hx
  obtain ⟨yUntagged, yTagged⟩ := vlan_of_match hy
  unfold vlanMeet
  cases ex : x.vlan <;> cases ey : y.vlan
  case untagged.tagged =>
    obtain ⟨t, et, -⟩ := yTagged ey
    rw [xUntagged ex] at et
    cases et
  case tagged.untagged =>
    obtain ⟨t, et, -⟩ := xTagged ex
    rw [yUntagged ey] at et
    cases et
  case tagged.tagged =>
    obtain ⟨t, et, inX⟩ := xTagged ex
    obtain ⟨u, eu, inY⟩ := yTagged ey
    cases et.symm.trans eu
    exact windowsMeet_of_mem inX inY
  all_goals rfl

theorem ether_of_match {part : Nat} {x : FlowEntry} {f : Frame} (h : x.matchEther part f = true) :
    x.etherType.value part = none ∨ x.etherType.value part = some f.etherType.toNat := by
  unfold FlowEntry.matchEther at h
  cases e : x.etherType.value part with
  | none => exact .inl rfl
  | some v => rw [e] at h; exact .inr (congrArg some (of_decide_eq_true h).symm)

/-- The class of a frame that an entry matches, where the entry names one. -/
theorem class_of_match {part : Nat} {x : FlowEntry} {f : Frame} (h : x.matchClass part f = true) :
    (x.cls = .timing → frameClass part f = some classTiming ∧ x.dStart ≤ frameDomain f ∧ frameDomain f ≤ x.dStop) ∧
      (x.cls = .management → frameClass part f = some classManagement) := by
  unfold FlowEntry.matchClass at h
  cases e : x.cls <;> simp_all

theorem dest_of_match {station : Addr} {x : FlowEntry} {f : Frame} (h : x.matchDest station f = true) :
    (x.dest = .station → f.dst = station) ∧ (x.dest = .timingGroup → f.dst = timingGroup) := by
  unfold FlowEntry.matchDest at h
  cases e : x.dest <;> simp_all

/-- Two entries that match one frame overlap: the overlap test misses no frame, the Station Address being no group
address (R6). -/
theorem flowOverlap_of_match {part : Nat} {station : Addr} {p : Port} {f : Frame} {x y : FlowEntry}
    (group : groupBit station = false) (hx : x.matchesFrame part station p f = true)
    (hy : y.matchesFrame part station p f = true) : flowOverlap part x y = true := by
  obtain ⟨-, xIn, xVlan, xEther, xClass, xDest⟩ := (FlowEntry.matchesFrame_iff ..).1 hx
  obtain ⟨-, yIn, yVlan, yEther, yClass, yDest⟩ := (FlowEntry.matchesFrame_iff ..).1 hy
  obtain ⟨xTiming, xManagement⟩ := class_of_match xClass
  obtain ⟨yTiming, yManagement⟩ := class_of_match yClass
  obtain ⟨xStation, xGroup⟩ := dest_of_match xDest
  obtain ⟨yStation, yGroup⟩ := dest_of_match yDest
  have ether : ((x.etherType.value part).isNone || (y.etherType.value part).isNone ||
      decide (x.etherType.value part = y.etherType.value part)) = true := by
    rcases ether_of_match xEther with e | e <;> rcases ether_of_match yEther with e' | e' <;> simp [e, e']
  have cls : (decide (x.cls = .any) || decide (y.cls = .any) || decide (x.cls = y.cls)) = true := by
    cases ex : x.cls <;> cases ey : y.cls <;> simp only [ex, ey] at * <;> simp_all [classTiming, classManagement]
  have domain : (!(decide (x.cls = .timing) && decide (y.cls = .timing)) ||
      windowsMeet x.dStart x.dStop y.dStart y.dStop) = true := by
    by_cases h : x.cls = .timing ∧ y.cls = .timing
    · rw [windowsMeet_of_mem (xTiming h.1).2 (yTiming h.2).2, Bool.or_true]
    · simpa using Or.inl (not_and_or.1 h)
  have dest : (decide (x.dest = .any) || decide (y.dest = .any) || decide (x.dest = y.dest)) = true := by
    have apart : station ≠ timingGroup := fun e => by rw [e] at group; exact absurd group (by decide)
    cases ex : x.dest <;> cases ey : y.dest <;> simp_all
  unfold flowOverlap
  rw [vlanMeet_of_match xVlan yVlan, ether, cls, domain, dest]
  simpa using ingress_meet xIn yIn

/-- Settles O10: two entries of one Priority that match one frame overlap, which the law excludes for two entries. -/
theorem matchingEntriesHaveDifferentPriorities : Obligations.MatchingEntriesHaveDifferentPriorities := by
  intro s p f i j law group hi hj same
  by_contra different
  have apart := law i j different ((FlowEntry.matchesFrame_iff ..).1 hi).1 ((FlowEntry.matchesFrame_iff ..).1 hj).1 same
  rw [flowOverlap_of_match group hi hj] at apart
  cases apart

/-! ## The winning entry (R5) -/

/-- The better of the entry found so far and the next that matches: the first of lowest Priority. -/
def lowerPriority (priority : Fin 64 → Nat) (best : Option (Fin 64)) (i : Fin 64) : Option (Fin 64) :=
  match best with
  | none => some i
  | some b => if priority i < priority b then some i else some b

theorem State.winner_eq (s : State) (p : Port) (f : Frame) : s.winner p f =
    (flowIndices.filter fun i => (s.flow.get i).matchesFrame s.mgmt.partEther s.mgmt.station p f).foldl
      (lowerPriority fun i => (s.flow.get i).priority) none := rfl

/-- The fold keeps an entry of the list or the one it began with, and none of lower Priority was passed over. -/
theorem foldl_lowerPriority (priority : Fin 64 → Nat) : ∀ (l : List (Fin 64)) (b : Fin 64), ∃ i,
    l.foldl (lowerPriority priority) (some b) = some i ∧ (i = b ∨ i ∈ l) ∧ priority i ≤ priority b ∧
      ∀ j, j ∈ l → priority i ≤ priority j
  | [], b => ⟨b, rfl, .inl rfl, Nat.le_refl _, fun _ m => absurd m List.not_mem_nil⟩
  | a :: l, b => by
    have next : lowerPriority priority (some b) a = some (if priority a < priority b then a else b) := by
      unfold lowerPriority; dsimp only; split <;> rfl
    obtain ⟨i, hi, mem, least, below⟩ := foldl_lowerPriority priority l (if priority a < priority b then a else b)
    refine ⟨i, by rw [List.foldl_cons, next, hi], ?_, ?_, ?_⟩
    · rcases mem with rfl | m
      · split
        · exact .inr List.mem_cons_self
        · exact .inl rfl
      · exact .inr (List.mem_cons_of_mem _ m)
    · split at least <;> omega
    · intro j m
      rcases List.mem_cons.1 m with rfl | m
      · split at least <;> omega
      · exact below j m

/-- Settles O13, by the fold over the matching entries. -/
theorem classifierPicksLowestPriority : Obligations.ClassifierPicksLowestPriority := by
  intro s p f
  have matching : ∀ i, i ∈ (flowIndices.filter fun i =>
      (s.flow.get i).matchesFrame s.mgmt.partEther s.mgmt.station p f) ↔ s.entryMatches p f i := by
    intro i
    rw [List.mem_filter]
    exact ⟨fun h => h.2, fun h => ⟨List.mem_finRange i, h⟩⟩
  rw [State.winner_eq]
  generalize (flowIndices.filter fun i => (s.flow.get i).matchesFrame s.mgmt.partEther s.mgmt.station p f) = l at matching
  cases l with
  | nil => exact ⟨fun i h => (nomatch h), fun _ j h => absurd ((matching j).2 h) List.not_mem_nil, fun _ => rfl⟩
  | cons a l =>
    obtain ⟨i, hi, mem, least, below⟩ := foldl_lowerPriority (fun i => (s.flow.get i).priority) l a
    have won : (a :: l).foldl (lowerPriority fun i => (s.flow.get i).priority) none = some i := hi
    rw [won]
    refine ⟨fun k hk => ?_, fun h => (nomatch h), fun h => absurd ((matching a).1 List.mem_cons_self) (h a)⟩
    cases hk
    refine ⟨(matching i).1 (List.mem_cons.2 mem), fun j hj => ?_⟩
    rcases List.mem_cons.1 ((matching j).2 hj) with rfl | m
    · exact least
    · exact below j m

/-! ## The egress set (R12) -/

theorem mem_allPorts (p : Port) : p ∈ allPorts := by cases p <;> decide

theorem State.uplinkPorts_iff (s : State) (e : EgressSet) (q : Port) : s.uplinkPorts e q = true ↔
    inPorts e.ports q = true ∨ (e.uplink = true ∧ (((s.port .n0).linkUp = true ∧ q = .n0) ∨
      ((s.port .n0).linkUp = false ∧ (s.port .n1).linkUp = true ∧ q = .n1))) := by
  unfold State.uplinkPorts
  cases (s.port .n0).linkUp <;> cases (s.port .n1).linkUp <;> simp

theorem State.mem_resolve (s : State) (e : EgressSet) (p q : Port) :
    q ∈ s.resolve e p ↔ s.uplinkPorts e q = true ∧ q ≠ p := by
  unfold State.resolve
  rw [List.mem_filter]
  simp [mem_allPorts]

/-- Settles O14. -/
theorem egressSetResolves : Obligations.EgressSetResolves := by
  intro s e p q
  rw [State.mem_resolve, State.uplinkPorts_iff, and_comm]

/-- The egress set reads the links alone. -/
theorem State.resolve_congr {s t : State} (h : ∀ p, (t.port p).linkUp = (s.port p).linkUp) (e : EgressSet) (p : Port) :
    t.resolve e p = s.resolve e p := by
  unfold State.resolve State.uplinkPorts
  rw [h, h]

theorem State.resolve_nodup (s : State) (e : EgressSet) (p : Port) : (s.resolve e p).Nodup :=
  List.Nodup.filter _ (by decide)

/-! ## A received frame (R1, R5, R13 to R15) -/

theorem State.countPort_links (s : State) (p q : Port) (f : PortCounters → PortCounters) :
    ((s.countPort p f).port q).linkUp = (s.port q).linkUp := (quiet_countPort s p f).calm.links q

theorem State.received_links (s : State) (dt : Nat) (p q : Port) :
    ((s.received dt p).port q).linkUp = (s.port q).linkUp := State.countPort_links (s.pass dt) p q _

/-- At a port whose link is UP a good frame is counted and classified at once (R1, R2). -/
theorem exec_frameReceived {s : State} {p : Port} (up : (s.port p).linkUp = true) (dt : Nat) (f : Frame) :
    exec (.frameReceived dt p true f) s = .next ((s.received dt p).classify p f (s.pass dt).stamps) := by
  show execFrameReceived dt p true f s = _
  unfold execFrameReceived
  rw [if_pos up]
  rfl

/-- A frame that an entry wins is acted on by that entry, whose Hit Count is one higher (R5). -/
theorem State.classify_won {s : State} {p : Port} {f : Frame} {i : Fin 64} (h : s.winner p f = some i) (dt : Nat)
    (stamps : Ingress) : (s.received dt p).classify p f stamps =
      ((s.received dt p).hit i).actOn p f stamps (s.flow.get i) := by
  have won : (s.received dt p).winner p f = some i := h
  unfold State.classify
  rw [won]
  rfl

/-- A frame that no entry matches goes by the Port Map (R11). -/
theorem State.classify_unmatched {s : State} {p : Port} {f : Frame} (h : s.winner p f = none) (dt : Nat)
    (stamps : Ingress) : (s.received dt p).classify p f stamps =
      ((s.received dt p).countPort p fun c => { c with unmatchedFrames := bump c.unmatchedFrames }).forward p
        (s.portMap.get (portIdx p)).egress .bulk ⟨f, .passing false p stamps⟩ := by
  have lost : (s.received dt p).winner p f = none := h
  unfold State.classify
  rw [lost]
  rfl

theorem State.forward_none {s : State} {e : EgressSet} {p : Port} (h : s.resolve e p = []) (q : QueueClass)
    (x : QFrame) : s.forward p e q x = s.countPort p fun c => { c with noEgress := bump c.noEgress } := by
  unfold State.forward
  rw [h]

theorem State.forward_some {s : State} {e : EgressSet} {p : Port} (h : s.resolve e p ≠ []) (q : QueueClass)
    (x : QFrame) : s.forward p e q x = (s.resolve e p).foldl (fun t k => (t.offer k q x).1) s := by
  unfold State.forward
  split
  · next e => exact absurd e h
  · rfl

/-- Settles O12. -/
theorem frameCheckDecides : Obligations.FrameCheckDecides := by
  intro s dt p ok f
  constructor
  · intro up
    show execFrameReceived dt p false f s = _
    unfold execFrameReceived
    rw [if_pos up]
    rfl
  · intro down
    show execFrameReceived dt p ok f s = _
    unfold execFrameReceived
    rw [if_neg (by rw [down]; decide)]

/-- Settles O16: the egress set is resolved with the links as they stood. -/
theorem dropAndNoEgressAreCounted : Obligations.DropAndNoEgressAreCounted := by
  intro s dt p f up
  refine ⟨fun i won drop => ?_, fun i won act none' => ?_, fun lost none' => ?_⟩
  · rw [exec_frameReceived up, State.classify_won won]
    unfold State.actOn
    rw [drop]
  · have empty : ((s.received dt p).hit i).resolve (s.flow.get i).egress p = [] :=
      (State.resolve_congr (State.received_links s dt p) _ p).trans none'
    rw [exec_frameReceived up, State.classify_won won]
    unfold State.actOn
    rcases act with act | act <;> rw [act] <;> exact congrArg _ (State.forward_none empty _ _)
  · rw [exec_frameReceived up, State.classify_unmatched lost, State.forward_none]
    exact (State.resolve_congr (fun q => (State.countPort_links _ p q _).trans (State.received_links s dt p q)) _ p).trans
      none'

/-! ## Forwarding (R13, R16) -/

/-- What an update of a port leaves depends on that port's value alone. -/
theorem State.updPort_congr {s : State} {p : Port} {f g : PortState → PortState} (h : f (s.port p) = g (s.port p)) :
    s.updPort p f = s.updPort p g := by
  unfold State.updPort updAt
  rw [show f (s.ports.get (portIdx p)) = g (s.ports.get (portIdx p)) from h]

theorem updAt_updAt {α : Type} {n : Nat} (v : Vector α n) (i : Fin n) (f g : α → α) :
    updAt (updAt v i f) i g = updAt v i fun x => g (f x) := by
  unfold updAt
  rw [show (v.set i.val (f (v.get i)) i.isLt).get i = f (v.get i) from get_updAt v i i f |>.trans (if_pos rfl)]
  exact Vector.set_set ..

theorem State.updPort_updPort (s : State) (p : Port) (f g : PortState → PortState) :
    (s.updPort p f).updPort p g = s.updPort p fun x => g (f x) := by
  unfold State.updPort
  rw [updAt_updAt]

/-- An offer, as a whole (R16): the port takes or discards the frame by the table, and a frame that a full Timing Queue
discards has TIMING_LOSS of the port reported present (R18). -/
theorem State.offer_eq (s : State) (p : Port) (q : QueueClass) (f : QFrame) :
    (s.offer p q f).1 = (if (s.port p).linkUp = true ∧ q = .timing ∧ 16 ≤ (s.port p).timingQ.length then
      (s.updPort p (PortState.offered s.res q f)).report (recTimingLoss p) true
    else s.updPort p (PortState.offered s.res q f)) := by
  cases q with
  | bulk => rw [State.offer_bulk, if_neg (by simp)]
  | timing =>
    unfold State.offer
    dsimp only
    cases up : (s.port p).linkUp with
    | false =>
      rw [if_pos (by rfl), if_neg (by simp)]
      exact State.updPort_congr (by simp [PortState.offered, up])
    | true =>
      rw [if_neg (by decide)]
      by_cases room : (s.port p).timingQ.length < 16
      · rw [if_pos (by exact room), if_neg (by omega)]
        exact State.updPort_congr (by simp [PortState.offered, up, room])
      · rw [if_neg (by exact room), if_pos ⟨rfl, rfl, by omega⟩]
        have full : (s.updPort p fun x => { x with
            quiet := some s.res, ctr := { x.ctr with timingDiscards := bump x.ctr.timingDiscards } }) =
            s.updPort p (PortState.offered s.res .timing f) :=
          State.updPort_congr (by simp [PortState.offered, up, room])
        rw [← full]
        unfold State.timingLoss State.countPort
        rw [State.updPort_updPort]
        rfl

/-- An offer changes the ports and the alarms only. -/
theorem State.offer_frame (s : State) (k : Port) (q : QueueClass) (x : QFrame) :
    (s.offer k q x).1 = { s with ports := (s.offer k q x).1.ports, alarm := (s.offer k q x).1.alarm } := by
  rw [State.offer_eq]
  split <;> rfl

theorem State.offer_port (s : State) (k j : Port) (q : QueueClass) (x : QFrame) :
    (s.offer k q x).1.port j = if j = k then (s.port k).offered s.res q x else s.port j := by
  have updated : (s.updPort k (PortState.offered s.res q x)).port j =
      if j = k then (s.port k).offered s.res q x else s.port j := by
    rw [State.port_updPort]
    by_cases same : j = k
    · rw [if_pos same, if_pos same, same]
    · rw [if_neg same, if_neg same]
  rw [State.offer_eq]
  split <;> exact updated

theorem State.offer_record (s : State) (k : Port) (q : QueueClass) (x : QFrame) {i : Fin 41}
    (own : i ≠ recTimingLoss k) (other : i ≠ recOverflow) :
    (s.offer k q x).1.alarm.record i = s.alarm.record i := by
  rw [State.offer_eq]
  split
  · exact report_record_ne _ _ _ _ _ _ i own other
  · rfl

/-- A frame that a full Timing Queue discards leaves TIMING_LOSS of its port present (R18). -/
theorem State.offer_loss {s : State} {k : Port} (x : QFrame) (up : (s.port k).linkUp = true)
    (full : 16 ≤ (s.port k).timingQ.length) :
    ((s.offer k .timing x).1.alarm.record (recTimingLoss k)).present = true := by
  rw [State.offer_eq, if_pos ⟨up, rfl, full⟩]
  exact report_present _ _ _ _ _ _ (by cases k <;> decide)

theorem recTimingLoss_ne {j k : Port} (h : j ≠ k) : recTimingLoss j ≠ recTimingLoss k := fun e =>
  h (portIdx_inj (Fin.ext (Nat.add_left_cancel (congrArg Fin.val e))))

theorem Forwarded.nil (s : State) (q : QueueClass) (x : QFrame) : Forwarded s s [] q x :=
  ⟨rfl, fun _ m => absurd m List.not_mem_nil, fun _ _ => rfl, fun _ _ _ => rfl, fun _ m => absurd m List.not_mem_nil⟩

/-- One offer more, to a port that the others leave alone. -/
theorem Forwarded.cons {s t : State} {k : Port} {ports : List Port} {q : QueueClass} {x : QFrame} (new : k ∉ ports)
    (h : Forwarded (s.offer k q x).1 t ports q x) : Forwarded s t (k :: ports) q x := by
  have res : (s.offer k q x).1.res = s.res := by rw [State.offer_frame]; rfl
  have apart : ∀ j, j ∈ ports → j ≠ k := fun j m e => new (e ▸ m)
  have port : ∀ j, j ≠ k → (s.offer k q x).1.port j = s.port j := fun j ne => by rw [State.offer_port, if_neg ne]
  refine ⟨?_, ?_, ?_, ?_, ?_⟩
  · have frame := h.frame
    rw [State.offer_frame] at frame
    exact frame
  · intro j m
    rcases List.mem_cons.1 m with rfl | m
    · rw [h.others j new, State.offer_port, if_pos rfl]
    · rw [h.inside j m, res, port j (apart j m)]
  · intro j m
    obtain ⟨ne, m⟩ := not_or.1 (mt List.mem_cons.2 m)
    rw [h.others j m, port j ne]
  · intro i own other
    rw [h.recs i (fun j m => own j (List.mem_cons_of_mem _ m)) other,
      State.offer_record s k q x (own k List.mem_cons_self) other]
  · intro j m up timing full
    rcases List.mem_cons.1 m with rfl | m
    · rw [h.recs _ (fun i m => recTimingLoss_ne (Ne.symm (apart i m))) (by cases j <;> decide)]
      subst timing
      exact State.offer_loss x up full
    · rw [← port j (apart j m)] at up full
      exact h.loss j m up timing full

theorem forwarded_foldl (q : QueueClass) (x : QFrame) : ∀ (ports : List Port) (s : State), ports.Nodup →
    Forwarded s (ports.foldl (fun t k => (t.offer k q x).1) s) ports q x
  | [], s, _ => Forwarded.nil s q x
  | _ :: ports, _, distinct =>
    have ⟨new, rest⟩ := List.nodup_cons.1 distinct
    Forwarded.cons new (forwarded_foldl q x ports _ rest)

/-- A frame with an egress set is forwarded to it; the links of an earlier state give the same set. -/
theorem State.forward_forwarded {s u : State} {e : EgressSet} {p : Port}
    (links : ∀ k, (u.port k).linkUp = (s.port k).linkUp) (some' : s.resolve e p ≠ []) (q : QueueClass) (x : QFrame) :
    Forwarded u (u.forward p e q x) (s.resolve e p) q x := by
  have same := State.resolve_congr links e p
  rw [State.forward_some (by rw [same]; exact some'), same]
  exact forwarded_foldl q x _ u (State.resolve_nodup s e p)

/-- A sum moved into 12 bits is taken modulo 4,096 (R13). -/
theorem translate_eq (offset : Nat) (f : Frame) : translate offset f =
    { f with tag := f.tag.map fun g => { g with vid := BitVec.ofNat 12 ((g.vid.toNat + offset) % 4096) } } := by
  have wrap : ∀ n, BitVec.ofNat 12 (n % 4096) = BitVec.ofNat 12 n := fun n => by
    apply BitVec.eq_of_toNat_eq; simp
  simp only [wrap, translate]

/-- Settles O15: a won frame goes by its entry, an unmatched one by the Port Map. -/
theorem matchedFrameIsForwarded : Obligations.MatchedFrameIsForwarded := by
  intro s dt p f up
  refine ⟨fun i q correct won act some' => ⟨_, exec_frameReceived up dt f, ?_⟩, fun lost some' =>
    ⟨_, exec_frameReceived up dt f, ?_⟩⟩
  · rw [State.classify_won won, ← translate_eq]
    have links : ∀ k, (((s.received dt p).hit i).port k).linkUp = (s.port k).linkUp := State.received_links s dt p
    rcases act with ⟨act, rfl, rfl⟩ | ⟨act, rfl, rfl⟩ <;> unfold State.actOn <;> rw [act] <;>
      exact State.forward_forwarded links some' _ _
  · rw [State.classify_unmatched lost]
    exact State.forward_forwarded (fun k => (State.countPort_links _ p k _).trans (State.received_links s dt p k))
      some' _ _

/-! ## A terminated frame (R14, R206) -/

theorem portClient?_clientPort (c : Client) : portClient? (clientPort c) = some c := by cases c <;> rfl

theorem portSite?_sitePort (k : Fin 6) : portClient? (sitePort k) = none ∧ portSite? (sitePort k) = some k := by
  revert k; decide

/-- Settles O18. -/
theorem terminatedFrameHasAnOwner : Obligations.TerminatedFrameHasAnOwner := by
  intro s dt p f i up won act
  have terminated : exec (.frameReceived dt p true f) s =
      .next (((s.received dt p).hit i).terminate p f (s.pass dt).stamps) := by
    rw [exec_frameReceived up, State.classify_won won]
    unfold State.actOn
    rw [act]
  have part : ((s.received dt p).hit i).mgmt.partEther = s.mgmt.partEther := rfl
  refine ⟨fun other => ?_, fun timing => ?_⟩
  · rw [terminated, State.terminate, if_neg (by rw [part]; exact other)]
  · have judged : ((s.received dt p).hit i).terminate p f (s.pass dt).stamps =
        ((s.received dt p).hit i).judgedThen p f fun t => t.ownerTakes p f (s.pass dt).stamps := by
      rw [State.terminate, if_pos (by rw [part]; exact timing)]
    rw [terminated, judged]
    unfold State.judgedThen
    refine ⟨fun short => by rw [short], fun bad => by rw [bad], fun pass => ⟨fun c owner => ?_, fun k owner => ?_⟩⟩
    · subst owner
      rw [pass]
      unfold State.ownerTakes
      rw [portClient?_clientPort]
      rfl
    · subst owner
      rw [pass]
      unfold State.ownerTakes
      rw [(portSite?_sitePort k).1, (portSite?_sitePort k).2]
      rfl

end Sys2Proof.Machine
end

section
/-! PROOFS. The egress moment (O19, O20), the end of a transmission (O21) and the end of a quiet interval (O25). -/
namespace Sys2Proof.Machine
open Sys2Proof

/-! ## Bytes replaced in place -/

theorem slice_overwrite {off : Nat} {new bs : List Byte} (fits : off ≤ bs.length) :
    slice off new.length (overwrite off new bs) = new := by
  have front : (bs.take off).length = off := by rw [List.length_take]; omega
  unfold slice overwrite
  rw [List.append_assoc, List.drop_append_of_le_length (Nat.le_of_eq front.symm),
    List.drop_eq_nil_of_le (Nat.le_of_eq front), List.nil_append, List.take_append_of_le_length (Nat.le_refl _),
    List.take_length]

theorem overwrite_length {off : Nat} {new bs : List Byte} (fits : off + new.length ≤ bs.length) :
    (overwrite off new bs).length = bs.length := by
  unfold overwrite
  simp only [List.length_append, List.length_take, List.length_drop]
  omega

theorem overwrite_outside {off i : Nat} {new bs : List Byte} (fits : off + new.length ≤ bs.length)
    (h : i < off ∨ off + new.length ≤ i) : (overwrite off new bs)[i]? = bs[i]? := by
  unfold overwrite
  rcases h with h | h
  · rw [List.append_assoc, List.getElem?_append_left (by rw [List.length_take]; omega), List.getElem?_take, if_pos h]
  · have front : (bs.take off ++ new).length = off + new.length := by
      rw [List.length_append, List.length_take]; omega
    rw [List.getElem?_append_right (by omega), front, List.getElem?_drop, Nat.add_sub_cancel' h]

/-! ## The egress moment (R3, R17) -/

/-- A port that can send takes the next frame of its queues, which its role may write to. -/
theorem State.egress_eq {s : State} {p : Port} {q : QFrame} (next : (s.port p).next? = some q)
    (up : (s.port p).linkUp = true) (free : (s.port p).tx = none) :
    s.egress p = ((s.updPort p PortState.takeNext).atEgress p q).1.updPort p fun y =>
      { y with tx := some ⟨⟨((s.updPort p PortState.takeNext).atEgress p q).2, q.role⟩, true⟩ } := by
  unfold State.egress
  dsimp only
  rw [next]
  dsimp only
  rw [if_pos ⟨up, free⟩]

theorem State.egress_idle {s : State} {p : Port} (h : (s.port p).linkUp = false ∨ (s.port p).tx.isSome = true ∨
    ((s.port p).timingQ = [] ∧ (s.port p).bulkQ = [])) : s.egress p = s := by
  unfold State.egress
  dsimp only
  split
  · rfl
  · next q next =>
    rw [if_neg]
    rintro ⟨up, free⟩
    rcases h with down | busy | ⟨noTiming, noBulk⟩
    · rw [down] at up; cases up
    · rw [free] at busy; cases busy
    · simp [PortState.next?, noTiming, noBulk] at next

/-- The head of the Timing Queue, or of the Bulk Queue where there is none, is next, and leaves its queue. -/
theorem PortState.takeNext_eq {x : PortState} {q : QFrame} {tq bq : List QFrame}
    (h : (x.timingQ = q :: tq ∧ x.bulkQ = bq) ∨ (x.timingQ = [] ∧ tq = [] ∧ x.bulkQ = q :: bq)) :
    x.next? = some q ∧ x.takeNext = { x with timingQ := tq, bulkQ := bq } := by
  obtain ⟨linkUp, timingQ, bulkQ, quiet, tx, ctr⟩ := x
  rcases h with ⟨rfl, rfl⟩ | ⟨rfl, rfl, rfl⟩ <;> exact ⟨rfl, rfl⟩

theorem State.updPort_self {s : State} {p : Port} {f : PortState → PortState} (h : f (s.port p) = s.port p) :
    s.updPort p f = s := by
  unfold State.updPort updAt
  rw [show f (s.ports.get (portIdx p)) = s.ports.get (portIdx p) from h]
  exact congrArg (fun v => { s with ports := v }) (Vector.set_getElem_self (portIdx p).isLt)

/-! ## The Relay Correction Unit (R22) -/

theorem hasCorrection_iff (part : Nat) (f : Frame) : hasCorrection part f = true ↔
    f.etherType.toNat = part ∧ beNat (f.payload.take 1) = 1 ∧ 26 ≤ f.payload.length := by
  unfold hasCorrection frameClass isPart slice classTiming
  rw [List.drop_zero]
  by_cases long : 26 ≤ f.payload.length
  · have some' : 0 < f.payload.length := by omega
    simp [long, some']
  · simp [long]

/-- The sum of R22, the two compensations apart. -/
theorem State.correctionOf_eq (s : State) (p ingress : Port) (stamps : Ingress) (f : Frame) :
    readCorrection f + s.correctionOf p ingress stamps = beInt (slice 18 8 f.payload) +
      ((s.clock.residence : Int) - stamps.residence) + (s.portMap.get (portIdx ingress)).ingressComp * 65536 +
      (s.portMap.get (portIdx p)).egressComp * 65536 := by
  unfold readCorrection State.correctionOf State.res
  have whole : ((nsUnits : Nat) : Int) = 65536 := rfl
  rw [whole]
  omega

/-- The clamp of the Correction field, by the two bounds of R22. -/
theorem clampCorrection (v : Int) : clampInt correctionMin correctionMax v =
    (if 9223372036854775807 < v then 9223372036854775807
     else if v < -9223372036854775808 then -9223372036854775808 else v) := by
  unfold clampInt correctionMin correctionMax
  split
  · omega
  · split <;> omega

/-- A copy that carries a Correction field has it written, and is counted where the sum saturates. -/
theorem State.correct_carries {s : State} {f : Frame} (h : hasCorrection s.mgmt.partEther f = true) (p ingress : Port)
    (stamps : Ingress) :
    let sum := readCorrection f + s.correctionOf p ingress stamps
    s.correct p ingress stamps f = (s.countPort p fun c => { c with correctionSaturated :=
      if sum < -9223372036854775808 ∨ 9223372036854775807 < sum then bump c.correctionSaturated
      else c.correctionSaturated }, writeCorrection (clampInt correctionMin correctionMax sum) f) := by
  intro sum
  unfold State.correct
  rw [if_pos h]
  refine Prod.ext ?_ rfl
  show (if clampInt correctionMin correctionMax sum = sum then s else _) = _
  by_cases out : sum < -9223372036854775808 ∨ 9223372036854775807 < sum
  · rw [if_neg (by rw [clampCorrection]; split <;> [skip; split] <;> omega)]
    simp only [out, if_true]
  · rw [if_pos (by rw [clampCorrection]; split <;> [skip; split] <;> omega)]
    exact (State.updPort_self (by simp only [out, if_false])).symm

/-- A copy that carries none leaves as it is and is counted. -/
theorem State.correct_lacks {s : State} {f : Frame} (h : ¬ hasCorrection s.mgmt.partEther f = true) (p ingress : Port)
    (stamps : Ingress) : s.correct p ingress stamps f =
      (s.countPort p fun c => { c with notCorrectable := bump c.notCorrectable }, f) := by
  unfold State.correct
  rw [if_neg h]

/-- A correction changes the frame and a counter of the port only. -/
theorem State.correct_counts (s : State) (p ingress : Port) (stamps : Ingress) (f : Frame) :
    ∃ g f', s.correct p ingress stamps f = (s.countPort p g, f') := by
  by_cases h : hasCorrection s.mgmt.partEther f = true
  · exact ⟨_, _, State.correct_carries h p ingress stamps⟩
  · exact ⟨_, _, State.correct_lacks h p ingress stamps⟩

theorem isField_clampCorrection (v : Int) : isField (clampInt correctionMin correctionMax v) := by
  rw [clampCorrection]
  unfold isField
  split <;> [skip; split] <;> omega

theorem exec_egressMoment (p : Port) (s : State) : exec (.egressMoment p) s = .next (s.egress p) := rfl

theorem PortState.takeNext_ctr (x : PortState) : x.takeNext.ctr = x.ctr := by
  unfold PortState.takeNext; split <;> rfl

/-- The port at the egress moment of a frame whose role changes at most its port's counters. -/
theorem State.port_egress {s : State} {p : Port} {q : QFrame} {g : PortCounters → PortCounters} {f : Frame}
    (next : (s.port p).next? = some q) (up : (s.port p).linkUp = true) (free : (s.port p).tx = none)
    (h : (s.updPort p PortState.takeNext).atEgress p q = ((s.updPort p PortState.takeNext).countPort p g, f)) :
    s.egress p = s.updPort p fun x =>
      { x.takeNext with tx := some ⟨⟨f, q.role⟩, true⟩, ctr := g x.ctr } := by
  rw [State.egress_eq next up free, h]
  show ((s.updPort p PortState.takeNext).updPort p _).updPort p _ = _
  rw [State.updPort_updPort, State.updPort_updPort]
  simp only [PortState.takeNext_ctr]

/-- Settles O20. -/
theorem correctionAtEgress : Obligations.CorrectionAtEgress := by
  intro s p ingress q stamps up free head role f sum carries
  have next : (s.port p).next? = some q := by
    unfold PortState.next?
    rcases head with h | ⟨h, h'⟩
    · rw [h]; rfl
    · rw [h, h']; rfl
  have moment : (s.updPort p PortState.takeNext).atEgress p q =
      (s.updPort p PortState.takeNext).correct p ingress stamps f := by
    unfold State.atEgress; rw [role]
  have part : (s.updPort p PortState.takeNext).mgmt.partEther = s.mgmt.partEther := rfl
  have total : readCorrection f + (s.updPort p PortState.takeNext).correctionOf p ingress stamps = sum :=
    State.correctionOf_eq s p ingress stamps f
  by_cases h : hasCorrection s.mgmt.partEther f = true
  · have long : 18 + (beBytesInt 8 (clampInt correctionMin correctionMax sum)).length ≤ f.payload.length := by
      rw [beBytesInt_length]; exact ((hasCorrection_iff ..).1 h).2.2
    rw [State.correct_carries (by rw [part]; exact h), total] at moment
    refine ⟨_, writeCorrection (clampInt correctionMin correctionMax sum) f, (exec_egressMoment p s).trans (congrArg _ (State.port_egress next up free moment)), ?_, fun _ => ⟨?_, ?_, ?_, rfl, ?_⟩, fun no =>
      absurd ((hasCorrection_iff ..).1 h) no⟩
    · rw [State.port_updPort, if_pos rfl]
    · have field := slice_overwrite (new := beBytesInt 8 (clampInt correctionMin correctionMax sum))
        (show 18 ≤ f.payload.length by omega)
      rw [beBytesInt_length] at field
      exact (congrArg beInt field).trans ((beInt_beBytesInt _ (isField_clampCorrection sum)).trans (clampCorrection sum))
    · exact overwrite_length long
    · intro i hi
      exact overwrite_outside long (by rw [beBytesInt_length]; exact hi)
    · rw [State.port_updPort, if_pos rfl]
  · rw [State.correct_lacks (by rw [part]; exact h)] at moment
    refine ⟨_, f, (exec_egressMoment p s).trans (congrArg _ (State.port_egress next up free moment)), ?_, fun yes =>
      absurd ((hasCorrection_iff ..).2 yes) h, fun _ => ⟨rfl, ?_⟩⟩
    · rw [State.port_updPort, if_pos rfl]
    · rw [State.port_updPort, if_pos rfl]

/-- An update of the port that only writes its counters and its transmission, seen from outside the port. -/
theorem State.updPort_ne {s : State} {p k : Port} (h : k ≠ p) (f : PortState → PortState) :
    (s.updPort p f).port k = s.port k := by rw [State.port_updPort, if_neg h]

/-- A frame whose role asks for no more than the port's counters leaves the sessions alone. -/
theorem State.egress_port_only {s : State} {p : Port} {q : QFrame} {tq bq : List QFrame} {g : PortCounters → PortCounters}
    {f : Frame} (up : (s.port p).linkUp = true) (free : (s.port p).tx = none)
    (h : ((s.port p).timingQ = q :: tq ∧ (s.port p).bulkQ = bq) ∨
      ((s.port p).timingQ = [] ∧ tq = [] ∧ (s.port p).bulkQ = q :: bq))
    (moment : (s.updPort p PortState.takeNext).atEgress p q = ((s.updPort p PortState.takeNext).countPort p g, f)) :
    ∃ t, exec (.egressMoment p) s = .next t ∧ t = { s with ports := t.ports } ∧
      t.port p = { s.port p with
        timingQ := tq, bulkQ := bq, tx := some ⟨⟨f, q.role⟩, true⟩, ctr := g (s.port p).ctr } ∧
      ∀ k, k ≠ p → t.port k = s.port k := by
  obtain ⟨next, taken⟩ := PortState.takeNext_eq h
  refine ⟨_, (exec_egressMoment p s).trans (congrArg _ (State.port_egress next up free moment)), rfl, ?_, fun k ne => State.updPort_ne ne _⟩
  rw [State.port_updPort, if_pos rfl, taken]

theorem State.countPort_id (s : State) (p : Port) : s.countPort p id = s := State.updPort_self rfl

/-- The egress moment of a query of a session, which takes its t3 (R37). -/
theorem State.egress_query {s : State} {p : Port} {q : QFrame} {tq bq : List QFrame} {c : Client} {seq : Nat}
    (up : (s.port p).linkUp = true) (free : (s.port p).tx = none)
    (h : ((s.port p).timingQ = q :: tq ∧ (s.port p).bulkQ = bq) ∨
      ((s.port p).timingQ = [] ∧ tq = [] ∧ (s.port p).bulkQ = q :: bq))
    (moment : (s.updPort p PortState.takeNext).atEgress p q =
      ((s.updPort p PortState.takeNext).updClient c (ClientSession.captureT3 seq s.clock.counter), q.frame)) :
    ∃ t, exec (.egressMoment p) s = .next t ∧ t = { s with ports := t.ports, sessions := t.sessions } ∧
      t.port p = { s.port p with timingQ := tq, bulkQ := bq, tx := some ⟨⟨q.frame, q.role⟩, true⟩ } ∧
      (∀ k, k ≠ p → t.port k = s.port k) ∧ (∀ d, d ≠ c → t.client d = s.client d) ∧
      t.client c = (s.client c).captureT3 seq s.clock.counter := by
  obtain ⟨next, taken⟩ := PortState.takeNext_eq h
  refine ⟨_, exec_egressMoment p s, ?_⟩
  rw [State.egress_eq next up free, moment]
  refine ⟨rfl, ?_, ?_, ?_, ?_⟩
  · rw [State.port_updPort, if_pos rfl]
    show ({ (s.updPort p PortState.takeNext).port p with tx := _ } : PortState) = _
    rw [State.port_updPort, if_pos rfl, taken]
  · intro k ne
    rw [State.updPort_ne ne]
    exact State.updPort_ne ne _
  · intro d ne
    show (State.updClient _ _ _).client d = _
    rw [State.client_updClient, if_neg ne]
    rfl
  · show (State.updClient _ _ _).client c = _
    rw [State.client_updClient, if_pos rfl]
    rfl

theorem clientPort_of_portClient? {p : Port} {c : Client} (h : portClient? p = some c) : clientPort c = p := by
  cases p <;> cases h <;> rfl

theorem clientPort_inj {c d : Client} (h : clientPort c = clientPort d) : c = d := by
  have same := congrArg portClient? h
  rw [portClient?_clientPort, portClient?_clientPort] at same
  exact Option.some.inj same

/-- Settles O19, by the role of the frame that leaves. -/
theorem egressTakesTimingFirst : Obligations.EgressTakesTimingFirst := by
  intro s p x
  refine ⟨fun idle => (exec_egressMoment p s).trans (congrArg _ (State.egress_idle idle)), ?_⟩
  intro q tq bq up free head
  -- a frame that leaves the sessions alone
  have alone : ∀ f g, (s.updPort p PortState.takeNext).atEgress p q =
      ((s.updPort p PortState.takeNext).countPort p g, f) → ∃ t, exec (.egressMoment p) s = .next t ∧
        t = { s with ports := t.ports, sessions := t.sessions } ∧
        t.port p = { x with timingQ := tq, bulkQ := bq, tx := some ⟨⟨f, q.role⟩, true⟩, ctr := g x.ctr } ∧
        (∀ k, k ≠ p → t.port k = s.port k) ∧ t.sessions = s.sessions := by
    intro f g moment
    obtain ⟨t, ran, frame, port, others⟩ := State.egress_port_only up free head moment
    have sessions : t.sessions = s.sessions := by rw [frame]
    exact ⟨t, ran, by rw [sessions]; exact frame, port, others, sessions⟩
  -- a frame that also counts nothing
  have still : ∀ f, (s.updPort p PortState.takeNext).atEgress p q = (s.updPort p PortState.takeNext, f) →
      ∃ t, exec (.egressMoment p) s = .next t ∧ t = { s with ports := t.ports, sessions := t.sessions } ∧
        t.port p = { x with timingQ := tq, bulkQ := bq, tx := some ⟨⟨f, q.role⟩, true⟩, ctr := x.ctr } ∧
        (∀ k, k ≠ p → t.port k = s.port k) ∧ t.sessions = s.sessions :=
    fun f moment => alone f id (by rw [moment, State.countPort_id])
  have plain : (s.updPort p PortState.takeNext).atEgress p q = (s.updPort p PortState.takeNext, q.frame) →
      ∃ (t : State) (g : Frame) (ctr : PortCounters), exec (.egressMoment p) s = .next t ∧
        t = { s with ports := t.ports, sessions := t.sessions } ∧
        t.port p = { x with timingQ := tq, bulkQ := bq, tx := some ⟨⟨g, q.role⟩, true⟩, ctr := ctr } ∧
        (∀ k, k ≠ p → t.port k = s.port k) ∧ g = q.frame ∧ ctr = x.ctr ∧ t.sessions = s.sessions := by
    intro moment
    obtain ⟨t, ran, frame, port, others, sessions⟩ := still _ moment
    exact ⟨t, _, _, ran, frame, port, others, rfl, rfl, sessions⟩
  cases role : q.role with
  | passing correct ingress stamps =>
    rw [role] at plain alone
    cases correct with
    | false => exact plain (by unfold State.atEgress; rw [role])
    | true =>
      obtain ⟨g, f, moment⟩ := State.correct_counts (s.updPort p PortState.takeNext) p ingress stamps q.frame
      obtain ⟨t, ran, frame, port, others, sessions⟩ := alone f g (by unfold State.atEgress; rw [role]; exact moment)
      exact ⟨t, _, _, ran, frame, port, others, sessions⟩
  | timeMark =>
    rw [role] at still
    obtain ⟨t, ran, frame, port, others, sessions⟩ :=
      still (writeMark (addNanos s.clock.counter (s.pathComp p)) q.frame) (by unfold State.atEgress; rw [role]; rfl)
    refine ⟨t, _, _, ran, frame, port, others, ?_, rfl, sessions⟩
    rfl
  | delayQuery seq =>
    cases own : portClient? p with
    | none =>
      obtain ⟨t, g, ctr, ran, frame, port, others, same, counted, sessions⟩ :=
        plain (by unfold State.atEgress; rw [role]; dsimp only; rw [own])
      rw [role] at port
      refine ⟨t, g, ctr, ran, frame, port, others, same, counted, fun c _ => ?_, fun c owner => ?_⟩
      · unfold State.client; rw [sessions]
      · rw [← owner, portClient?_clientPort] at own; cases own
    | some c =>
      obtain ⟨t, ran, frame, port, others, sessions, session⟩ := State.egress_query (c := c) (seq := seq) up free head
        (by unfold State.atEgress; rw [role]; dsimp only; rw [own]; rfl)
      have owner := clientPort_of_portClient? own
      rw [role] at port
      refine ⟨t, _, _, ran, frame, port, others, rfl, rfl, fun d ne => sessions d fun e => ne (e ▸ owner),
        fun d same => ?_⟩
      cases clientPort_inj (owner.trans same.symm)
      exact session
  | qualityNotice => rw [role] at plain; exact plain (by unfold State.atEgress; rw [role])
  | delayReply => rw [role] at plain; exact plain (by unfold State.atEgress; rw [role])
  | response scope => rw [role] at plain; exact plain (by unfold State.atEgress; rw [role])
  | alarmNotice => rw [role] at plain; exact plain (by unfold State.atEgress; rw [role])

/-! ## The end of a transmission (R3, R24) -/

/-- The end of a transmission leaves the transmit side free and counts the frame, where it still counts. -/
theorem State.endTransmit_eq (s : State) (p : Port) (x : TxFrame) :
    let u := s.updPort p fun y =>
      { y with
        tx := none
        ctr := { y.ctr with transmittedFrames :=
          if x.counted then bump y.ctr.transmittedFrames else y.ctr.transmittedFrames } }
    s.endTransmit p x = (restartOf x.item.role).elim u fun scope => if x.counted then u.restart scope else u := by
  intro u
  have ended : (if x.counted then (s.updPort p fun y => { y with tx := none }).countPort p
      (fun c => { c with transmittedFrames := bump c.transmittedFrames })
      else s.updPort p fun y => { y with tx := none }) = u := by
    cases counted : x.counted with
    | true =>
      rw [if_pos rfl]
      unfold State.countPort
      rw [State.updPort_updPort]
      exact State.updPort_congr (by simp only [counted]; rfl)
    | false =>
      rw [if_neg (by decide)]
      exact State.updPort_congr (by simp only [counted]; rfl)
  unfold State.endTransmit
  dsimp only
  rw [ended]
  cases restartOf x.item.role <;> rfl

/-- Settles O21. -/
theorem transmitEndCountsAndRestarts : Obligations.TransmitEndCountsAndRestarts := by
  intro s dt p
  have ends : ∀ o, (s.port p).tx = o → exec (.transmitEnd dt p) s = .next (match o with
      | some t => (s.pass dt).endTransmit p t
      | none => s) := by
    rintro o rfl
    rfl
  refine ⟨fun idle => ends _ idle, fun x busy => ?_⟩
  rw [ends _ busy]
  dsimp only
  rw [State.endTransmit_eq]
  cases x.item.role with
  | response scope => cases scope <;> cases x.counted <;> rfl
  | _ => rfl

/-! ## The end of a quiet interval (R18) -/

/-- An instant that can be reached is reached: the clocks advance by the units left to it. -/
theorem State.reach_of_canReach {s : State} {d : Nat} (h : s.canReach d) :
    ∃ c, s.reach d = some (s.arrive c) ∧ advanced s (s.arrive c) d := by
  have reached : ∀ c, s.clock.reach s.servo.f d = some c → s.reach d = some (s.arrive c) := fun c e => by
    unfold State.reach; rw [e]; rfl
  by_cases zero : d = 0
  · subst zero
    exact ⟨s.clock, reached _ (by unfold Clock.reach; rw [if_pos rfl]), rfl, rfl, rfl⟩
  · by_cases short : d < s.clock.room
    · refine ⟨s.clock.run s.servo.f d, reached _ ?_, rfl, rfl, rfl⟩
      unfold Clock.reach
      rw [if_neg zero, if_pos short]
    · have boundary : d = s.clock.room ∧ secondsOf s.clock.counter + 1 < secRange := by
        rcases h with h | h | h
        · exact absurd h zero
        · exact absurd h short
        · exact h
      refine ⟨{ s.clock.run s.servo.f d with boundaryDue := true }, reached _ ?_, rfl, rfl, rfl⟩
      unfold Clock.reach
      rw [if_neg zero, if_neg short, if_pos boundary]

/-- Settles O25. -/
theorem quietIntervalClearsTimingLoss : Obligations.QuietIntervalClearsTimingLoss := by
  intro s p
  have ends : ∀ o, (s.port p).quiet = o → exec (.quietIntervalExpires p) s = .next (match o with
      | some t => s.atInstant (s.reachRes (t + quietUnits)) fun u => u.quietOver p
      | none => s) := by
    rintro o rfl
    rfl
  refine ⟨fun none' => ends _ none', fun q runs can => ?_⟩
  obtain ⟨c, reached, advance⟩ := State.reach_of_canReach can
  have there : s.reachRes (q + quietUnits) = some (s.arrive c) := reached
  refine ⟨(s.arrive c).quietOver p, ?_, advance, rfl, ?_, ?_, ?_, ?_, ?_, ?_⟩
  · rw [ends _ runs]
    dsimp only
    rw [there]
    rfl
  · exact (State.port_updPort (s.arrive c) p p _).trans (if_pos rfl)
  · exact fun k ne => State.updPort_ne (s := s.arrive c) ne _
  · exact report_present _ _ _ _ _ _ (by cases p <;> decide)
  · exact (quiet_report ((s.arrive c).updPort p _) (recTimingLoss p) false).calm.settings.notices
  · exact (quiet_report ((s.arrive c).updPort p _) (recTimingLoss p) false).calm.settings.alarms
  · exact fun i own other => report_record_ne _ _ _ _ _ _ i own other

end Sys2Proof.Machine
end

section
/-! PROOFS. What reset leaves in every block (O2). -/
namespace Sys2Proof.Machine
open Sys2Proof

theorem get_replicate {α : Type} (n : Nat) (a : α) (i : Fin n) : (Vector.replicate n a).get i = a :=
  Vector.getElem_replicate i.isLt

theorem reset_port (p : Port) : State.reset.port p = {} := get_replicate 8 _ (portIdx p)

/-- Every Flow entry but entry 0 is at the defaults of an entry (R10). -/
theorem reset_flow (i : Fin 64) (h : i ≠ 0) : State.reset.flow.get i = {} := by
  show ((Vector.replicate 64 ({} : FlowEntry)).set 0 managementEntry).get i = _
  have apart : (0 : Nat) ≠ i.val := fun e => h (Fin.ext e.symm)
  exact (Vector.getElem_set_ne _ i.isLt apart).trans (Vector.getElem_replicate i.isLt)

theorem reset_client (c : Client) : State.reset.client c = {} := get_replicate 2 _ (clientIdx c)
theorem reset_ref (r : Ref) : State.reset.ref r = {} := get_replicate 6 _ (refIdx r)
theorem reset_site (k : Fin 6) : State.reset.site k = {} := get_replicate 6 _ k
theorem reset_tpin (k : Fin 4) : State.reset.tpin k = {} := get_replicate 4 _ k

/-- The records that no block has reported present (R188). -/
theorem reset_record : ∀ i : Fin 41, i.val < 7 ∨ (7 < i.val ∧ i.val < 11) ∨ 18 < i.val →
    State.reset.alarm.record i = {} := by decide

theorem reset_record_linkDown (p : Port) : State.reset.alarm.record (recLinkDown p) = linkDownAtReset := by
  cases p <;> rfl

/-- Every counter of the Counters table is 0 (R24, R202). -/
theorem reset_counters : ∀ l, l ∈ State.reset.counterEntries → ∀ n, n ∈ l → n = 0 := by decide

/-- Settles O2, block by block. -/
theorem resetValues : Obligations.ResetValues := by
  refine ⟨rfl, fun p => ?_, rfl, fun i h => reset_flow i h, fun p => ?_, fun c => ?_, fun r => ⟨?_, ?_⟩, rfl, rfl, rfl,
    rfl, rfl, rfl, fun k => ?_, rfl, fun k => ?_, rfl, rfl, rfl, rfl, rfl, rfl, rfl, rfl, rfl, reset_record_linkDown,
    reset_record, rfl, rfl, rfl, rfl, rfl, rfl, fun k => get_replicate 26 _ k, reset_counters, rfl⟩
  · rw [reset_port]
  · cases p <;> rfl
  · rw [reset_client]
  · rw [reset_ref]
  · rw [reset_ref]
  · rw [reset_site]
  · rw [reset_tpin]

end Sys2Proof.Machine
end

section
/-! PROOFS. The link events (O23, O24). -/
namespace Sys2Proof.Machine
open Sys2Proof

/-! ## What a link event does to the session and the LINE reference of its port (R30, R58) -/

theorem State.linkClient_none {p : Port} (h : portClient? p = none) (s : State) (up : Bool) :
    s.linkClient p up = s := by
  unfold State.linkClient
  rw [h]

theorem State.linkClient_some {p : Port} {c : Client} (h : portClient? p = some c) (s : State) (up : Bool) :
    s.linkClient p up = (if up then s.clientStart c else s.clientStop c).syncLine c := by
  unfold State.linkClient
  rw [h]
  cases up <;> rfl

theorem kept_linkSession (s : State) (c : Client) (up : Bool) :
    UpstreamKept [clientRef c] [c] s (if up then s.clientStart c else s.clientStop c) := by
  cases up with
  | true =>
    show UpstreamKept _ _ s (s.clientStart c)
    unfold State.clientStart
    dsimp only
    split
    · exact kept_moveClient s c _
    · exact UpstreamKept.refl _ _ s
  | false =>
    show UpstreamKept _ _ s (s.clientStop c)
    unfold State.clientStop
    split
    · exact UpstreamKept.refl _ _ s
    · exact kept_moveClient s c _

theorem kept_linkClient {p : Port} {c : Client} (h : portClient? p = some c) (s : State) (up : Bool) :
    UpstreamKept [clientRef c, lineRef c] [c] s (s.linkClient p up) := by
  rw [State.linkClient_some h]
  exact ((kept_linkSession s c up).mono (by simp) (by simp)).trans ((kept_setDefects _ _ _).mono (by simp) (by simp))

theorem down_linkSite (s : State) (p : Port) (up : Bool) : Down s (s.linkSite p up) := by
  unfold State.linkSite
  cases portSite? p with
  | none => exact Down.refl s
  | some k => cases up <;> [exact down_siteLinkDown s k; exact down_siteLinkUp s k]

/-- A moved session is as the move leaves it: the report to the Reference Monitor changes no session (R54). -/
theorem State.client_moveClient (s : State) (c : Client) (f : ClientSession → ClientSession) :
    (s.moveClient c f).client c = f (s.client c) := by
  unfold State.moveClient
  rw [(kept_syncPkt (s.updClient c f) c).sessions c List.not_mem_nil, State.client_updClient, if_pos rfl]

/-- The reports to the LINE reference change no session. -/
theorem State.client_linkClient {p : Port} {c : Client} (h : portClient? p = some c) (s : State) (up : Bool) :
    (s.linkClient p up).client c = (if up then s.clientStart c else s.clientStop c).client c := by
  rw [State.linkClient_some h]
  exact (kept_setDefects _ (lineRef c) _).sessions c List.not_mem_nil

theorem UpstreamKept.linkUp {own : List Ref} {ownC : List Client} {s t : State} (k : UpstreamKept own ownC s t)
    (p : Port) : (t.port p).linkUp = (s.port p).linkUp := by
  rcases k.ports p with h | ⟨-, h⟩ <;> rw [h]
  rfl

/-- SIGNAL_LOST of an enabled LINE reference follows the link of its port (R58). -/
theorem State.linkClient_line {p : Port} {c : Client} (h : portClient? p = some c) (s : State) (up : Bool)
    (enabled : (s.ref (lineRef c)).state ≠ .disabled) :
    Defect.signalLost ∈ ((s.linkClient p up).ref (lineRef c)).defects ↔ (s.port p).linkUp = false := by
  have kept := kept_linkSession s c up
  have same := kept.refs (lineRef c) (by cases c <;> decide) (by cases c <;> decide)
  have link := kept.linkUp (clientPort c)
  rw [State.linkClient_some h]
  generalize (if up then s.clientStart c else s.clientStop c) = u at same link
  unfold State.syncLine State.setDefects
  rw [judge_defects u _ _ _ _ (by rw [same]; exact enabled) (by decide), mem_putDefect, if_neg (by decide),
    mem_putDefect, if_pos rfl, link, clientPort_of_portClient? h]
  cases (s.port p).linkUp <;> decide

/-! ## What a link event does to the site of its port (R141, R144) -/

theorem State.site_siteConditions (s : State) (k j : Fin 6) : (s.siteConditions k).site j = s.site j := rfl

theorem State.serveCheck_may {s : State} {k : Fin 6} (may : s.mayServe k = true) (idle : (s.site k).serve.since = none) :
    s.serveCheck k = if (s.site k).cfg.serveDelay = 0 then s.enterServing k
      else s.updSite k fun x => { x with serve := timerStart s.res } := by
  unfold State.serveCheck
  rw [if_pos may, if_neg (by unfold timerRuns; rw [idle]; decide)]

theorem State.mayServe_iff (s : State) (k : Fin 6) : s.mayServe k = true ↔ (s.site k).state = .muted ∧
    (s.port (sitePort k)).linkUp = true ∧ (s.site k).cfg.minGrade ≤ s.holdover.announced := by
  unfold State.mayServe
  simp [and_assoc]

theorem State.enterServing_site (s : State) (k : Fin 6) : (s.enterServing k).site k = { s.site k with
    state := .serving, muteReason := none, serve := timerZero, markDone := s.clock.counter
    ctr := { (s.site k).ctr with serveEntries := bump (s.site k).ctr.serveEntries } } :=
  (State.site_updSite s k k _).trans (if_pos rfl)

/-- A link-down mutes an enabled session at once, for the link, and stops its timer (R144). -/
theorem State.siteLinkDown_site {s : State} {k : Fin 6} (enabled : (s.site k).state ≠ .disabled) :
    ((s.siteLinkDown k).site k).state = .muted ∧ ((s.siteLinkDown k).site k).muteReason = some .link ∧
      ((s.siteLinkDown k).site k).serve = ⟨0, none⟩ := by
  unfold State.siteLinkDown
  cases state : (s.site k).state with
  | disabled => exact absurd state enabled
  | muted =>
    dsimp only
    rw [State.site_siteConditions, State.site_updSite, if_pos rfl]
    exact ⟨state, rfl, rfl⟩
  | serving =>
    dsimp only
    rw [State.site_siteConditions, State.site_updSite, if_pos rfl]
    exact ⟨rfl, rfl, rfl⟩

theorem portClient?_of_portSite? {p : Port} {k : Fin 6} (h : portSite? p = some k) :
    portClient? p = none ∧ sitePort k = p := by
  cases p <;> cases h <;> exact ⟨rfl, rfl⟩

/-! ## A link event as a whole -/

/-- The blocks that a link event reaches before LINK_DOWN is reported. -/
def State.linked (s : State) (p : Port) (up : Bool) : State := (s.linkClient p up).linkSite p up

theorem kept_linked_client {p : Port} {c : Client} (h : portClient? p = some c) (s : State) (up : Bool) :
    UpstreamKept [clientRef c, lineRef c] [c] s (s.linked p up) :=
  (kept_linkClient h s up).trans ((down_linkSite _ p up).kept.mono (by simp) (by simp))

theorem kept_linked_none {p : Port} (h : portClient? p = none) (s : State) (up : Bool) :
    UpstreamKept [] [] s (s.linked p up) := by
  unfold State.linked
  rw [State.linkClient_none h]
  exact (down_linkSite s p up).kept

theorem State.linked_client {p : Port} {c : Client} (h : portClient? p = some c) (s : State) (up : Bool) :
    (s.linked p up).client c = (if up then s.clientStart c else s.clientStop c).client c := by
  rw [← State.client_linkClient h]
  unfold State.linked State.client
  rw [(down_linkSite _ p up).sessions]

theorem State.linked_line {p : Port} {c : Client} (h : portClient? p = some c) (s : State) (up : Bool)
    (enabled : (s.ref (lineRef c)).state ≠ .disabled) :
    Defect.signalLost ∈ ((s.linked p up).ref (lineRef c)).defects ↔ (s.port p).linkUp = false := by
  rw [← State.linkClient_line h s up enabled]
  unfold State.linked
  rw [(down_linkSite _ p up).refs _ (by cases c <;> decide)]

theorem State.linked_site {p : Port} {k : Fin 6} (h : portSite? p = some k) (s : State) (up : Bool) :
    s.linked p up = if up then s.siteLinkUp k else s.siteLinkDown k := by
  unfold State.linked State.linkSite
  rw [State.linkClient_none (portClient?_of_portSite? h).1, h]

theorem recLinkDown_ne_overflow (p : Port) : recLinkDown p ≠ recOverflow := by cases p <;> decide

/-- A link event of a port that is UP already is none, and any other reaches the blocks of its port (R2). -/
theorem exec_linkUp (s : State) (dt : Nat) (p : Port) : ((s.port p).linkUp = true → exec (.linkUp dt p) s = .next s) ∧
    ((s.port p).linkUp = false → exec (.linkUp dt p) s =
      .next ((((s.pass dt).updPort p fun x => { x with linkUp := true }).linked p true).report (recLinkDown p) false)) := by
  refine ⟨fun up => ?_, fun down => ?_⟩
  · show execLinkUp dt p s = _
    unfold execLinkUp
    rw [if_pos up]
  · show execLinkUp dt p s = _
    unfold execLinkUp
    rw [if_neg (by rw [down]; decide)]
    rfl

/-- Settles O23, by the port: a network port has a session and a LINE reference, a site port a Delivery Session. -/
theorem linkUpBringsThePortUp : Obligations.LinkUpBringsThePortUp := by
  intro s dt p
  refine ⟨(exec_linkUp s dt p).1, fun down => ⟨_, (exec_linkUp s dt p).2 down, ?_⟩⟩
  have up : (((s.pass dt).updPort p fun x => { x with linkUp := true }).port p).linkUp = true := by
    rw [State.port_updPort, if_pos rfl]
  have kept : UpstreamKept
      (match portClient? p with
        | some c => [clientRef c, lineRef c]
        | none => []) (portClient? p).toList ((s.pass dt).updPort p fun x => { x with linkUp := true })
      (((s.pass dt).updPort p fun x => { x with linkUp := true }).linked p true) := by
    cases own : portClient? p with
    | none => exact kept_linked_none own _ true
    | some c => exact kept_linked_client own _ true
  have client : ∀ c, ((s.pass dt).updPort p fun x => { x with linkUp := true }).client c = s.client c := fun _ => rfl
  have ref : ∀ r, ((s.pass dt).updPort p fun x => { x with linkUp := true }).ref r = s.ref r := fun _ => rfl
  have site : ∀ k, ((s.pass dt).updPort p fun x => { x with linkUp := true }).site k = s.site k := fun _ => rfl
  have grade : ((s.pass dt).updPort p fun x => { x with linkUp := true }).holdover = s.holdover := rfl
  generalize (s.pass dt).updPort p (fun x => { x with linkUp := true }) = u at up kept client ref site grade ⊢
  refine ⟨?_, ?_, ⟨u.linked p true, kept, rfl, ?_⟩, fun c own => ⟨fun idle enabled => ?_, fun enabled => ?_⟩, ?_, ?_⟩
  · exact (kept.linkUp p).trans up
  · exact report_present _ _ _ _ _ _ (recLinkDown_ne_overflow p)
  · exact fun i own other => report_record_ne _ _ _ _ _ _ i own other
  · show ((u.linked p true).client c).state = _
    rw [State.linked_client own, if_pos rfl]
    unfold State.clientStart
    dsimp only
    rw [if_pos ⟨by rw [client]; exact idle, by rw [client]; exact enabled, by
      rw [clientPort_of_portClient? own]; exact up⟩, State.client_moveClient]
    rfl
  · show Defect.signalLost ∉ ((u.linked p true).ref (lineRef c)).defects
    rw [State.linked_line own u true (by rw [ref]; exact enabled), up]
    decide
  · intro k own muted least delay idle
    have may : u.mayServe k = true := by
      rw [State.mayServe_iff, (portClient?_of_portSite? own).2, site, grade]
      exact ⟨muted, up, least⟩
    show ((u.linked p true).site k).state = _ ∧ ((u.linked p true).site k).serve = ⟨0, some (u.linked p true).clock.residence⟩
    rw [kept.clock, State.linked_site own, if_pos rfl]
    unfold State.siteLinkUp
    rw [State.site_siteConditions, State.serveCheck_may may (by rw [site]; exact idle), site, if_neg (by omega),
      State.site_updSite, if_pos rfl, site]
    exact ⟨muted, rfl⟩
  · intro k own muted least delay idle
    have may : u.mayServe k = true := by
      rw [State.mayServe_iff, (portClient?_of_portSite? own).2, site, grade]
      exact ⟨muted, up, least⟩
    show ((u.linked p true).site k).state = _ ∧ ((u.linked p true).site k).serve = _ ∧
      ((u.linked p true).site k).muteReason = _ ∧ (u.linked p true).servingSince = _ ∧
      ((u.linked p true).site k).ctr.serveEntries = _
    rw [State.linked_site own, if_pos rfl]
    unfold State.siteLinkUp
    rw [State.site_siteConditions, State.serveCheck_may may (by rw [site]; exact idle), site, if_pos delay,
      State.enterServing_site, site]
    exact ⟨rfl, rfl, rfl, rfl, rfl⟩

/-! ## The frames a link-down loses (R19, R201) -/

theorem restartOf_eq_some {x : FrameRole} {scope : RestartScope} :
    restartOf x = some scope ↔ x = .response (some scope) := by
  cases x <;> simp [restartOf]

/-- The frames that a link-down takes back: those queued and, where it still counts, the one in transmission. -/
def PortState.lostFrames (x : PortState) : List QFrame :=
  x.timingQ ++ x.bulkQ ++ ((x.tx.filter TxFrame.counted).map (·.item)).toList

theorem lostRestart_eq (x : PortState) : lostRestart x = (x.lostFrames.map fun f => f.role).findSome? restartOf := by
  rw [List.findSome?_map]
  rfl

theorem lostRestart_none {x : PortState} (h : ∀ scope, FrameRole.response (some scope) ∉ x.lostFrames.map fun f => f.role) :
    lostRestart x = none := by
  rw [lostRestart_eq, List.findSome?_eq_none_iff]
  intro role m
  cases found : restartOf role with
  | none => rfl
  | some scope => exact absurd (restartOf_eq_some.1 found ▸ m) (h scope)

theorem lostRestart_some {x : PortState} {scope : RestartScope}
    (m : FrameRole.response (some scope) ∈ x.lostFrames.map fun f => f.role)
    (only : ∀ k, FrameRole.response (some k) ∈ (x.lostFrames.map fun f => f.role) → k = scope) :
    lostRestart x = some scope := by
  rw [lostRestart_eq]
  cases found : (x.lostFrames.map fun f => f.role).findSome? restartOf with
  | none =>
    have := List.findSome?_eq_none_iff.1 found _ m
    cases this
  | some k =>
    obtain ⟨role, mem, is⟩ := List.exists_of_findSome?_eq_some found
    rw [only k (restartOf_eq_some.1 is ▸ mem)]

/-- A port at its link-down: DOWN, empty, every frame of it counted under Flushed (R2, R19). -/
def PortState.flushed (x : PortState) : PortState :=
  { x with
    linkUp := false, timingQ := [], bulkQ := [], tx := none
    ctr := { x.ctr with
      flushed := bumpBy (x.timingQ.length + x.bulkQ.length + (if x.tx.isSome then 1 else 0)) x.ctr.flushed } }

theorem State.flush_linkDown (s : State) (p : Port) :
    (s.updPort p fun x => { x with linkUp := false }).flush p = s.updPort p PortState.flushed := by
  unfold State.flush
  rw [State.updPort_updPort]
  refine State.updPort_congr ?_
  unfold portFrames PortState.flushed
  cases (s.port p).tx <;> simp [Nat.add_assoc]

/-- A link event of a port that is DOWN already is none; any other flushes the port and reaches its blocks, and a RESTART
whose response it loses follows (R2, R19, R201). -/
theorem exec_linkDown (s : State) (dt : Nat) (p : Port) :
    ((s.port p).linkUp = false → exec (.linkDown dt p) s = .next s) ∧
    ((s.port p).linkUp = true → exec (.linkDown dt p) s =
      .next (((((s.pass dt).updPort p PortState.flushed).linked p false).report (recLinkDown p) true).restartAfterLoss
        (if s.mgmt.waiting.isSome then lostRestart (s.port p) else none))) := by
  refine ⟨fun down => ?_, fun up => ?_⟩
  · show execLinkDown dt p s = _
    unfold execLinkDown
    rw [if_neg (by rw [down]; decide)]
  · show execLinkDown dt p s = _
    unfold execLinkDown
    rw [if_pos up, ← State.flush_linkDown]
    rfl

/-- Settles O24, by the port as for a link-up. -/
theorem linkDownFlushesThePort : Obligations.LinkDownFlushesThePort := by
  intro s dt p lost
  have roles : lost = (s.port p).lostFrames.map fun f => f.role := by
    unfold PortState.lostFrames
    simp only [lost]
    cases (s.port p).tx with
    | none => simp
    | some x => cases counted : x.counted <;> simp [counted, Option.filter]
  refine ⟨(exec_linkDown s dt p).1, fun wasUp =>
    ⟨(((s.pass dt).updPort p PortState.flushed).linked p false).report (recLinkDown p) true, ?_⟩⟩
  have ran := (exec_linkDown s dt p).2 wasUp
  have flushed : ((s.pass dt).updPort p PortState.flushed).port p = (s.port p).flushed := by
    rw [State.port_updPort, if_pos rfl]
    rfl
  have kept : UpstreamKept
      (match portClient? p with
        | some c => [clientRef c, lineRef c]
        | none => []) (portClient? p).toList ((s.pass dt).updPort p PortState.flushed)
      (((s.pass dt).updPort p PortState.flushed).linked p false) := by
    cases own : portClient? p with
    | none => exact kept_linked_none own _ false
    | some c => exact kept_linked_client own _ false
  refine ⟨⟨_, kept, rfl, fun i own other => report_record_ne _ _ _ _ _ _ i own other⟩, ?_⟩
  have client : ∀ c, ((s.pass dt).updPort p PortState.flushed).client c = s.client c := fun _ => rfl
  have ref : ∀ r, ((s.pass dt).updPort p PortState.flushed).ref r = s.ref r := fun _ => rfl
  have site : ∀ k, ((s.pass dt).updPort p PortState.flushed).site k = s.site k := fun _ => rfl
  generalize (s.pass dt).updPort p PortState.flushed = u at flushed kept client ref site ran ⊢
  have port : ∀ x, x = (u.linked p false).port p → x.linkUp = false ∧ x.timingQ = [] ∧ x.bulkQ = [] ∧ x.tx = none := by
    rintro x rfl
    rcases kept.ports p with h | ⟨-, h⟩ <;> rw [h, flushed] <;> exact ⟨rfl, rfl, rfl, rfl⟩
  obtain ⟨down, noTiming, noBulk, idle⟩ := port _ rfl
  refine ⟨down, noTiming, noBulk, idle, report_present _ _ _ _ _ _ (recLinkDown_ne_overflow p),
    fun c own => ⟨fun active => ?_, fun enabled => ?_⟩, fun k own enabled => ?_, fun h => ?_, fun scope waits m only => ?_⟩
  · have session : (u.linked p false).client c = (s.client c).toIdle := by
      rw [State.linked_client own, if_neg (by decide)]
      unfold State.clientStop
      rw [if_neg (by rw [client]; exact active), State.client_moveClient, client]
    show ((u.linked p false).client c).state = _ ∧ ((u.linked p false).client c).master = _ ∧
      ((u.linked p false).client c).outstanding = _ ∧ ((u.linked p false).client c).pair = _ ∧
      ((u.linked p false).client c).best = _
    rw [session]
    exact ⟨rfl, rfl, rfl, rfl, rfl⟩
  · show Defect.signalLost ∈ ((u.linked p false).ref (lineRef c)).defects
    rw [State.linked_line own u false (by rw [ref]; exact enabled), flushed]
    rfl
  · show ((u.linked p false).site k).state = _ ∧ ((u.linked p false).site k).muteReason = _ ∧
      ((u.linked p false).site k).serve = _
    rw [State.linked_site own]
    exact State.siteLinkDown_site (by rw [site]; exact enabled)
  · have none' : (if s.mgmt.waiting.isSome then lostRestart (s.port p) else none) = none := by
      rcases h with h | h
      · rw [h]; rfl
      · rw [lostRestart_none (by rw [← roles]; exact h), ite_self]
    rw [ran, none']
    rfl
  · rw [ran, if_pos waits, lostRestart_some (by rw [← roles]; exact m) (by rw [← roles]; exact only)]
    rfl

end Sys2Proof.Machine
end

section
/-! PROOFS. What the deliveries of the Announced Grade and a change of servo state to HOLDOVER or FREERUN leave in the
blocks: the facts that RESTART DATAPATH (O22) is put together from. -/
namespace Sys2Proof.Machine
open Sys2Proof

/-! ## The Alarm Unit's own timers under a report (R171, R188) -/

/-- The spacing, the next sequence and the test interval are as they were. -/
def Alarm.sameTimers (a b : Alarm) : Prop := b.spacing = a.spacing ∧ b.nextSeq = a.nextSeq ∧ b.test = a.test

theorem Alarm.sameTimers.refl (a : Alarm) : a.sameTimers a := ⟨rfl, rfl, rfl⟩

theorem Alarm.sameTimers.trans {a b c : Alarm} (x : a.sameTimers b) (y : b.sameTimers c) : a.sameTimers c :=
  ⟨y.1.trans x.1, y.2.1.trans x.2.1, y.2.2.trans x.2.2⟩

theorem Alarm.place_timers (i : Fin 41) (a : Alarm) : a.sameTimers (a.place i).1 := by
  unfold Alarm.place
  split
  · exact ⟨rfl, rfl, rfl⟩
  · split
    · exact ⟨rfl, rfl, rfl⟩
    · split <;> exact ⟨rfl, rfl, rfl⟩

theorem Alarm.produce_timers (i : Fin 41) (a : Alarm) : a.sameTimers (a.produce i).1 := by
  unfold Alarm.produce
  split
  · exact a.place_timers i
  · exact Alarm.sameTimers.refl a

theorem Alarm.pulseFor_timers (res : Nat) (i : Fin 41) (a : Alarm) : a.sameTimers (a.pulseFor res i) := by
  unfold Alarm.pulseFor
  split <;> exact ⟨rfl, rfl, rfl⟩

theorem Alarm.updRec_timers (i : Fin 41) (f : AlarmRecord → AlarmRecord) (a : Alarm) : a.sameTimers (a.updRec i f) :=
  ⟨rfl, rfl, rfl⟩

theorem Alarm.raise_timers (now : Stamp) (res : Nat) (i : Fin 41) (a : Alarm) : a.sameTimers (a.raise now res i).1 :=
  ((a.updRec_timers i _).trans (Alarm.pulseFor_timers res i _)).trans (Alarm.produce_timers i _)

theorem Alarm.clearRecord_timers (now : Stamp) (i : Fin 41) (a : Alarm) : a.sameTimers (a.clearRecord now i).1 :=
  (a.updRec_timers i _).trans (Alarm.produce_timers i _)

theorem Alarm.move_timers (now : Stamp) (res : Nat) (i : Fin 41) (present : Bool) (a : Alarm) :
    a.sameTimers (a.move now res i present).1 := by
  unfold Alarm.move
  split
  · exact Alarm.sameTimers.refl a
  · split
    · unfold Alarm.becomePresent
      dsimp only
      split
      · split
        · exact (a.updRec_timers i _).trans (Alarm.raise_timers now res i _)
        · exact ⟨rfl, rfl, rfl⟩
      all_goals exact ⟨rfl, rfl, rfl⟩
    · unfold Alarm.becomeAbsent
      dsimp only
      split
      · exact ⟨rfl, rfl, rfl⟩
      · split
        · exact (a.updRec_timers i _).trans (Alarm.clearRecord_timers now i _)
        · exact ⟨rfl, rfl, rfl⟩
      all_goals exact ⟨rfl, rfl, rfl⟩

theorem Alarm.overflowed_timers (now : Stamp) (res : Nat) : ∀ (n : Nat) (a : Alarm),
    a.sameTimers (a.overflowed now res n)
  | 0, a => Alarm.sameTimers.refl a
  | n + 1, a => by
    have moved := a.move_timers now res recOverflow true
    unfold Alarm.overflowed
    split
    · next b e => rw [e] at moved; exact moved.trans (Alarm.overflowed_timers now res n b)
    · next b e => rw [e] at moved; exact moved

theorem Alarm.evalPin_timers (a : Alarm) : a.sameTimers a.evalPin := by
  unfold Alarm.evalPin
  split <;> exact ⟨rfl, rfl, rfl⟩

theorem Alarm.report_timers (now : Stamp) (res : Nat) (i : Fin 41) (present : Bool) (cause : List Defect) (a : Alarm) :
    a.sameTimers (a.report now res i present cause) := by
  have settled : ∀ x : Alarm × Bool, x.1.sameTimers (Alarm.settle now res x) := by
    rintro ⟨b, full⟩
    cases full
    · exact b.evalPin_timers
    · exact (b.overflowed_timers now res 3).trans (Alarm.evalPin_timers _)
  unfold Alarm.report
  dsimp only
  refine Alarm.sameTimers.trans ?_ ((Alarm.move_timers now res i present _).trans (settled _))
  split <;> exact ⟨rfl, rfl, rfl⟩

/-! ## Deliveries of the Announced Grade (R132, R141, R143, R164) -/

/-- A Delivery Session after grades have reached it: only its state between MUTED and SERVING, the reason, the Serve
Delay timer, the last mark's instant and its counters can have moved. -/
def Site.regraded (x y : Site) : Prop :=
  y = { x with state := y.state, muteReason := y.muteReason, serve := y.serve, markDone := y.markDone, ctr := y.ctr } ∧
    (y.state = .disabled ↔ x.state = .disabled)

theorem Site.regraded.refl (x : Site) : x.regraded x := ⟨rfl, Iff.rfl⟩

theorem Site.regraded.trans {x y z : Site} (a : x.regraded y) (b : y.regraded z) : x.regraded z := by
  obtain ⟨ha, da⟩ := a
  obtain ⟨hb, db⟩ := b
  rw [ha] at hb
  exact ⟨hb, db.trans da⟩

/-- What a delivery of the grade to the Delivery Unit or the Pin Unit, and a report, leave beside the frame of `Down`. -/
structure Delivered (s t : State) : Prop where
  selector : t.selector = s.selector
  realign  : t.realign = s.realign
  servo    : t.servo = s.servo
  holdover : t.holdover = s.holdover
  sites    : ∀ k, (s.site k).regraded (t.site k)
  fallback : ∀ k, (t.tpin k).fallback = (s.tpin k).fallback
  timers   : s.alarm.sameTimers t.alarm

theorem Delivered.refl (s : State) : Delivered s s :=
  ⟨rfl, rfl, rfl, rfl, fun _ => Site.regraded.refl _, fun _ => rfl, Alarm.sameTimers.refl _⟩

theorem Delivered.trans {s t u : State} (a : Delivered s t) (b : Delivered t u) : Delivered s u :=
  ⟨b.selector.trans a.selector, b.realign.trans a.realign, b.servo.trans a.servo, b.holdover.trans a.holdover,
    fun k => (a.sites k).trans (b.sites k), fun k => (b.fallback k).trans (a.fallback k), a.timers.trans b.timers⟩

theorem Delivered.foldl {α : Type} (f : State → α → State) (h : ∀ t a, Delivered t (f t a)) :
    ∀ (l : List α) (s : State), Delivered s (l.foldl f s)
  | [], s => Delivered.refl s
  | a :: l, s => (h s a).trans (Delivered.foldl f h l (f s a))

theorem delivered_report (s : State) (i : Fin 41) (present : Bool) : Delivered s (s.report i present) :=
  ⟨rfl, rfl, rfl, rfl, fun _ => Site.regraded.refl _, fun _ => rfl, Alarm.report_timers _ _ _ _ _ _⟩

theorem delivered_updSite (s : State) (k : Fin 6) (f : Site → Site) (h : (s.site k).regraded (f (s.site k))) :
    Delivered s (s.updSite k f) := by
  refine ⟨rfl, rfl, rfl, rfl, fun j => ?_, fun _ => rfl, Alarm.sameTimers.refl _⟩
  rw [State.site_updSite]
  split
  · next e => subst e; exact h
  · exact Site.regraded.refl _

theorem delivered_siteConditions (s : State) (k : Fin 6) : Delivered s (s.siteConditions k) :=
  (delivered_report s _ _).trans (delivered_report _ _ _)

theorem delivered_enterServing (s : State) (k : Fin 6) (enabled : (s.site k).state ≠ .disabled) :
    Delivered s (s.enterServing k) := by
  unfold State.enterServing
  refine Delivered.trans ?_ (delivered_siteConditions _ k)
  refine ⟨rfl, rfl, rfl, rfl, fun j => ?_, fun _ => rfl, Alarm.sameTimers.refl _⟩
  show (s.site j).regraded ((s.updSite k _).site j)
  rw [State.site_updSite]
  split
  · next e => subst e; exact ⟨rfl, fun h => (nomatch h), fun h => absurd h enabled⟩
  · exact Site.regraded.refl _

theorem delivered_serveCheck (s : State) (k : Fin 6) : Delivered s (s.serveCheck k) := by
  unfold State.serveCheck
  split
  · next may =>
    have muted := ((State.mayServe_iff s k).1 may).1
    split
    · exact Delivered.refl s
    · split
      · exact delivered_enterServing s k (by rw [muted]; decide)
      · exact delivered_updSite s k _ ⟨rfl, Iff.rfl⟩
  · exact delivered_updSite s k _ ⟨rfl, Iff.rfl⟩

theorem delivered_withdraw (s : State) (k : Fin 6) : Delivered s (s.withdraw k) := by
  unfold State.withdraw
  refine Delivered.trans (t := s.updPort (sitePort k) _) ?_ (delivered_updSite _ k _ ⟨rfl, Iff.rfl⟩)
  exact ⟨rfl, rfl, rfl, rfl, fun _ => Site.regraded.refl _, fun _ => rfl, Alarm.sameTimers.refl _⟩

theorem delivered_gradeMute (s : State) (k : Fin 6) : Delivered s (s.gradeMute k) := by
  unfold State.gradeMute
  split
  · next serves =>
    refine ((delivered_updSite s k _ ⟨rfl, ?_⟩).trans (delivered_withdraw _ k)).trans (delivered_siteConditions _ k)
    rw [serves.1]
    exact ⟨fun h => (nomatch h), fun h => (nomatch h)⟩
  · exact Delivered.refl s

theorem delivered_deliverGrade (s : State) : Delivered s s.deliverGrade :=
  Delivered.foldl _ (fun t k => (delivered_gradeMute t k).trans (delivered_serveCheck _ k)) allSites s

theorem Pin.squelchEval_fallback (grade : Nat) (c : Clock) (x : Pin) : (x.squelchEval grade c).fallback = x.fallback := by
  unfold Pin.squelchEval
  split
  · rfl
  · split
    · split <;> rfl
    · split <;> rfl

theorem delivered_deliverSquelch (s : State) : Delivered s s.deliverSquelch := by
  refine Delivered.foldl (fun (t : State) k => t.updPin k (Pin.squelchEval s.holdover.announced s.clock))
    (fun t k => ?_) allPins s
  refine ⟨rfl, rfl, rfl, rfl, fun _ => Site.regraded.refl _, fun j => ?_, Alarm.sameTimers.refl _⟩
  rw [State.tpin_updPin]
  split
  · exact Pin.squelchEval_fallback _ _ _
  · rfl

/-- A recomputation of the grade announces it and delivers it (R132). -/
theorem State.regrade_delivered (s : State) : ∃ c, Delivered (s.updHold fun x =>
    { x with announced := s.gradeNow, ctr := c }) s.regrade := by
  unfold State.regrade
  dsimp only
  split
  · next same =>
    refine ⟨s.holdover.ctr, Delivered.trans ?_ (delivered_report s _ _)⟩
    rw [same]
    exact Delivered.refl s
  · exact ⟨_, ((delivered_deliverGrade _).trans (delivered_deliverSquelch _)).trans (delivered_report _ _ _)⟩

end Sys2Proof.Machine
end

section
/-! PROOFS. The change of servo state that RESTART DATAPATH makes (R115): to HOLDOVER or FREERUN by Phase Valid. -/
namespace Sys2Proof.Machine
open Sys2Proof

/-! ## Entering a holdover (R123, R126, R127) -/

/-- The record of a holdover entered anew, or of the one present as it is resumed (R123). -/
def State.heldRecord (s : State) (entryGrade : Nat) : HoldoverRec :=
  match s.holdover.record with
  | none => newHoldover s.holdover s.servo.i s.stamp s.res entryGrade
  | some r => { r with
      elapsed := timerResume r.elapsed s.res, minuteMark := holdElapsed r s.res / (60 * secUnits) }

/-- The frequency that a Holdover record gives at this moment (R112, R127). -/
def State.heldFreq (s : State) (r : HoldoverRec) : Int :=
  clampMag s.servo.params.pullRange (holdFreq r (holdElapsed r s.res))

theorem State.enterHoldover_delivered (s : State) (g : Nat) : ∃ c, Delivered (s.updHold fun x =>
    { x with record := some (s.heldRecord g), ctr := c }) (s.enterHoldover g) := by
  refine ⟨(s.enterHoldover g).holdover.ctr, ?_⟩
  unfold State.enterHoldover State.heldRecord
  cases s.holdover.record with
  | none =>
    dsimp only
    split
    · exact delivered_report _ _ _
    · exact Delivered.refl _
  | some r => exact Delivered.refl _

theorem State.giveHoldFreq_none {s : State} (h : s.holdover.record = none) : s.giveHoldFreq = s := by
  unfold State.giveHoldFreq
  rw [h]

theorem State.giveHoldFreq_some {s : State} {r : HoldoverRec} (h : s.holdover.record = some r) :
    s.giveHoldFreq = s.updServo fun x => { x with f := s.heldFreq r, i := s.heldFreq r } := by
  unfold State.giveHoldFreq
  rw [h]
  rfl

/-! ## The blocks that a change of servo state does not own -/

/-- What a change of servo state leaves in the blocks other than the Time Engine, the Holdover Unit and the references. -/
structure Told (s t : State) : Prop where
  selector : t.selector = s.selector
  realign  : t.realign = s.realign
  sites    : ∀ k, (s.site k).regraded (t.site k)
  timers   : s.alarm.sameTimers t.alarm

theorem Told.trans {s t u : State} (a : Told s t) (b : Told t u) : Told s u :=
  ⟨b.selector.trans a.selector, b.realign.trans a.realign, fun k => (a.sites k).trans (b.sites k),
    a.timers.trans b.timers⟩

theorem Delivered.told {s t : State} (d : Delivered s t) : Told s t := ⟨d.selector, d.realign, d.sites, d.timers⟩

theorem told_updServo (s : State) (f : Servo → Servo) : Told s (s.updServo f) :=
  ⟨rfl, rfl, fun _ => Site.regraded.refl _, Alarm.sameTimers.refl _⟩

theorem told_updHold (s : State) (f : Holdover → Holdover) : Told s (s.updHold f) :=
  ⟨rfl, rfl, fun _ => Site.regraded.refl _, Alarm.sameTimers.refl _⟩

theorem told_dropMismatch (s : State) : Told s s.dropMismatch :=
  ⟨rfl, rfl, fun _ => Site.regraded.refl _, Alarm.sameTimers.refl _⟩

theorem told_clearTransient (s : State) : Told s s.clearTransient :=
  (told_updServo s _).trans (delivered_report _ _ _).told

theorem told_giveHoldFreq (s : State) : Told s s.giveHoldFreq := by
  cases h : s.holdover.record with
  | none => rw [State.giveHoldFreq_none h]; exact (Delivered.refl s).told
  | some r => rw [State.giveHoldFreq_some h]; exact told_updServo s _

theorem told_enterHoldover (s : State) (g : Nat) : Told s (s.enterHoldover g) := by
  obtain ⟨c, d⟩ := s.enterHoldover_delivered g
  exact (told_updHold s _).trans d.told

theorem told_regrade (s : State) : Told s s.regrade := by
  obtain ⟨c, d⟩ := s.regrade_delivered
  exact (told_updHold s _).trans d.told

theorem delivered_servoConditions (s : State) : Delivered s s.servoConditions :=
  (delivered_report s _ _).trans (delivered_report _ _ _)

/-! ## The change to HOLDOVER or FREERUN -/

/-- The servo in its new state, PHASE_TRANSIENT absent, no Settle Value and no Frozen Grade (R106, R118, R131). -/
def State.resting (s : State) (new : ServoState) : State :=
  ((s.updServo fun x =>
    { x with state := new, ctr := { x.ctr with stateChanges := bump x.ctr.stateChanges } }).clearTransient).updHold
      fun x => { x with settle := none, frozen := none }

/-- The Holdover Unit as HOLDOVER comes after `prev` (R123, R127). -/
def State.takeHoldover (s : State) (prev : ServoState) (entryGrade : Nat) : State :=
  if prev = .acquiring ∨ prev = .locked then (s.enterHoldover entryGrade).giveHoldFreq
  else if prev = .freqTrack then s.giveHoldFreq
  else s

theorem State.setServo_same {s : State} {new : ServoState} (h : new = s.servo.state) (g : Nat) :
    s.setServo new g = s := by
  unfold State.setServo
  dsimp only
  rw [if_pos h]

theorem State.setServo_freerun {s : State} (h : s.servo.state ≠ .freerun) (g : Nat) :
    s.setServo .freerun g = (s.resting .freerun).dropMismatch.regrade.servoConditions := by
  unfold State.setServo
  dsimp only
  rw [if_neg (Ne.symm h)]
  rfl

theorem State.setServo_holdover {s : State} (h : s.servo.state ≠ .holdover) (g : Nat) :
    s.setServo .holdover g = ((s.resting .holdover).takeHoldover s.servo.state g).regrade.servoConditions := by
  unfold State.setServo
  dsimp only
  rw [if_neg (Ne.symm h)]
  rfl

theorem told_resting (s : State) (new : ServoState) : Told s (s.resting new) :=
  ((told_updServo s _).trans (told_clearTransient _)).trans (told_updHold _ _)

theorem told_takeHoldover (s : State) (prev : ServoState) (g : Nat) : Told s (s.takeHoldover prev g) := by
  unfold State.takeHoldover
  split
  · exact (told_enterHoldover s g).trans (told_giveHoldFreq _)
  · split
    · exact told_giveHoldFreq s
    · exact (Delivered.refl s).told

/-- A Holdover Unit in which a change of servo state has moved only what it may. -/
def Holdover.rested (x y : Holdover) : Prop :=
  y = { x with settle := y.settle, frozen := y.frozen, record := y.record, announced := y.announced, ctr := y.ctr }

theorem Holdover.rested.trans {x y z : Holdover} (a : x.rested y) (b : y.rested z) : x.rested z := by
  unfold Holdover.rested at a b ⊢
  rw [a] at b
  exact b

/-- What the change of the servo to its rest state comes to in the Time Engine and the Holdover Unit: `g` is the Entry
Grade of a holdover that it enters. -/
structure Rested (g : Nat) (s t : State) : Prop where
  state   : t.servo.state = s.servo.restState
  valid   : t.servo.phaseValid = s.servo.phaseValid
  params  : t.servo.params = s.servo.params
  hold    : s.holdover.rested t.holdover
  kept    : s.servo.phaseValid = false ∨ (s.servo.state ≠ .acquiring ∧ s.servo.state ≠ .locked) →
    t.holdover.record = s.holdover.record
  entered : s.servo.phaseValid = true → s.servo.state = .acquiring ∨ s.servo.state = .locked →
    t.holdover.record = some (s.heldRecord g)
  still   : s.servo.phaseValid = false ∨ s.servo.state = .holdover → t.servo.f = s.servo.f ∧ t.servo.i = s.servo.i
  given   : s.servo.phaseValid = true → s.servo.state ≠ .holdover → s.servo.state ≠ .freerun →
    ∀ r, t.holdover.record = some r → t.servo.f = s.heldFreq r ∧ t.servo.i = s.heldFreq r

/-- The Holdover Unit as HOLDOVER comes: the record, and the frequency that it gives. -/
theorem State.takeHoldover_spec (s : State) (prev : ServoState) (g : Nat) :
    s.holdover.rested (s.takeHoldover prev g).holdover ∧
    (s.takeHoldover prev g).servo = { s.servo with
      f := (s.takeHoldover prev g).servo.f, i := (s.takeHoldover prev g).servo.i } ∧
    (prev ≠ .acquiring ∧ prev ≠ .locked → (s.takeHoldover prev g).holdover.record = s.holdover.record) ∧
    (prev = .acquiring ∨ prev = .locked → (s.takeHoldover prev g).holdover.record = some (s.heldRecord g)) ∧
    (prev ≠ .holdover → prev ≠ .freerun → ∀ r, (s.takeHoldover prev g).holdover.record = some r →
      (s.takeHoldover prev g).servo.f = s.heldFreq r ∧ (s.takeHoldover prev g).servo.i = s.heldFreq r) := by
  by_cases tracked : prev = .acquiring ∨ prev = .locked
  · obtain ⟨c, d⟩ := s.enterHoldover_delivered g
    have held : (s.enterHoldover g).holdover.record = some (s.heldRecord g) := by rw [d.holdover]; rfl
    have clock : (s.enterHoldover g).clock = s.clock := (down_enterHoldover s g).clock
    have freq : (s.enterHoldover g).heldFreq (s.heldRecord g) = s.heldFreq (s.heldRecord g) := by
      unfold State.heldFreq State.res
      rw [clock, d.servo]
      rfl
    have taken : s.takeHoldover prev g = (s.enterHoldover g).updServo fun x =>
        { x with f := s.heldFreq (s.heldRecord g), i := s.heldFreq (s.heldRecord g) } := by
      unfold State.takeHoldover
      rw [if_pos tracked, State.giveHoldFreq_some held, freq]
    have servo : (s.enterHoldover g).servo = s.servo := d.servo
    rw [taken]
    refine ⟨?_, ?_, fun no => absurd tracked (by tauto), fun _ => held, fun _ _ r h => ?_⟩
    · show s.holdover.rested (s.enterHoldover g).holdover
      rw [d.holdover]
      rfl
    · show ({ (s.enterHoldover g).servo with f := _, i := _ } : Servo) = _
      rw [servo]
      rfl
    · cases held.symm.trans h
      exact ⟨rfl, rfl⟩
  · by_cases freq : prev = .freqTrack
    · have taken : s.takeHoldover prev g = s.giveHoldFreq := by
        unfold State.takeHoldover
        rw [if_neg tracked, if_pos freq]
      rw [taken]
      cases record : s.holdover.record with
      | none =>
        rw [State.giveHoldFreq_none record]
        exact ⟨rfl, rfl, fun _ => record, fun h => absurd h tracked, fun _ _ r h => by rw [record] at h; cases h⟩
      | some q =>
        rw [State.giveHoldFreq_some record]
        refine ⟨rfl, rfl, fun _ => record, fun h => absurd h tracked, fun _ _ r h => ?_⟩
        cases record.symm.trans h
        exact ⟨rfl, rfl⟩
    · have taken : s.takeHoldover prev g = s := by
        unfold State.takeHoldover
        rw [if_neg tracked, if_neg freq]
      rw [taken]
      refine ⟨rfl, rfl, fun _ => rfl, fun h => absurd h tracked, fun no no' => ?_⟩
      cases prev <;> simp at tracked freq no no'

/-- The Time Engine and the Holdover Unit through a recomputation of the grade and the reports of R103. -/
theorem State.regraded_servo (s : State) : s.regrade.servoConditions.servo = s.servo := by
  obtain ⟨c, d⟩ := s.regrade_delivered
  exact (delivered_servoConditions _).servo.trans d.servo

theorem State.regraded_holdover (s : State) : ∃ c, s.regrade.servoConditions.holdover =
    { s.holdover with announced := s.gradeNow, ctr := c } := by
  obtain ⟨c, d⟩ := s.regrade_delivered
  exact ⟨c, (delivered_servoConditions _).holdover.trans d.holdover⟩

theorem State.setServo_rested (s : State) (g : Nat) : Rested g s (s.setServo s.servo.restState g) := by
  cases valid : s.servo.phaseValid with
  | false =>
    have rest : s.servo.restState = .freerun := by unfold Servo.restState; rw [valid]; rfl
    rw [rest]
    by_cases same : s.servo.state = .freerun
    · rw [State.setServo_same same.symm]
      exact ⟨same.trans rest.symm, rfl, rfl, rfl, fun _ => rfl, fun v => absurd (valid.symm.trans v) (by decide),
        fun _ => ⟨rfl, rfl⟩, fun v => absurd (valid.symm.trans v) (by decide)⟩
    · rw [State.setServo_freerun same]
      have servo := (s.resting .freerun).dropMismatch.regraded_servo
      obtain ⟨c, hold⟩ := (s.resting .freerun).dropMismatch.regraded_holdover
      generalize (s.resting .freerun).dropMismatch.regrade.servoConditions = t at servo hold
      refine ⟨?_, ?_, ?_, ?_, fun _ => ?_, fun v => absurd (valid.symm.trans v) (by decide), fun _ => ?_,
        fun v => absurd (valid.symm.trans v) (by decide)⟩
      · rw [servo, rest]; rfl
      · rw [servo]; rfl
      · rw [servo]; rfl
      · rw [hold]; rfl
      · rw [hold]; rfl
      · rw [servo]; exact ⟨rfl, rfl⟩
  | true =>
    have rest : s.servo.restState = .holdover := by unfold Servo.restState; rw [valid]; rfl
    rw [rest]
    by_cases same : s.servo.state = .holdover
    · rw [State.setServo_same same.symm]
      exact ⟨same.trans rest.symm, rfl, rfl, rfl, fun _ => rfl, fun _ h => by rw [same] at h; simp at h,
        fun _ => ⟨rfl, rfl⟩, fun _ no => absurd same no⟩
    · rw [State.setServo_holdover same]
      obtain ⟨frame, engine, record, entered, given⟩ := (s.resting .holdover).takeHoldover_spec s.servo.state g
      have servo := ((s.resting .holdover).takeHoldover s.servo.state g).regraded_servo
      obtain ⟨c, hold⟩ := ((s.resting .holdover).takeHoldover s.servo.state g).regraded_holdover
      generalize (s.resting .holdover).takeHoldover s.servo.state g = u at frame engine record entered given servo hold
      generalize u.regrade.servoConditions = t at servo hold
      have records : t.holdover.record = u.holdover.record := by rw [hold]
      have frame' : s.holdover.rested u.holdover := Holdover.rested.trans (y := (s.resting .holdover).holdover) rfl frame
      refine ⟨?_, ?_, ?_, ?_, fun h => ?_, fun _ h => ?_, fun h => ?_, fun _ no no' r h => ?_⟩
      · rw [servo, engine, rest]; rfl
      · rw [servo, engine]; rfl
      · rw [servo, engine]; rfl
      · exact frame'.trans (by rw [hold]; rfl)
      · rcases h with h | h
        · rw [valid] at h; cases h
        · rw [records, record h]; rfl
      · rw [records, entered h]; rfl
      · rcases h with h | h
        · rw [valid] at h; cases h
        · exact absurd h same
      · rw [servo]
        exact given no no' r (records.symm.trans h)

/-- `Rested` reads of the states only the Time Engine's values, the Holdover Unit and the clocks. -/
theorem Rested.congr {g : Nat} {s s' t t' : State} (h : Rested g s' t') (clock : s'.clock = s.clock)
    (hold : s'.holdover = s.holdover) (servo : s'.servo = { s.servo with
      lockRun := s'.servo.lockRun, unlockRun := s'.servo.unlockRun, lastLoop := s'.servo.lastLoop
      acqFromHold := s'.servo.acqFromHold, transient := s'.servo.transient })
    (engine : t.servo = t'.servo) (hold' : t.holdover = t'.holdover) : Rested g s t := by
  have state : s'.servo.state = s.servo.state := by rw [servo]
  have valid : s'.servo.phaseValid = s.servo.phaseValid := by rw [servo]
  have params : s'.servo.params = s.servo.params := by rw [servo]
  have f : s'.servo.f = s.servo.f := by rw [servo]
  have i : s'.servo.i = s.servo.i := by rw [servo]
  have rest : s'.servo.restState = s.servo.restState := by unfold Servo.restState; rw [valid]
  have record : s'.heldRecord g = s.heldRecord g := by
    unfold State.heldRecord State.stamp State.res
    rw [hold, clock, i]
  have freq : ∀ r, s'.heldFreq r = s.heldFreq r := fun r => by
    unfold State.heldFreq State.res
    rw [params, clock]
  constructor
  · rw [engine, h.state, rest]
  · rw [engine, h.valid, valid]
  · rw [engine, h.params, params]
  · rw [hold', ← hold]; exact h.hold
  · rw [hold', ← hold, ← valid, ← state]; exact h.kept
  · rw [hold', ← record, ← valid, ← state]; exact h.entered
  · rw [engine, ← valid, ← state, ← f, ← i]; exact h.still
  · intro v no no' r e
    rw [engine, ← freq]
    rw [hold'] at e
    exact h.given (valid.trans v) (by rw [state]; exact no) (by rw [state]; exact no') r e

/-- RESTART DATAPATH in the Time Engine (R115). -/
theorem State.restartServo_rested (s : State) (g : Nat) : Rested g s (s.restartServo g) := by
  have rested := ((s.updServo fun x => { x.clearRuns with acqFromHold := none }).clearTransient).setServo_rested g
  refine rested.congr rfl rfl rfl ?_ ?_
  · exact (delivered_servoConditions _).servo
  · exact (delivered_servoConditions _).holdover

theorem told_setServo_rest (s : State) (g : Nat) : Told s (s.setServo s.servo.restState g) := by
  have rest : s.servo.restState = .holdover ∨ s.servo.restState = .freerun := by
    unfold Servo.restState; split <;> simp
  by_cases same : s.servo.restState = s.servo.state
  · rw [State.setServo_same same]
    exact (Delivered.refl s).told
  · rcases rest with h | h
    · rw [h] at same ⊢
      rw [State.setServo_holdover (Ne.symm same)]
      exact (((told_resting s _).trans (told_takeHoldover _ _ g)).trans (told_regrade _)).trans
        (delivered_servoConditions _).told
    · rw [h] at same ⊢
      rw [State.setServo_freerun (Ne.symm same)]
      exact (((told_resting s _).trans (told_dropMismatch _)).trans (told_regrade _)).trans
        (delivered_servoConditions _).told

theorem told_restartServo (s : State) (g : Nat) : Told s (s.restartServo g) :=
  (((told_updServo s _).trans (told_clearTransient _)).trans (told_setServo_rest _ g)).trans
    (delivered_servoConditions _).told

theorem down_restartServo (s : State) (g : Nat) : Down s (s.restartServo g) :=
  (((down_updServo s _).trans (down_clearTransient _)).trans (down_setServo _ _ g)).trans (down_servoConditions _)

end Sys2Proof.Machine
end

section
/-! PROOFS. RESTART DATAPATH block by block: traffic, sessions, selection, references and their pins. -/
namespace Sys2Proof.Machine
open Sys2Proof

/-! ## Operations on one item after another -/

/-- What each operation of a run keeps, the run keeps. -/
theorem foldl_relates {α : Type} {R : State → State → Prop} (refl : ∀ s, R s s)
    (trans : ∀ {s t u}, R s t → R t u → R s u) {op : State → α → State} (h : ∀ t a, R t (op t a)) :
    ∀ (l : List α) (s : State), R s (l.foldl op s)
  | [], s => refl s
  | a :: l, s => trans (h s a) (foldl_relates refl trans h l (op s a))

section
variable {α β γ : Type} {read : State → α → β} {env : State → γ} {op : State → α → State} {g : γ → α → β → β}

theorem foldl_other (other : ∀ s a b, b ≠ a → read (op s a) b = read s b) : ∀ (l : List α) (s : State) (b : α),
    b ∉ l → read (l.foldl op s) b = read s b
  | [], _, _, _ => rfl
  | a :: l, s, b, h => by
    obtain ⟨ne, h⟩ := not_or.1 (mt List.mem_cons.2 h)
    rw [List.foldl_cons, foldl_other other l _ b h, other s a b ne]

/-- Where each operation changes its own item alone, by what no operation changes, each item is changed once. -/
theorem foldl_own (own : ∀ s a, read (op s a) a = g (env s) a (read s a))
    (other : ∀ s a b, b ≠ a → read (op s a) b = read s b) (keeps : ∀ s a, env (op s a) = env s) :
    ∀ (l : List α), l.Nodup → ∀ (s : State) (b : α), b ∈ l → read (l.foldl op s) b = g (env s) b (read s b)
  | [], _, _, _, m => absurd m List.not_mem_nil
  | a :: l, distinct, s, b, m => by
    obtain ⟨new, distinct⟩ := List.nodup_cons.1 distinct
    rw [List.foldl_cons]
    by_cases same : b = a
    · subst same
      rw [foldl_other other l _ b new, own]
    · have later : b ∈ l := (List.mem_cons.1 m).resolve_left same
      rw [foldl_own own other keeps l distinct _ b later, keeps, other s a b same]

end

/-! ## The traffic path (R18, R24) -/

theorem restartTraffic_frame (s : State) :
    s.restartTraffic = { s with ports := s.restartTraffic.ports, alarm := s.restartTraffic.alarm } := by
  unfold State.restartTraffic
  refine foldl_relates (R := fun s t => t = { s with ports := t.ports, alarm := t.alarm }) (fun _ => rfl) ?_
    (fun _ _ => rfl) allPorts s
  intro s t u a b
  rw [a] at b
  exact b

theorem restartTraffic_port (s : State) (p : Port) : s.restartTraffic.port p = restartPort (s.port p) := by
  refine foldl_own (read := State.port) (env := fun _ => ()) (g := fun _ _ x => restartPort x)
    (op := fun t q => (t.updPort q restartPort).report (recTimingLoss q) false)
    (fun t q => ?_) (fun t q k ne => ?_) (fun _ _ => rfl) allPorts (by decide) s p (mem_allPorts p)
  · exact (State.port_updPort t q q _).trans (if_pos rfl)
  · exact State.updPort_ne ne _

/-- Every port has reported TIMING_LOSS absent, and no other source has reported (R24). -/
theorem restartTraffic_loss (s : State) (p : Port) :
    (s.restartTraffic.alarm.record (recTimingLoss p)).present = false := by
  have overflow : ∀ q, recTimingLoss q ≠ recOverflow := fun q => by cases q <;> decide
  refine foldl_own (read := fun t q => (t.alarm.record (recTimingLoss q)).present) (env := fun _ => ())
    (g := fun _ _ _ => false) (op := fun t q => (t.updPort q restartPort).report (recTimingLoss q) false)
    (fun t q => ?_) (fun t q k ne => ?_) (fun _ _ => rfl) allPorts (by decide) s p (mem_allPorts p)
  · exact report_present _ _ _ _ _ _ (overflow q)
  · exact congrArg AlarmRecord.present (report_record_ne _ _ _ _ _ _ _ (recTimingLoss_ne ne) (overflow k))

theorem restartTraffic_record (s : State) {i : Fin 41} (own : ∀ q, i ≠ recTimingLoss q) (other : i ≠ recOverflow) :
    s.restartTraffic.alarm.record i = s.alarm.record i := by
  refine foldl_relates (R := fun s t => t.alarm.record i = s.alarm.record i) (fun _ => rfl)
    (fun a b => b.trans a) (op := fun t q => (t.updPort q restartPort).report (recTimingLoss q) false)
    (fun t q => ?_) allPorts s
  exact report_record_ne _ _ _ _ _ _ i (own q) other

theorem restartTraffic_timers (s : State) : s.alarm.sameTimers s.restartTraffic.alarm :=
  foldl_relates (R := fun s t => s.alarm.sameTimers t.alarm) (fun s => Alarm.sameTimers.refl s.alarm)
    (fun a b => a.trans b) (op := fun t q => (t.updPort q restartPort).report (recTimingLoss q) false)
    (fun _ _ => Alarm.report_timers _ _ _ _ _ _) allPorts s

/-! ## Sessions and selection (R45, R77, R89) -/

theorem restartSessions_frame (s : State) : s.restartSessions = { s with sessions := s.restartSessions.sessions } := by
  unfold State.restartSessions
  refine foldl_relates (R := fun s t => t = { s with sessions := t.sessions }) (fun _ => rfl) ?_
    (fun _ _ => rfl) allClients s
  intro s t u a b
  rw [a] at b
  exact b

/-- A Client Session as it starts over (R45). -/
def ClientSession.restarted (up : Bool) (x : ClientSession) : ClientSession :=
  if x.cfg.enabled && up then { x.toListening with noticeMissing := false } else x.toIdle

theorem restartSessions_client (s : State) (c : Client) :
    s.restartSessions.client c = (s.client c).restarted (s.port (clientPort c)).linkUp := by
  refine foldl_own (read := State.client) (env := fun t c => (t.port (clientPort c)).linkUp)
    (g := fun up c x => x.restarted (up c)) (op := fun t c => t.updClient c fun x =>
      if x.cfg.enabled && (t.port (clientPort c)).linkUp then { x.toListening with noticeMissing := false }
      else x.toIdle) (fun t c => ?_) (fun t c d ne => ?_) (fun _ _ => rfl) allClients (by decide) s c (by cases c <;> decide)
  · exact (State.client_updClient t c c _).trans (if_pos rfl)
  · exact (State.client_updClient t c d _).trans (if_neg ne)

theorem ClientSession.restarted_empty (up : Bool) (x : ClientSession) :
    (x.restarted up).outstanding = [] ∧ (x.restarted up).master = none ∧
      (x.restarted up).state = if x.cfg.enabled && up then .listening else .idle := by
  unfold ClientSession.restarted
  split <;> exact ⟨rfl, rfl, rfl⟩

/-! ## Bypass pins of a reference (R163) -/

theorem mem_allPins (k : Fin 4) : k ∈ allPins := by revert k; decide

theorem pinsDiscardOffset_tpin (s : State) (r : Ref) (k : Fin 4) : (s.pinsDiscardOffset r).tpin k =
    if (s.tpin k).bypassRef = some r then { s.tpin k with bypassOffset := none } else s.tpin k := by
  refine foldl_own (read := State.tpin) (env := fun _ => ())
    (g := fun _ _ x => if x.bypassRef = some r then { x with bypassOffset := none } else x)
    (op := fun t k => t.updPin k fun x => if x.bypassRef = some r then { x with bypassOffset := none } else x)
    (fun t j => ?_) (fun t j b ne => ?_) (fun _ _ => rfl) allPins (by decide) s k (mem_allPins k)
  · exact (State.tpin_updPin t j j _).trans (if_pos rfl)
  · exact (State.tpin_updPin t j b _).trans (if_neg ne)

theorem pinsFallback_tpin (s : State) (r : Ref) (k : Fin 4) : (s.pinsFallback r).tpin k =
    if (s.tpin k).bypassRef = some r then (s.tpin k).fallbackEval ((s.ref r).state = .qualified) s.clock
    else s.tpin k := by
  refine foldl_own (read := State.tpin) (env := fun _ => ())
    (g := fun _ _ x => if x.bypassRef = some r then x.fallbackEval ((s.ref r).state = .qualified) s.clock else x)
    (op := fun t k => t.updPin k fun x =>
      if x.bypassRef = some r then x.fallbackEval ((s.ref r).state = .qualified) s.clock else x)
    (fun t j => ?_) (fun t j b ne => ?_) (fun _ _ => rfl) allPins (by decide) s k (mem_allPins k)
  · exact (State.tpin_updPin t j j _).trans (if_pos rfl)
  · exact (State.tpin_updPin t j b _).trans (if_neg ne)

/-- A pin after RESTART DATAPATH: its entry, what it drives, the instants taken and the input counts are as they were
(R167). -/
def Pin.restarted (x y : Pin) : Prop :=
  y = { x with
    squelched := y.squelched, fallback := y.fallback, bypassOffset := y.bypassOffset, phase := y.phase, ctr := y.ctr }

theorem Pin.restarted.trans {x y z : Pin} (a : x.restarted y) (b : y.restarted z) : x.restarted z := by
  unfold Pin.restarted at a b ⊢
  rw [a] at b
  exact b

theorem Pin.steady.restarted {x y : Pin} (h : x.steady y) : x.restarted y ∧ y.bypassOffset = x.bypassOffset := by
  unfold Pin.steady at h
  unfold Pin.restarted
  rw [h]
  exact ⟨rfl, rfl⟩

theorem Pin.restarted.bypassRef {x y : Pin} (h : x.restarted y) : y.bypassRef = x.bypassRef := by
  unfold Pin.restarted at h
  rw [h]
  rfl

/-- A bypass output whose reference starts over: no Bypass Offset, and Fallback (R163). -/
def Pin.unbypassed (c : Clock) (x : Pin) : Pin := { x with bypassOffset := none }.fallbackEval false c

theorem Pin.unbypassed_spec (c : Clock) (x : Pin) : x.restarted (x.unbypassed c) ∧
    (x.unbypassed c).fallback = true ∧ (x.unbypassed c).bypassOffset = none := by
  have steady := Pin.steady_fallbackEval false c { x with bypassOffset := none }
  refine ⟨Pin.restarted.trans (y := { x with bypassOffset := none }) rfl steady.restarted.1, ?_, steady.restarted.2⟩
  unfold Pin.unbypassed Pin.fallbackEval
  dsimp only [Bool.false_and, Bool.not_false]
  split
  · next same => exact same.symm
  · rfl

/-! ## The references (R69) -/

theorem pinsFallback_frame (s : State) (r : Ref) : s.pinsFallback r = { s with pins := (s.pinsFallback r).pins } := rfl

theorem pinsDiscardOffset_frame (s : State) (r : Ref) :
    s.pinsDiscardOffset r = { s with pins := (s.pinsDiscardOffset r).pins } := rfl

theorem blankGnss_frame (s : State) (r : Ref) : s.blankGnss r = { s with gnss := (s.blankGnss r).gnss } := by
  unfold State.blankGnss
  split <;> rfl

/-- An enabled reference starts over before its state is reported (R69). -/
def State.refRestarted (s : State) (r : Ref) : State :=
  ((s.updRef r fun _ => s.enabledRecord r).blankGnss r).pinsDiscardOffset r

theorem State.restartRef_disabled {s : State} {r : Ref} (h : (s.ref r).state = .disabled) : s.restartRef r = s := by
  unfold State.restartRef
  rw [if_pos h]

theorem State.restartRef_enabled {s : State} {r : Ref} (h : (s.ref r).state ≠ .disabled) :
    s.restartRef r = ((s.refRestarted r).refReport r).pinsFallback r := by
  unfold State.restartRef
  rw [if_neg h]
  rfl

theorem refRestarted_frame (s : State) (r : Ref) : s.refRestarted r = { s with
    refs := (s.updRef r fun _ => s.enabledRecord r).refs, gnss := (s.refRestarted r).gnss
    pins := (s.refRestarted r).pins } := by
  unfold State.refRestarted
  rw [pinsDiscardOffset_frame, blankGnss_frame]
  rfl

/-- The blocks that a restart of the references leaves alone. -/
def State.monitored (s t : State) : Prop :=
  t = { s with refs := t.refs, gnss := t.gnss, pins := t.pins, alarm := t.alarm }

theorem State.monitored.trans {s t u : State} (a : s.monitored t) (b : t.monitored u) : s.monitored u := by
  unfold State.monitored at a b ⊢
  rw [a] at b
  exact b

theorem restartRef_monitored (s : State) (r : Ref) : s.monitored (s.restartRef r) := by
  by_cases h : (s.ref r).state = .disabled
  · rw [State.restartRef_disabled h]; rfl
  · rw [State.restartRef_enabled h]
    have started : s.monitored (s.refRestarted r) := by
      unfold State.monitored
      rw [refRestarted_frame]
    have reported : (s.refRestarted r).monitored ((s.refRestarted r).refReport r) := rfl
    refine (started.trans reported).trans ?_
    generalize (s.refRestarted r).refReport r = t
    unfold State.monitored
    rw [pinsFallback_frame]

theorem restartRef_record (s : State) (r : Ref) {i : Fin 41} (own : ∀ q, i ≠ recRefFail q) (other : i ≠ recOverflow) :
    (s.restartRef r).alarm.record i = s.alarm.record i := by
  by_cases h : (s.ref r).state = .disabled
  · rw [State.restartRef_disabled h]
  · rw [State.restartRef_enabled h]
    have same : (s.refRestarted r).alarm = s.alarm := by rw [refRestarted_frame]
    rw [← same]
    exact report_record_ne _ _ _ _ _ _ i (own r) other

theorem restartRef_timers (s : State) (r : Ref) : s.alarm.sameTimers (s.restartRef r).alarm := by
  by_cases h : (s.ref r).state = .disabled
  · rw [State.restartRef_disabled h]; exact Alarm.sameTimers.refl _
  · rw [State.restartRef_enabled h]
    have same : (s.refRestarted r).alarm = s.alarm := by rw [refRestarted_frame]
    rw [← same]
    exact Alarm.report_timers _ _ _ _ _ _

theorem refRestarted_ref (s : State) (r q : Ref) :
    (s.refRestarted r).ref q = if q = r then s.enabledRecord r else s.ref q := by
  rw [refRestarted_frame]
  exact State.ref_updRef s r q _

/-- The state of a reference that starts over, as for one just enabled (R63, R69). -/
def RefState.restarted (x : RefState) : RefState := if x = .disabled then .disabled else .monitoring

theorem RefState.restarted_disabled (x : RefState) : x.restarted = .disabled ↔ x = .disabled := by
  cases x <;> decide

theorem restartRef_state (s : State) (r q : Ref) : ((s.restartRef r).ref q).state =
    if q = r then (s.ref q).state.restarted else (s.ref q).state := by
  by_cases h : (s.ref r).state = .disabled
  · rw [State.restartRef_disabled h]
    split
    · next e => subst e; rw [h]; rfl
    · rfl
  · rw [State.restartRef_enabled h]
    have same : ((s.refRestarted r).refReport r).ref q = (s.refRestarted r).ref q := rfl
    rw [pinsFallback_ref, same, refRestarted_ref]
    split
    · next e =>
      subst e
      unfold RefState.restarted
      rw [if_neg h]
      rfl
    · rfl

theorem refRestarted_tpin (s : State) (r : Ref) (k : Fin 4) : (s.refRestarted r).tpin k =
    if (s.tpin k).bypassRef = some r then { s.tpin k with bypassOffset := none } else s.tpin k := by
  have pins : ((s.updRef r fun _ => s.enabledRecord r).blankGnss r).tpin k = s.tpin k := by
    rw [blankGnss_frame]; rfl
  unfold State.refRestarted
  rw [pinsDiscardOffset_tpin, pins]

/-- A reference that starts over takes the outputs in bypass of it out of bypass, and no other (R69, R163). -/
theorem restartRef_tpin (s : State) (r : Ref) (k : Fin 4) : (s.restartRef r).tpin k =
    if (s.ref r).state ≠ .disabled ∧ (s.tpin k).bypassRef = some r then (s.tpin k).unbypassed s.clock
    else s.tpin k := by
  by_cases h : (s.ref r).state = .disabled
  · rw [State.restartRef_disabled h, if_neg fun no => no.1 h]
  · rw [State.restartRef_enabled h, pinsFallback_tpin]
    have pin : ((s.refRestarted r).refReport r).tpin k = (s.refRestarted r).tpin k := rfl
    have state : (((s.refRestarted r).refReport r).ref r).state = .monitoring :=
      congrArg Reference.state ((refRestarted_ref s r r).trans (if_pos rfl))
    have clock : ((s.refRestarted r).refReport r).clock = s.clock := by
      show (s.refRestarted r).clock = _
      rw [refRestarted_frame]
    rw [pin, state, clock, refRestarted_tpin]
    by_cases bypass : (s.tpin k).bypassRef = some r
    · rw [if_pos bypass, if_pos (show Pin.bypassRef { s.tpin k with bypassOffset := none } = some r from bypass),
        if_pos ⟨h, bypass⟩]
      rfl
    · rw [if_neg bypass, if_neg bypass, if_neg fun no => bypass no.2]

/-! ## The Reference Monitor (R69) -/

theorem restartMonitor_monitored (s : State) : s.monitored s.restartMonitor :=
  foldl_relates (R := State.monitored) (fun _ => rfl) State.monitored.trans restartRef_monitored allRefs s

theorem restartMonitor_record (s : State) {i : Fin 41} (own : ∀ q, i ≠ recRefFail q) (other : i ≠ recOverflow) :
    s.restartMonitor.alarm.record i = s.alarm.record i :=
  foldl_relates (R := fun s t => t.alarm.record i = s.alarm.record i) (fun _ => rfl) (fun a b => b.trans a)
    (fun t r => restartRef_record t r own other) allRefs s

theorem restartMonitor_timers (s : State) : s.alarm.sameTimers s.restartMonitor.alarm :=
  foldl_relates (R := fun s t => s.alarm.sameTimers t.alarm) (fun s => Alarm.sameTimers.refl s.alarm)
    (fun a b => a.trans b) restartRef_timers allRefs s

theorem mem_allRefs (r : Ref) : r ∈ allRefs := by cases r <;> decide

theorem restartMonitor_state (s : State) (r : Ref) :
    (s.restartMonitor.ref r).state = (s.ref r).state.restarted := by
  refine foldl_own (read := fun t r => (t.ref r).state) (env := fun _ => ()) (g := fun _ _ x => x.restarted)
    (op := State.restartRef) (fun t q => ?_) (fun t q b ne => ?_) (fun _ _ => rfl) allRefs (by decide) s r (mem_allRefs r)
  · exact (restartRef_state t q q).trans (if_pos rfl)
  · exact (restartRef_state t q b).trans (if_neg ne)

/-- An output is in bypass of one of these references, and the reference is enabled. -/
def State.bypasses (s : State) (l : List Ref) (x : Pin) : Prop :=
  ∃ r, r ∈ l ∧ x.bypassRef = some r ∧ (s.ref r).state ≠ .disabled

/-- Out of bypass: no Bypass Offset, and Fallback. -/
def Pin.isUnbypassed (x : Pin) : Prop := x.fallback = true ∧ x.bypassOffset = none

/-- References that start over leave each output of an enabled one out of bypass, and every other as it was. -/
theorem foldl_restartRef_tpin (k : Fin 4) : ∀ (l : List Ref) (s : State),
    (s.tpin k).restarted ((l.foldl State.restartRef s).tpin k) ∧
    (s.bypasses l (s.tpin k) ∨ (s.tpin k).isUnbypassed → ((l.foldl State.restartRef s).tpin k).isUnbypassed) ∧
    (¬ s.bypasses l (s.tpin k) → (l.foldl State.restartRef s).tpin k = s.tpin k)
  | [], s => ⟨rfl, fun h => h.resolve_left fun ⟨_, m, _⟩ => absurd m List.not_mem_nil, fun _ => rfl⟩
  | r :: l, s => by
    obtain ⟨frame, out, same⟩ := foldl_restartRef_tpin k l (s.restartRef r)
    have enabled : ∀ q, ((s.restartRef r).ref q).state ≠ .disabled ↔ (s.ref q).state ≠ .disabled := fun q => by
      rw [restartRef_state]
      split
      · exact not_congr (RefState.restarted_disabled _)
      · exact Iff.rfl
    rw [List.foldl_cons]
    have pin := restartRef_tpin s r k
    obtain ⟨frame', out'⟩ := (s.tpin k).unbypassed_spec s.clock
    by_cases own : (s.ref r).state ≠ .disabled ∧ (s.tpin k).bypassRef = some r
    · rw [if_pos own] at pin
      rw [pin] at frame out
      exact ⟨frame'.trans frame, fun _ => out (.inr out'),
        fun no => absurd ⟨r, List.mem_cons_self, own.2, own.1⟩ no⟩
    · rw [if_neg own] at pin
      rw [pin] at frame out same
      have rest : (s.restartRef r).bypasses l (s.tpin k) ↔ s.bypasses (r :: l) (s.tpin k) := by
        constructor
        · rintro ⟨q, m, bypass, on⟩
          exact ⟨q, List.mem_cons_of_mem _ m, bypass, (enabled q).1 on⟩
        · rintro ⟨q, m, bypass, on⟩
          rcases List.mem_cons.1 m with rfl | m
          · exact absurd ⟨on, bypass⟩ own
          · exact ⟨q, m, bypass, (enabled q).2 on⟩
      rw [rest] at out same
      exact ⟨frame, out, same⟩

end Sys2Proof.Machine
end

section
/-! PROOFS. RESTART DATAPATH block by block: the sites, and the blocks put together. -/
namespace Sys2Proof.Machine
open Sys2Proof

/-! ## The sites (R141, R155) -/

/-- A Delivery Session as the three conditions of its Serve Delay timer are looked at (R141). -/
def Site.checked (up : Bool) (announced : Nat) (c : Clock) (x : Site) : Site :=
  if x.state = .muted ∧ up = true ∧ x.cfg.minGrade ≤ announced then
    if timerRuns x.serve then x
    else if x.cfg.serveDelay = 0 then
      { x with
        state := .serving, muteReason := none, serve := timerZero, markDone := c.counter
        ctr := { x.ctr with serveEntries := bump x.ctr.serveEntries } }
    else { x with serve := timerStart c.residence }
  else { x with serve := timerZero }

theorem serveCheck_site (s : State) (k j : Fin 6) : (s.serveCheck k).site j =
    if j = k then (s.site k).checked (s.port (sitePort k)).linkUp s.holdover.announced s.clock else s.site j := by
  have upd : ∀ f : Site → Site, (s.updSite k f).site j = if j = k then f (s.site k) else s.site j := fun f => by
    rw [State.site_updSite]
    split
    · next e => rw [e]
    · rfl
  have same : s.site j = if j = k then s.site k else s.site j := by
    split
    · next e => rw [e]
    · rfl
  unfold State.serveCheck Site.checked
  by_cases may : s.mayServe k = true
  · rw [if_pos may, if_pos ((State.mayServe_iff s k).1 may)]
    split
    · exact same
    · split
      · exact upd _
      · exact upd _
  · rw [if_neg may, if_neg (mt (State.mayServe_iff s k).2 may)]
    exact upd _

/-- The sites as they start over, before their timers are looked at (R155). -/
def State.sitesRestarted (s : State) : State :=
  allSites.foldl (fun t k => t.updSite k restartSite) { s with servingSince := false }

/-- The Serve Delay timer and the conditions of one site (R141, R153). -/
def State.checkSite (s : State) (k : Fin 6) : State := (s.serveCheck k).siteConditions k

theorem restartSites_eq (s : State) : s.restartSites = allSites.foldl State.checkSite s.sitesRestarted := by
  unfold State.restartSites State.sitesRestarted State.checkSite
  rfl

theorem sitesRestarted_frame (s : State) :
    s.sitesRestarted = { s with sites := s.sitesRestarted.sites, servingSince := false } := by
  unfold State.sitesRestarted
  refine foldl_relates (R := fun s t => t = { s with sites := t.sites }) (fun _ => rfl) ?_ (fun _ _ => rfl) allSites
    { s with servingSince := false }
  intro s t u a b
  rw [a] at b
  exact b

theorem mem_allSites (k : Fin 6) : k ∈ allSites := by revert k; decide

theorem sitesRestarted_site (s : State) (k : Fin 6) : s.sitesRestarted.site k = restartSite (s.site k) := by
  refine foldl_own (read := State.site) (env := fun _ => ()) (g := fun _ _ x => restartSite x)
    (op := fun t k => t.updSite k restartSite) (fun t j => ?_) (fun t j b ne => ?_) (fun _ _ => rfl) allSites (by decide)
    { s with servingSince := false } k (mem_allSites k)
  · exact (State.site_updSite t j j _).trans (if_pos rfl)
  · exact (State.site_updSite t j b _).trans (if_neg ne)

/-- What looking at the sites' timers leaves alone. -/
def State.sitesOnly (s t : State) : Prop :=
  t = { s with sites := t.sites, servingSince := t.servingSince, alarm := t.alarm }

theorem State.sitesOnly.trans {s t u : State} (a : s.sitesOnly t) (b : t.sitesOnly u) : s.sitesOnly u := by
  unfold State.sitesOnly at a b ⊢
  rw [a] at b
  exact b

theorem checkSite_sitesOnly (s : State) (k : Fin 6) : s.sitesOnly (s.checkSite k) := by
  unfold State.checkSite
  refine State.sitesOnly.trans (t := s.serveCheck k) ?_ rfl
  unfold State.serveCheck
  split
  · split
    · rfl
    · split <;> rfl
  · rfl

theorem checkSite_site (s : State) (k j : Fin 6) : (s.checkSite k).site j =
    if j = k then (s.site k).checked (s.port (sitePort k)).linkUp s.holdover.announced s.clock else s.site j :=
  serveCheck_site s k j

theorem foldl_checkSite (s : State) : s.sitesOnly (allSites.foldl State.checkSite s) :=
  foldl_relates (R := State.sitesOnly) (fun _ => rfl) State.sitesOnly.trans checkSite_sitesOnly allSites s

theorem restartSites_sitesOnly (s : State) : s.sitesOnly s.restartSites := by
  have started : s.sitesOnly s.sitesRestarted := by
    unfold State.sitesOnly
    rw [sitesRestarted_frame]
  rw [restartSites_eq]
  exact started.trans (foldl_checkSite _)

theorem foldl_checkSite_site (s : State) (k : Fin 6) : (allSites.foldl State.checkSite s).site k =
    (s.site k).checked (s.port (sitePort k)).linkUp s.holdover.announced s.clock := by
  refine foldl_own (read := State.site) (env := fun t => (t.ports, t.holdover, t.clock))
    (g := fun e k x => x.checked (e.1.get (portIdx (sitePort k))).linkUp e.2.1.announced e.2.2) (op := State.checkSite)
    (fun t j => ?_) (fun t j b ne => ?_) (fun t j => ?_) allSites (by decide) s k (mem_allSites k)
  · exact (checkSite_site t j j).trans (if_pos rfl)
  · exact (checkSite_site t j b).trans (if_neg ne)
  · have frame := checkSite_sitesOnly t j
    unfold State.sitesOnly at frame
    rw [frame]

/-- Every site starts over, and its timer is looked at once (R155). -/
theorem restartSites_site (s : State) (k : Fin 6) : s.restartSites.site k =
    (restartSite (s.site k)).checked (s.port (sitePort k)).linkUp s.holdover.announced s.clock := by
  have ports : s.sitesRestarted.ports = s.ports := by rw [sitesRestarted_frame]
  have port : ∀ p, s.sitesRestarted.port p = s.port p := fun p => by unfold State.port; rw [ports]
  have hold : s.sitesRestarted.holdover = s.holdover := by rw [sitesRestarted_frame]
  have clock : s.sitesRestarted.clock = s.clock := by rw [sitesRestarted_frame]
  rw [restartSites_eq, foldl_checkSite_site, sitesRestarted_site, port, hold, clock]

/-- The Serving-since-restart flag says whether a site serves: no site serves as the sites start over. -/
def State.servingLaw (s : State) : Prop := s.servingSince = true ↔ ∃ k, (s.site k).state = .serving

theorem checkSite_servingLaw {s : State} (h : s.servingLaw) (k : Fin 6) : (s.checkSite k).servingLaw := by
  have others : ∀ {t : State}, t.servingSince = s.servingSince → (∀ j, (t.site j).state = (s.site j).state) →
      t.servingLaw := fun e sites => by
    unfold State.servingLaw
    rw [e]
    simp only [sites]
    exact h
  have timer : ∀ x : Timer, ∀ j, ((s.updSite k fun y => { y with serve := x }).site j).state = (s.site j).state := by
    intro x j
    rw [State.site_updSite]
    split <;> rfl
  show (s.serveCheck k).servingLaw
  unfold State.serveCheck
  split
  · split
    · exact h
    · split
      · exact ⟨fun _ => ⟨k, by rw [State.enterServing_site]⟩, fun _ => rfl⟩
      · exact others rfl (timer _)
  · exact others rfl (timer _)

theorem restartSite_state (x : Site) : (restartSite x).state = if x.state = .disabled then .disabled else .muted := by
  unfold restartSite
  split
  · next h => exact h
  · rfl

theorem restartSites_servingLaw (s : State) : s.restartSites.servingLaw := by
  rw [restartSites_eq]
  have start : s.sitesRestarted.servingLaw := by
    refine ⟨fun h => Bool.noConfusion h, fun ⟨k, h⟩ => ?_⟩
    rw [sitesRestarted_site, restartSite_state] at h
    split at h <;> cases h
  exact foldl_relates (R := fun s t => s.servingLaw → t.servingLaw) (fun _ => id) (fun a b h => b (a h))
    (fun t k h => checkSite_servingLaw h k) allSites s.sitesRestarted start

theorem restartSites_down (s : State) : Down s s.restartSites := by
  have started : Down s s.sitesRestarted := by
    unfold State.sitesRestarted
    exact (down_serving s false).trans (Down.foldl (fun t k => t.updSite k restartSite)
      (fun t k => down_updSite t k restartSite) allSites _)
  have looked : ∀ u, Down u (allSites.foldl State.checkSite u) :=
    Down.foldl State.checkSite (fun t k => (down_serveCheck t k).trans (down_siteConditions _ k)) allSites
  rw [restartSites_eq]
  exact started.trans (looked _)

theorem restartSites_timers (s : State) : s.alarm.sameTimers s.restartSites.alarm := by
  have looked : ∀ u, Delivered u (allSites.foldl State.checkSite u) :=
    Delivered.foldl State.checkSite (fun t k => (delivered_serveCheck t k).trans (delivered_siteConditions _ k)) allSites
  have same : s.sitesRestarted.alarm = s.alarm := by rw [sitesRestarted_frame]
  rw [restartSites_eq, ← same]
  exact (looked _).timers

/-! ## The squelch (R164) -/

theorem deliverSquelch_frame (s : State) : s.deliverSquelch = { s with pins := s.deliverSquelch.pins } := rfl

theorem deliverSquelch_tpin (s : State) (k : Fin 4) :
    s.deliverSquelch.tpin k = (s.tpin k).squelchEval s.holdover.announced s.clock := by
  refine foldl_own (read := State.tpin) (env := fun _ => ())
    (g := fun _ _ x => x.squelchEval s.holdover.announced s.clock)
    (op := fun t k => t.updPin k (Pin.squelchEval s.holdover.announced s.clock))
    (fun t j => ?_) (fun t j b ne => ?_) (fun _ _ => rfl) allPins (by decide) s k (mem_allPins k)
  · exact (State.tpin_updPin t j j _).trans (if_pos rfl)
  · exact (State.tpin_updPin t j b _).trans (if_neg ne)

theorem Pin.squelchEval_squelched (grade : Nat) (c : Clock) (x : Pin) : (x.squelchEval grade c).squelched = true ↔
    (x.cfg.function = .ppsOut ∨ x.cfg.function = .freqOut) ∧ x.cfg.outEnabled = true ∧ grade < x.cfg.squelch := by
  have output : x.outputOn = true ↔
      (x.cfg.function = .ppsOut ∨ x.cfg.function = .freqOut) ∧ x.cfg.outEnabled = true := by
    unfold Pin.outputOn
    cases h : x.cfg.function <;> simp [isOutput]
  rw [← and_assoc, ← output]
  unfold Pin.squelchEval
  cases on : x.outputOn with
  | false => simp
  | true =>
    by_cases low : grade < x.cfg.squelch
    · cases squelched : x.squelched <;> simp [low, squelched]
    · cases squelched : x.squelched <;> simp [low, squelched]

/-! ## The grade in the rest states (R130) -/

theorem State.gradeNow_rest {s : State} (slew : s.realign.slew = none)
    (rest : s.servo.state = .holdover ∨ s.servo.state = .freerun) : s.gradeNow =
      if s.servo.state = .holdover then s.holdover.holdGrade s.res false else s.holdover.grades.freerun := by
  unfold State.gradeNow State.baseGrade
  rw [slew]
  rcases rest with h | h <;> rw [h] <;> rfl

/-- The rest-state grade reads the record, the Budget Table and the grades of the Holdover Unit. -/
theorem Holdover.holdGrade_congr {x y : Holdover} (budget : y.budget = x.budget) (record : y.record = x.record)
    (grades : y.grades = x.grades) (res : Nat) (assisted : Bool) : y.holdGrade res assisted = x.holdGrade res assisted := by
  unfold Holdover.holdGrade Holdover.elapsedNow
  rw [budget, record, grades]

end Sys2Proof.Machine
end

section
/-! PROOFS. What the restart event of RESTART(DATAPATH) leaves (O22), from its blocks. -/
namespace Sys2Proof.Machine
open Sys2Proof

/-! ## The stages of the restart event -/

/-- The traffic path, the sessions and the selection have started over. -/
def State.restartSelected (s : State) : State := s.restartTraffic.restartSessions.restartSelection

/-- The Time Engine too, with the Announced Grade before the event as Entry Grade (R126). -/
def State.restartServed (s : State) : State := s.restartSelected.restartServo s.holdover.announced

/-- The references and the Holdover Unit too. -/
def State.restartGraded (s : State) : State := s.restartServed.restartMonitor.restartHoldover

theorem State.restartBlocks_eq (s : State) : s.restartBlocks = s.restartGraded.restartSites.deliverSquelch := rfl

theorem restartSelected_frame (s : State) : s.restartSelected = { s with
    ports := s.restartSelected.ports, alarm := s.restartSelected.alarm, sessions := s.restartSelected.sessions
    selector := { s.selector with phase := none, phaseForced := false, freq := none, freqForced := false }
    realign := { endDecision s.realign with slew := none, suspended := none } } := by
  have traffic := restartTraffic_frame s
  have sessions := restartSessions_frame s.restartTraffic
  unfold State.restartSelected
  generalize s.restartTraffic = u at traffic sessions ⊢
  generalize u.restartSessions = w at sessions ⊢
  have frame : w = { s with ports := u.ports, alarm := u.alarm, sessions := w.sessions } := by
    rw [traffic] at sessions
    exact sessions
  have ports : w.ports = u.ports := by rw [frame]
  have alarm : w.alarm = u.alarm := by rw [frame]
  rw [← ports, ← alarm] at frame
  have selected : w.restartSelection = { w with
      selector := { w.selector with phase := none, phaseForced := false, freq := none, freqForced := false }
      realign := { endDecision w.realign with slew := none, suspended := none } } := rfl
  rw [frame] at selected
  rw [frame]
  exact selected

theorem restartSelected_ports (s : State) : s.restartSelected.ports = s.restartTraffic.ports := by
  have sessions := restartSessions_frame s.restartTraffic
  unfold State.restartSelected
  generalize s.restartTraffic = u at sessions ⊢
  generalize u.restartSessions = w at sessions ⊢
  show w.ports = u.ports
  rw [sessions]

theorem restartSelected_alarm (s : State) : s.restartSelected.alarm = s.restartTraffic.alarm := by
  have sessions := restartSessions_frame s.restartTraffic
  unfold State.restartSelected
  generalize s.restartTraffic = u at sessions ⊢
  generalize u.restartSessions = w at sessions ⊢
  show w.alarm = u.alarm
  rw [sessions]

theorem restartServed_down (s : State) : Down s.restartSelected s.restartServed := down_restartServo _ _

theorem restartServed_told (s : State) : Told s.restartSelected s.restartServed := told_restartServo _ _

theorem restartServed_rested (s : State) : Rested s.holdover.announced s s.restartServed := by
  have servo : s.restartSelected.servo = s.servo := by rw [restartSelected_frame]
  refine (s.restartSelected.restartServo_rested s.holdover.announced).congr ?_ ?_ ?_ rfl rfl
  · rw [restartSelected_frame]
  · rw [restartSelected_frame]
  · rw [servo]

/-- The Holdover Unit as it starts over, before the grade is computed (R136). -/
def State.holdRestarted (s : State) : State := s.updHold fun x => { x with settle := none, frozen := none }

/-- HISTORY_SHORT is reported as the record has it, and the grade is computed (R136). -/
theorem restartHoldover_eq (s : State) :
    ∃ short, s.restartHoldover = (s.holdRestarted.report recHistoryShort short).regrade := by
  unfold State.restartHoldover
  exact ⟨_, rfl⟩

theorem restartHoldover_delivered (s : State) : ∃ c, Delivered (s.holdRestarted.updHold fun x =>
    { x with announced := s.holdRestarted.gradeNow, ctr := c }) s.restartHoldover := by
  obtain ⟨short, graded⟩ := restartHoldover_eq s
  rw [graded]
  obtain ⟨c, regraded⟩ := (s.holdRestarted.report recHistoryShort short).regrade_delivered
  refine ⟨c, Delivered.trans ?_ regraded⟩
  exact ⟨rfl, rfl, rfl, rfl, fun _ => Site.regraded.refl _, fun _ => rfl, Alarm.report_timers _ _ _ _ _ _⟩

theorem restartHoldover_down (s : State) : Down s s.restartHoldover := by
  obtain ⟨short, graded⟩ := restartHoldover_eq s
  rw [graded]
  exact ((down_updHold s _).trans (down_report _ recHistoryShort _ (by decide))).trans (down_regrade _)

theorem restartHoldover_told (s : State) : Told s s.restartHoldover := by
  obtain ⟨c, d⟩ := restartHoldover_delivered s
  exact ((told_updHold s _).trans (told_updHold _ _)).trans d.told

/-- The squelch after the sites: beside theirs, it changes the pins. -/
theorem State.sitesOnly.squelched {s u : State} (sites : s.sitesOnly u) : u.deliverSquelch = { s with
    sites := u.deliverSquelch.sites, servingSince := u.deliverSquelch.servingSince, alarm := u.deliverSquelch.alarm
    pins := u.deliverSquelch.pins } := by
  have squelch := deliverSquelch_frame u
  unfold State.sitesOnly at sites
  generalize u.deliverSquelch = v at squelch ⊢
  have alarm : v.alarm = u.alarm := by rw [squelch]
  have same : v.sites = u.sites := by rw [squelch]
  have since : v.servingSince = u.servingSince := by rw [squelch]
  rw [alarm, same, since]
  rw [sites] at squelch
  exact squelch

theorem restartBlocks_frame (s : State) : s.restartBlocks = { s.restartGraded with
    sites := s.restartBlocks.sites, servingSince := s.restartBlocks.servingSince, alarm := s.restartBlocks.alarm
    pins := s.restartBlocks.pins } := by
  rw [State.restartBlocks_eq]
  exact (restartSites_sitesOnly s.restartGraded).squelched

end Sys2Proof.Machine
end

section
/-! PROOFS. What the restart event of RESTART(DATAPATH) leaves (O22): the clauses, block by block. -/
namespace Sys2Proof.Machine
open Sys2Proof

/-! ## Ports (R18, R24) -/

theorem restartPort_withoutMarks (x : PortState) : (restartPort x).withoutMarks = restartPort x := rfl

/-- The blocks after the traffic path leave the emptied queues empty, and all else of a port alone. -/
theorem restartBlocks_port (s : State) (p : Port) : s.restartBlocks.port p = restartPort (s.port p) := by
  have selected : s.restartSelected.port p = restartPort (s.port p) := by
    rw [← restartTraffic_port]
    unfold State.port
    rw [restartSelected_ports]
  have down : ∀ {a b : State}, Down a b → a.port p = restartPort (s.port p) → b.port p = restartPort (s.port p) := by
    intro a b d h
    rcases d.ports p with e | ⟨-, e⟩
    · exact e.trans h
    · rw [e, h, restartPort_withoutMarks]
  have monitored : s.restartServed.restartMonitor.ports = s.restartServed.ports := by
    have frame := restartMonitor_monitored s.restartServed
    unfold State.monitored at frame
    rw [frame]
  have graded := down (restartHoldover_down _) (a := s.restartServed.restartMonitor) (by
    unfold State.port
    rw [monitored]
    exact down (restartServed_down s) selected)
  have blocks : s.restartBlocks.ports = s.restartGraded.ports := by rw [restartBlocks_frame]
  unfold State.port
  rw [blocks]
  exact graded

/-! ## Alarm records and the Alarm Unit's timers (R188) -/

/-- A record that no block after the traffic path reports. -/
theorem restartBlocks_record (s : State) {i : Fin 41} (up : isDownstream i = false) (own : ∀ q, i ≠ recRefFail q) :
    s.restartBlocks.alarm.record i = s.restartTraffic.alarm.record i := by
  have other : i ≠ recOverflow := fun e => by rw [e] at up; exact absurd up (by decide)
  have alarm : s.restartBlocks.alarm = s.restartGraded.restartSites.alarm := by
    rw [State.restartBlocks_eq, deliverSquelch_frame]
  rw [alarm, (restartSites_down s.restartGraded).recs i up, ← restartSelected_alarm]
  have graded : s.restartGraded.alarm.record i = s.restartServed.restartMonitor.alarm.record i :=
    (restartHoldover_down _).recs i up
  rw [graded, restartMonitor_record _ own other, (restartServed_down s).recs i up]

theorem restartBlocks_timers (s : State) : s.alarm.sameTimers s.restartBlocks.alarm := by
  have alarm : s.restartBlocks.alarm = s.restartGraded.restartSites.alarm := by
    rw [State.restartBlocks_eq, deliverSquelch_frame]
  have traffic := restartTraffic_timers s
  rw [← restartSelected_alarm] at traffic
  rw [alarm]
  exact (((traffic.trans (restartServed_told s).timers).trans (restartMonitor_timers _)).trans
    (restartHoldover_told _).timers).trans (restartSites_timers _)

/-! ## Selection and realignment (R77, R89) -/

theorem restartGraded_selection (s : State) : s.restartGraded.selector = s.restartSelected.selector ∧
    s.restartGraded.realign = s.restartSelected.realign := by
  have frame := restartMonitor_monitored s.restartServed
  have graded : Told s.restartServed.restartMonitor s.restartGraded := restartHoldover_told _
  have served := restartServed_told s
  unfold State.monitored at frame
  have selector : s.restartServed.restartMonitor.selector = s.restartServed.selector := by rw [frame]
  have realign : s.restartServed.restartMonitor.realign = s.restartServed.realign := by rw [frame]
  exact ⟨(graded.selector.trans selector).trans served.selector, (graded.realign.trans realign).trans served.realign⟩

theorem restartBlocks_selector (s : State) : s.restartBlocks.selector =
    { s.selector with phase := none, phaseForced := false, freq := none, freqForced := false } := by
  have blocks : s.restartBlocks.selector = s.restartGraded.selector := by rw [restartBlocks_frame]
  rw [blocks, (restartGraded_selection s).1, restartSelected_frame]

theorem restartBlocks_realign (s : State) :
    s.restartBlocks.realign = { endDecision s.realign with slew := none, suspended := none } := by
  have blocks : s.restartBlocks.realign = s.restartGraded.realign := by rw [restartBlocks_frame]
  rw [blocks, (restartGraded_selection s).2, restartSelected_frame]

/-! ## Time Engine and Holdover Unit (R115, R136) -/

theorem restartMonitor_keeps (s : State) : s.restartMonitor.clock = s.clock ∧ s.restartMonitor.servo = s.servo ∧
    s.restartMonitor.holdover = s.holdover ∧ s.restartMonitor.sites = s.sites ∧
    s.restartMonitor.sessions = s.sessions := by
  have frame := restartMonitor_monitored s
  unfold State.monitored at frame
  generalize s.restartMonitor = t at frame
  rw [frame]
  exact ⟨rfl, rfl, rfl, rfl, rfl⟩

theorem restartHoldover_servo (s : State) : s.restartHoldover.servo = s.servo := by
  obtain ⟨c, graded⟩ := restartHoldover_delivered s
  exact graded.servo

theorem restartHoldover_holdover (s : State) : ∃ c, s.restartHoldover.holdover = { s.holdover with
    settle := none, frozen := none, announced := s.holdRestarted.gradeNow, ctr := c } := by
  obtain ⟨c, graded⟩ := restartHoldover_delivered s
  exact ⟨c, graded.holdover⟩

theorem State.restartGraded_eq (s : State) : s.restartGraded = s.restartServed.restartMonitor.restartHoldover := rfl

theorem restartBlocks_servo (s : State) : s.restartBlocks.servo = s.restartServed.servo := by
  have blocks : s.restartBlocks.servo = s.restartGraded.servo := by rw [restartBlocks_frame]
  rw [blocks, State.restartGraded_eq, restartHoldover_servo, (restartMonitor_keeps s.restartServed).2.1]

/-- The Holdover Unit: a record, the grade announced, and the rest as it was but Settle Value and Frozen Grade. -/
theorem restartBlocks_holdover (s : State) : ∃ c, s.restartBlocks.holdover = { s.holdover with
    settle := none, frozen := none, record := s.restartServed.holdover.record
    announced := s.restartServed.restartMonitor.holdRestarted.gradeNow, ctr := c } := by
  have blocks : s.restartBlocks.holdover = s.restartGraded.holdover := by rw [restartBlocks_frame]
  have hold := (restartServed_rested s).hold
  have keeps := (restartMonitor_keeps s.restartServed).2.2.1
  obtain ⟨c, graded⟩ := restartHoldover_holdover s.restartServed.restartMonitor
  refine ⟨c, ?_⟩
  rw [blocks, State.restartGraded_eq, graded, keeps]
  unfold Holdover.rested at hold
  generalize s.restartServed.restartMonitor.holdRestarted.gradeNow = grade
  generalize s.restartServed.holdover = y at hold ⊢
  rw [hold]

theorem Servo.restState_cases (x : Servo) : x.restState = .holdover ∨ x.restState = .freerun := by
  unfold Servo.restState
  split <;> simp

/-- The grade announced is the one computed from what the restart leaves (R130, R132). -/
theorem restartDatapath_announced (s : State) :
    s.restartBlocks.holdover.announced = s.restartDatapath.gradeNow := by
  obtain ⟨clock, servo, hold, -, -⟩ := restartMonitor_keeps s.restartServed
  have rested := restartServed_rested s
  have frame := restartMonitor_monitored s.restartServed
  unfold State.monitored at frame
  have slew : s.restartServed.restartMonitor.realign.slew = none := by
    rw [frame, (restartServed_told s).realign, restartSelected_frame]
  have clocks : s.restartServed.restartMonitor.clock = s.restartBlocks.clock := by
    have selected : s.restartSelected.clock = s.clock := by rw [restartSelected_frame]
    rw [clock, (restartServed_down s).clock, selected, (calm_restartBlocks s).clock]
  obtain ⟨c, final⟩ := restartBlocks_holdover s
  have announced := congrArg Holdover.announced final
  have grades := congrArg Holdover.grades final
  have budget := congrArg Holdover.budget final
  have record := congrArg Holdover.record final
  have engine := restartBlocks_servo s
  have slewed := congrArg Realign.slew (restartBlocks_realign s)
  have old := rested.hold
  unfold Holdover.rested at old
  have grades' := congrArg Holdover.grades old
  have budget' := congrArg Holdover.budget old
  rw [← servo] at engine
  rw [← hold] at record grades' budget'
  have state : s.restartServed.restartMonitor.servo.state = s.servo.restState := by rw [servo]; exact rested.state
  rw [State.restartDatapath_eq]
  generalize s.restartBlocks = v at announced grades budget record engine slewed clocks ⊢
  generalize s.restartServed.restartMonitor = m at slew clocks announced record engine grades' budget' state
  have rest := s.servo.restState_cases
  have before : m.holdRestarted.gradeNow = _ := State.gradeNow_rest (s := m.holdRestarted) slew (by
    show m.servo.state = _ ∨ m.servo.state = _
    rw [state]; exact rest)
  have after : v.restartMgmt.zeroCounters.gradeNow = _ := State.gradeNow_rest (s := v.restartMgmt.zeroCounters) slewed (by
    show v.servo.state = _ ∨ v.servo.state = _
    rw [engine, state]; exact rest)
  rw [after]
  refine announced.trans (before.trans ?_)
  show (if m.servo.state = .holdover then m.holdRestarted.holdover.holdGrade m.clock.residence false
    else m.holdover.grades.freerun) = if v.servo.state = .holdover then
      v.restartMgmt.zeroCounters.holdover.holdGrade v.clock.residence false else v.holdover.grades.freerun
  have gradesOf : m.holdover.grades = v.holdover.grades := grades'.trans grades.symm
  have table : m.holdRestarted.holdover.holdGrade m.clock.residence false =
      v.restartMgmt.zeroCounters.holdover.holdGrade m.clock.residence false :=
    Holdover.holdGrade_congr (budget'.trans budget.symm) record.symm gradesOf _ _
  rw [engine, table, gradesOf, clocks]

/-! ## Sessions (R45) -/

theorem restartSelected_sessions (s : State) :
    s.restartSelected.sessions = s.restartTraffic.restartSessions.sessions := by
  unfold State.restartSelected
  generalize s.restartTraffic.restartSessions = u
  rfl

theorem restartTraffic_client (s : State) (c : Client) : s.restartTraffic.client c = s.client c := by
  have frame := restartTraffic_frame s
  have sessions : s.restartTraffic.sessions = s.sessions := by rw [frame]
  unfold State.client
  rw [sessions]

theorem restartBlocks_client (s : State) (c : Client) :
    s.restartBlocks.client c = (s.client c).restarted (s.port (clientPort c)).linkUp := by
  have blocks : s.restartBlocks.sessions = s.restartGraded.sessions := by rw [restartBlocks_frame]
  have graded : s.restartGraded.sessions = s.restartServed.sessions := by
    rw [State.restartGraded_eq, (restartHoldover_down _).sessions, (restartMonitor_keeps _).2.2.2.2]
  have selected : s.restartSelected.client c = s.restartTraffic.restartSessions.client c := by
    unfold State.client
    rw [restartSelected_sessions]
  have link : (s.restartTraffic.port (clientPort c)).linkUp = (s.port (clientPort c)).linkUp := by
    rw [restartTraffic_port]
    rfl
  have whole : s.restartBlocks.client c = s.restartSelected.client c := by
    unfold State.client
    rw [blocks, graded, (restartServed_down s).sessions]
  rw [whole, selected, restartSessions_client, restartTraffic_client, link]

/-! ## References (R69) -/

theorem Down.refState {s t : State} (d : Down s t) (r : Ref) : (t.ref r).state = (s.ref r).state := by
  by_cases gnss : r = .gnss
  · subst gnss
    obtain ⟨ds, same, -⟩ := d.gref
    rw [same]
  · rw [d.refs r gnss]

theorem restartServed_refState (s : State) (r : Ref) : (s.restartServed.ref r).state = (s.ref r).state := by
  have selected : s.restartSelected.refs = s.refs := by rw [restartSelected_frame]
  rw [(restartServed_down s).refState r]
  unfold State.ref
  rw [selected]

theorem restartBlocks_refState (s : State) (r : Ref) :
    (s.restartBlocks.ref r).state = (s.ref r).state.restarted := by
  have blocks : s.restartBlocks.refs = s.restartGraded.refs := by rw [restartBlocks_frame]
  have whole : s.restartBlocks.ref r = s.restartGraded.ref r := by
    unfold State.ref
    rw [blocks]
  rw [whole, State.restartGraded_eq, (restartHoldover_down _).refState r, restartMonitor_state, restartServed_refState]

/-! ## Sites (R155) -/

theorem restartGraded_site (s : State) (k : Fin 6) : (s.site k).regraded (s.restartGraded.site k) := by
  have selected : s.restartSelected.sites = s.sites := by rw [restartSelected_frame]
  have monitored := (restartMonitor_keeps s.restartServed).2.2.2.1
  have before : s.restartServed.restartMonitor.site k = s.restartServed.site k := by
    unfold State.site
    rw [monitored]
  have start : s.restartSelected.site k = s.site k := by
    unfold State.site
    rw [selected]
  have served := (restartServed_told s).sites k
  have graded := (restartHoldover_told s.restartServed.restartMonitor).sites k
  rw [start] at served
  rw [before] at graded
  rw [State.restartGraded_eq]
  exact served.trans graded

theorem restartBlocks_site (s : State) (k : Fin 6) : ∃ y, (s.site k).regraded y ∧ s.restartBlocks.site k =
    (restartSite y).checked (s.port (sitePort k)).linkUp s.restartBlocks.holdover.announced s.clock := by
  have clock : s.restartBlocks.clock = s.clock := (calm_restartBlocks s).clock
  have link : (s.restartBlocks.port (sitePort k)).linkUp = (s.port (sitePort k)).linkUp :=
    (calm_restartBlocks s).links (sitePort k)
  have ports : s.restartBlocks.ports = s.restartGraded.ports := by rw [restartBlocks_frame]
  have hold : s.restartBlocks.holdover = s.restartGraded.holdover := by rw [restartBlocks_frame]
  have clock' : s.restartBlocks.clock = s.restartGraded.clock := by rw [restartBlocks_frame]
  have sites : s.restartBlocks.sites = s.restartGraded.restartSites.sites := by
    rw [State.restartBlocks_eq, deliverSquelch_frame]
  have site : s.restartBlocks.site k = s.restartGraded.restartSites.site k := by
    unfold State.site
    rw [sites]
  have port : s.restartBlocks.port (sitePort k) = s.restartGraded.port (sitePort k) := by
    unfold State.port
    rw [ports]
  rw [port] at link
  refine ⟨_, restartGraded_site s k, ?_⟩
  rw [site, restartSites_site, hold, ← clock, clock', link]

theorem restartBlocks_servingLaw (s : State) : s.restartBlocks.servingLaw := by
  have law := restartSites_servingLaw s.restartGraded
  have frame := deliverSquelch_frame s.restartGraded.restartSites
  rw [State.restartBlocks_eq]
  generalize s.restartGraded.restartSites = u at law frame ⊢
  unfold State.servingLaw State.site at law ⊢
  rw [frame]
  exact law

/-! ## Pins (R167) -/

theorem restartServed_tpin (s : State) (k : Fin 4) : (s.tpin k).restarted (s.restartServed.tpin k) ∧
    (s.restartServed.tpin k).bypassOffset = (s.tpin k).bypassOffset := by
  have selected : s.restartSelected.pins = s.pins := by rw [restartSelected_frame]
  have start : s.restartSelected.tpin k = s.tpin k := by
    unfold State.tpin
    rw [selected]
  have served := ((restartServed_down s).pins k).restarted
  rw [start] at served
  exact served

/-- The outputs in bypass of an enabled reference are out of it once the references have started over. -/
theorem restartMonitored_tpin (s : State) (k : Fin 4) :
    (s.tpin k).restarted (s.restartServed.restartMonitor.tpin k) ∧
    (s.bypasses allRefs (s.tpin k) → (s.restartServed.restartMonitor.tpin k).isUnbypassed) ∧
    (¬ s.bypasses allRefs (s.tpin k) →
      (s.restartServed.restartMonitor.tpin k).bypassOffset = (s.tpin k).bypassOffset) := by
  obtain ⟨served, offset⟩ := restartServed_tpin s k
  have bypasses : s.restartServed.bypasses allRefs (s.restartServed.tpin k) ↔ s.bypasses allRefs (s.tpin k) := by
    unfold State.bypasses
    simp only [served.bypassRef, restartServed_refState]
  have monitor := foldl_restartRef_tpin k allRefs s.restartServed
  unfold State.restartMonitor
  generalize allRefs.foldl State.restartRef s.restartServed = u at monitor ⊢
  obtain ⟨frame, out, same⟩ := monitor
  rw [bypasses] at out same
  exact ⟨served.trans frame, fun h => out (.inl h), fun h => by rw [same h, offset]⟩

/-- The Holdover Unit's grade moves no output into bypass or out of it. -/
theorem restartGraded_tpin (s : State) (k : Fin 4) :
    (s.restartServed.restartMonitor.tpin k).restarted (s.restartGraded.tpin k) ∧
    (s.restartGraded.tpin k).bypassOffset = (s.restartServed.restartMonitor.tpin k).bypassOffset ∧
    (s.restartGraded.tpin k).fallback = (s.restartServed.restartMonitor.tpin k).fallback := by
  rw [State.restartGraded_eq]
  generalize s.restartServed.restartMonitor = u
  obtain ⟨c, told⟩ := restartHoldover_delivered u
  have graded := ((restartHoldover_down u).pins k).restarted
  exact ⟨graded.1, graded.2, told.fallback k⟩

theorem restartBlocks_squelch (s : State) (k : Fin 4) : ∃ clock, s.restartBlocks.tpin k =
    (s.restartGraded.tpin k).squelchEval s.restartBlocks.holdover.announced clock := by
  have only := restartSites_sitesOnly s.restartGraded
  rw [State.restartBlocks_eq]
  generalize s.restartGraded.restartSites = u at only ⊢
  unfold State.sitesOnly at only
  have pins : u.pins = s.restartGraded.pins := by rw [only]
  have pin : u.tpin k = s.restartGraded.tpin k := by
    unfold State.tpin
    rw [pins]
  have hold : u.deliverSquelch.holdover = u.holdover := by rw [deliverSquelch_frame]
  rw [deliverSquelch_tpin, pin, hold]
  exact ⟨_, rfl⟩

theorem restartBlocks_tpin (s : State) (k : Fin 4) : (s.tpin k).restarted (s.restartBlocks.tpin k) ∧
    (s.bypasses allRefs (s.tpin k) → (s.restartBlocks.tpin k).isUnbypassed) ∧
    (¬ s.bypasses allRefs (s.tpin k) → (s.restartBlocks.tpin k).bypassOffset = (s.tpin k).bypassOffset) ∧
    ((s.restartBlocks.tpin k).squelched = true ↔ ((s.tpin k).cfg.function = .ppsOut ∨ (s.tpin k).cfg.function = .freqOut) ∧
      (s.tpin k).cfg.outEnabled = true ∧ s.restartBlocks.holdover.announced < (s.tpin k).cfg.squelch) := by
  obtain ⟨frame, out, same⟩ := restartMonitored_tpin s k
  obtain ⟨graded, offset, fallback⟩ := restartGraded_tpin s k
  obtain ⟨clock, final⟩ := restartBlocks_squelch s k
  generalize s.restartGraded.tpin k = z at final graded offset fallback
  generalize s.restartServed.restartMonitor.tpin k = y at frame out same graded offset fallback
  generalize s.restartBlocks.holdover.announced = grade at final ⊢
  have squelch := (Pin.steady_squelchEval grade clock z).restarted
  have level := Pin.squelchEval_squelched grade clock z
  have through := frame.trans graded
  have cfg : z.cfg = (s.tpin k).cfg := by
    unfold Pin.restarted at through
    rw [through]
  rw [final]
  refine ⟨through.trans squelch.1, fun h => ?_, fun h => ?_, ?_⟩
  · obtain ⟨fell, none'⟩ := out h
    exact ⟨(Pin.squelchEval_fallback _ _ z).trans (fallback.trans fell), squelch.2.trans (offset.trans none')⟩
  · rw [squelch.2, offset, same h]
  · rw [level, cfg]

end Sys2Proof.Machine
end

section
/-! PROOFS. RESTART(DATAPATH), put together (O22). -/
namespace Sys2Proof.Machine
open Sys2Proof

/-- A Delivery Session after the restart, by the three conditions of its Serve Delay timer (R141, R155). -/
theorem Site.restarted_spec {x y : Site} (h : x.regraded y) (up : Bool) (announced : Nat) (c : Clock) :
    let z : Site := { (restartSite y).checked up announced c with ctr := {} }
    let may := up = true ∧ x.cfg.minGrade ≤ announced
    z = { x with
      state := z.state, muteReason := z.muteReason, serve := z.serve
      present := if x.state = .disabled then x.present else false
      lastQuery := if x.state = .disabled then x.lastQuery else none
      queries := if x.state = .disabled then x.queries else 0
      epochPending := if x.state = .disabled then x.epochPending else false
      nextMark := 0, nextNotice := 0, markDone := z.markDone, ctr := {} } ∧
    (x.state = .disabled → z.state = .disabled) ∧
    (x.state ≠ .disabled → may → x.cfg.serveDelay = 0 →
      z.state = .serving ∧ z.muteReason = none ∧ z.serve = ⟨0, none⟩) ∧
    (x.state ≠ .disabled → ¬ (may ∧ x.cfg.serveDelay = 0) →
      z.state = .muted ∧ z.muteReason = some .restart ∧
      (may → z.serve = ⟨0, some c.residence⟩) ∧ (¬ may → z.serve = ⟨0, none⟩)) := by
  obtain ⟨same, disabled⟩ := h
  generalize y.state = state at same disabled
  generalize y.muteReason = reason at same
  generalize y.serve = serve at same
  generalize y.markDone = done at same
  generalize y.ctr = ctr at same
  subst same
  by_cases off : x.state = .disabled
  · have started : restartSite { x with state := state, muteReason := reason, serve := serve, markDone := done, ctr := ctr } =
        { x with state := state, muteReason := reason, serve := serve, markDone := done, ctr := ctr
                 nextMark := 0, nextNotice := 0 } := by
      unfold restartSite
      exact if_pos (disabled.2 off)
    intro z may
    have checked : z = { x with
        state := state, muteReason := reason, serve := timerZero, markDone := done, nextMark := 0, nextNotice := 0
        ctr := {} } := by
      simp only [z]
      rw [started]
      unfold Site.checked
      rw [if_neg fun no => by rw [show state = SiteState.disabled from disabled.2 off] at no; exact nomatch no.1]
    rw [checked]
    refine ⟨by simp only [off, if_true], fun _ => disabled.2 off, fun on => absurd off on, fun on => absurd off on⟩
  · have started : restartSite { x with state := state, muteReason := reason, serve := serve, markDone := done, ctr := ctr } =
        { x with
          state := .muted, muteReason := some .restart, serve := timerZero, present := false, lastQuery := none
          queries := 0, epochPending := false, nextMark := 0, nextNotice := 0, markDone := done, ctr := ctr } := by
      unfold restartSite disabledSite
      exact if_neg (mt disabled.1 off)
    rw [started]
    unfold Site.checked
    by_cases may : up = true ∧ x.cfg.minGrade ≤ announced
    · rw [if_pos ⟨rfl, may⟩, if_neg fun no => Bool.noConfusion no]
      by_cases now : x.cfg.serveDelay = 0
      · rw [if_pos now]
        refine ⟨by simp only [off, if_false], fun e => absurd e off, fun _ _ _ => ⟨rfl, rfl, rfl⟩,
          fun _ no => absurd ⟨may, now⟩ no⟩
      · rw [if_neg now]
        refine ⟨by simp only [off, if_false], fun e => absurd e off, fun _ _ e => absurd e now,
          fun _ _ => ⟨rfl, rfl, fun _ => rfl, fun no => absurd may no⟩⟩
    · rw [if_neg fun yes => may yes.2]
      refine ⟨by simp only [off, if_false], fun e => absurd e off, fun _ yes => absurd yes may,
        fun _ _ => ⟨rfl, rfl, fun yes => absurd yes may, fun _ => rfl⟩⟩

/-! ## Settings, clocks and the blocks that stay (R24, R201) -/

theorem zeroCounters_sameSettings (s : State) : SameSettings s s.restartMgmt.zeroCounters := by
  refine ⟨fun c => ?_, fun r => ?_, fun k => ?_, fun k => ?_, rfl, rfl, rfl, rfl, rfl, rfl, rfl, rfl⟩
  · rw [State.zeroCounters_client]; rfl
  · rw [State.zeroCounters_ref]; rfl
  · rw [State.zeroCounters_site]; rfl
  · rw [State.zeroCounters_tpin]; rfl

theorem restartDatapath_settings (s : State) : SameSettings s s.restartDatapath :=
  (calm_restartBlocks s).settings.trans (zeroCounters_sameSettings _)

/-- What the counters and the Management Unit do last, block by block (R200, R201). -/
theorem restartDatapath_blocks (s : State) :
    s.restartDatapath.clock = s.clock ∧ s.restartDatapath.portMap = s.portMap ∧ s.restartDatapath.pending = s.pending ∧
    s.restartDatapath.mgmt =
      { s.mgmt with queue := [], waiting := none, cursors := Vector.replicate 26 none, ctr := {} } ∧
    (∀ i, s.restartDatapath.flow.get i = { s.flow.get i with hitCount := 0 }) ∧
    (∀ p, s.restartDatapath.port p = { s.restartBlocks.port p with ctr := {} }) ∧
    (∀ c, s.restartDatapath.client c = { s.restartBlocks.client c with ctr := {} }) ∧
    (∀ r, s.restartDatapath.ref r = { s.restartBlocks.ref r with ctr := {} }) ∧
    (∀ k, s.restartDatapath.site k = { s.restartBlocks.site k with ctr := {} }) ∧
    (∀ k, s.restartDatapath.tpin k = { s.restartBlocks.tpin k with ctr := {} }) := by
  have calm := calm_restartBlocks s
  rw [State.restartDatapath_eq]
  generalize s.restartBlocks = v at calm ⊢
  refine ⟨calm.clock, calm.portMap, calm.pending, ?_, fun i => ?_, fun p => State.zeroCounters_port _ p,
    fun c => State.zeroCounters_client _ c, fun r => State.zeroCounters_ref _ r, fun k => State.zeroCounters_site _ k,
    fun k => State.zeroCounters_tpin _ k⟩
  · show ({ v.mgmt with queue := [], waiting := none, cursors := Vector.replicate 26 none, ctr := {} } : Mgmt) = _
    rw [calm.mgmt]
  · rw [State.zeroCounters_flow]
    show ({ v.flow.get i with hitCount := 0 } : FlowEntry) = _
    rw [calm.flow]

theorem restartDatapath_port (s : State) (p : Port) : s.restartDatapath.port p = { s.port p with
    timingQ := [], bulkQ := [], quiet := none, tx := (s.port p).tx.map fun x => { x with counted := false }
    ctr := {} } := by
  obtain ⟨-, -, -, -, -, port, -⟩ := restartDatapath_blocks s
  rw [port, restartBlocks_port]
  rfl

/-! ## The servo and the Holdover record (R115, R123, R127, R136) -/

/-- The Time Engine and the Holdover Unit after the restart, their counters 0. -/
theorem restartDatapath_servo (s : State) : s.restartDatapath.servo = { s.restartServed.servo with ctr := {} } ∧
    s.restartDatapath.holdover.record = s.restartServed.holdover.record := by
  obtain ⟨c, hold⟩ := restartBlocks_holdover s
  have record := congrArg Holdover.record hold
  have servo := restartBlocks_servo s
  rw [State.restartDatapath_eq]
  generalize s.restartBlocks = v at record servo ⊢
  exact ⟨congrArg (fun x : Servo => { x with ctr := {} }) servo, record⟩

theorem restartDatapath_holdover (s : State) : s.restartDatapath.holdover = { s.holdover with
    settle := none, frozen := none, record := s.restartDatapath.holdover.record
    announced := s.restartDatapath.gradeNow, ctr := {} } := by
  obtain ⟨c, hold⟩ := restartBlocks_holdover s
  have record := (restartDatapath_servo s).2
  have announced := restartDatapath_announced s
  have grade := congrArg Holdover.announced hold
  rw [record, ← announced, grade]
  have zeroed : ∀ v : State, v.restartMgmt.zeroCounters.holdover = { v.holdover with ctr := {} } := fun _ => rfl
  have final : s.restartDatapath.holdover = { s.restartBlocks.holdover with ctr := {} } := by
    rw [State.restartDatapath_eq]
    exact zeroed _
  rw [final, hold]

theorem heldRecord_entered {s : State} (h : s.holdover.record = none) (g : Nat) :
    (s.heldRecord g).entryGrade = g ∧ (s.heldRecord g).elapsed = ⟨0, some s.clock.residence⟩ ∧
      (s.heldRecord g).enteredAt = ⟨s.clock.counter, s.clock.epoch⟩ := by
  unfold State.heldRecord
  rw [h]
  exact ⟨rfl, rfl, rfl⟩

theorem heldRecord_resumed {s : State} {r : HoldoverRec} (h : s.holdover.record = some r) (g : Nat) :
    s.heldRecord g = { r with
      elapsed := { r.elapsed with since := some s.clock.residence }, minuteMark := (s.heldRecord g).minuteMark } := by
  unfold State.heldRecord
  rw [h]
  rfl

/-- The other blocks, their counters 0. -/
theorem restartDatapath_rest (s : State) :
    s.restartDatapath.selector =
      { s.selector with phase := none, phaseForced := false, freq := none, freqForced := false, ctr := {} } ∧
    s.restartDatapath.realign = { params := s.realign.params } ∧
    s.restartDatapath.alarm.ctr = {} ∧ s.alarm.sameTimers s.restartDatapath.alarm ∧
    s.restartDatapath.servingLaw ∧
    (∀ i, s.restartDatapath.alarm.record i = s.restartBlocks.alarm.record i) := by
  have selector := restartBlocks_selector s
  have realign := restartBlocks_realign s
  have timers := restartBlocks_timers s
  have law := restartBlocks_servingLaw s
  rw [State.restartDatapath_eq]
  generalize s.restartBlocks = v at selector realign timers law ⊢
  refine ⟨?_, ?_, rfl, timers, ?_, fun _ => rfl⟩
  · exact congrArg (fun x : Selector => { x with ctr := {} }) selector
  · exact congrArg (fun x : Realign => { x with ctr := {} }) realign
  · unfold State.servingLaw
    simp only [State.zeroCounters_site]
    exact law

/-- LINK_DOWN and TEST stay, and TIMING_LOSS is absent (R188). -/
theorem restartDatapath_records (s : State) :
    (∀ p, (s.restartDatapath.alarm.record (recTimingLoss p)).present = false) ∧
    (∀ p, s.restartDatapath.alarm.record (recLinkDown p) = s.alarm.record (recLinkDown p)) ∧
    s.restartDatapath.alarm.record recTest = s.alarm.record recTest := by
  obtain ⟨-, -, -, -, -, record⟩ := restartDatapath_rest s
  have notFail : ∀ i : Fin 41, 6 ≤ i.val → ∀ q, i ≠ recRefFail q := fun i h q e => by
    rw [e] at h
    exact absurd h (by cases q <;> decide)
  refine ⟨fun p => ?_, fun p => ?_, ?_⟩
  · rw [record, restartBlocks_record s (by cases p <;> decide) (notFail _ (by cases p <;> decide)), restartTraffic_loss]
  · rw [record, restartBlocks_record s (by cases p <;> decide) (notFail _ (by cases p <;> decide)),
      restartTraffic_record s (fun q => by cases p <;> cases q <;> decide) (recLinkDown_ne_overflow p)]
  · rw [record, restartBlocks_record s (by decide) (notFail _ (by decide)),
      restartTraffic_record s (fun q => by cases q <;> decide) (by decide)]

/-- The frequency of a record, as the statement writes it. -/
theorem State.heldFreq_eq (s : State) (r : HoldoverRec) : s.heldFreq r = heldMag s.servo.params.pullRange
    (r.h + roundDiv (r.d *
      ((min (timerElapsed r.elapsed s.clock.residence) (4294967295 * secUnits) / (60 * secUnits) : Nat) : Int)) 60) := rfl

theorem mem_bypasses (s : State) (x : Pin) :
    s.bypasses allRefs x ↔ ∃ r, x.bypassRef = some r ∧ (s.ref r).state ≠ .disabled :=
  ⟨fun ⟨r, _, h⟩ => ⟨r, h⟩, fun ⟨r, h⟩ => ⟨r, mem_allRefs r, h⟩⟩

/-- Settles O22, block by block; F and I given for the record's Elapsed are those of `State.heldFreq`. -/
theorem restartDatapathLeaves : Obligations.RestartDatapathLeaves := by
  intro s
  have settings := restartDatapath_settings s
  obtain ⟨clock, portMap, pending, mgmt, flow, -, client, ref, site, tpin⟩ := restartDatapath_blocks s
  obtain ⟨selector, realign, counted, timers, law, -⟩ := restartDatapath_rest s
  obtain ⟨loss, linkDown, test⟩ := restartDatapath_records s
  have port := restartDatapath_port s
  have rested := restartServed_rested s
  obtain ⟨servo, record⟩ := restartDatapath_servo s
  have holdover := restartDatapath_holdover s
  have announced := restartDatapath_announced s
  have restart : s.restart .datapath = s.restartDatapath := rfl
  rw [restart]
  clear restart
  generalize s.restartDatapath = t at *
  generalize s.restartServed = w at *
  have states := restartBlocks_refState s
  have checkedSite := restartBlocks_site s
  have output := restartBlocks_tpin s
  have session := restartBlocks_client s
  generalize s.restartBlocks = u at *
  have grade : u.holdover.announced = t.holdover.announced := by rw [announced, holdover]
  obtain ⟨spacing, nextSeq, testing⟩ := timers
  have freq : t.servo.f = w.servo.f ∧ t.servo.i = w.servo.i := by
    rw [servo]; exact ⟨rfl, rfl⟩
  refine ⟨settings, clock, portMap, pending, mgmt, flow, port, loss, selector, realign, ?_, ?_, fun free => ?_, ?_,
    fun r => ?_, holdover, fun h => ?_, fun v tracked => ?_, fun v holding => ?_, fun q v no no' h => ?_, fun k => ?_, law,
    fun c => ?_, fun k => ?_, counted, spacing, nextSeq, testing, linkDown, test, rfl⟩
  · rw [servo]; exact rested.valid
  · rw [servo]; exact rested.state
  · rw [freq.1, freq.2]; exact rested.still (.inl free)
  · rw [servo]
  · rw [ref]; exact ⟨states r, rfl⟩
  · rw [record]; exact rested.kept h
  · exact ⟨_, record.trans (rested.entered v tracked), fun none' => heldRecord_entered none' _,
      fun r some' => heldRecord_resumed some' _⟩
  · rw [freq.1, freq.2]; exact rested.still (.inr holding)
  · obtain ⟨f, i⟩ := rested.given v no no' q (record.symm.trans h)
    rw [freq.1, freq.2, f, i]
    exact ⟨s.heldFreq_eq q, rfl⟩
  · obtain ⟨y, regraded, checked⟩ := checkedSite k
    rw [site, checked, grade]
    exact Site.restarted_spec regraded _ _ _
  · obtain ⟨list, master, state⟩ := (s.client c).restarted_empty (s.port (clientPort c)).linkUp
    rw [client, session]
    exact ⟨list, master, rfl, state⟩
  · obtain ⟨frame, out, same, squelch⟩ := output k
    rw [mem_bypasses] at out same
    rw [grade] at squelch
    rw [tpin]
    generalize u.tpin k = y at frame out same squelch
    refine ⟨?_, out, same, squelch⟩
    unfold Pin.restarted at frame
    exact congrArg (fun x : Pin => { x with ctr := {} }) frame

end Sys2Proof.Machine
end

section
/-! PROOFS. The sorting of a timing frame by a Client Session (R31), and a QUALITY_NOTICE (O26). -/
namespace Sys2Proof.Machine
open Sys2Proof

/-! ## Updates of one Client Session -/

theorem State.client_updClient_same (s : State) (c : Client) (f : ClientSession → ClientSession) :
    (s.updClient c f).client c = f (s.client c) :=
  (State.client_updClient s c c f).trans (if_pos rfl)

theorem State.client_updClient_ne {s : State} {c d : Client} (h : d ≠ c) (f : ClientSession → ClientSession) :
    (s.updClient c f).client d = s.client d :=
  (State.client_updClient s c d f).trans (if_neg h)

/-- What an update of a session leaves depends on that session's value alone. -/
theorem State.updClient_congr {s : State} {c : Client} {f g : ClientSession → ClientSession}
    (h : f (s.client c) = g (s.client c)) : s.updClient c f = s.updClient c g := by
  unfold State.updClient updAt
  rw [show f (s.sessions.get (clientIdx c)) = g (s.sessions.get (clientIdx c)) from h]

theorem State.updClient_self {s : State} {c : Client} {f : ClientSession → ClientSession}
    (h : f (s.client c) = s.client c) : s.updClient c f = s := by
  unfold State.updClient updAt
  rw [show f (s.sessions.get (clientIdx c)) = s.sessions.get (clientIdx c) from h]
  exact congrArg (fun v => { s with sessions := v }) (Vector.set_getElem_self (clientIdx c).isLt)

/-! ## The tests of R31, in order -/

section
variable {s : State} {c : Client} {f : Frame}

theorem State.clientSort_idle (idle : (s.client c).state = .idle) (stamps : Ingress) :
    s.clientSort c f stamps = s.countClient c fun k => { k with idleDiscards := bump k.idleDiscards } :=
  if_pos idle

variable (awake : (s.client c).state ≠ .idle)
include awake

theorem State.clientSort_foreignDomain (other : (readHeader f.payload).domain ≠ (s.client c).cfg.domain)
    (stamps : Ingress) :
    s.clientSort c f stamps = s.countClient c fun k => { k with otherDomain := bump k.otherDomain } :=
  (if_neg awake).trans (if_pos other)

variable (domain : (readHeader f.payload).domain = (s.client c).cfg.domain)
include domain

theorem State.clientSort_query (type : (readHeader f.payload).type = typeDelayQuery) (stamps : Ingress) :
    s.clientSort c f stamps = s.countClient c fun k => { k with unusedTypes := bump k.unusedTypes } :=
  (if_neg awake).trans ((if_neg (not_not_intro domain)).trans (if_pos type))

theorem State.clientSort_notice (type : (readHeader f.payload).type = typeQualityNotice) (stamps : Ingress) :
    s.clientSort c f stamps = s.clientNotice c (readHeader f.payload) (bodyOf f.payload) :=
  (if_neg awake).trans ((if_neg (not_not_intro domain)).trans
    ((if_neg (by rw [type]; decide)).trans (if_pos type)))

variable (type : (readHeader f.payload).type = typeTimeMark ∨ (readHeader f.payload).type = typeDelayReply)
include type

theorem State.clientSort_noMaster (none' : (s.client c).master = none) (stamps : Ingress) :
    s.clientSort c f stamps = if (readHeader f.payload).type = typeTimeMark
      then s.countClient c fun k => { k with noMaster := bump k.noMaster }
      else s.countClient c fun k => { k with stray := bump k.stray } := by
  unfold State.clientSort
  dsimp only
  rw [if_neg awake, if_neg (not_not_intro domain), if_neg (by rcases type with h | h <;> rw [h] <;> decide),
    if_neg (by rcases type with h | h <;> rw [h] <;> decide), none']

theorem State.clientSort_master {m : Master} (some' : (s.client c).master = some m) (stamps : Ingress) :
    s.clientSort c f stamps = s.clientExchange c m f (readHeader f.payload) stamps := by
  unfold State.clientSort
  dsimp only
  rw [if_neg awake, if_neg (not_not_intro domain), if_neg (by rcases type with h | h <;> rw [h] <;> decide),
    if_neg (by rcases type with h | h <;> rw [h] <;> decide), some']

end

/-! ## A QUALITY_NOTICE (R32 to R34) -/

theorem slice_bodyOf (len : Nat) (bs : List Byte) :
    slice 0 len (bodyOf bs) = slice 28 (min len (readHeader bs).bodyLen) bs := List.take_take

/-- The Master Address is the Source field, the first six bytes of the body (11). -/
theorem noticeMaster_bodyOf (h : Header) (bs : List Byte) : noticeMaster h (bodyOf bs) =
    ⟨BitVec.ofNat 48 (beNat (slice 28 (min 6 (readHeader bs).bodyLen) bs)), h.grade, h.epoch⟩ := by
  unfold noticeMaster
  rw [slice_bodyOf]

theorem State.clientNotice_noMaster {s : State} {c : Client} (none' : (s.client c).master = none) (h : Header)
    (body : List Byte) : s.clientNotice c h body = if h.serving = true then s.acceptMaster c (noticeMaster h body)
      else s.countClient c fun k => { k with notServing := bump k.notServing } := by
  unfold State.clientNotice
  rw [none']

theorem State.clientNotice_master {s : State} {c : Client} {m : Master} (some' : (s.client c).master = some m)
    (h : Header) (body : List Byte) : s.clientNotice c h body =
      if (noticeMaster h body).addr ≠ m.addr then
        s.countClient c fun k => { k with foreignNotices := bump k.foreignNotices }
      else if h.serving = false then s.countClient c fun k => { k with notServing := bump k.notServing }
      else s.moveClient c (ClientSession.masterNotice s.res (noticeMaster h body)) := by
  unfold State.clientNotice
  rw [some']
  cases h.serving <;> rfl

/-- A notice of the master restarts the interval, and one of another Epoch discards the pair and the best exchange. -/
theorem ClientSession.masterNotice_eq {x : ClientSession} {old : Master} (some' : x.master = some old) (res : Nat)
    (m : Master) : x.masterNotice res m = if m.epoch = old.epoch then { x with noticeStart := res, master := some m }
      else { x with
        noticeStart := res, master := some m, pair := none, best := none
        ctr := { x.ctr with masterEpochChanges := bump x.ctr.masterEpochChanges } } := by
  unfold ClientSession.masterNotice
  dsimp only
  rw [some', Option.map_some]
  by_cases same : m.epoch = old.epoch
  · rw [if_pos same, if_pos (by rw [same])]
  · rw [if_neg same, if_neg fun e => same (Option.some.inj e).symm]

/-- Settles O26, by the master the session has or has not. -/
theorem servingNoticeMakesAMaster : Obligations.ServingNoticeMakesAMaster := by
  intro s c f stamps x h source awake domain type
  rw [State.clientSort_notice awake domain type]
  have named : noticeMaster h (bodyOf f.payload) = ⟨source, h.grade, h.epoch⟩ := noticeMaster_bodyOf h f.payload
  refine ⟨fun none' serving => ?_, fun none' silent => ?_, fun m some' foreign => ?_, fun m some' own silent => ?_,
    fun m some' own serving => ?_⟩
  · rw [State.clientNotice_noMaster none', if_pos serving, named]
    exact ⟨kept_moveClient s c _, State.client_moveClient s c _⟩
  · rw [State.clientNotice_noMaster none', if_neg (by rw [silent]; decide)]
  · rw [State.clientNotice_master some', named, if_pos foreign]
  · rw [State.clientNotice_master some', named, if_neg (not_not_intro own), if_pos silent]
  · rw [State.clientNotice_master some', named, if_neg (not_not_intro own), if_neg (by rw [serving]; decide)]
    exact ⟨kept_moveClient s c _,
      (State.client_moveClient s c _).trans (ClientSession.masterNotice_eq some' s.res ⟨source, h.grade, h.epoch⟩)⟩

end Sys2Proof.Machine
end

section
/-! PROOFS. The TIME_MARK pair, and a DELAY_REPLY that completes an exchange (O27). -/
namespace Sys2Proof.Machine
open Sys2Proof

/-! ## Rounding to nearest (00_scope.md, "Rounding") -/

/-- A rounded quotient is within half of an exact one, and a tie lies away from zero. -/
theorem roundDiv_nearest (a : Int) {b : Int} (pos : 0 < b) :
    2 * (a - b * roundDiv a b).natAbs ≤ b.natAbs ∧
      (2 * (a - b * roundDiv a b).natAbs = b.natAbs → a.natAbs ≤ (b * roundDiv a b).natAbs) := by
  have divided : ∀ n : Int, 2 * (b * (n / (2 * b))) + n % (2 * b) = n ∧ 0 ≤ n % (2 * b) ∧ n % (2 * b) < 2 * b :=
    fun n => ⟨by rw [← mul_assoc]; exact Int.mul_ediv_add_emod n (2 * b), Int.emod_nonneg n (by omega),
      Int.emod_lt_of_pos n (by omega)⟩
  unfold roundDiv
  split
  · obtain ⟨sum, low, high⟩ := divided (2 * a + b)
    omega
  · obtain ⟨sum, low, high⟩ := divided (2 * -a + b)
    rw [mul_neg]
    omega

/-! ## A TIME_MARK or DELAY_REPLY in EXCHANGING (R31, R35) -/

theorem Header.time_eq (h : Header) : h.time = h.seconds * 65536000000000 + h.nanos * 65536 := by
  unfold Header.time timeOf
  rw [Nat.add_zero]

/-- A mark of the current Epoch becomes the pair (R35). -/
theorem State.takeMark_fresh {s : State} {stamps : Ingress} (fresh : stamps.epoch = s.clock.epoch) (c : Client)
    (h : Header) : s.takeMark c h stamps = s.updClient c fun x => { x with
      pair := some ⟨h.seconds * 65536000000000 + h.nanos * 65536, h.correction, stamps.counter, stamps.epoch⟩ } := by
  unfold State.takeMark
  rw [if_neg (not_not_intro fresh), h.time_eq]

section
variable {s : State} {c : Client} {m : Master} {f : Frame} {h : Header}

theorem State.clientExchange_foreign (foreign : f.src ≠ m.addr ∨ (h.type = 4 ∧ f.dst ≠ s.mgmt.station))
    (stamps : Ingress) : s.clientExchange c m f h stamps =
      s.countClient c fun k => { k with foreignFrames := bump k.foreignFrames } := if_pos foreign

variable (own : ¬ (f.src ≠ m.addr ∨ (h.type = 4 ∧ f.dst ≠ s.mgmt.station)))
include own

theorem State.clientExchange_mismatch (epoch : h.epoch ≠ m.epoch) (stamps : Ingress) :
    s.clientExchange c m f h stamps =
      s.countClient c fun k => { k with masterEpochMismatch := bump k.masterEpochMismatch } :=
  (if_neg own).trans (if_pos epoch)

theorem State.clientExchange_own (epoch : h.epoch = m.epoch) (stamps : Ingress) :
    s.clientExchange c m f h stamps =
      if h.type = typeTimeMark then s.takeMark c h stamps else s.updClient c (ClientSession.reply h) :=
  (if_neg own).trans (if_neg (not_not_intro epoch))

end

/-! ## A reply (R38, R40, R41) -/

/-- A reply without a record, or whose query has no t3 yet, is stray (R38). -/
theorem ClientSession.reply_stray {x : ClientSession} {h : Header} (unsent : (x.findQuery h.seq).bind (·.t3) = none) :
    x.reply h = { x with ctr := { x.ctr with stray := bump x.ctr.stray } } := by
  unfold ClientSession.reply
  rw [unsent]

/-- A session whose record of a Sequence has found its reply (R38). -/
def ClientSession.matched (seq : Nat) (x : ClientSession) : ClientSession :=
  { x.dropQuery seq with ctr := { x.ctr with repliesMatched := bump x.ctr.repliesMatched } }

theorem ClientSession.reply_noPair {x : ClientSession} {h : Header} {t3 : Nat}
    (sent : (x.findQuery h.seq).bind (·.t3) = some t3) (none' : x.pair = none) :
    x.reply h = { x.matched h.seq with ctr := { (x.matched h.seq).ctr with noPair := bump x.ctr.noPair } } := by
  unfold ClientSession.reply
  rw [sent]
  dsimp only
  rw [none']
  rfl

theorem ClientSession.reply_pair {x : ClientSession} {h : Header} {t3 : Nat} {p : MarkPair}
    (sent : (x.findQuery h.seq).bind (·.t3) = some t3) (some' : x.pair = some p) :
    x.reply h = (x.matched h.seq).compete (exchangeOf x.cfg.asymmetry p t3 h.time h.correction) := by
  unfold ClientSession.reply
  rw [sent]
  dsimp only
  rw [some']
  rfl

theorem ClientSession.compete_negative {e : Exchange} (negative : e.roundTrip < 0) (x : ClientSession) :
    x.compete e = { x with ctr := { x.ctr with negativeDelay := bump x.ctr.negativeDelay } } := if_pos negative

theorem ClientSession.compete_first {e : Exchange} {x : ClientSession} (delay : ¬ e.roundTrip < 0)
    (none' : x.best = none) : x.compete e = { x with best := some e } := by
  unfold ClientSession.compete
  rw [if_neg delay, none']

/-- An exchange enters the record unless that holds a smaller round trip (R41). -/
theorem ClientSession.compete_best {e b : Exchange} {x : ClientSession} (delay : ¬ e.roundTrip < 0)
    (some' : x.best = some b) :
    x.compete e = if b.roundTrip < e.roundTrip then x else { x with best := some e } := by
  unfold ClientSession.compete
  rw [if_neg delay, some']
  dsimp only
  by_cases smaller : b.roundTrip < e.roundTrip
  · rw [if_pos smaller, if_neg (by omega)]
  · rw [if_neg smaller, if_pos (by omega)]

/-- The record of a Sequence is missing exactly where no record has it. -/
theorem ClientSession.findQuery_eq_none {x : ClientSession} {seq : Nat}
    (missing : ∀ r, r ∈ x.outstanding → r.seq ≠ seq) : x.findQuery seq = none :=
  List.find?_eq_none.2 fun r mem => by simpa using missing r mem

/-- The phase sample of an exchange is minus half of (forward - reverse - A), to the nearest nanosecond (R40). -/
theorem exchangeOf_sample (asymmetry : Int) (p : MarkPair) (t3 t4 : Nat) (c4 : Int) :
    let twice : Int := ((p.t2 : Int) - p.t1 - p.c1) - ((t4 : Int) - t3 - c4) - asymmetry * 65536
    let sample := (exchangeOf asymmetry p t3 t4 c4).sample
    (131072 * sample + twice).natAbs ≤ 65536 ∧
      ((131072 * sample + twice).natAbs = 65536 → twice.natAbs ≤ (131072 * sample).natAbs) := by
  intro twice sample
  obtain ⟨near, tie⟩ := roundDiv_nearest twice (show (0 : Int) < 131072 by decide)
  have negated : sample = -roundDiv twice 131072 := rfl
  omega

/-! ## O27 -/

/-- The tests that a TIME_MARK or DELAY_REPLY meets in EXCHANGING, and the pair it becomes (R31, R35). -/
theorem clientSort_exchanging (s : State) (c : Client) (f : Frame) (stamps : Ingress) :
    let x := s.client c
    let h := readHeader f.payload
    let counts (g : ClientCounters → ClientCounters) : Prop := s.clientSort c f stamps = s.countClient c g
    let foreign (m : Master) : Prop := f.src ≠ m.addr ∨ (h.type = 4 ∧ f.dst ≠ s.mgmt.station)
    ∀ m, x.state = .exchanging → x.master = some m → h.domain = x.cfg.domain → (h.type = 1 ∨ h.type = 4) →
      (foreign m → counts fun k => { k with foreignFrames := bump k.foreignFrames }) ∧
      (¬ foreign m → h.epoch ≠ m.epoch → counts fun k => { k with masterEpochMismatch := bump k.masterEpochMismatch }) ∧
      (¬ foreign m → h.epoch = m.epoch → h.type = 1 →
        (stamps.epoch ≠ s.clock.epoch → counts fun k => { k with staleMarks := bump k.staleMarks }) ∧
        (stamps.epoch = s.clock.epoch → s.clientSort c f stamps = s.updClient c fun y =>
          { y with pair := some { t1 := h.seconds * 65536000000000 + h.nanos * 65536, c1 := h.correction
                                  t2 := stamps.counter, epoch := stamps.epoch } })) := by
  intro x h counts foreign m state some' domain type
  have sorted := State.clientSort_master (s := s) (c := c) (by rw [state]; decide) domain type some' stamps
  refine ⟨fun other => ?_, fun own epoch => ?_, fun own epoch mark => ?_⟩
  · exact sorted.trans (State.clientExchange_foreign other stamps)
  · exact sorted.trans (State.clientExchange_mismatch own epoch stamps)
  · have taken := (sorted.trans (State.clientExchange_own own epoch stamps)).trans (if_pos mark)
    exact ⟨fun stale => taken.trans (if_pos stale), fun fresh => taken.trans (State.takeMark_fresh fresh c h)⟩

/-- Settles O27: the tests of R31 in order, then the reply by its record, the pair and the best exchange. -/
theorem replyCompletesAnExchange : Obligations.ReplyCompletesAnExchange := by
  refine ⟨fun s c f stamps => ⟨fun idle => ?_, fun awake other => ?_, fun awake domain query => ?_,
    fun listening none' domain => ⟨fun mark => ?_, fun reply => ?_⟩, clientSort_exchanging s c f stamps⟩, ?_⟩
  · exact State.clientSort_idle idle stamps
  · exact State.clientSort_foreignDomain awake other stamps
  · exact State.clientSort_query awake domain query stamps
  · exact (State.clientSort_noMaster (by rw [listening]; decide) domain (.inl mark) none' stamps).trans (if_pos mark)
  · exact (State.clientSort_noMaster (by rw [listening]; decide) domain (.inr reply) none' stamps).trans
      (if_neg (by rw [reply]; decide))
  · intro s c m f stamps x h state some' domain type src dst epoch
    have replied : s.clientSort c f stamps = s.updClient c (ClientSession.reply h) :=
      ((State.clientSort_master (by rw [state]; decide) domain (.inr type) some' stamps).trans
        (State.clientExchange_own (by simp [src, dst]) epoch stamps)).trans (if_neg (by rw [type]; decide))
    rw [replied]
    refine ⟨fun missing => ?_, fun r found unsent => ?_, fun r t3 found sent => ?_⟩
    · exact State.updClient_congr (ClientSession.reply_stray (by rw [ClientSession.findQuery_eq_none missing]; rfl))
    · exact State.updClient_congr
        (ClientSession.reply_stray (by rw [show x.findQuery h.seq = some r from found]; exact unsent))
    · intro y
      have query : (x.findQuery h.seq).bind (·.t3) = some t3 := by
        rw [show x.findQuery h.seq = some r from found]; exact sent
      refine ⟨fun none' => State.updClient_congr (ClientSession.reply_noPair query none'), fun p pair => ?_⟩
      intro t4 forward reverse twice
      obtain ⟨near, tie⟩ := exchangeOf_sample x.cfg.asymmetry p t3 h.time h.correction
      have received : (h.time : Int) = t4 := by
        rw [h.time_eq]
        push_cast
        rfl
      have trip : exchangeOf x.cfg.asymmetry p t3 h.time h.correction =
          ⟨(exchangeOf x.cfg.asymmetry p t3 h.time h.correction).sample, forward + reverse⟩ := by
        unfold exchangeOf
        rw [received]
      have completed := ClientSession.reply_pair query pair
      rw [received] at near tie
      generalize (exchangeOf x.cfg.asymmetry p t3 h.time h.correction).sample = sample at near tie trip
      rw [trip] at completed
      refine ⟨sample, near, tie, State.updClient_congr (completed.trans ?_)⟩
      dsimp only
      by_cases negative : forward + reverse < 0
      · rw [if_pos negative]
        exact ClientSession.compete_negative negative y
      · rw [if_neg negative]
        cases best : x.best with
        | none => exact ClientSession.compete_first negative best
        | some b => exact ClientSession.compete_best negative best

end Sys2Proof.Machine
end

section
/-! PROOFS. The query schedule (R36), and QUERY_DUE (O28). -/
namespace Sys2Proof.Machine
open Sys2Proof

/-! ## Due instants (R36) -/

/-- The next multiple of a period is the least one from `t` on. -/
theorem nextMultiple_least {period : Nat} (pos : 0 < period) (t : Nat) :
    t ≤ nextMultiple period t ∧ nextMultiple period t % period = 0 ∧
      ∀ k, k % period = 0 → t ≤ k → nextMultiple period t ≤ k := by
  unfold nextMultiple
  have parts := Nat.div_add_mod (t + (period - 1)) period
  have left := Nat.mod_lt (t + (period - 1)) pos
  generalize (t + (period - 1)) / period = q at parts
  rw [Nat.mul_comm q]
  refine ⟨by omega, Nat.mul_mod_right period q, fun k multiple from' => ?_⟩
  obtain ⟨j, rfl⟩ := Nat.dvd_of_mod_eq_zero multiple
  refine Nat.mul_le_mul_left period (Nat.le_of_not_lt fun less => ?_)
  have step : period * (j + 1) ≤ period * q := Nat.mul_le_mul_left period less
  rw [Nat.mul_add, Nat.mul_one] at step
  omega

/-- The next due instant is the first multiple of the period after every instant taken that the counter has not passed. -/
theorem nextDue_least {period : Nat} (pos : 0 < period) (done counter : Nat) :
    let due := nextDue period done counter
    done < due ∧ counter ≤ due ∧ due % period = 0 ∧
      ∀ k, k % period = 0 → done < k → counter ≤ k → due ≤ k := by
  obtain ⟨after, multiple, least⟩ := nextMultiple_least pos (max (done + 1) counter)
  exact ⟨Nat.le_trans (Nat.le_max_left ..) after, Nat.le_trans (Nat.le_max_right ..) after, multiple,
    fun k h later ahead => least k h (Nat.max_le.2 ⟨later, ahead⟩)⟩

/-! ## A query built and offered (R25, R37) -/

/-- A session whose next query has joined its list (R37). -/
def ClientSession.asked (epoch res : Nat) (x : ClientSession) : ClientSession :=
  { x with
    outstanding := x.outstanding ++ [{ seq := x.nextSeq, t3 := none, epoch := epoch, created := res }]
    nextSeq := (x.nextSeq + 1) % 65536 }

/-- A session whose query of a Sequence the port has discarded (R37). -/
def ClientSession.withdrawn (seq : Nat) (x : ClientSession) : ClientSession :=
  { x.dropQuery seq with ctr := { x.ctr with queryDiscards := bump x.ctr.queryDiscards } }

/-- A new record that is withdrawn leaves the list as the older records of that Sequence leave it. -/
theorem ClientSession.withdrawn_asked (epoch res : Nat) (x : ClientSession) :
    (x.asked epoch res).withdrawn x.nextSeq = { x with
      nextSeq := (x.nextSeq + 1) % 65536
      outstanding := x.outstanding.filter fun q => q.seq ≠ x.nextSeq
      ctr := { x.ctr with queryDiscards := bump x.ctr.queryDiscards } } := by
  unfold ClientSession.withdrawn ClientSession.dropQuery ClientSession.asked
  dsimp only
  rw [List.filter_append, List.filter_cons_of_neg (by simp), List.filter_nil, List.append_nil]

/-- The relay once a session's query has been listed and offered to its port. -/
def State.queryOffered (s : State) (c : Client) (m : Master) : State :=
  ((s.updClient c (ClientSession.asked s.clock.epoch s.res)).offer (clientPort c) .timing
    ⟨s.queryFrame c m, .delayQuery (s.client c).nextSeq⟩).1

/-- A Timing Queue takes a frame where the link is UP and there is room (R16). -/
theorem State.offer_timing_queued (s : State) (p : Port) (f : QFrame) :
    (s.offer p .timing f).2 = true ↔ (s.port p).linkUp = true ∧ (s.port p).timingQ.length < 16 := by
  unfold State.offer
  dsimp only
  cases up : (s.port p).linkUp with
  | false => rw [if_pos (by rfl)]; simp
  | true =>
    rw [if_neg (by decide)]
    by_cases room : (s.port p).timingQ.length < 16
    · rw [if_pos (by exact room)]; simp [room]
    · rw [if_neg (by exact room)]; simp [room]

theorem State.sendQuery_skipped {s : State} {c : Client} (full : 8 ≤ (s.client c).outstanding.length) (m : Master) :
    s.sendQuery c m = s.countClient c fun k => { k with skipped := bump k.skipped } := if_pos full

/-- With room in the list a query is offered, and withdrawn where the port does not queue it (R37). -/
theorem State.sendQuery_offered {s : State} {c : Client} (room : (s.client c).outstanding.length < 8) (m : Master) :
    s.sendQuery c m = (s.queryOffered c m).updClient c (
      if (s.port (clientPort c)).linkUp = true ∧ (s.port (clientPort c)).timingQ.length < 16 then id
      else ClientSession.withdrawn (s.client c).nextSeq) := by
  have queued := State.offer_timing_queued (s.updClient c (ClientSession.asked s.clock.epoch s.res)) (clientPort c)
    ⟨s.queryFrame c m, .delayQuery (s.client c).nextSeq⟩
  have sent : s.sendQuery c m = (match (s.updClient c (ClientSession.asked s.clock.epoch s.res)).offer (clientPort c)
      .timing ⟨s.queryFrame c m, .delayQuery (s.client c).nextSeq⟩ with
      | (u, true) => u
      | (u, false) => u.updClient c (ClientSession.withdrawn (s.client c).nextSeq)) :=
    if_neg (show ¬ listCapacity ≤ _ from Nat.not_le.2 room)
  rw [sent]
  unfold State.queryOffered
  rw [State.updClient_port] at queued
  generalize (s.updClient c (ClientSession.asked s.clock.epoch s.res)).offer (clientPort c) .timing
    ⟨s.queryFrame c m, .delayQuery (s.client c).nextSeq⟩ = o at queued
  obtain ⟨u, taken⟩ := o
  cases taken with
  | true => rw [if_pos (queued.1 rfl)]; exact (State.updClient_self rfl).symm
  | false => rw [if_neg fun free => Bool.false_ne_true (queued.2 free)]

/-! ## What a query leaves alone, and what it leaves in its session and port -/

theorem State.queryOffered_client (s : State) (c : Client) (m : Master) :
    (s.queryOffered c m).client c = (s.client c).asked s.clock.epoch s.res :=
  (State.offer_client _ _ _ _ c).trans (State.client_updClient_same s c _)

/-- A query reaches the ports, the sessions and the Alarm Unit only, and of these its own port, its own session and the
records of TIMING_LOSS of that port and of NOTICE_OVERFLOW. -/
structure Queried (c : Client) (s t : State) : Prop where
  frame   : t = { s with ports := t.ports, sessions := t.sessions, alarm := t.alarm }
  clients : ∀ d, d ≠ c → t.client d = s.client d
  ports   : ∀ k, k ≠ clientPort c → t.port k = s.port k
  recs    : ∀ i, i ≠ recTimingLoss (clientPort c) → i ≠ recOverflow → t.alarm.record i = s.alarm.record i

theorem Queried.trans {c : Client} {s t u : State} (a : Queried c s t) (b : Queried c t u) : Queried c s u :=
  ⟨by rw [b.frame, a.frame], fun d h => (b.clients d h).trans (a.clients d h), fun k h => (b.ports k h).trans (a.ports k h),
    fun i own other => (b.recs i own other).trans (a.recs i own other)⟩

theorem queried_updClient (s : State) (c : Client) (f : ClientSession → ClientSession) : Queried c s (s.updClient c f) :=
  ⟨rfl, fun _ h => State.client_updClient_ne h f, fun _ _ => rfl, fun _ _ _ => rfl⟩

theorem queried_offer (s : State) (c : Client) (f : QFrame) : Queried c s (s.offer (clientPort c) .timing f).1 :=
  ⟨by rw [State.offer_eq]; split <;> rfl, fun d _ => State.offer_client s _ _ f d,
    fun k h => (State.offer_port s _ k _ f).trans (if_neg h), fun _ own other => State.offer_record s _ _ f own other⟩

theorem queried_sendQuery (s : State) (c : Client) (m : Master) : Queried c s (s.sendQuery c m) := by
  by_cases room : (s.client c).outstanding.length < 8
  · rw [State.sendQuery_offered room]
    exact ((queried_updClient s c _).trans (queried_offer _ c _)).trans (queried_updClient _ c _)
  · rw [State.sendQuery_skipped (Nat.le_of_not_lt room)]
    exact queried_updClient s c _

/-- The DELAY_QUERY of a session in full (R25, R28, R37). -/
theorem State.queryFrame_eq (s : State) (c : Client) (m : Master) : s.queryFrame c m =
    { dst := m.addr, src := s.mgmt.station, tag := builtTag (s.client c).cfg.queryVlan
      etherType := BitVec.ofNat 16 s.mgmt.partEther
      payload := headerBytes { cls := 1, type := 3, domain := (s.client c).cfg.domain, flags := 0
                               seq := (s.client c).nextSeq, grade := 0, epoch := s.clock.epoch, seconds := 0, nanos := 0
                               correction := 0, bodyLen := 0 } } := by
  unfold State.queryFrame builtFrame
  dsimp only
  rw [List.append_nil]
  rfl

theorem State.sendQuery_port {s : State} {c : Client} (room : (s.client c).outstanding.length < 8) (m : Master) :
    (s.sendQuery c m).port (clientPort c) = (s.port (clientPort c)).offered s.res .timing
      ⟨s.queryFrame c m, .delayQuery (s.client c).nextSeq⟩ := by
  rw [State.sendQuery_offered room]
  exact (State.offer_port _ _ _ _ _).trans (if_pos rfl)

theorem State.sendQuery_client {s : State} {c : Client} (room : (s.client c).outstanding.length < 8) (m : Master) :
    (s.sendQuery c m).client c =
      if (s.port (clientPort c)).linkUp = true ∧ (s.port (clientPort c)).timingQ.length < 16
      then (s.client c).asked s.clock.epoch s.res
      else ((s.client c).asked s.clock.epoch s.res).withdrawn (s.client c).nextSeq := by
  rw [State.sendQuery_offered room, State.client_updClient_same, State.queryOffered_client]
  split <;> rfl

/-! ## O28 -/

theorem exec_queryDue_noMaster {s : State} {c : Client} (none' : (s.client c).master = none) :
    exec (.queryDue c) s = .next s := by
  show execQueryDue c s = _
  unfold execQueryDue
  rw [none']

theorem exec_queryDue_master {s : State} {c : Client} {m : Master} (some' : (s.client c).master = some m) :
    exec (.queryDue c) s = .next (s.atInstant (s.reachCounter ((s.client c).nextQuery s.clock.counter)) fun u =>
      u.queryAt c m ((s.client c).nextQuery s.clock.counter)) := by
  show execQueryDue c s = _
  unfold execQueryDue
  rw [some']

/-- Settles O28. -/
theorem queryDueSendsAQuery : Obligations.QueryDueSendsAQuery := by
  refine ⟨fun period done counter pos => nextDue_least pos done counter, fun s c => ?_⟩
  intro x due
  refine ⟨exec_queryDue_noMaster, fun m some' can => ?_⟩
  obtain ⟨k, reached, advance⟩ := State.reach_of_canReach can
  have there : s.reachCounter due = some (s.arrive k) := reached
  have run : exec (.queryDue c) s = .next ((s.arrive k).queryAt c m due) := by
    rw [exec_queryDue_master some', show s.reachCounter ((s.client c).nextQuery s.clock.counter) = _ from there]
    rfl
  have own : ((s.arrive k).updClient c fun y => { y with queryDone := due }).client c = { x with queryDone := due } :=
    State.client_updClient_same (s.arrive k) c _
  have taken := queried_updClient (s.arrive k) c fun y => { y with queryDone := due }
  refine ⟨_, run, ?_⟩
  unfold State.queryAt
  have port : ((s.arrive k).updClient c fun y => { y with queryDone := due }).port (clientPort c) =
      s.port (clientPort c) := rfl
  have mgmt : ((s.arrive k).updClient c fun y => { y with queryDone := due }).mgmt = s.mgmt := rfl
  have clock : ((s.arrive k).updClient c fun y => { y with queryDone := due }).clock = k := rfl
  generalize ((s.arrive k).updClient c fun y => { y with queryDone := due }) = w at *
  have sent := taken.trans (queried_sendQuery w c m)
  have now : (w.sendQuery c m).clock = k := by rw [(queried_sendQuery w c m).frame]; exact clock
  have res : w.res = k.residence := congrArg Clock.residence clock
  have epoch : w.clock.epoch = s.clock.epoch := (congrArg Clock.epoch clock).trans advance.2.2
  refine ⟨?_, ?_, sent.clients, sent.ports, sent.recs, fun full => ?_, fun room => ?_⟩
  · unfold advanced
    rw [now]
    exact advance
  · rw [now]
    exact sent.frame
  · have skipped := State.sendQuery_skipped (s := w) (c := c) (by rw [own]; exact full) m
    rw [skipped]
    exact ⟨port, (State.client_updClient_same w c _).trans (by rw [own])⟩
  · have less : (w.client c).outstanding.length < 8 := by rw [own]; exact room
    rw [now, State.sendQuery_port less, State.sendQuery_client less, State.queryFrame_eq, own, port, mgmt, res, epoch,
      ClientSession.withdrawn_asked]
    exact ⟨rfl, rfl⟩

end Sys2Proof.Machine
end

section
/-! PROOFS. The timers of a Client Session, and its written configuration (O29). -/
namespace Sys2Proof.Machine
open Sys2Proof

/-! ## The timers (R33, R39) -/

theorem exec_replyTimeout_none {s : State} {c : Client} (none' : (s.client c).outstanding = []) :
    exec (.replyTimeout c) s = .next s := by
  show execReplyTimeout c s = _
  unfold execReplyTimeout
  dsimp only
  rw [none']

theorem exec_replyTimeout_oldest {s : State} {c : Client} {q : QueryRec} {rest : List QueryRec}
    (oldest : (s.client c).outstanding = q :: rest) : exec (.replyTimeout c) s =
      .next (s.atInstant (s.reachRes (q.created + (s.client c).timeoutUnits)) fun u =>
        u.updClient c ClientSession.loseOldest) := by
  show execReplyTimeout c s = _
  unfold execReplyTimeout
  dsimp only
  rw [oldest]

/-- REPLY_TIMEOUT loses the oldest record, at the instant its age reaches Reply Timeout (R39). -/
theorem replyTimeout_losesOldest {s : State} {c : Client} {q : QueryRec} {rest : List QueryRec}
    (oldest : (s.client c).outstanding = q :: rest)
    (can : s.canReach (q.created + (s.client c).cfg.replyTimeout * 65536000000 - s.clock.residence)) :
    ∃ t, exec (.replyTimeout c) s = .next t ∧
      advanced s t (q.created + (s.client c).cfg.replyTimeout * 65536000000 - s.clock.residence) ∧
      t = { s.arrive t.clock with sessions := t.sessions } ∧
      t.client c = { s.client c with
        outstanding := rest, ctr := { (s.client c).ctr with lost := bump (s.client c).ctr.lost } } ∧
      ∀ k, k ≠ c → t.client k = s.client k := by
  obtain ⟨clock, reached, advance⟩ := State.reach_of_canReach can
  have there : s.reachRes (q.created + (s.client c).timeoutUnits) = some (s.arrive clock) := reached
  refine ⟨(s.arrive clock).updClient c ClientSession.loseOldest, ?_, advance, rfl, ?_,
    fun k ne => State.client_updClient_ne (s := s.arrive clock) ne _⟩
  · rw [exec_replyTimeout_oldest oldest, there]
    rfl
  · rw [State.client_updClient_same, State.arrive_client]
    unfold ClientSession.loseOldest
    rw [oldest, List.drop_one, List.tail_cons]

theorem exec_noticeIntervalExpires_quiet {s : State} {c : Client} (free : (s.client c).state ≠ .exchanging) :
    exec (.noticeIntervalExpires c) s = .next s := by
  show execNoticeIntervalExpires c s = _
  unfold execNoticeIntervalExpires
  dsimp only
  rw [if_neg free]

theorem exec_noticeIntervalExpires_exchanging {s : State} {c : Client} (state : (s.client c).state = .exchanging) :
    exec (.noticeIntervalExpires c) s =
      .next (s.atInstant (s.reachRes ((s.client c).noticeStart + (s.client c).cfg.noticeTimeout * secUnits)) fun u =>
        u.noticeExpired c) := by
  show execNoticeIntervalExpires c s = _
  unfold execNoticeIntervalExpires
  dsimp only
  rw [if_pos state]

/-- A session reports its state and NOTICE_MISSING to its reference, if that is enabled (R54). -/
theorem State.syncPkt_defects {s : State} {c : Client} (enabled : (s.ref (clientRef c)).state ≠ .disabled) :
    (Defect.signalLost ∈ ((s.syncPkt c).ref (clientRef c)).defects ↔ (s.client c).state ≠ .exchanging) ∧
      (Defect.noticeMissing ∈ ((s.syncPkt c).ref (clientRef c)).defects ↔ (s.client c).noticeMissing = true) := by
  unfold State.syncPkt
  dsimp only
  rw [judge_defects s _ _ _ .signalLost enabled (by decide), judge_defects s _ _ _ .noticeMissing enabled (by decide)]
  simp [mem_putDefect]

/-- What arriving at an instant leaves of the blocks that an event of a session does not own. -/
theorem kept_arrive (s : State) (c : Clock) : UpstreamKept [] [] { s with clock := c } (s.arrive c) :=
  ⟨rfl, rfl, rfl, rfl, rfl, rfl, rfl, fun _ _ => rfl, fun _ _ _ => rfl, fun _ => rfl, fun _ => .inl rfl,
    fun _ _ _ => rfl, fun _ => rfl⟩

/-- NOTICE_INTERVAL_EXPIRES, at the instant the interval reaches Notice Timeout (R33). -/
theorem noticeInterval_expires {s : State} {c : Client} (state : (s.client c).state = .exchanging)
    (can : s.canReach ((s.client c).noticeStart + (s.client c).cfg.noticeTimeout * secUnits - s.clock.residence)) :
    ∃ t, exec (.noticeIntervalExpires c) s = .next t ∧
      advanced s t ((s.client c).noticeStart + (s.client c).cfg.noticeTimeout * secUnits - s.clock.residence) ∧
      UpstreamKept [clientRef c] [c] { s with clock := t.clock } t ∧
      t.client c = { s.client c with
        state := .listening, master := none, outstanding := [], pair := none, best := none, noticeMissing := true } ∧
      ((s.ref (clientRef c)).state ≠ .disabled →
        Defect.signalLost ∈ (t.ref (clientRef c)).defects ∧ Defect.noticeMissing ∈ (t.ref (clientRef c)).defects) := by
  obtain ⟨k, reached, advance⟩ := State.reach_of_canReach can
  have there : s.reachRes ((s.client c).noticeStart + (s.client c).cfg.noticeTimeout * secUnits) =
    some (s.arrive k) := reached
  have kept : UpstreamKept [clientRef c] [c] (s.arrive k) ((s.arrive k).noticeExpired c) := kept_moveClient _ c _
  have clock : ((s.arrive k).noticeExpired c).clock = k := kept.clock
  refine ⟨(s.arrive k).noticeExpired c, ?_, ?_, ?_, State.client_moveClient (s.arrive k) c _, fun enabled => ?_⟩
  · rw [exec_noticeIntervalExpires_exchanging state, there]
    rfl
  · unfold advanced
    rw [clock]
    exact advance
  · rw [clock]
    exact ((kept_arrive s k).mono (by simp) (by simp)).trans kept
  · obtain ⟨lost, missing⟩ := State.syncPkt_defects (c := c)
      (s := (s.arrive k).updClient c fun x => { x.toListening with noticeMissing := true }) enabled
    rw [State.client_updClient_same] at lost missing
    exact ⟨lost.2 (show ClientState.listening ≠ .exchanging by decide), missing.2 rfl⟩

/-! ## What a changed configuration does to its session (R29) -/

/-- Enabled, or else Domain and Query VLAN, changed from `old`; `up` is the link of the port (R29, R30, R43). -/
def ClientSession.switched (old : ClientCfg) (up : Bool) (x : ClientSession) : ClientSession :=
  if old.enabled = true ∧ x.cfg.enabled = false then if x.state = .idle then x else x.toIdle
  else if old.enabled = false ∧ x.cfg.enabled = true then if x.state = .idle ∧ up = true then x.toListening else x
  else if old.domain ≠ x.cfg.domain ∨ old.queryVlan ≠ x.cfg.queryVlan then
    if x.state = .idle then x else x.toListening
  else x

/-- Reply Timeout changed from `old` (R29, R39). -/
def ClientSession.retimed (old : ClientCfg) (res : Nat) (x : ClientSession) : ClientSession :=
  if old.replyTimeout = x.cfg.replyTimeout then x else x.loseAged res

/-- The notice interval runs and has reached Notice Timeout (R33). -/
def ClientSession.spent (res : Nat) (x : ClientSession) : Prop :=
  x.state = .exchanging ∧ x.cfg.noticeTimeout * secUnits ≤ res - x.noticeStart

/-- The session once its notice interval has expired (R33). -/
def ClientSession.expired (x : ClientSession) : ClientSession := { x.toListening with noticeMissing := true }

/-- A session without master, list, pair or best exchange, in a given state (R43). -/
structure ClientSession.RestsIn (state : ClientState) (x : ClientSession) : Prop where
  state  : x.state = state
  master : x.master = none
  list   : x.outstanding = []
  pair   : x.pair = none
  best   : x.best = none

theorem ClientSession.toIdle_rests (x : ClientSession) : x.toIdle.RestsIn .idle := ⟨rfl, rfl, rfl, rfl, rfl⟩

theorem ClientSession.toListening_rests (x : ClientSession) : x.toListening.RestsIn .listening :=
  ⟨rfl, rfl, rfl, rfl, rfl⟩

theorem ClientSession.switched_cfg (old : ClientCfg) (up : Bool) (x : ClientSession) :
    (x.switched old up).cfg = x.cfg := by
  unfold ClientSession.switched
  repeat' split
  all_goals rfl

theorem ClientSession.retimed_cfg (old : ClientCfg) (res : Nat) (x : ClientSession) :
    (x.retimed old res).cfg = x.cfg := by
  unfold ClientSession.retimed
  split <;> rfl

theorem ClientSession.retimed_rests {state : ClientState} {x : ClientSession} (rests : x.RestsIn state)
    (old : ClientCfg) (res : Nat) : (x.retimed old res).RestsIn state := by
  unfold ClientSession.retimed
  split
  · exact rests
  · refine ⟨rests.state, rests.master, ?_, rests.pair, rests.best⟩
    unfold ClientSession.loseAged
    dsimp only
    rw [rests.list, List.filter_nil]

/-- The age of a record has reached Reply Timeout (R39). -/
def ClientSession.aged (res : Nat) (x : ClientSession) (r : QueryRec) : Bool :=
  decide (x.cfg.replyTimeout * 65536000000 ≤ res - r.created)

/-- The records that are aged leave the list, each counted under Lost (R39). -/
theorem ClientSession.loseAged_eq (res : Nat) (x : ClientSession) :
    x.loseAged res = { x with
      outstanding := x.outstanding.filter fun r => !x.aged res r
      ctr := { x.ctr with
        lost := min (x.ctr.lost + (x.outstanding.length - (x.outstanding.filter fun r => !x.aged res r).length))
          4294967295 } } := by
  have gone := List.length_eq_length_filter_add (l := x.outstanding) (x.aged res)
  have count : x.outstanding.length - (x.outstanding.filter fun r => !x.aged res r).length =
      (x.outstanding.filter (x.aged res)).length := by omega
  have stay : (x.outstanding.filter fun r => !x.aged res r) =
      x.outstanding.filter fun q => ¬x.timeoutUnits ≤ res - q.created :=
    List.filter_congr fun q _ => decide_not.symm
  rw [count, stay]
  rfl

/-! ## The same on the relay -/

theorem State.clientStop_client (s : State) (c : Client) :
    (s.clientStop c).client c = if (s.client c).state = .idle then s.client c else (s.client c).toIdle := by
  unfold State.clientStop
  split
  · rfl
  · exact State.client_moveClient s c _

theorem State.clientRetune_client (s : State) (c : Client) :
    (s.clientRetune c).client c = if (s.client c).state = .idle then s.client c else (s.client c).toListening := by
  unfold State.clientRetune
  split
  · rfl
  · exact State.client_moveClient s c _

theorem State.clientStart_client {s : State} {c : Client} (enabled : (s.client c).cfg.enabled = true) :
    (s.clientStart c).client c = if (s.client c).state = .idle ∧ (s.port (clientPort c)).linkUp = true
      then (s.client c).toListening else s.client c := by
  unfold State.clientStart
  dsimp only
  rw [enabled]
  simp only [true_and]
  split
  · exact State.client_moveClient s c _
  · rfl

/-- The first work of a changed configuration: Enabled, or else Domain and Query VLAN (log 57). -/
def State.clientSwitched (s : State) (c : Client) (old : ClientCfg) : State :=
  if old.enabled && !(s.client c).cfg.enabled then s.clientStop c
  else if !old.enabled && (s.client c).cfg.enabled then s.clientStart c
  else if old.domain ≠ (s.client c).cfg.domain ∨ old.queryVlan ≠ (s.client c).cfg.queryVlan then s.clientRetune c
  else s

/-- The second: Reply Timeout (log 57). -/
def State.clientRetimed (s : State) (c : Client) (old : ClientCfg) : State :=
  if old.replyTimeout = (s.client c).cfg.replyTimeout then s.clientSwitched c old
  else (s.clientSwitched c old).updClient c (ClientSession.loseAged s.res)

theorem State.clientChanged_eq (s : State) (c : Client) (old : ClientCfg) : s.clientChanged c old =
    if old.noticeTimeout = (s.client c).cfg.noticeTimeout then s.clientRetimed c old
    else (s.clientRetimed c old).noticeCheck c := rfl

theorem State.clientSwitched_client (s : State) (c : Client) (old : ClientCfg) :
    (s.clientSwitched c old).client c = (s.client c).switched old (s.port (clientPort c)).linkUp := by
  unfold State.clientSwitched ClientSession.switched
  simp only [Bool.and_eq_true, Bool.not_eq_true']
  split
  · exact State.clientStop_client s c
  · split
    · next on => exact State.clientStart_client on.2
    · split
      · exact State.clientRetune_client s c
      · rfl

theorem kept_clientSwitched (s : State) (c : Client) (old : ClientCfg) :
    UpstreamKept [clientRef c] [c] s (s.clientSwitched c old) := by
  unfold State.clientSwitched
  split
  · exact kept_linkSession s c false
  · split
    · exact kept_linkSession s c true
    · split
      · unfold State.clientRetune
        split
        · exact UpstreamKept.refl _ _ s
        · exact kept_moveClient s c _
      · exact UpstreamKept.refl _ _ s

theorem State.clientRetimed_client (s : State) (c : Client) (old : ClientCfg) : (s.clientRetimed c old).client c =
    ((s.client c).switched old (s.port (clientPort c)).linkUp).retimed old s.res := by
  unfold State.clientRetimed ClientSession.retimed
  rw [ClientSession.switched_cfg]
  split
  · exact State.clientSwitched_client s c old
  · rw [State.client_updClient_same, State.clientSwitched_client]

theorem kept_clientRetimed (s : State) (c : Client) (old : ClientCfg) :
    UpstreamKept [clientRef c] [c] s (s.clientRetimed c old) := by
  unfold State.clientRetimed
  split
  · exact kept_clientSwitched s c old
  · exact (kept_clientSwitched s c old).trans ((kept_updClient _ c _).mono (by simp) (by simp))

theorem kept_noticeCheck (s : State) (c : Client) : UpstreamKept [clientRef c] [c] s (s.noticeCheck c) := by
  unfold State.noticeCheck
  dsimp only
  split
  · exact kept_moveClient s c _
  · exact UpstreamKept.refl _ _ s

theorem kept_clientChanged (s : State) (c : Client) (old : ClientCfg) :
    UpstreamKept [clientRef c] [c] s (s.clientChanged c old) := by
  rw [State.clientChanged_eq]
  split
  · exact kept_clientRetimed s c old
  · exact (kept_clientRetimed s c old).trans (kept_noticeCheck _ c)

/-- The last work, Notice Timeout: a changed one that the running interval has reached expires it at once (R29). -/
theorem State.clientChanged_client (s : State) (c : Client) (old : ClientCfg) :
    let y := (s.clientRetimed c old).client c
    (old.noticeTimeout ≠ (s.client c).cfg.noticeTimeout ∧ y.spent s.res → (s.clientChanged c old).client c = y.expired) ∧
      (¬ (old.noticeTimeout ≠ (s.client c).cfg.noticeTimeout ∧ y.spent s.res) →
        (s.clientChanged c old).client c = y) := by
  intro y
  have res : (s.clientRetimed c old).res = s.res := congrArg Clock.residence (kept_clientRetimed s c old).clock
  have checked : ((s.clientRetimed c old).noticeCheck c).client c = if y.state = .exchanging ∧
      y.cfg.noticeTimeout * secUnits ≤ (s.clientRetimed c old).res - y.noticeStart then y.expired else y := by
    unfold State.noticeCheck
    dsimp only
    split
    · exact State.client_moveClient _ c _
    · rfl
  rw [res] at checked
  rw [State.clientChanged_eq]
  refine ⟨fun spent => ?_, fun running => ?_⟩
  · rw [if_neg spent.1]
    exact checked.trans (if_pos spent.2)
  · split
    · rfl
    · next changed => exact checked.trans (if_neg fun spent => running ⟨changed, spent⟩)

theorem State.clientChanged_cfg (s : State) (c : Client) (old : ClientCfg) :
    ((s.clientChanged c old).client c).cfg = (s.client c).cfg := by
  have before : ((s.clientRetimed c old).client c).cfg = (s.client c).cfg := by
    rw [State.clientRetimed_client, ClientSession.retimed_cfg, ClientSession.switched_cfg]
  obtain ⟨expires, stays⟩ := State.clientChanged_client s c old
  by_cases spent : old.noticeTimeout ≠ (s.client c).cfg.noticeTimeout ∧
      ((s.clientRetimed c old).client c).spent s.res
  · rw [expires spent]; exact before
  · rw [stays spent]; exact before

/-- A session emptied by the first work stays so through the timeouts. -/
theorem State.clientChanged_rests {s : State} {c : Client} {old : ClientCfg} {state : ClientState}
    (rests : ((s.client c).switched old (s.port (clientPort c)).linkUp).RestsIn state) (free : state ≠ .exchanging) :
    ((s.clientChanged c old).client c).RestsIn state := by
  have before : ((s.clientRetimed c old).client c).RestsIn state := by
    rw [State.clientRetimed_client]
    exact ClientSession.retimed_rests rests old s.res
  rw [(State.clientChanged_client s c old).2 fun spent => free (before.state ▸ spent.2.1)]
  exact before

/-- A configuration written with the values it had changes nothing. -/
theorem State.clientChanged_same {s : State} {c : Client} {old : ClientCfg} (same : (s.client c).cfg = old) :
    s.clientChanged c old = s := by
  subst same
  unfold State.clientChanged
  simp only [Bool.and_not_self, Bool.not_and_self]
  simp

/-! ## A written Client Session Configuration (R29, R196) -/

/-- The configuration that the fields of a PUT store, numbers clamped to their ranges (R29). -/
def writtenClientCfg (enabled : Bool) (domain timeout asym notice : Int) (rate : Nat) (vlan : Option Int) : ClientCfg :=
  { enabled := enabled, domain := held 0 127 domain, queryRate := rate, replyTimeout := held 100 2000 timeout
    asymmetry := heldMag 100000 asym, queryVlan := vlan.map (held 0 4095), noticeTimeout := held 2 16 notice }

/-- The fields of a Client Session Configuration as a PUT carries them (11). -/
def clientCfgFields (enabled : Bool) (domain timeout asym notice : Int) (rate : Nat) (vlan : Option Int) : List Byte :=
  encBool enabled ++ encNum domain ++ encIn queryRates rate ++ encNum timeout ++ encNum asym ++ encOptInt vlan ++
    encNum notice

theorem encNum_length (v : Int) : (encNum v).length = 8 := beBytesInt_length 8 v

theorem encOptInt_length (v : Option Int) : (encOptInt v).length = 9 := by
  cases v with
  | none => rfl
  | some a => exact congrArg (· + 1) (encNum_length a)

theorem clientCfgFields_length (enabled : Bool) (domain timeout asym notice : Int) (rate : Nat) (vlan : Option Int) :
    (clientCfgFields enabled domain timeout asym notice rate vlan).length = 43 := by
  unfold clientCfgFields
  simp only [List.length_append, encNum_length, encOptInt_length]
  rfl

theorem takeClientCfg_fields (enabled : Bool) {domain timeout asym notice : Int} {rate : Nat} {vlan : Option Int}
    (fitDomain : isField domain) (fitTimeout : isField timeout) (fitAsym : isField asym) (fitNotice : isField notice)
    (fitVlan : isOptField vlan) (listed : rate ∈ queryRates) :
    readWhole takeClientCfg (clientCfgFields enabled domain timeout asym notice rate vlan) =
      some (writtenClientCfg enabled domain timeout asym notice rate vlan,
        outside 0 127 domain || outside 100 2000 timeout || outside (-100000) 100000 asym ||
          outsideOpt 0 4095 vlan || outside 2 16 notice) := by
  have last := takeNum_encNum notice fitNotice []
  rw [List.append_nil] at last
  unfold readWhole takeClientCfg clientCfgFields
  simp only [List.append_assoc, takeBool_encBool, takeNum_encNum _ fitDomain, takeIn_encIn _ _ listed (by decide),
    takeNum_encNum _ fitTimeout, takeNum_encNum _ fitAsym, takeOptNum_encOptInt _ fitVlan, last, Option.bind_eq_bind,
    Option.bind_some]
  rfl

end Sys2Proof.Machine
end

section
/-! PROOFS. The timers of a Client Session and a PUT of its configuration, put together (O29). -/
namespace Sys2Proof.Machine
open Sys2Proof

/-! ## The cases of the first work -/

section
variable {old : ClientCfg} {up : Bool} {x : ClientSession}

theorem ClientSession.switched_off (was : old.enabled = true) (off : x.cfg.enabled = false) (awake : x.state ≠ .idle) :
    (x.switched old up).RestsIn .idle := by
  unfold ClientSession.switched
  rw [if_pos ⟨was, off⟩, if_neg awake]
  exact x.toIdle_rests

theorem ClientSession.switched_on (was : old.enabled = false) (on : x.cfg.enabled = true) (idle : x.state = .idle)
    (link : up = true) : (x.switched old up).RestsIn .listening := by
  unfold ClientSession.switched
  rw [if_neg (by simp [was]), if_pos ⟨was, on⟩, if_pos ⟨idle, link⟩]
  exact x.toListening_rests

theorem ClientSession.switched_retuned (was : old.enabled = true) (on : x.cfg.enabled = true)
    (changed : old.domain ≠ x.cfg.domain ∨ old.queryVlan ≠ x.cfg.queryVlan) (awake : x.state ≠ .idle) :
    (x.switched old up).RestsIn .listening := by
  unfold ClientSession.switched
  rw [if_neg (by simp [on]), if_neg (by simp [was]), if_pos changed, if_neg awake]
  exact x.toListening_rests

theorem ClientSession.switched_same (enabled : old.enabled = x.cfg.enabled) (domain : old.domain = x.cfg.domain)
    (vlan : old.queryVlan = x.cfg.queryVlan) : x.switched old up = x := by
  unfold ClientSession.switched
  rw [if_neg (by simp [enabled]), if_neg (by simp [enabled]), if_neg (by simp [domain, vlan])]

end

/-- A session under a new configuration, once Reply Timeout has been looked at (R29, R39). -/
theorem ClientSession.retimed_written (x : ClientSession) (cfg : ClientCfg) (res : Nat) :
    let y : ClientSession := { x with cfg := cfg }
    let left := if cfg.replyTimeout = x.cfg.replyTimeout then x.outstanding
      else x.outstanding.filter fun r => !y.aged res r
    y.retimed x.cfg res = { y with
      outstanding := left
      ctr := { x.ctr with
        lost := if cfg.replyTimeout = x.cfg.replyTimeout then x.ctr.lost
          else min (x.ctr.lost + (x.outstanding.length - left.length)) 4294967295 } } := by
  intro y left
  unfold ClientSession.retimed
  by_cases same : cfg.replyTimeout = x.cfg.replyTimeout
  · rw [if_pos same.symm]
    simp only [left, if_pos same]
    rfl
  · rw [if_neg (Ne.symm same), ClientSession.loseAged_eq]
    simp only [left, if_neg same]
    rfl

/-! ## The write -/

/-- The relay once a configuration has been written to a session. -/
def State.clientWritten (s : State) (c : Client) (cfg : ClientCfg) : State :=
  (s.updClient c fun x => { x with cfg := cfg }).clientChanged c (s.client c).cfg

theorem kept_clientWritten (s : State) (c : Client) (cfg : ClientCfg) :
    UpstreamKept [clientRef c] [c] s (s.clientWritten c cfg) :=
  ((kept_updClient s c _).mono (by simp) (by simp)).trans (kept_clientChanged _ c _)

theorem State.clientWritten_cfg (s : State) (c : Client) (cfg : ClientCfg) :
    ((s.clientWritten c cfg).client c).cfg = cfg := by
  unfold State.clientWritten
  rw [State.clientChanged_cfg, State.client_updClient_same]

theorem State.clientWritten_same (s : State) (c : Client) : s.clientWritten c (s.client c).cfg = s := by
  unfold State.clientWritten
  rw [State.clientChanged_same (by rw [State.client_updClient_same])]
  exact State.updClient_self rfl

theorem State.clientWritten_rests {s : State} {c : Client} {cfg : ClientCfg} {state : ClientState}
    (rests : (ClientSession.switched (s.client c).cfg (s.port (clientPort c)).linkUp
      { s.client c with cfg := cfg }).RestsIn state) (free : state ≠ .exchanging) :
    ((s.clientWritten c cfg).client c).RestsIn state :=
  State.clientChanged_rests (by rw [State.client_updClient_same, State.updClient_port]; exact rests) free

/-- With Enabled, Domain and Query VLAN as they were, only the timeouts act, Reply Timeout first (log 57). -/
theorem State.clientWritten_timeouts {s : State} {c : Client} {cfg : ClientCfg}
    (enabled : cfg.enabled = (s.client c).cfg.enabled) (domain : cfg.domain = (s.client c).cfg.domain)
    (vlan : cfg.queryVlan = (s.client c).cfg.queryVlan) :
    let y := ClientSession.retimed (s.client c).cfg s.res { s.client c with cfg := cfg }
    let spent := cfg.noticeTimeout ≠ (s.client c).cfg.noticeTimeout ∧ y.spent s.res
    (spent → (s.clientWritten c cfg).client c = y.expired) ∧ (¬ spent → (s.clientWritten c cfg).client c = y) := by
  have changed := State.clientChanged_client (s.updClient c fun x => { x with cfg := cfg }) c (s.client c).cfg
  rw [State.clientRetimed_client, State.client_updClient_same, State.updClient_port, State.updClient_res,
    ClientSession.switched_same enabled.symm domain.symm vlan.symm] at changed
  exact ⟨fun spent => changed.1 ⟨spent.1.symm, spent.2⟩, fun running => changed.2 fun spent =>
    running ⟨spent.1.symm, spent.2⟩⟩

/-- A PUT of a Client Session Configuration that decodes is written. -/
theorem State.putEntry_client {s : State} {p : Port} {c : Client} {bs : List Byte} {cfg : ClientCfg} {adjusted : Bool}
    (decoded : readWhole takeClientCfg bs = some (cfg, adjusted)) :
    s.putEntry p 3 (clientIdx c).val bs = .written (s.clientWritten c cfg) adjusted := by
  have session : s.putEntry p 3 (clientIdx c).val bs = s.putClient c bs := by cases c <;> rfl
  rw [session]
  unfold State.putClient
  rw [decoded]
  rfl

/-- Settles O29: the two timers, then the write by what it changes. -/
theorem sessionTimersRunOut : Obligations.SessionTimersRunOut := by
  refine ⟨fun s c => ⟨exec_replyTimeout_none, fun q rest oldest => replyTimeout_losesOldest oldest,
    exec_noticeIntervalExpires_quiet, noticeInterval_expires⟩, ?_⟩
  intro s dt c q enabled domain timeout asym notice rate vlan fitDomain fitTimeout fitAsym fitNotice fitVlan listed
    puts v x cfg inRange
  have decoded := takeClientCfg_fields enabled fitDomain fitTimeout fitAsym fitNotice fitVlan listed
  obtain ⟨t, run, stored⟩ := put_written s dt c 3 (clientIdx q).val
    (clientCfgFields enabled domain timeout asym notice rate vlan) (v.clientWritten q cfg) _ inRange puts (by decide)
    (by decide) (clientIdx q).isLt (by omega) (by rw [clientCfgFields_length]; decide) (State.putEntry_client decoded) (by
      simp only [Bool.or_eq_true, outside_iff, outsideOpt_iff, inRange]
      tauto)
  refine ⟨v.clientWritten q cfg, t, run, stored, kept_clientWritten v q cfg, State.clientWritten_cfg v q cfg,
    fun same => ?_, fun was off awake => ?_, fun was on changed awake => ?_, fun was on idle link => ?_, ?_⟩
  · rw [same]
    exact State.clientWritten_same v q
  · obtain ⟨state, master, list, pair, best⟩ := State.clientWritten_rests (s := v) (c := q) (cfg := cfg)
      (ClientSession.switched_off was off awake) (by decide)
    exact ⟨state, master, list, pair, best⟩
  · obtain ⟨state, master, list, pair, best⟩ := State.clientWritten_rests (s := v) (c := q) (cfg := cfg)
      (ClientSession.switched_retuned was on (changed.imp Ne.symm Ne.symm) awake) (by decide)
    exact ⟨state, master, list, pair, best⟩
  · obtain ⟨state, master, -, -, -⟩ := State.clientWritten_rests (s := v) (c := q) (cfg := cfg)
      (ClientSession.switched_on was on idle link) (by decide)
    exact ⟨state, master⟩
  · intro aged kept' spent sameEnabled sameDomain sameVlan
    obtain ⟨expires, stays⟩ := State.clientWritten_timeouts (s := v) (c := q) sameEnabled sameDomain sameVlan
    rw [ClientSession.retimed_written] at expires stays
    by_cases late : spent
    · rw [expires late]
      exact ⟨rfl, fun running => absurd late running, fun _ => ⟨rfl, rfl, rfl, rfl⟩⟩
    · rw [stays late]
      exact ⟨rfl, fun _ => rfl, fun late' => absurd late' late⟩

end Sys2Proof.Machine
end

section
/-! PROOFS. The state machine of a reference (R64 to R67): what it leaves of the reference, and that REF_FAIL tells the
reference as it stands. -/
namespace Sys2Proof.Machine
open Sys2Proof

theorem State.ref_updRef_same (s : State) (r : Ref) (f : Reference → Reference) :
    (s.updRef r f).ref r = f (s.ref r) := (State.ref_updRef s r r f).trans (if_pos rfl)

theorem State.updRef_self {s : State} {r : Ref} {f : Reference → Reference} (h : f (s.ref r) = s.ref r) :
    s.updRef r f = s := by
  unfold State.updRef updAt
  rw [show f (s.refs.get (refIdx r)) = s.refs.get (refIdx r) from h]
  exact congrArg (fun v => { s with refs := v }) (Vector.set_getElem_self (refIdx r).isLt)

/-! ## What the machine leaves of a reference -/

/-- Only what the state machine moves can differ: the state, the defect set, the timers and Failures. -/
def Reference.moved (x y : Reference) : Prop :=
  y = { x with
    state := y.state, defects := y.defects, qualify := y.qualify, holdOff := y.holdOff, restore := y.restore
    ctr := { x.ctr with failures := y.ctr.failures } }

theorem Reference.moved.refl (x : Reference) : x.moved x := rfl

theorem Reference.moved.trans {x y z : Reference} (a : x.moved y) (b : y.moved z) : x.moved z := by
  unfold Reference.moved at a b ⊢
  rw [a] at b
  exact b

theorem Reference.moved.ite {x : Reference} {t u : State} {q : Ref} {c : Prop} [Decidable c] (a : x.moved (t.ref q))
    (b : x.moved (u.ref q)) : x.moved ((if c then t else u).ref q) := by
  split <;> assumption

section
variable {x y : Reference} (h : x.moved y)
include h

theorem Reference.moved.cfg : y.cfg = x.cfg := (congrArg Reference.cfg h :)

theorem Reference.moved.lastE : y.lastE = x.lastE := (congrArg Reference.lastE h :)

theorem Reference.moved.grade : y.grade = x.grade := (congrArg Reference.grade h :)

theorem Reference.moved.starve : y.starve = x.starve := (congrArg Reference.starve h :)

theorem Reference.moved.phaseJumps : y.ctr.phaseJumps = x.ctr.phaseJumps :=
  (congrArg (fun z : Reference => z.ctr.phaseJumps) h :)

end

theorem Reference.moved.either {x y z : Reference} {c : Prop} [Decidable c] (a : x.moved y) (b : x.moved z) :
    x.moved (if c then y else z) := by split <;> assumption

theorem Reference.toRestoring_moved (res : Nat) (x : Reference) : x.moved (x.toRestoring res) :=
  Reference.moved.either rfl rfl

theorem Reference.react_moved (res : Nat) (was : List Defect) (x : Reference) : x.moved (x.react res was) := by
  unfold Reference.react
  dsimp only
  split
  · exact Reference.moved.refl x
  · exact Reference.moved.either (Reference.moved.either rfl rfl) rfl
  · exact Reference.moved.either rfl (Reference.moved.either rfl
    (Reference.moved.either (Reference.moved.either rfl rfl) rfl))
  · exact Reference.moved.either (x.toRestoring_moved res) rfl
  · exact Reference.moved.either rfl rfl

theorem Down.moved {s t : State} (d : Down s t) (r : Ref) : (s.ref r).moved (t.ref r) := by
  by_cases gnss : r = .gnss
  · subst gnss
    obtain ⟨ds, same, -⟩ := d.gref
    rw [same]
    rfl
  · rw [d.refs r gnss]
    exact Reference.moved.refl _

/-- A re-evaluation that answers a report of a change of state moves references by their machines alone. -/
theorem announceWith_moved {reeval : State → State} {q : Ref} (h : ∀ t : State, (t.ref q).moved ((reeval t).ref q))
    (s : State) (r : Ref) : (s.ref q).moved ((s.announceWith reeval r).ref q) := by
  unfold State.announceWith
  rw [pinsFallback_ref]
  exact h (s.refReport r)

theorem reactWith_moved {reeval : State → State} {q : Ref} (h : ∀ t : State, (t.ref q).moved ((reeval t).ref q))
    (s : State) (r : Ref) (was : List Defect) : (s.ref q).moved ((s.reactWith reeval r was).ref q) := by
  have reacted : (s.ref q).moved ((s.updRef r fun _ => (s.ref r).react s.res was).ref q) := by
    rw [State.ref_updRef]
    split
    · next same => subst same; exact Reference.react_moved _ _ _
    · exact Reference.moved.refl _
  unfold State.reactWith
  dsimp only
  split
  · exact reacted.trans (announceWith_moved h _ r)
  · split <;> exact reacted

theorem reevaluate_moved (s : State) (q : Ref) : (s.ref q).moved (s.reevaluate.ref q) := by
  have roles : ∀ t : State, (t.ref q).moved (t.reevaluateRoles.ref q) := fun t => (down_reevaluateRoles t).moved q
  unfold State.reevaluate State.answerFreerun
  split
  · exact roles s
  · exact (roles s).trans (reactWith_moved roles _ _ _)

theorem announce_moved (s : State) (r q : Ref) : (s.ref q).moved ((s.announce r).ref q) :=
  announceWith_moved (fun t => reevaluate_moved t q) s r

theorem qualifyRef_moved (s : State) (r : Ref) : (s.ref r).moved ((s.qualifyRef r).ref r) := by
  have qualified : (s.ref r).moved ((s.updRef r Reference.toQualified).ref r) := by
    rw [State.ref_updRef_same]
    rfl
  exact qualified.trans (announce_moved _ r r)

theorem measured_moved (s : State) (r : Ref) : (s.ref r).moved ((s.measured r).ref r) := by
  unfold State.measured
  exact Reference.moved.ite (qualifyRef_moved s r) (Reference.moved.refl _)

/-- A qualifying reference keeps its defect set, but that a FREERUN it brings about can drop TOD_MISMATCH (R53). -/
theorem measured_defects {d : Defect} (other : d ≠ .todMismatch) (s : State) (r : Ref) :
    d ∈ ((s.measured r).ref r).defects ↔ d ∈ (s.ref r).defects := by
  unfold State.measured State.qualifyRef State.announce State.announceWith
  dsimp only
  split
  · rw [pinsFallback_ref, reevaluate_defects _ r d other]
    show d ∈ ((s.updRef r Reference.toQualified).ref r).defects ↔ _
    rw [State.ref_updRef_same]
    rfl
  · rfl

/-- An enabled reference that is judged, before its machine reacts (R60). -/
def Reference.judged (r : Ref) (grade : Option Nat) (f : List Defect → List Defect) (x : Reference) : Reference :=
  let ds := putDefect .gradeLow (phaseCapable r && gradeIsLow grade x.cfg.minGrade) (f x.defects)
  { x with grade := grade, defects := ds, winVoid := x.winVoid || ds.contains .signalLost }

/-- Beside its grade and the window that a lost signal voids, judging a reference moves its machine alone. -/
theorem judge_moved {s : State} {r : Ref} (enabled : (s.ref r).state ≠ .disabled) (grade : Option Nat)
    (f : List Defect → List Defect) : ((s.ref r).judged r grade f).moved ((s.judge r grade f).ref r) := by
  unfold State.judge
  dsimp only
  rw [if_neg enabled]
  generalize stored : s.updRef r _ = s1
  have judged : s1.ref r = (s.ref r).judged r grade f := by rw [← stored, State.ref_updRef_same]; rfl
  rw [← judged]
  have reacted (c : Prop) [Decidable c] : (s1.ref r).moved ((if c then s1
      else s1.reactWith State.reevaluate r (s.ref r).defects).ref r) :=
    Reference.moved.ite (Reference.moved.refl _) (reactWith_moved (fun t => reevaluate_moved t r) s1 r _)
  exact Reference.moved.ite ((reacted _).trans (reevaluate_moved _ r)) (reacted _)

/-- A change of the set decides every defect but GRADE_LOW, which follows the grade, and TOD_MISMATCH, which an entry to
FREERUN drops (R53, R60). -/
theorem judge_decides {s : State} {r : Ref} (enabled : (s.ref r).state ≠ .disabled) (grade : Option Nat)
    (f : List Defect → List Defect) {d : Defect} (notGrade : d ≠ .gradeLow) (other : d ≠ .todMismatch) :
    d ∈ ((s.judge r grade f).ref r).defects ↔ d ∈ f (s.ref r).defects := by
  rw [judge_defects s r grade f d enabled other, mem_putDefect, if_neg notGrade]

theorem judge_raises {s : State} {r : Ref} (enabled : (s.ref r).state ≠ .disabled) (grade : Option Nat)
    {d : Defect} (notGrade : d ≠ .gradeLow) (other : d ≠ .todMismatch) :
    d ∈ ((s.judge r grade (putDefect d true)).ref r).defects := by
  rw [judge_decides enabled grade _ notGrade other, mem_putDefect, if_pos rfl]

theorem judge_drops {s : State} {r : Ref} (enabled : (s.ref r).state ≠ .disabled) (grade : Option Nat)
    {d : Defect} (notGrade : d ≠ .gradeLow) (other : d ≠ .todMismatch) :
    d ∉ ((s.judge r grade (putDefect d false)).ref r).defects := by
  rw [judge_decides enabled grade _ notGrade other, mem_putDefect, if_pos rfl]
  decide

/-! ## REF_FAIL (R67) -/

theorem Alarm.updRec_cause {f : AlarmRecord → AlarmRecord} (keeps : ∀ x, (f x).cause = x.cause) (a : Alarm)
    (i : Fin 41) : ((a.updRec i f).record i).cause = (a.record i).cause := by
  rw [Alarm.record_updRec, keeps]

theorem Alarm.produce_cause (i : Fin 41) (a : Alarm) : ((a.produce i).1.record i).cause = (a.record i).cause := by
  unfold Alarm.produce Alarm.place
  split
  · split
    · rfl
    · split
      · exact Alarm.updRec_cause (fun _ => by rfl) a i
      · split
        · rfl
        · exact Alarm.updRec_cause (fun _ => by rfl) a i
  · rfl

theorem Alarm.raise_cause (now : Stamp) (res : Nat) (i : Fin 41) (a : Alarm) :
    ((a.raise now res i).1.record i).cause = (a.record i).cause := by
  unfold Alarm.raise
  dsimp only
  rw [Alarm.produce_cause, pulseFor_record]
  exact Alarm.updRec_cause (fun _ => by rfl) a i

theorem Alarm.clearRecord_cause (now : Stamp) (i : Fin 41) (a : Alarm) :
    ((a.clearRecord now i).1.record i).cause = (a.record i).cause := by
  unfold Alarm.clearRecord
  rw [Alarm.produce_cause]
  exact Alarm.updRec_cause (fun _ => by rfl) a i

theorem Alarm.becomePresent_cause (now : Stamp) (res : Nat) (i : Fin 41) (a : Alarm) :
    ((a.becomePresent now res i).1.record i).cause = (a.record i).cause := by
  rw [← Alarm.updRec_cause (f := fun r => { r with present := true }) (fun _ => by rfl) a i]
  unfold Alarm.becomePresent
  dsimp only
  split
  · split
    · exact Alarm.raise_cause now res i _
    · exact Alarm.updRec_cause (fun _ => by rfl) _ i
  · exact Alarm.updRec_cause (fun _ => by rfl) _ i
  · rfl
  · rfl

theorem Alarm.becomeAbsent_cause (now : Stamp) (res : Nat) (i : Fin 41) (a : Alarm) :
    ((a.becomeAbsent now res i).1.record i).cause = (a.record i).cause := by
  rw [← Alarm.updRec_cause (f := fun r => { r with present := false }) (fun _ => by rfl) a i]
  unfold Alarm.becomeAbsent
  dsimp only
  split
  · exact Alarm.updRec_cause (fun _ => by rfl) _ i
  · split
    · exact Alarm.clearRecord_cause now i _
    · exact Alarm.updRec_cause (fun _ => by rfl) _ i
  · rfl
  · rfl

/-- A report of REF_FAIL present leaves the reported set as the cause. -/
theorem Alarm.report_cause (now : Stamp) (res : Nat) (r : Ref) (cause : List Defect) (a : Alarm) :
    ((a.report now res (recRefFail r) true cause).record (recRefFail r)).cause = cause := by
  have idx : (true && decide ((recRefFail r).val < 6)) = true := by cases r <;> rfl
  have other : recRefFail r ≠ recOverflow := by cases r <;> decide
  unfold Alarm.report
  dsimp only
  rw [settle_record _ _ _ _ other, if_pos idx]
  have told : ((a.updRec (recRefFail r) fun x => { x with cause := cause }).record (recRefFail r)).cause = cause := by
    rw [Alarm.record_updRec]
  unfold Alarm.move
  split
  · exact told
  · split
    · exact (Alarm.becomePresent_cause now res _ _).trans told
    · exact (Alarm.becomeAbsent_cause now res _ _).trans told

/-- REF_FAIL tells a reference as it stands: present exactly in FAILED, with the defect set as its cause (R67). -/
structure State.TellsFail (s : State) (r : Ref) : Prop where
  present : (s.alarm.record (recRefFail r)).present = decide ((s.ref r).state = .failed)
  cause   : (s.ref r).state = .failed →
    ∀ e, e ∈ (s.alarm.record (recRefFail r)).cause ↔ e ∈ (s.ref r).defects

theorem refReport_tellsFail (s : State) (r : Ref) : (s.refReport r).TellsFail r := by
  refine ⟨report_present _ _ _ _ _ _ (by cases r <;> decide), fun failed e => ?_⟩
  have failed : (s.ref r).state = .failed := failed
  show e ∈ ((s.alarm.report s.stamp s.res (recRefFail r) (decide ((s.ref r).state = .failed))
    (s.ref r).defects).record (recRefFail r)).cause ↔ e ∈ (s.ref r).defects
  rw [decide_eq_true failed, Alarm.report_cause]

/-! ## Reports that the roles and FREERUN leave as they are -/

/-- The same reference, its defect set listed in whatever order. -/
structure Reference.SameSet (x y : Reference) : Prop where
  eq  : y = { x with defects := y.defects }
  set : ∀ e, e ∈ y.defects ↔ e ∈ x.defects

theorem Reference.SameSet.refl (x : Reference) : x.SameSet x := ⟨rfl, fun _ => Iff.rfl⟩

theorem Reference.SameSet.state {x y : Reference} (h : x.SameSet y) : y.state = x.state :=
  (congrArg Reference.state h.eq :)

theorem Reference.SameSet.empty {x y : Reference} (h : x.SameSet y) (empty : x.defects = []) : y = x := by
  have none' : y.defects = [] := List.eq_nil_iff_forall_not_mem.2 fun e m => by
    have := (h.set e).1 m
    rw [empty] at this
    exact absurd this List.not_mem_nil
  rw [h.eq, none', ← empty]

/-- An entry to FREERUN can take no defect of the reference: it is not GNSS, or has no TOD_MISMATCH (R53). -/
def State.KeepsSet (s : State) (r : Ref) : Prop := r ≠ .gnss ∨ Defect.todMismatch ∉ (s.ref r).defects

theorem Down.sameSet {s t : State} (d : Down s t) {r : Ref} (keeps : s.KeepsSet r) : (s.ref r).SameSet (t.ref r) := by
  by_cases gnss : r = .gnss
  · subst gnss
    have absent : Defect.todMismatch ∉ (s.ref .gnss).defects := keeps.resolve_left (not_not_intro rfl)
    obtain ⟨ds, same, mem⟩ := d.gref
    rw [same]
    refine ⟨rfl, fun e => ⟨fun m => ((mem e).1 m).1, fun m => (mem e).2 ⟨m, .inl fun is => absent (is ▸ m)⟩⟩⟩
  · rw [d.refs r gnss]
    exact Reference.SameSet.refl _

theorem State.TellsFail.congr {s t : State} {r : Ref} (h : s.TellsFail r) (same : (s.ref r).SameSet (t.ref r))
    (record : t.alarm.record (recRefFail r) = s.alarm.record (recRefFail r)) : t.TellsFail r := by
  refine ⟨by rw [record, same.state]; exact h.present, fun failed e => ?_⟩
  rw [record, same.set e]
  exact h.cause (same.state ▸ failed) e

theorem Down.tellsFail {s t : State} (d : Down s t) {r : Ref} (keeps : s.KeepsSet r) (h : s.TellsFail r) :
    t.TellsFail r := h.congr (d.sameSet keeps) (d.recs _ (recRefFail_up r))

theorem Reference.react_failed {x : Reference} (failed : x.state = .failed) (some' : x.defects ≠ []) (res : Nat)
    (was : List Defect) : x.react res was = x := by
  unfold Reference.react
  dsimp only
  rw [failed]
  dsimp only
  rw [if_neg (by simpa using some')]

theorem Reference.react_monitoring {x : Reference} (monitoring : x.state = .monitoring) (res : Nat)
    (was : List Defect) : (x.react res was).state = .monitoring := by
  unfold Reference.react
  dsimp only
  rw [monitoring]
  dsimp only
  split
  · split
    · exact monitoring
    · rfl
  · rfl

/-- A FAILED reference with defects only reports its set. -/
theorem reactWith_failed {s : State} {r : Ref} (failed : (s.ref r).state = .failed) (some' : (s.ref r).defects ≠ [])
    (reeval : State → State) (was : List Defect) : s.reactWith reeval r was = s.refReport r := by
  unfold State.reactWith
  dsimp only
  rw [Reference.react_failed failed some', State.updRef_self rfl, if_neg (not_not_intro rfl), if_pos failed]

/-- A reference without defects, or FAILED, that keeps its set is left as it is by a re-evaluation, and is told so. -/
theorem reevaluate_tellsFail {s : State} {r : Ref} (keeps : s.KeepsSet r)
    (still : (s.ref r).defects = [] ∨ (s.ref r).state = .failed) (told : s.TellsFail r) :
    (s.ref r).SameSet (s.reevaluate.ref r) ∧ s.reevaluate.TellsFail r := by
  by_cases gnss : r = .gnss
  · subst gnss
    have roles := down_reevaluateRoles s
    have same := roles.sameSet keeps
    have told' := roles.tellsFail keeps told
    unfold State.reevaluate State.answerFreerun
    split
    · exact ⟨same, told'⟩
    · next changed =>
      have some' : (s.reevaluateRoles.ref .gnss).defects ≠ [] := fun none' => by
        have before : (s.ref .gnss).defects = [] := List.eq_nil_iff_forall_not_mem.2 fun e m => by
          have := (same.set e).2 m
          rw [none'] at this
          exact absurd this List.not_mem_nil
        exact changed (none'.trans before.symm)
      have failed : (s.ref .gnss).state = .failed := still.resolve_left fun empty =>
        changed (by rw [same.empty empty])
      rw [reactWith_failed (same.state.trans failed) some']
      exact ⟨same, refReport_tellsFail _ _⟩
  · have kept := kept_reevaluate s
    have same : s.reevaluate.ref r = s.ref r := kept.refs r List.not_mem_nil gnss
    have self : (s.ref r).SameSet (s.reevaluate.ref r) := by rw [same]; exact Reference.SameSet.refl _
    refine ⟨self, told.congr self (kept.recs _ (recRefFail_up r) fun q own is => ?_)⟩
    rcases own with own | own
    · exact absurd own List.not_mem_nil
    · exact gnss ((recRefFail_inj is).trans own)

/-- The same of a reported change of state. -/
theorem announce_tellsFail {s : State} {r : Ref} (keeps : s.KeepsSet r)
    (still : (s.ref r).defects = [] ∨ (s.ref r).state = .failed) :
    (s.ref r).SameSet ((s.announce r).ref r) ∧ (s.announce r).TellsFail r := by
  obtain ⟨same, told⟩ := reevaluate_tellsFail (s := s.refReport r) keeps still (refReport_tellsFail s r)
  have fallback := down_pinsFallback (s.refReport r).reevaluate r
  have ref := pinsFallback_ref (s.refReport r).reevaluate r r
  have self : ((s.refReport r).reevaluate.ref r).SameSet (((s.refReport r).reevaluate.pinsFallback r).ref r) := by
    rw [ref]; exact Reference.SameSet.refl _
  refine ⟨?_, told.congr self (fallback.recs _ (recRefFail_up r))⟩
  show (s.ref r).SameSet (((s.refReport r).reevaluate.pinsFallback r).ref r)
  rw [ref]
  exact same

/-- What FREERUN does to the set of a MONITORING reference leaves it MONITORING (R64). -/
theorem announce_monitoring {s : State} {r : Ref} (monitoring : (s.ref r).state = .monitoring) :
    ((s.announce r).ref r).state = .monitoring := by
  unfold State.announce State.announceWith
  rw [pinsFallback_ref]
  generalize reported : s.refReport r = u
  have before : (u.ref r).state = .monitoring := by rw [← reported]; exact monitoring
  by_cases gnss : r = .gnss
  · subst gnss
    have roles : (u.reevaluateRoles.ref .gnss).state = .monitoring :=
      ((down_reevaluateRoles u).refState .gnss).trans before
    unfold State.reevaluate State.answerFreerun
    split
    · exact roles
    · have reacted := Reference.react_monitoring roles u.reevaluateRoles.res (u.ref .gnss).defects
      unfold State.reactWith
      dsimp only
      rw [if_neg (not_not_intro (reacted.trans roles.symm)), if_neg (by rw [reacted]; decide),
        State.ref_updRef_same]
      exact reacted
  · rw [(kept_reevaluate u).refs r List.not_mem_nil gnss]
    exact before

end Sys2Proof.Machine
end

section
/-! PROOFS. The ends of the reference intervals (O35), the records of the time-of-day line (O34), and the samples of a
second with the Starve Count (O30). -/
namespace Sys2Proof.Machine
open Sys2Proof

/-! ## The ends of the intervals (R49, R51, R58) -/

/-- An event at the end of an interval or timer that can be reached. -/
theorem State.atInstant_reached {s : State} {target : Nat} (can : s.canReach (target - s.clock.residence)) :
    ∃ k, advanced s (s.arrive k) (target - s.clock.residence) ∧
      ∀ act : State → State, s.atInstant (s.reachRes target) act = act (s.arrive k) := by
  obtain ⟨k, reached, advance⟩ := State.reach_of_canReach can
  have there : s.reachRes target = some (s.arrive k) := reached
  refine ⟨k, advance, fun act => ?_⟩
  rw [there]
  rfl

theorem Reference.runsTo_running {x : Reference} {start : Option Nat} {from' : Nat} {d : Defect}
    (enabled : x.state ≠ .disabled) (absent : d ∉ x.defects) (started : start = some from') (span : Nat) :
    x.runsTo start d span = some (from' + span) := by
  unfold Reference.runsTo Reference.enabled
  rw [if_pos (by simp [enabled, absent]), started]
  rfl

/-- Where the interval of an enabled reference can end with its defect absent, its event comes at that instant. -/
theorem State.atEnd_reached {s : State} {r : Ref} {start : Option Nat} {from' span : Nat} {d : Defect}
    (enabled : (s.ref r).state ≠ .disabled) (absent : d ∉ (s.ref r).defects) (started : start = some from')
    (can : s.canReach (from' + span - s.clock.residence)) :
    ∃ k, advanced s (s.arrive k) (from' + span - s.clock.residence) ∧
      ∀ act : State → State, s.atEnd ((s.ref r).runsTo start d span) act = act (s.arrive k) := by
  obtain ⟨k, advance, acts⟩ := State.atInstant_reached can
  refine ⟨k, advance, fun act => ?_⟩
  rw [Reference.runsTo_running enabled absent started]
  exact acts act

theorem UpstreamKept.advanced {own : List Ref} {ownC : List Client} {s u t : State} {d : Nat}
    (kept : UpstreamKept own ownC u t) (h : advanced s u d) : advanced s t d := by
  unfold Machine.advanced
  rw [kept.clock]
  exact h

/-- The frame of an event of a reference that comes at its own instant. -/
theorem UpstreamKept.arrived {own : List Ref} {s t : State} {k : Clock} (kept : UpstreamKept own [] (s.arrive k) t) :
    UpstreamKept own [] { s with clock := t.clock } t := by
  have clock : t.clock = k := kept.clock
  rw [clock]
  exact ((kept_arrive s k).mono (by simp) (by simp)).trans kept

theorem Gnss.dropPartial_eq (g : Gnss) : g.dropPartial = { g with
    partialRecord := []
    ctr := { g.ctr with
      badRecord := if g.partialRecord = [] then g.ctr.badRecord else bump g.ctr.badRecord } } := by
  obtain ⟨-, -, -, -, bytes, -, -⟩ := g
  cases bytes <;> rfl

/-- Settles O35. -/
theorem intervalsRaiseTheirDefects : Obligations.IntervalsRaiseTheirDefects := by
  intro s from' g e
  refine ⟨fun enabled absent started can => ?_, fun enabled absent started can => ?_,
    fun enabled absent started can => ?_⟩
  · obtain ⟨k, advance, acts⟩ := State.atEnd_reached enabled absent started can
    generalize emptied : (s.arrive k).updGnss (fun g => { g.dropPartial with held := none }) = u
    have run : exec .gnssSignalTimeout s = .next (u.setDefects .gnss (putDefect .signalLost true)) := by
      rw [← emptied]
      exact congrArg Host.Outcome.next (acts State.gnssLost)
    have kept := kept_setDefects u .gnss (putDefect .signalLost true)
    have clock : (u.setDefects .gnss (putDefect .signalLost true)).clock = k := by rw [kept.clock, ← emptied]; rfl
    have receiver : (u.setDefects .gnss (putDefect .signalLost true)).gnss =
        { s.gnss.dropPartial with held := none } := by rw [kept.receiver, ← emptied]; rfl
    have enabled : (u.ref .gnss).state ≠ .disabled := by rw [← emptied]; exact enabled
    refine ⟨_, run, kept.advanced (by rw [← emptied]; exact advance),
      judge_raises enabled _ (by decide) (by decide), ?_, ?_⟩
    · rw [clock, receiver]
      refine UpstreamKept.trans ?_ kept
      rw [← emptied]
      exact ⟨rfl, rfl, rfl, rfl, rfl, rfl, rfl, fun _ _ => rfl, fun _ _ _ => rfl, fun _ => rfl, fun _ => .inl rfl,
        fun _ _ _ => rfl, fun _ => rfl⟩
    · rw [receiver, Gnss.dropPartial_eq]
  · obtain ⟨k, advance, acts⟩ := State.atEnd_reached enabled absent started can
    have kept := kept_judge (s.arrive k) .gnss none (putDefect .todMissing true)
    exact ⟨_, congrArg Host.Outcome.next (acts State.todMissing), kept.advanced advance,
      judge_raises (s := s.arrive k) enabled none (by decide) (by decide),
      (judge_moved (s := s.arrive k) enabled none (putDefect .todMissing true)).grade, kept.arrived⟩
  · obtain ⟨k, advance, acts⟩ := State.atEnd_reached enabled absent started can
    have kept := kept_setDefects (s.arrive k) .ext (putDefect .signalLost true)
    exact ⟨_, congrArg Host.Outcome.next (acts State.extLost), kept.advanced advance,
      judge_raises (s := s.arrive k) enabled _ (by decide) (by decide), kept.arrived⟩

/-! ## A record of the time-of-day line (R50, R51, R207) -/

/-- The checksum of eleven bytes, of the twelve with the one that carries it. -/
theorem todSum_append {bytes : List Byte} (eleven : bytes.length = 11) (b : Byte) :
    todSum (bytes ++ [b]) = (bytes.map BitVec.toNat).sum % 256 := by
  unfold todSum
  rw [List.take_left' eleven]

theorem todChecksum_append {bytes : List Byte} (eleven : bytes.length = 11) (b : Byte) :
    beNat (slice 11 1 (bytes ++ [b])) = b.toNat := by
  unfold slice
  rw [List.drop_left' eleven]
  simp [beNat]

/-- The relay as the twelfth byte of a record is judged: the receiver hunts again. -/
def State.hunting (s : State) : State :=
  { s with gnss := { s.gnss with lastByteAt := s.clock.residence, partialRecord := [] } }

/-- The twelfth byte, in time, ends the record (R207). -/
theorem State.todByte_twelfth {s : State} (enabled : (s.ref .gnss).state ≠ .disabled)
    (eleven : s.gnss.partialRecord.length = 11) (inTime : s.clock.residence - s.gnss.lastByteAt ≤ 20 * msUnits)
    (b : Byte) : s.todByte b = s.hunting.todJudge (s.gnss.partialRecord ++ [b]) := by
  have checked : s.todGapCheck = s := if_neg (Nat.not_lt.2 inTime)
  unfold State.todByte
  rw [if_neg enabled, checked]
  dsimp only [State.updGnss]
  rw [if_neg (by simp only [List.isEmpty_iff]; intro none'; rw [none'] at eleven; simp at eleven),
    if_neg (by rw [eleven]; decide)]
  rfl

theorem exec_todRecord_other {s : State} (length : s.gnss.partialRecord.length ≠ 11) (dt : Nat) (b : Byte) :
    exec (.todRecord dt b) s = .next s := congrArg Host.Outcome.next (if_neg length)

theorem exec_todRecord_ends {s : State} {dt : Nat} (enabled : (s.ref .gnss).state ≠ .disabled)
    (eleven : s.gnss.partialRecord.length = 11)
    (inTime : (s.pass dt).clock.residence - s.gnss.lastByteAt ≤ 20 * msUnits) (b : Byte) :
    exec (.todRecord dt b) s = .next ((s.pass dt).hunting.todJudge (s.gnss.partialRecord ++ [b])) :=
  congrArg Host.Outcome.next ((if_pos eleven).trans (State.todByte_twelfth (s := s.pass dt) enabled eleven inTime b))

section
variable {s : State} {bs : List Byte}

theorem State.todJudge_badChecksum (wrong : beNat (slice 11 1 bs) ≠ todSum bs) :
    s.todJudge bs = s.countGnss fun c => { c with badChecksum := bump c.badChecksum } := if_pos wrong

variable (right : beNat (slice 11 1 bs) = todSum bs)
include right

theorem State.todJudge_noFix (fix : (todInfo bs).fixStatus ≠ 1) :
    s.todJudge bs = s.countGnss fun c => { c with noFix := bump c.noFix } :=
  (if_neg (not_not_intro right)).trans (if_pos fix)

variable (fix : (todInfo bs).fixStatus = 1)
include fix

theorem State.todJudge_badRecord (bad : 15 < (todInfo bs).receiverGrade ∨ 63 < (todInfo bs).satellites) :
    s.todJudge bs = s.countGnss fun c => { c with badRecord := bump c.badRecord } :=
  (if_neg (not_not_intro right)).trans ((if_neg (not_not_intro fix)).trans (if_pos bad))

variable (grade : (todInfo bs).receiverGrade ≤ 15) (satellites : (todInfo bs).satellites ≤ 63)
include grade satellites

theorem State.todJudge_outOfWindow (out : s.todInWindow = false) :
    s.todJudge bs = s.countGnss fun c => { c with outOfWindow := bump c.outOfWindow } :=
  (if_neg (not_not_intro right)).trans ((if_neg (not_not_intro fix)).trans
    ((if_neg (by omega)).trans (if_pos (by rw [out]; rfl))))

theorem State.todJudge_valid (inside : s.todInWindow = true) : s.todJudge bs = s.todTake (todInfo bs) :=
  (if_neg (not_not_intro right)).trans ((if_neg (not_not_intro fix)).trans
    ((if_neg (by omega)).trans (if_neg (by rw [inside]; decide))))

end

/-- The receiver once it has taken a valid record (R50, R51). -/
def State.todTaken (s : State) (i : TodInfo) : State :=
  { s with gnss := { s.gnss with
      todStart := some s.clock.residence, held := some i, last := some i
      ctr := { s.gnss.ctr with
        validRecords := bump s.gnss.ctr.validRecords
        replacedRecords :=
          if s.gnss.held.isSome then bump s.gnss.ctr.replacedRecords else s.gnss.ctr.replacedRecords } } }

/-- A valid record gives GNSS its grade and takes TOD_MISSING from it (R51, R60). -/
theorem State.todTake_eq (s : State) (i : TodInfo) : s.todTake i =
    (s.todTaken i).judge .gnss (some (min i.receiverGrade (s.ref .gnss).cfg.gradeCap)) (putDefect .todMissing false) :=
  rfl

/-- The window of R50 opens 100 ms after the last accepted edge. -/
theorem State.todInWindow_iff (s : State) :
    s.todInWindow = true ↔ ∃ e, (s.ref .gnss).lastEdge = some e ∧ 100 * msUnits ≤ s.clock.residence - e := by
  unfold State.todInWindow
  cases (s.ref .gnss).lastEdge with
  | none => simp
  | some e =>
    exact decide_eq_true_iff.trans
      ⟨fun opened => ⟨e, rfl, opened⟩, fun ⟨_, is, opened⟩ => Option.some.inj is ▸ opened⟩

/-- Settles O34: the four tests in their order, then the valid record. -/
theorem todRecordIsJudged : Obligations.TodRecordIsJudged := by
  intro s dt b
  refine ⟨fun length => exec_todRecord_other length dt b, ?_⟩
  intro eleven enabled inTime bytes sum info v early
  have run : exec (.todRecord dt b) s = .next (v.todJudge bytes) := exec_todRecord_ends enabled eleven inTime b
  have carried : beNat (slice 11 1 bytes) = b.toNat := todChecksum_append eleven b
  have summed : todSum bytes = sum := todSum_append eleven b
  have window : v.todInWindow = true ↔ ¬ early := by
    rw [State.todInWindow_iff]
    show (∃ e, (s.ref .gnss).lastEdge = some e ∧ _) ↔ _
    simp only [early]
    cases (s.ref .gnss).lastEdge <;> simp
  rw [run]
  refine ⟨fun wrong => ?_, fun right fix => ?_, fun right fix bad => ?_, fun right fix grade satellites =>
    ⟨fun isEarly => ?_, fun late => ⟨_, rfl, ?_⟩⟩⟩
  · rw [State.todJudge_badChecksum (by rw [carried, summed]; exact wrong)]
  · rw [State.todJudge_noFix (by rw [carried, summed]; exact right) fix]
  · rw [State.todJudge_badRecord (by rw [carried, summed]; exact right) fix bad]
  · rw [State.todJudge_outOfWindow (by rw [carried, summed]; exact right) fix grade satellites
      (Bool.eq_false_iff.2 fun inside => window.1 inside isEarly)]
  · rw [State.todJudge_valid (by rw [carried, summed]; exact right) fix grade satellites (window.2 late),
      State.todTake_eq]
    exact ⟨kept_judge _ _ _ _, judge_drops (s := v.todTaken info) enabled _ (by decide) (by decide),
      (judge_moved (s := v.todTaken info) enabled _ (putDefect .todMissing false)).grade⟩

/-! ## The samples of a second (R54 to R56, R62) -/

theorem exec_starveCountReached_below {s : State} {c : Client}
    (below : (s.ref (clientRef c)).starve < (s.ref (clientRef c)).cfg.starveSeconds) :
    exec (.starveCountReached c) s = .next s := by
  refine congrArg Host.Outcome.next (if_neg ?_)
  unfold Reference.isStarved
  simpa using below

theorem exec_starveCountReached_starved {s : State} {c : Client}
    (starved : (s.ref (clientRef c)).cfg.starveSeconds ≤ (s.ref (clientRef c)).starve) :
    exec (.starveCountReached c) s = .next (s.setDefects (clientRef c) (putDefect .starved true)) := by
  have counted : (s.ref (clientRef c)).isStarved = true := decide_eq_true starved
  refine congrArg Host.Outcome.next ((if_pos counted).trans ?_)
  unfold State.starveCheck
  rw [counted]

/-- A reference whose sample of the second, or its absence, has been taken, before its defects follow (R54, R56). -/
def Reference.sampled (r : Ref) (sample : Option Int) (x : Reference) : Reference :=
  let e := sample.map fun p => p + x.cfg.compensation
  { x with
    lastE := e.or x.lastE, starve := starveAfter r sample x
    ctr := { x.ctr with phaseJumps := if x.jumps e then bump x.ctr.phaseJumps else x.ctr.phaseJumps } }

theorem State.judgeSample_disabled {s : State} {r : Ref} (disabled : (s.ref r).state = .disabled)
    (sample : Option Int) : s.judgeSample sample r = s := by
  unfold State.judgeSample Reference.enabled
  dsimp only
  rw [if_pos (by simp [disabled])]

theorem State.judgeSample_enabled {s : State} {r : Ref} (enabled : (s.ref r).state ≠ .disabled)
    (sample : Option Int) :
    let x := s.ref r
    let e := sample.map fun p => p + x.cfg.compensation
    s.judgeSample sample r = (((s.updRef r (Reference.sampled r sample)).setDefects r
      (sampleDefects s.realign.params.maxOffset r (x.jumps e) (x.sampled r sample).isStarved e)).measured r) := by
  intro x e
  have stored : (s.updRef r (Reference.sampled r sample)).ref r = x.sampled r sample := State.ref_updRef_same s r _
  unfold State.judgeSample Reference.enabled
  dsimp only
  rw [if_neg (by simp [enabled]), ← stored]
  rfl

theorem Reference.jumps_iff (x : Reference) (e : Option Int) : x.jumps e = true ↔
    ∃ a b, e = some a ∧ x.lastE = some b ∧ x.cfg.jumpLimit < (a - b).natAbs := by
  unfold Reference.jumps
  cases e <;> cases x.lastE <;> simp

section
variable (limit : Nat) (r : Ref) (jump starved : Bool) (e : Option Int) (ds : List Defect)

theorem mem_sampleDefects_phaseJump :
    Defect.phaseJump ∈ sampleDefects limit r jump starved e ds ↔ jump = true := by
  unfold sampleDefects
  dsimp only
  split <;> simp [mem_putDefect]

theorem mem_sampleDefects_phaseFar : Defect.phaseFar ∈ sampleDefects limit r jump starved e ds ↔
    Defect.phaseFar ∈ ds ∧ ∀ a, e = some a → limit < a.natAbs := by
  have far : farAfter limit e (ds.contains .phaseFar) = true ↔
      Defect.phaseFar ∈ ds ∧ ∀ a, e = some a → limit < a.natAbs := by
    unfold farAfter
    cases e <;> simp
  rw [← far]
  unfold sampleDefects
  dsimp only
  split <;> simp [mem_putDefect]

theorem mem_sampleDefects_starved (pkt : (refClient? r).isSome = true) :
    Defect.starved ∈ sampleDefects limit r jump starved e ds ↔ starved = true := by
  unfold sampleDefects
  dsimp only
  rw [if_pos pkt, mem_putDefect, if_pos rfl]

end

/-- The phase-capable references but GNSS are those of the Client Sessions (00_scope.md, "References"). -/
theorem refClient?_isSome {r : Ref} (phase : phaseCapable r = true) (other : r ≠ .gnss) :
    (refClient? r).isSome = true := by
  cases r
  case gnss => exact absurd rfl other
  case pkt0 => rfl
  case pkt1 => rfl
  all_goals cases phase

/-- The Starve Count after a second's report of a PKT reference (R54; log 44). -/
theorem starveAfter_pkt {r : Ref} (pkt : (refClient? r).isSome = true) (sample : Option Int) (x : Reference) :
    starveAfter r sample x = if sample.isSome then 0 else min (x.starve + 1) 4294967295 := by
  unfold starveAfter
  rw [if_neg (by rw [Option.isNone_iff_eq_none, ← Option.not_isSome_iff_eq_none]; exact not_not_intro pkt)]
  rfl

/-- An enabled reference that is given the second's sample, or none: its measurements and its defects. -/
theorem State.judgeSample_ref {s : State} {r : Ref} (enabled : (s.ref r).state ≠ .disabled) (sample : Option Int) :
    let x := s.ref r
    let e := sample.map fun p => p + x.cfg.compensation
    let y := (s.judgeSample sample r).ref r
    y.cfg = x.cfg ∧ y.lastE = e.or x.lastE ∧ y.starve = starveAfter r sample x ∧
      y.ctr.phaseJumps = (if x.jumps e then bump x.ctr.phaseJumps else x.ctr.phaseJumps) ∧
      ∀ d, d ≠ .gradeLow → d ≠ .todMismatch → (d ∈ y.defects ↔ d ∈ sampleDefects s.realign.params.maxOffset r
        (x.jumps e) (decide (x.cfg.starveSeconds ≤ starveAfter r sample x)) e x.defects) := by
  intro x e y
  generalize taken : s.updRef r (Reference.sampled r sample) = u
  have stored : u.ref r = x.sampled r sample := by rw [← taken]; exact State.ref_updRef_same s r _
  have enabled' : (u.ref r).state ≠ .disabled := by rw [stored]; exact enabled
  generalize change : sampleDefects s.realign.params.maxOffset r (x.jumps e) (x.sampled r sample).isStarved e = f
  have whole : s.judgeSample sample r = (u.setDefects r f).measured r := by
    rw [State.judgeSample_enabled enabled, ← taken, ← change]
  have moved : ((x.sampled r sample).judged r (u.ref r).grade f).moved y := by
    rw [← stored]
    show Reference.moved _ ((s.judgeSample sample r).ref r)
    rw [whole]
    exact (judge_moved enabled' _ f).trans (measured_moved _ r)
  refine ⟨moved.cfg, moved.lastE, moved.starve, moved.phaseJumps, fun d grade other => ?_⟩
  show d ∈ ((s.judgeSample sample r).ref r).defects ↔ _
  rw [whole, measured_defects other]
  unfold State.setDefects
  rw [judge_decides enabled' _ f grade other, stored, ← change]
  rfl

theorem kept_judgeSample (s : State) (sample : Option Int) (r : Ref) :
    UpstreamKept [r] [] s (s.judgeSample sample r) := by
  by_cases disabled : (s.ref r).state = .disabled
  · rw [State.judgeSample_disabled disabled]
    exact UpstreamKept.refl _ _ s
  · rw [State.judgeSample_enabled disabled]
    exact ((kept_updRef s r _).trans (kept_setDefects _ r _)).trans (kept_measured _ r)

/-- Settles O30: STARVE_COUNT_REACHED on either side of Starve Seconds, then the sample. -/
theorem starvedAtItsCount : Obligations.StarvedAtItsCount := by
  refine ⟨fun s c => ⟨exec_starveCountReached_below, fun starved enabled =>
    ⟨_, exec_starveCountReached_starved starved, kept_setDefects s _ _,
      judge_raises enabled _ (by decide) (by decide)⟩⟩, ?_⟩
  intro s r sample phase x t e jumps
  refine ⟨fun disabled => State.judgeSample_disabled disabled sample, fun enabled => ?_⟩
  obtain ⟨cfg, lastE, starve, counted, defects⟩ := State.judgeSample_ref enabled sample
  have jumped : x.jumps e = true ↔ jumps := Reference.jumps_iff x e
  refine ⟨kept_judgeSample s sample r, lastE, ?_, fun jump => ?_, fun none' => ?_, ?_, fun other => ⟨?_, ?_⟩⟩
  · rw [defects _ (by decide) (by decide), mem_sampleDefects_phaseJump]
    exact jumped
  · exact counted.trans (if_pos (jumped.2 jump))
  · exact counted.trans (if_neg (mt jumped.1 none'))
  · rw [defects _ (by decide) (by decide), mem_sampleDefects_phaseFar]
  · rw [starve, starveAfter_pkt (refClient?_isSome phase other)]
  · rw [defects _ (by decide) (by decide), mem_sampleDefects_starved _ _ _ _ _ _ (refClient?_isSome phase other),
      starve, decide_eq_true_iff]

end Sys2Proof.Machine
end

section
/-! PROOFS. The timers of a reference (O36, and the hold-off of O37). -/
namespace Sys2Proof.Machine
open Sys2Proof

/-! ## The timers (R64 to R66) -/

/-- Where a running timer can reach its end, its event comes at that instant. -/
theorem State.atTimer_reached {s : State} {t : Timer} {start seconds : Nat} (running : t.since = some start)
    (can : s.canReach (start + (seconds * secUnits - t.base) - s.clock.residence)) :
    ∃ k, advanced s (s.arrive k) (start + (seconds * secUnits - t.base) - s.clock.residence) ∧
      ∀ act : State → State, s.atTimer t seconds act = act (s.arrive k) := by
  obtain ⟨k, advance, acts⟩ := State.atInstant_reached can
  refine ⟨k, advance, fun act => ?_⟩
  unfold State.atTimer
  rw [running]
  exact acts act

theorem exec_qualifyTimeReached_other {s : State} {r : Ref} (other : (s.ref r).state ≠ .monitoring) :
    exec (.qualifyTimeReached r) s = .next s := congrArg Host.Outcome.next (if_neg other)

theorem exec_qualifyTimeReached_monitoring {s : State} {r : Ref} (monitoring : (s.ref r).state = .monitoring) :
    exec (.qualifyTimeReached r) s =
      .next (s.atTimer (s.ref r).qualify (s.ref r).cfg.qualifyTime fun u => u.qualifyExpired r) :=
  congrArg Host.Outcome.next (if_pos monitoring)

theorem exec_restoreWaitReached_other {s : State} {r : Ref} (other : (s.ref r).state ≠ .restoring) :
    exec (.restoreWaitReached r) s = .next s := congrArg Host.Outcome.next (if_neg other)

theorem exec_restoreWaitReached_restoring {s : State} {r : Ref} (restoring : (s.ref r).state = .restoring) :
    exec (.restoreWaitReached r) s =
      .next (s.atTimer (s.ref r).restore (s.ref r).cfg.restoreWait fun u => u.qualifyRef r) :=
  congrArg Host.Outcome.next (if_pos restoring)

theorem exec_holdOffExpires_other {s : State} {r : Ref}
    (other : (s.ref r).state ≠ .qualified ∨ (s.ref r).defects = []) : exec (.holdOffExpires r) s = .next s := by
  refine congrArg Host.Outcome.next (if_neg ?_)
  rintro ⟨qualified, some'⟩
  rcases other with other | empty
  · exact other qualified
  · rw [empty] at some'
    cases some'

theorem exec_holdOffExpires_defective {s : State} {r : Ref} (qualified : (s.ref r).state = .qualified)
    (defective : (s.ref r).defects ≠ []) : exec (.holdOffExpires r) s =
      .next (s.atTimer (s.ref r).holdOff (s.ref r).cfg.holdOff fun u => u.holdOffExpired r) :=
  congrArg Host.Outcome.next (if_pos ⟨qualified, List.isEmpty_eq_false_iff.2 defective⟩)

/-- A reference without defects that qualifies stands in QUALIFIED, and its REF_FAIL is absent (R64, R66, R67). -/
theorem qualifyRef_empty {s : State} {r : Ref} (empty : (s.ref r).defects = []) :
    (s.qualifyRef r).ref r = (s.ref r).toQualified ∧
      ((s.qualifyRef r).alarm.record (recRefFail r)).present = false := by
  have qualified := State.ref_updRef_same s r Reference.toQualified
  have none' : ((s.updRef r Reference.toQualified).ref r).defects = [] := by rw [qualified]; exact empty
  obtain ⟨same, told⟩ := announce_tellsFail (s := s.updRef r Reference.toQualified) (r := r)
    (.inr (by rw [none']; exact List.not_mem_nil)) (.inl none')
  have stands : (s.qualifyRef r).ref r = (s.ref r).toQualified := (same.empty none').trans qualified
  refine ⟨stands, told.present.trans (decide_eq_false ?_)⟩
  show ((s.qualifyRef r).ref r).state ≠ .failed
  rw [stands]
  exact fun is => by cases is

/-- A reference whose hold-off runs out FAILS with its defects, and REF_FAIL tells them (R65, R67). -/
theorem holdOffExpired_fails {s : State} {r : Ref} (keeps : s.KeepsSet r) :
    (s.ref r).toFailed.SameSet ((s.holdOffExpired r).ref r) ∧ (s.holdOffExpired r).TellsFail r := by
  have failed := State.ref_updRef_same s r Reference.toFailed
  obtain ⟨same, told⟩ := announce_tellsFail (s := s.updRef r Reference.toFailed) (r := r)
    (keeps.imp id fun absent => by rw [failed]; exact absent) (.inr (by rw [failed]; rfl))
  rw [failed] at same
  exact ⟨same, told⟩

/-- Settles O36: each timer out of its state, then at its end with a measurement and without. -/
theorem qualifiedAfterItsTimers : Obligations.QualifiedAfterItsTimers := by
  intro s r start x measured q
  refine ⟨exec_qualifyTimeReached_other, exec_restoreWaitReached_other, ?_, ?_⟩
  · intro monitoring empty running d can
    obtain ⟨k, advance, acts⟩ := State.atTimer_reached running can
    have run := (exec_qualifyTimeReached_monitoring monitoring).trans
      (congrArg Host.Outcome.next (acts fun u => u.qualifyExpired r))
    have has : hasMeasure r ((s.arrive k).ref r) = measured := rfl
    refine ⟨_, run, (kept_qualifyExpired _ r).advanced advance, fun yes => ?_, fun no => ?_⟩
    · have expired : (s.arrive k).qualifyExpired r = (s.arrive k).qualifyRef r := if_pos (has.trans yes)
      obtain ⟨stands, absent⟩ := qualifyRef_empty (s := s.arrive k) (r := r) empty
      rw [expired]
      exact ⟨stands, absent, (kept_qualifyRef (s.arrive k) r).arrived⟩
    · have expired : (s.arrive k).qualifyExpired r = (s.arrive k).updRef r fun y =>
          { y with qualify := { base := y.cfg.qualifyTime * secUnits, since := none } } :=
        if_neg (by rw [has, no]; decide)
      rw [expired]
      exact ⟨rfl, State.ref_updRef_same _ r _, fun j ne => (State.ref_updRef _ r j _).trans (if_neg ne)⟩
  · intro restoring empty running d can
    obtain ⟨k, advance, acts⟩ := State.atTimer_reached running can
    have run := (exec_restoreWaitReached_restoring restoring).trans
      (congrArg Host.Outcome.next (acts fun u => u.qualifyRef r))
    have kept := kept_qualifyRef (s.arrive k) r
    obtain ⟨stands, absent⟩ := qualifyRef_empty (s := s.arrive k) (r := r) empty
    exact ⟨_, run, kept.advanced advance, stands, absent, kept.arrived⟩

/-- HOLD_OFF_EXPIRES, at the instant the hold-off reaches Hold-off (R65). -/
theorem holdOffExpires_fails {s : State} {r : Ref} {start : Nat} (qualified : (s.ref r).state = .qualified)
    (defective : (s.ref r).defects ≠ []) (keeps : s.KeepsSet r) (running : (s.ref r).holdOff.since = some start)
    (can : s.canReach (start + ((s.ref r).cfg.holdOff * secUnits - (s.ref r).holdOff.base) - s.clock.residence)) :
    ∃ t, exec (.holdOffExpires r) s = .next t ∧
      advanced s t (start + ((s.ref r).cfg.holdOff * secUnits - (s.ref r).holdOff.base) - s.clock.residence) ∧
      UpstreamKept [r] [] { s with clock := t.clock } t ∧
      (s.ref r).toFailed.SameSet (t.ref r) ∧ t.TellsFail r := by
  obtain ⟨k, advance, acts⟩ := State.atTimer_reached running can
  have run := (exec_holdOffExpires_defective qualified defective).trans
    (congrArg Host.Outcome.next (acts fun u => u.holdOffExpired r))
  have kept := kept_holdOffExpired (s.arrive k) r
  exact ⟨_, run, kept.advanced advance, kept.arrived, holdOffExpired_fails (s := s.arrive k) keeps⟩

end Sys2Proof.Machine
end

section
/-! PROOFS. The written configuration of a reference, and the hold-off with it (O37). -/
namespace Sys2Proof.Machine
open Sys2Proof

/-! ## A written Reference Table entry (R46, R47, R196) -/

/-- One field of an entry read, and then the rest of it. -/
theorem read_then {α β : Type} {field : Option α} {a : α} {rest : α → Option β} {b : β} (first : field = some a)
    (then' : rest a = some b) : (field >>= rest) = some b := by
  rw [first]
  exact then'

/-- The fields of a Reference Table entry as a PUT carries them (11). -/
def refCfgFields (enabled : Bool) (accept holdOff qualify restore jump wander grade starve comp cap : Int)
    (rate baud : Nat) (policy : RealignPolicy) : List Byte :=
  encBool enabled ++ encIn declaredRates rate ++ encNum accept ++ encNum holdOff ++ encNum qualify ++
    encNum restore ++ encNum jump ++ encNum wander ++ encNum grade ++ encNum starve ++ encNum comp ++
    encIn policies policy ++ encNum cap ++ encIn todBauds baud

/-- The configuration that they store, numbers clamped to their ranges (R46). -/
def writtenRefCfg (enabled : Bool) (accept holdOff qualify restore jump wander grade starve comp cap : Int)
    (rate baud : Nat) (policy : RealignPolicy) : RefCfg :=
  { enabled := enabled, declaredRate := rate, acceptRange := held 1000 50000000 accept
    holdOff := held 0 10 holdOff, qualifyTime := held 10 600 qualify, restoreWait := held 0 720 restore
    jumpLimit := held 10 100000 jump, wanderLimit := held 10 10000 wander, minGrade := held 0 15 grade
    starveSeconds := held 2 60 starve, compensation := heldMag 1000000 comp, policy := policy
    gradeCap := held 0 15 cap, todBaud := baud }

section
variable (enabled : Bool) (accept holdOff qualify restore jump wander grade starve comp cap : Int)
  (rate baud : Nat) (policy : RealignPolicy)

theorem refCfgFields_length : (refCfgFields enabled accept holdOff qualify restore jump wander grade starve comp cap
    rate baud policy).length = 84 := by
  unfold refCfgFields
  simp only [List.length_append, encNum_length]
  rfl

variable {accept holdOff qualify restore jump wander grade starve comp cap rate baud}

theorem takeRefCfg_fields (fitAccept : isField accept) (fitHoldOff : isField holdOff) (fitQualify : isField qualify)
    (fitRestore : isField restore) (fitJump : isField jump) (fitWander : isField wander) (fitGrade : isField grade)
    (fitStarve : isField starve) (fitComp : isField comp) (fitCap : isField cap) (listed : rate ∈ declaredRates)
    (line : baud ∈ todBauds) :
    readWhole takeRefCfg (refCfgFields enabled accept holdOff qualify restore jump wander grade starve comp cap
        rate baud policy) =
      some (writtenRefCfg enabled accept holdOff qualify restore jump wander grade starve comp cap rate baud policy,
        outside 1000 50000000 accept || outside 0 10 holdOff || outside 10 600 qualify || outside 0 720 restore ||
          outside 10 100000 jump || outside 10 10000 wander || outside 0 15 grade || outside 2 60 starve ||
          outside (-1000000) 1000000 comp || outside 0 15 cap) := by
  have known : policy ∈ policies := by cases policy <;> decide
  have last := takeIn_encIn todBauds baud line (by decide) []
  rw [List.append_nil] at last
  unfold readWhole refCfgFields
  simp only [List.append_assoc]
  rw [show takeRefCfg _ = some _ from
    read_then (takeBool_encBool enabled _) <| read_then (takeIn_encIn _ _ listed (by decide) _) <|
    read_then (takeNum_encNum _ fitAccept _) <| read_then (takeNum_encNum _ fitHoldOff _) <|
    read_then (takeNum_encNum _ fitQualify _) <| read_then (takeNum_encNum _ fitRestore _) <|
    read_then (takeNum_encNum _ fitJump _) <| read_then (takeNum_encNum _ fitWander _) <|
    read_then (takeNum_encNum _ fitGrade _) <| read_then (takeNum_encNum _ fitStarve _) <|
    read_then (takeNum_encNum _ fitComp _) <| read_then (takeIn_encIn _ _ known (by decide) _) <|
    read_then (takeNum_encNum _ fitCap _) <| read_then last rfl]
  rfl

end

/-- The relay once a configuration has been written to a reference. -/
def State.refWritten (s : State) (r : Ref) (cfg : RefCfg) : State :=
  let stored := s.updRef r fun x => { x with cfg := cfg }
  if (s.ref r).cfg.enabled && !cfg.enabled then stored.refDisable r
  else if !(s.ref r).cfg.enabled && cfg.enabled then stored.refEnable r
  else if cfg.enabled then stored.refChanged r (s.ref r).cfg
  else stored

/-- A PUT of a Reference Table entry that decodes is written. -/
theorem State.putEntry_ref {s : State} {p : Port} {r : Ref} {bs : List Byte} {cfg : RefCfg} {adjusted : Bool}
    (decoded : readWhole takeRefCfg bs = some (cfg, adjusted)) :
    s.putEntry p 5 (refIdx r).val bs = .written (s.refWritten r cfg) adjusted := by
  have entry : s.putEntry p 5 (refIdx r).val bs = s.putRef r bs := by cases r <;> rfl
  rw [entry]
  unfold State.putRef
  rw [decoded]
  rfl

section
variable {s : State} {r : Ref} {cfg : RefCfg}

theorem State.refWritten_off (was : (s.ref r).cfg.enabled = true) (off : cfg.enabled = false) :
    s.refWritten r cfg = (s.updRef r fun x => { x with cfg := cfg }).refDisable r :=
  if_pos (by rw [was, off]; rfl)

theorem State.refWritten_on (was : (s.ref r).cfg.enabled = false) (on : cfg.enabled = true) :
    s.refWritten r cfg = (s.updRef r fun x => { x with cfg := cfg }).refEnable r :=
  (if_neg (by rw [was, on]; decide)).trans (if_pos (by rw [was, on]; rfl))

theorem State.refWritten_changed (was : (s.ref r).cfg.enabled = true) (on : cfg.enabled = true) :
    s.refWritten r cfg = (s.updRef r fun x => { x with cfg := cfg }).refChanged r (s.ref r).cfg :=
  (if_neg (by rw [was, on]; decide)).trans ((if_neg (by rw [was, on]; decide)).trans (if_pos on))

theorem State.refWritten_disabled (was : (s.ref r).cfg.enabled = false) (off : cfg.enabled = false) :
    s.refWritten r cfg = s.updRef r fun x => { x with cfg := cfg } :=
  (if_neg (by rw [was, off]; decide)).trans
    ((if_neg (by rw [was, off]; decide)).trans (if_neg (by rw [off]; decide)))

end

/-! ## The blocks that a write reaches beside the reference -/

/-- The receiver and the pins as a write of a reference leaves them: a GNSS switched off or on, or given another TOD
Baud, starts its receiver over, and a reference switched off takes the Bypass Offset from its pins (R47, R63, R163). -/
def State.refBase (s : State) (r : Ref) (cfg : RefCfg) : State :=
  if (s.ref r).cfg.enabled = true ∧ cfg.enabled = false then (s.blankGnss r).pinsDiscardOffset r
  else if (s.ref r).cfg.enabled = false ∧ cfg.enabled = true then s.blankGnss r
  else if cfg.enabled = true ∧ r = .gnss ∧ (s.ref r).cfg.todBaud ≠ cfg.todBaud then s.baudChanged
  else s

section
variable {s : State} {r : Ref} {cfg : RefCfg}

theorem State.refBase_off (was : (s.ref r).cfg.enabled = true) (off : cfg.enabled = false) :
    s.refBase r cfg = (s.blankGnss r).pinsDiscardOffset r := if_pos ⟨was, off⟩

theorem State.refBase_on (was : (s.ref r).cfg.enabled = false) (on : cfg.enabled = true) :
    s.refBase r cfg = s.blankGnss r := (if_neg (by simp [was])).trans (if_pos ⟨was, on⟩)

theorem State.refBase_changed (was : (s.ref r).cfg.enabled = true) (on : cfg.enabled = true) : s.refBase r cfg =
    if r = .gnss ∧ (s.ref r).cfg.todBaud ≠ cfg.todBaud then s.baudChanged else s := by
  unfold State.refBase
  rw [if_neg (by simp [on]), if_neg (by simp [was])]
  simp only [on, true_and]

theorem State.refBase_disabled (was : (s.ref r).cfg.enabled = false) (off : cfg.enabled = false) :
    s.refBase r cfg = s := by
  unfold State.refBase
  rw [if_neg (by simp [was]), if_neg (by simp [off]), if_neg (by simp [off])]

end

theorem State.refBase_frame (s : State) (r : Ref) (cfg : RefCfg) : s.refBase r cfg = { s with
    gnss := if r = .gnss then (s.refBase r cfg).gnss else s.gnss, pins := (s.refBase r cfg).pins } := by
  unfold State.refBase
  by_cases gnss : r = .gnss
  · rw [if_pos gnss]
    split
    · rw [pinsDiscardOffset_frame, blankGnss_frame]
    · split
      · rw [blankGnss_frame]
      · split <;> rfl
  · have blank : s.blankGnss r = s := if_neg gnss
    rw [if_neg gnss, blank]
    split
    · rw [pinsDiscardOffset_frame]
    · split
      · rfl
      · rw [if_neg fun baud => gnss baud.2.1]

theorem State.refBase_tpin (s : State) (r : Ref) (cfg : RefCfg) (k : Fin 4) : (s.refBase r cfg).tpin k =
    if (s.tpin k).bypassRef = some r ∧ (s.ref r).cfg.enabled = true ∧ cfg.enabled = false then
      { s.tpin k with bypassOffset := none } else s.tpin k := by
  have blank : (s.blankGnss r).tpin k = s.tpin k := by rw [blankGnss_frame]; rfl
  unfold State.refBase
  by_cases off : (s.ref r).cfg.enabled = true ∧ cfg.enabled = false
  · rw [if_pos off, pinsDiscardOffset_tpin, blank]
    simp only [off, and_true]
  · rw [if_neg off]
    refine Eq.trans ?_ (if_neg fun own => off own.2).symm
    split
    · exact blank
    · split <;> rfl

theorem blankGnss_updRef (s : State) (r q : Ref) (f : Reference → Reference) :
    (s.updRef q f).blankGnss r = (s.blankGnss r).updRef q f := by
  unfold State.blankGnss
  split <;> rfl

theorem pinsDiscardOffset_updRef (s : State) (r q : Ref) (f : Reference → Reference) :
    (s.updRef q f).pinsDiscardOffset r = (s.pinsDiscardOffset r).updRef q f := rfl

/-- An operation of a reference's own: its frame, with the configuration of the reference as it was. -/
structure RefWork (r : Ref) (s t : State) : Prop where
  kept : UpstreamKept [r] [] s t
  cfg  : (t.ref r).cfg = (s.ref r).cfg

theorem RefWork.refl (r : Ref) (s : State) : RefWork r s s := ⟨UpstreamKept.refl _ _ s, rfl⟩

theorem RefWork.trans {r : Ref} {s t u : State} (a : RefWork r s t) (b : RefWork r t u) : RefWork r s u :=
  ⟨a.kept.trans b.kept, b.cfg.trans a.cfg⟩

theorem RefWork.ite {r : Ref} {s t u : State} {c : Prop} [Decidable c] (a : RefWork r s t) (b : RefWork r s u) :
    RefWork r s (if c then t else u) := by split <;> assumption

theorem work_updRef (s : State) (r : Ref) {f : Reference → Reference} (h : (f (s.ref r)).cfg = (s.ref r).cfg) :
    RefWork r s (s.updRef r f) := ⟨kept_updRef s r f, by rw [State.ref_updRef_same]; exact h⟩

theorem work_announce (s : State) (r : Ref) : RefWork r s (s.announce r) :=
  ⟨kept_announce s r, (announce_moved s r r).cfg⟩

theorem work_judge (s : State) (r : Ref) (grade : Option Nat) (f : List Defect → List Defect) :
    RefWork r s (s.judge r grade f) := ⟨kept_judge s r grade f, (fair_judge s r grade f).calm.settings.refs r⟩

theorem work_qualifyRef (s : State) (r : Ref) : RefWork r s (s.qualifyRef r) :=
  (work_updRef s r rfl).trans (work_announce _ r)

theorem work_holdOffExpired (s : State) (r : Ref) : RefWork r s (s.holdOffExpired r) :=
  (work_updRef s r rfl).trans (work_announce _ r)

theorem work_qualifyExpired (s : State) (r : Ref) : RefWork r s (s.qualifyExpired r) :=
  RefWork.ite (work_qualifyRef s r) (work_updRef s r rfl)

theorem work_timersCheck (s : State) (r : Ref) : RefWork r s (s.timersCheck r) := by
  unfold State.timersCheck
  dsimp only
  split
  · exact RefWork.ite (work_qualifyExpired s r) (RefWork.refl r s)
  · exact RefWork.ite (work_holdOffExpired s r) (RefWork.refl r s)
  · exact RefWork.ite (work_qualifyRef s r) (RefWork.refl r s)
  · exact RefWork.refl r s
  · exact RefWork.refl r s

theorem clientRef_of_refClient? {r : Ref} {c : Client} (h : refClient? r = some c) : clientRef c = r := by
  cases r <;> cases h <;> rfl

theorem work_starveCheck (s : State) {r : Ref} {c : Client} (h : refClient? r = some c) :
    RefWork r s (s.starveCheck c) := by
  unfold State.starveCheck
  rw [clientRef_of_refClient? h]
  exact work_judge s r _ _

theorem work_refDisable (s : State) (r : Ref) :
    RefWork r ((s.blankGnss r).pinsDiscardOffset r) (s.refDisable r) := by
  unfold State.refDisable
  rw [blankGnss_updRef, pinsDiscardOffset_updRef]
  exact (work_updRef _ r rfl).trans (work_announce _ r)

theorem work_refEnable (s : State) (r : Ref) : RefWork r (s.blankGnss r) (s.refEnable r) := by
  have ref : (s.blankGnss r).ref r = s.ref r := by rw [blankGnss_frame]; rfl
  unfold State.refEnable
  rw [blankGnss_updRef]
  exact (work_updRef _ r (by rw [ref]; rfl)).trans (work_announce _ r)

/-- A changed configuration of an enabled reference: beside a new TOD Baud, the work is its own (R47; log 58). -/
theorem work_refChanged (s : State) (r : Ref) (old : RefCfg) :
    RefWork r (if r = .gnss ∧ old.todBaud ≠ (s.ref r).cfg.todBaud then s.baudChanged else s) (s.refChanged r old) := by
  unfold State.refChanged
  dsimp only
  generalize (if r = .gnss ∧ old.todBaud ≠ (s.ref r).cfg.todBaud then s.baudChanged else s) = s1
  refine (work_updRef s1 r (f := fun x => { x with
    lastE := if old.compensation = (s.ref r).cfg.compensation then x.lastE else none
    winVoid := x.winVoid || (r = .ext && old.declaredRate ≠ (s.ref r).cfg.declaredRate) }) rfl).trans ?_
  generalize s1.updRef r _ = s2
  refine (RefWork.ite (c := old.minGrade = (s.ref r).cfg.minGrade ∧ old.gradeCap = (s.ref r).cfg.gradeCap)
    (RefWork.refl r s2) (work_judge s2 r (s2.gradeAgain r) id)).trans ?_
  generalize (if old.minGrade = (s.ref r).cfg.minGrade ∧ old.gradeCap = (s.ref r).cfg.gradeCap then s2
    else s2.judge r (s2.gradeAgain r) id) = s3
  cases pkt : refClient? r with
  | none => exact RefWork.ite (RefWork.refl r s3) (work_timersCheck s3 r)
  | some c =>
    dsimp only
    have starved : RefWork r s3 (if old.starveSeconds = (s.ref r).cfg.starveSeconds then s3 else s3.starveCheck c) :=
      RefWork.ite (RefWork.refl r s3) (work_starveCheck s3 pkt)
    exact RefWork.ite starved (starved.trans (work_timersCheck _ r))

/-- A configuration changed to what it was changes nothing. -/
theorem State.refChanged_same (s : State) (r : Ref) : s.refChanged r (s.ref r).cfg = s := by
  have same : (s.updRef r fun x => { x with winVoid := x.winVoid || false }) = s :=
    State.updRef_self (by simp only [Bool.or_false])
  unfold State.refChanged
  simp only [ne_eq, not_true_eq_false, and_false, if_false, if_true, and_self, decide_false, Bool.and_false, same]
  cases refClient? r <;> rfl

/-! ## The write as a whole -/

/-- Beside the blocks that it reaches, a write stores the configuration and does the reference's own work. -/
theorem work_refWritten (s : State) (r : Ref) (cfg : RefCfg) :
    RefWork r ((s.refBase r cfg).updRef r fun x => { x with cfg := cfg }) (s.refWritten r cfg) := by
  generalize stored : s.updRef r (fun x => { x with cfg := cfg }) = u
  have disable := work_refDisable u r
  have enable := work_refEnable u r
  have changed := work_refChanged u r (s.ref r).cfg
  cases was : (s.ref r).cfg.enabled <;> cases now : cfg.enabled
  · rw [State.refBase_disabled was now, State.refWritten_disabled was now]
    exact RefWork.refl r _
  · rw [State.refBase_on was now, State.refWritten_on was now, ← blankGnss_updRef, stored]
    exact enable
  · rw [State.refBase_off was now, State.refWritten_off was now, ← pinsDiscardOffset_updRef, ← blankGnss_updRef, stored]
    exact disable
  · have base : (s.refBase r cfg).updRef r (fun x => { x with cfg := cfg }) =
        if r = .gnss ∧ (s.ref r).cfg.todBaud ≠ (u.ref r).cfg.todBaud then u.baudChanged else u := by
      rw [State.refBase_changed was now, ← stored, State.ref_updRef_same]
      split <;> rfl
    rw [base, State.refWritten_changed was now, stored]
    exact changed

theorem kept_refWritten (s : State) (r : Ref) (cfg : RefCfg) :
    UpstreamKept [r] [] (s.refBase r cfg) (s.refWritten r cfg) :=
  (kept_updRef _ r _).trans (work_refWritten s r cfg).kept

theorem State.refWritten_cfg (s : State) (r : Ref) (cfg : RefCfg) : ((s.refWritten r cfg).ref r).cfg = cfg := by
  rw [(work_refWritten s r cfg).cfg, State.ref_updRef_same]

theorem State.refWritten_same (s : State) (r : Ref) : s.refWritten r (s.ref r).cfg = s := by
  have stored : (s.updRef r fun x => { x with cfg := (s.ref r).cfg }) = s := State.updRef_self rfl
  cases was : (s.ref r).cfg.enabled
  · exact (State.refWritten_disabled was was).trans stored
  · rw [State.refWritten_changed was was, stored, State.refChanged_same]

/-- A reference switched off is DISABLED with nothing in its record (R63). -/
theorem State.refWritten_off_ref {s : State} {r : Ref} {cfg : RefCfg} (was : (s.ref r).cfg.enabled = true)
    (off : cfg.enabled = false) :
    (s.refWritten r cfg).ref r = Reference.blank { s.ref r with cfg := cfg } := by
  rw [State.refWritten_off was off]
  unfold State.refDisable
  generalize blanked : (((s.updRef r fun x => { x with cfg := cfg }).updRef r Reference.blank).blankGnss
    r).pinsDiscardOffset r = u
  have ref : u.ref r = Reference.blank { s.ref r with cfg := cfg } := by
    rw [← blanked, pinsDiscardOffset_frame, blankGnss_frame]
    show ((s.updRef r fun x => { x with cfg := cfg }).updRef r Reference.blank).ref r = _
    rw [State.ref_updRef_same, State.ref_updRef_same]
  have empty : (u.ref r).defects = [] := by rw [ref]; rfl
  rw [(announce_tellsFail (.inr (by rw [empty]; exact List.not_mem_nil)) (.inl empty)).1.empty empty, ref]

/-- A reference switched on is MONITORING (R63). -/
theorem State.refWritten_on_state {s : State} {r : Ref} {cfg : RefCfg} (was : (s.ref r).cfg.enabled = false)
    (on : cfg.enabled = true) : ((s.refWritten r cfg).ref r).state = .monitoring := by
  rw [State.refWritten_on was on]
  refine announce_monitoring ?_
  rw [blankGnss_frame]
  show (State.ref (State.updRef _ r _) r).state = _
  rw [State.ref_updRef_same]
  rfl

/-- Settles O37: the hold-off, then the write by what it changes. -/
theorem holdOffFailsTheReference : Obligations.HoldOffFailsTheReference := by
  refine ⟨fun s r start => ⟨exec_holdOffExpires_other, ?_⟩, ?_⟩
  · intro qualified defective mismatch running d can
    obtain ⟨t, run, advance, kept, same, told⟩ := holdOffExpires_fails qualified defective mismatch running can
    have failed : (t.ref r).state = .failed := same.state
    exact ⟨t, run, advance, kept, failed, same.set, congrArg Reference.holdOff same.eq,
      congrArg Reference.restore same.eq, congrArg (fun z : Reference => z.ctr.failures) same.eq,
      told.present.trans (decide_eq_true failed), fun e => (told.cause failed e).trans (same.set e)⟩
  · intro s dt c r enabled accept holdOff qualify restore jump wander grade starve comp cap rate baud policy fitAccept
      fitHoldOff fitQualify fitRestore fitJump fitWander fitGrade fitStarve fitComp fitCap listed line puts v x cfg
      exact' off
    have decoded := takeRefCfg_fields enabled (policy := policy) fitAccept fitHoldOff fitQualify fitRestore fitJump
      fitWander fitGrade fitStarve fitComp fitCap listed line
    obtain ⟨t, run, stored⟩ := put_written s dt c 5 (refIdx r).val (refCfgFields enabled accept holdOff qualify
      restore jump wander grade starve comp cap rate baud policy) (v.refWritten r cfg) _ exact' puts (by decide)
      (by decide) (refIdx r).isLt (by omega) (by rw [refCfgFields_length]; decide) (State.putEntry_ref decoded) (by
        simp only [Bool.or_eq_true, outside_iff, exact', not_and_or, or_assoc])
    refine ⟨v.refWritten r cfg, v.refBase r cfg, t, run, stored, v.refBase_frame r cfg, v.refBase_tpin r cfg,
      kept_refWritten v r cfg, v.refWritten_cfg r cfg, fun same => ?_, fun isOff => ?_,
      fun was on => State.refWritten_on_state (s := v) was on⟩
    · rw [same]
      exact v.refWritten_same r
    · rw [State.refWritten_off_ref (s := v) isOff.1 isOff.2]
      exact ⟨rfl, rfl, rfl, rfl, rfl⟩

end Sys2Proof.Machine
end

section
/-! PROOFS. What every step keeps of the roles and the servo (O8): the match of R99, the candidates of R72, the law of the
Realignment Unit (R80) and that of the Entry Grade (R130), as one relation closed under composition. -/
namespace Sys2Proof.Machine
open Sys2Proof

/-! ## The relation -/

/-- The match of roles and servo state (R99), the candidates (R72, R73), the law of the Realignment Unit (R80) and that of
the Entry Grade (R130) are kept. -/
structure RolesKept (s t : State) : Prop where
  roles  : s.rolesMatch → t.rolesMatch
  chosen : s.selectedAreCandidates → t.selectedAreCandidates
  slews  : s.realignLaw → t.realignLaw
  entry  : s.rolesMatch → s.entryLaw → t.entryLaw

theorem RolesKept.refl (s : State) : RolesKept s s := ⟨id, id, id, fun _ => id⟩

theorem RolesKept.trans {s t u : State} (a : RolesKept s t) (b : RolesKept t u) : RolesKept s u :=
  ⟨fun h => b.roles (a.roles h), fun h => b.chosen (a.chosen h), fun h => b.slews (a.slews h),
    fun m h => b.entry (a.roles m) (a.entry m h)⟩

/-- `trans` with its arguments the other way round, the last operation first. -/
theorem RolesKept.after {s t u : State} (b : RolesKept t u) (a : RolesKept s t) : RolesKept s u := a.trans b

theorem RolesKept.ite {s t u : State} {c : Prop} [Decidable c] (a : RolesKept s t) (b : RolesKept s u) :
    RolesKept s (if c then t else u) := by split <;> assumption

theorem RolesKept.foldl {α : Type} (f : State → α → State) (h : ∀ t a, RolesKept t (f t a)) :
    ∀ (l : List α) (s : State), RolesKept s (l.foldl f s)
  | [], s => RolesKept.refl s
  | a :: l, s => (h s a).trans (RolesKept.foldl f h l (f s a))

theorem Fair.rolesKept {s t : State} (f : Fair s t) : RolesKept s t := ⟨f.roles, f.chosen, f.slews, f.entry⟩

theorem Quiet.rolesKept {s t : State} (q : Quiet s t) : RolesKept s t := q.fair.rolesKept

/-- What the four laws read, but for the Realignment Unit: where it stays, the law of that unit decides alone. -/
theorem RolesKept.of_fields {s t : State} (state : t.servo.state = s.servo.state)
    (valid : t.servo.phaseValid = s.servo.phaseValid) (phase : t.selector.phase = s.selector.phase)
    (freq : t.selector.freq = s.selector.freq) (cfg : t.selector.cfg = s.selector.cfg)
    (states : ∀ r, (t.ref r).state = (s.ref r).state) (slews : s.realignLaw → t.realignLaw)
    (entry : s.holdover.withinEntry → t.holdover.withinEntry) : RolesKept s t := by
  refine ⟨fun h => ?_, fun h => ⟨fun r e => ?_, fun r e => ?_⟩, slews, fun _ h d => entry (h ?_)⟩
  · unfold State.rolesMatch at *
    rw [state, phase, freq, valid]
    exact h
  · rw [isCandidate_congr states, cfg]
    exact h.1 r (phase ▸ e)
  · rw [isCandidate_congr states, cfg]
    exact h.2 r (freq ▸ e)
  · rw [← state, ← valid]
    exact d

/-- An operation that leaves the Selector, the servo, the references, the Realignment Unit and the Holdover Unit alone. -/
theorem RolesKept.of_aside {s t : State} (servo : t.servo = s.servo) (selector : t.selector = s.selector)
    (refs : t.refs = s.refs) (realign : t.realign = s.realign) (holdover : t.holdover = s.holdover) :
    RolesKept s t :=
  RolesKept.of_fields (by rw [servo]) (by rw [servo]) (by rw [selector]) (by rw [selector]) (by rw [selector])
    (fun r => by unfold State.ref; rw [refs]) (realignLaw_congr realign (by rw [selector])) (by rw [holdover]; exact id)

/-- An operation that both roles are evaluated after leaves every selected reference a candidate (R73). -/
theorem RolesKept.reevaluated {s t : State} (roles : s.rolesMatch → t.rolesMatch) (slews : s.realignLaw → t.realignLaw)
    (entry : s.rolesMatch → s.entryLaw → t.entryLaw) : RolesKept s t.reevaluate :=
  have ⟨fair, chosen⟩ := reevaluate_settles t
  ⟨fun h => fair.roles (roles h), fun _ => chosen, fun h => fair.slews (slews h),
    fun m h => fair.entry (roles m) (entry m h)⟩

/-! ## The passing of time -/

theorem roles_pass (s : State) (dt : Nat) : RolesKept s (s.pass dt) := RolesKept.of_aside rfl rfl rfl rfl rfl

theorem roles_withClock (s : State) (c : Clock) : RolesKept s (s.withClock c) := RolesKept.of_aside rfl rfl rfl rfl rfl

theorem roles_arrive (s : State) (c : Clock) : RolesKept s (s.arrive c) := by
  rw [State.arrive_frame]
  exact RolesKept.of_fields rfl rfl rfl rfl rfl (fun _ => rfl) (realignLaw_congr rfl rfl) id

/-- An operation taken where the relay has come to, if it can come there. -/
theorem roles_atInstant (s : State) (there : Option State) (act : State → State)
    (came : ∀ u, there = some u → RolesKept s u) (h : ∀ u, RolesKept u (act u)) :
    RolesKept s (s.atInstant there act) := by
  unfold State.atInstant
  split
  · next u => exact (came u rfl).trans (h u)
  · exact RolesKept.refl s

theorem roles_reach {s u : State} {d : Nat} (h : s.reach d = some u) : RolesKept s u := by
  obtain ⟨c, -, rfl⟩ := Option.map_eq_some_iff.1 h
  exact roles_arrive s c

theorem roles_reachOsc {s u : State} {d : Nat} (h : s.reachOsc d = some u) : RolesKept s u := by
  obtain ⟨c, -, rfl⟩ := Option.map_eq_some_iff.1 h
  exact roles_arrive s c

theorem roles_atReach (s : State) (d : Nat) (act : State → State) (h : ∀ u, RolesKept u (act u)) :
    RolesKept s (s.atInstant (s.reach d) act) := roles_atInstant s _ act (fun _ => roles_reach) h

theorem roles_atReachOsc (s : State) (osc : Nat) (act : State → State) (h : ∀ u, RolesKept u (act u)) :
    RolesKept s (s.atInstant (s.reachOsc osc) act) := roles_atInstant s _ act (fun _ => roles_reachOsc) h

theorem roles_atTimer (s : State) (t : Timer) (seconds : Nat) (act : State → State) (h : ∀ u, RolesKept u (act u)) :
    RolesKept s (s.atTimer t seconds act) := by
  unfold State.atTimer
  split
  · exact roles_atReach s _ act h
  · exact RolesKept.refl s

theorem roles_atEnd (s : State) (instant : Option Nat) (act : State → State) (h : ∀ u, RolesKept u (act u)) :
    RolesKept s (s.atEnd instant act) := by
  unfold State.atEnd
  split
  · exact roles_atReach s _ act h
  · exact RolesKept.refl s

theorem roles_afterSpan (s : State) (start : Option Nat) (span : Nat) (act : State → State)
    (h : ∀ u, RolesKept u (act u)) : RolesKept s (s.afterSpan start span act) := by
  unfold State.afterSpan
  split
  · exact roles_atReach s _ act h
  · exact RolesKept.refl s

/-! ## The Realignment Unit (R80) -/

/-- An update of the Realignment Unit that keeps its law. -/
theorem roles_updReal (s : State) (f : Realign → Realign) (h : s.realignLaw → (s.updReal f).realignLaw) :
    RolesKept s (s.updReal f) := RolesKept.of_fields rfl rfl rfl rfl rfl (fun _ => rfl) h id

/-- The same with a new Slew record, which the Holdover Unit is told of: it recomputes the grade (R80, R132). -/
theorem roles_updRealSlew (s : State) (f : Realign → Realign) (slew : Option Bool)
    (h : s.realignLaw → (s.updReal fun x => { f x with slew := slew }).realignLaw) :
    RolesKept s ((s.updReal f).putSlew slew) :=
  (quiet_regrade _).rolesKept.after (roles_updReal s (fun x => { f x with slew := slew }) h)

/-- Counting is no part of the law of R80. -/
theorem roles_countReal (s : State) (f : RealignCounters → RealignCounters) : RolesKept s (s.countReal f) :=
  roles_updReal s _ fun h => ⟨h.subject, h.idle, h.undecided, h.single, h.bound, h.suspended⟩

/-- A Suspended Slew record that is removed leaves the rest of the law standing. -/
theorem realignLaw_unsuspended {s : State} (c : RealignCounters) (h : s.realignLaw) :
    (s.updReal fun x => { x with suspended := none, ctr := c }).realignLaw :=
  ⟨h.subject, h.idle, h.undecided, fun e => ⟨(h.single e).1, rfl⟩, h.bound, fun _ e => by cases e⟩

theorem roles_discardSuspended (s : State) : RolesKept s s.discardSuspended := by
  unfold State.discardSuspended
  split
  · exact RolesKept.refl s
  · exact roles_updReal s _ (realignLaw_unsuspended _)

theorem roles_expireSuspended (s : State) : RolesKept s s.expireSuspended := by
  unfold State.expireSuspended
  split
  · exact RolesKept.refl s
  · exact roles_updReal s _ (realignLaw_unsuspended _)

/-- Held is no part of the law of R80 (R85). -/
theorem roles_hold (s : State) (held : Bool) : RolesKept s (s.updReal fun x => { x with slew := x.slew.map fun _ => held }) := by
  have present : s.realign.slew.map (fun _ => held) ≠ none → s.realign.slew ≠ none := mt fun e => by rw [e]; rfl
  refine roles_updReal s _ fun h => ⟨h.subject, h.idle, fun n => ?_, fun e => h.single (present e), h.bound, h.suspended⟩
  obtain ⟨zero, build, slew⟩ := h.undecided n
  exact ⟨zero, build, by show s.realign.slew.map _ = none; rw [slew]; rfl⟩

theorem natAbs_slewMove_le (rate : Nat) (b : Int) : (slewMove rate b).natAbs ≤ b.natAbs := by
  unfold slewMove
  split
  · exact Nat.zero_le _
  · split <;> omega

theorem slewMove_done {rate : Nat} {b : Int} (h : b.natAbs ≤ rate) : slewMove rate b = 0 := if_pos h

theorem slewMove_more {rate : Nat} {b : Int} (h : rate < b.natAbs) :
    slewMove rate b = (if 0 < b then b - rate else b + rate) ∧ slewMove rate b ≠ 0 := by
  unfold slewMove
  rw [if_neg (by omega)]
  split <;> split <;> omega

/-- Without a Slew record, or with one that is Held, nothing moves (R84, R85). -/
theorem slewProgress_still {s : State} (h : s.realign.slew ≠ some false) : s.slewProgress = s := if_neg h

/-- B reaches 0: the record is removed, and the slew is counted as completed (R84). -/
theorem slewProgress_done {s : State} (h : s.realign.slew = some false)
    (done : s.realign.b.natAbs ≤ s.realign.params.slewRate) : s.slewProgress = (s.updReal fun x =>
      { x with b := 0, ctr := { x.ctr with slewsCompleted := bump x.ctr.slewsCompleted } }).putSlew none := by
  unfold State.slewProgress
  rw [if_pos h]
  dsimp only
  rw [slewMove_done done, if_pos rfl]
  rfl

/-- B moves toward zero by Slew Rate, the record staying (R84). -/
theorem slewProgress_more {s : State} (h : s.realign.slew = some false)
    (more : s.realign.params.slewRate < s.realign.b.natAbs) : s.slewProgress =
      s.updReal fun x => { x with b := slewMove s.realign.params.slewRate s.realign.b } := by
  unfold State.slewProgress
  rw [if_pos h]
  exact if_neg (slewMove_more more).2

/-- Slew progress keeps B within Max Offset, and a slew that is over leaves the decision taken (R84). -/
theorem roles_slewProgress (s : State) : RolesKept s s.slewProgress := by
  by_cases slewing : s.realign.slew = some false
  · have decided (h : s.realignLaw) : s.realign.decision = .decided := Classical.byContradiction fun n => by
      rw [(h.undecided n).2.2] at slewing
      cases slewing
    rcases Nat.lt_or_ge s.realign.params.slewRate s.realign.b.natAbs with more | done
    · rw [slewProgress_more slewing more]
      exact roles_updReal s _ fun h => ⟨h.subject, h.idle, fun n => absurd (decided h) n, h.single,
        Nat.le_trans (natAbs_slewMove_le _ _) h.bound, h.suspended⟩
    · rw [slewProgress_done slewing done]
      exact roles_updRealSlew s _ none fun h => ⟨h.subject, h.idle, fun n => absurd (decided h) n,
        fun e => absurd rfl e, Nat.zero_le _, h.suspended⟩
  · rw [slewProgress_still slewing]
    exact RolesKept.refl s

/-- A decision that is PENDING has neither a build-out nor a slew, and a phase reference is selected (R80). -/
theorem State.realignLaw.ofPending {s : State} (h : s.realignLaw) (pending : s.realign.decision = .pending) :
    s.realign.b = 0 ∧ s.realign.buildOut = false ∧ s.realign.slew = none ∧ s.selector.phase ≠ none := by
  obtain ⟨zero, build, slew⟩ := h.undecided (by rw [pending]; exact nofun)
  refine ⟨zero, build, slew, fun e => ?_⟩
  have idle := h.idle.2 e
  rw [pending] at idle
  cases idle

/-- A resumed slew stands alone, with the B it was suspended with (R82). -/
theorem roles_resume (s : State) (u : Suspended) (pending : s.realign.decision = .pending)
    (record : s.realign.suspended = some u) : RolesKept s (s.resume u) := by
  refine roles_updRealSlew s _ _ fun h => ?_
  obtain ⟨-, build, -, selected⟩ := h.ofPending pending
  exact ⟨h.subject, ⟨nofun, fun e => absurd e selected⟩, fun n => absurd rfl n, fun _ => ⟨build, rfl⟩,
    h.suspended u record, fun _ e => by cases e⟩

/-- B becomes an E within Max Offset, as a build-out or a slew that stands alone (R82). -/
theorem roles_absorb (s : State) (e : Int) (pending : s.realign.decision = .pending)
    (free : s.realign.suspended = none) (near : e.natAbs ≤ s.realign.params.maxOffset) :
    RolesKept s (s.absorb e) := by
  unfold State.absorb
  dsimp only
  refine RolesKept.ite ?_ (RolesKept.ite ?_ ?_)
  · refine roles_updReal s (fun x =>
      { x with decision := .decided, b := e, buildOut := true, ctr := { x.ctr with buildOuts := bump x.ctr.buildOuts } })
      fun h => ?_
    obtain ⟨-, -, slew, selected⟩ := h.ofPending pending
    exact ⟨h.subject, ⟨nofun, fun e => absurd e selected⟩, fun n => absurd rfl n, fun e => absurd slew e, near,
      h.suspended⟩
  · refine roles_updReal s (fun x => { x with decision := .decided, b := e }) fun h => ?_
    obtain ⟨-, -, -, selected⟩ := h.ofPending pending
    exact ⟨h.subject, ⟨nofun, fun e => absurd e selected⟩, fun n => absurd rfl n, h.single, near, h.suspended⟩
  · refine roles_updRealSlew s (fun x =>
      { x with decision := .decided, b := e, ctr := { x.ctr with slewsStarted := bump x.ctr.slewsStarted } }) _
      fun h => ?_
    obtain ⟨-, build, -, selected⟩ := h.ofPending pending
    exact ⟨h.subject, ⟨nofun, fun e => absurd e selected⟩, fun n => absurd rfl n, fun _ => ⟨build, free⟩, near,
      h.suspended⟩

/-! ## A change of Epoch (R94) -/

theorem roles_epochChange (s : State) (before : Nat) : RolesKept s (s.epochChange before) := by
  unfold State.epochChange State.realEpoch
  exact (quiet_pinsEpoch _).rolesKept.after ((quiet_sitesEpoch _).rolesKept.after
    ((quiet_ringEpoch _ before).rolesKept.after ((roles_discardSuspended _).after
      ((quiet_monitorEpoch _).rolesKept.after (quiet_sessionsEpoch s).rolesKept))))

theorem roles_moveCounter (s : State) (counter : Nat) : RolesKept s (s.moveCounter counter) :=
  (roles_epochChange _ _).after (roles_withClock s _)

theorem roles_timeStep (s : State) (v : Int) : RolesKept s (s.timeStep v) :=
  (roles_moveCounter _ _).after (quiet_countServo s _).rolesKept

theorem roles_timeSet (s : State) (seconds nanos : Nat) : RolesKept s (s.timeSet seconds nanos) :=
  (roles_moveCounter _ _).after (quiet_countServo s _).rolesKept

theorem roles_counterCarry (s : State) : RolesKept s s.counterCarry :=
  (roles_epochChange _ _).after ((roles_withClock _ _).after (quiet_countServo s _).rolesKept)

/-! ## The second boundary -/

/-- Cases 2 to 4 of the decision (R82), with no Suspended Slew record left. -/
theorem roles_decideFresh (s : State) (e : Int) (pending : s.realign.decision = .pending)
    (free : s.realign.suspended = none) : RolesKept s (s.decideFresh e) := by
  unfold State.decideFresh
  dsimp only
  split
  · refine (fair_noInput _).rolesKept.after ((roles_timeStep _ e).after (roles_updReal s _ fun h => ?_))
    obtain ⟨-, -, -, selected⟩ := h.ofPending pending
    exact ⟨h.subject, ⟨nofun, fun e => absurd e selected⟩, fun n => absurd rfl n, h.single, h.bound, h.suspended⟩
  · split
    · have far := (fair_noInput _).rolesKept.after (roles_countReal s fun c => { c with tooFar := bump c.tooFar })
      split
      · exact far.trans (fair_setDefects _ _ _).rolesKept
      · exact far
    · next near =>
      have near' : e.natAbs ≤ s.realign.params.maxOffset := by simpa [State.isTooFar] using near
      exact (fair_giveInput _ 0).rolesKept.after (roles_absorb s e pending free near')

theorem roles_takeDecision (s : State) (e : Int) (pending : s.realign.decision = .pending) :
    RolesKept s (s.takeDecision e) := by
  unfold State.takeDecision
  dsimp only
  refine (roles_countReal s fun c => { c with decisions := bump c.decisions }).trans ?_
  have pending' : (s.countReal fun c => { c with decisions := bump c.decisions }).realign.decision = .pending := pending
  generalize s.countReal (fun c => { c with decisions := bump c.decisions }) = s0 at pending' ⊢
  split
  · next free => exact roles_decideFresh s0 e pending' free
  · next u record =>
    have discarded : s0.discardSuspended.realign.decision = .pending ∧ s0.discardSuspended.realign.suspended = none := by
      unfold State.discardSuspended
      rw [record]
      exact ⟨pending', rfl⟩
    exact RolesKept.ite ((fair_giveInput _ _).rolesKept.after (roles_resume s0 u pending' record))
      ((roles_decideFresh _ e discarded.1 discarded.2).after (roles_discardSuspended s0))

theorem roles_followSample (s : State) (e : Option Int) : RolesKept s (s.followSample e) := by
  unfold State.followSample
  dsimp only
  refine (roles_slewProgress s).trans ?_
  split
  · exact (fair_noInput _).rolesKept
  · split
    · next pending => exact roles_takeDecision _ _ pending
    · exact (fair_giveInput _ _).rolesKept
    · exact (fair_noInput _).rolesKept

theorem roles_samplesWork (s : State) (g : Gathered) : RolesKept s (s.samplesWork g) := by
  unfold State.samplesWork
  dsimp only
  exact (roles_followSample _ _).after ((quiet_dropSamples _ _).rolesKept.after
    (Fair.foldl (fun (t : State) r => t.judgeSample (g.samples r) r) (fun t r => fair_judgeSample t _ r)
      [.gnss, .pkt0, .pkt1] s).rolesKept)

theorem roles_work (g : Gathered) (s : State) (w : BoundaryWork) : RolesKept s (s.work g w) := by
  cases w with
  | samples => exact roles_samplesWork s g
  | windows => exact (fair_windowsWork s g).rolesKept
  | tracking => exact (fair_trackingWork s g).rolesKept
  | grade => exact (quiet_regrade s).rolesKept
  | notices => exact (quiet_notices s).rolesKept

theorem roles_boundary (s : State) (b : Nat) (order : List BoundaryWork) : RolesKept s (s.boundary b order) :=
  (quiet_addMeanF _ b).rolesKept.after ((RolesKept.foldl _ (roles_work (s.gather b)) _ _).after
    (quiet_turnSecond s).rolesKept)

theorem roles_secondBoundary (s : State) (order : List BoundaryWork) : RolesKept s (s.secondBoundary order) := by
  unfold State.secondBoundary State.atBoundary
  split
  · next u e =>
    obtain ⟨c, -, rfl⟩ := Option.map_eq_some_iff.1 e
    exact (roles_boundary _ _ _).after ((roles_withClock _ _).after (roles_arrive s c))
  · exact RolesKept.refl s

theorem roles_boundaryWhere (s : State) (state : ServoState) (reached : Servo → Bool) :
    RolesKept s (s.boundaryWhere state reached) := RolesKept.ite (roles_secondBoundary s []) (RolesKept.refl s)

end Sys2Proof.Machine
end

section
/-! PROOFS. The restarts, the traffic path and the writes keep the laws of `RolesKept`. -/
namespace Sys2Proof.Machine
open Sys2Proof

/-! ## The restarts (R201, R202) -/

/-- Power-on leaves FREERUN with nothing selected and the Realignment Unit at NONE (R89, R115). -/
theorem roles_powerUp (s : State) (straps : BitVec 4) : RolesKept s (s.powerUp straps) :=
  ⟨fun _ => ⟨rfl, rfl, rfl⟩, fun _ => ⟨nofun, nofun⟩,
    fun _ => ⟨rfl, ⟨fun _ => rfl, fun _ => rfl⟩, fun _ => ⟨rfl, rfl, rfl⟩, fun h => absurd rfl h, Nat.zero_le _, nofun⟩,
    fun _ _ h => Bool.noConfusion h⟩

/-- RESTART DATAPATH leaves nothing selected, the Realignment Unit at NONE, and HOLDOVER or FREERUN by Phase Valid; the
grade is the one computed under the Holdover record, which is the old one or a new one (R77, R89, R115, R136). -/
theorem roles_restartDatapath (s : State) : RolesKept s s.restartDatapath := by
  obtain ⟨-, -, -, -, -, -, -, -, selector, realign, valid, state, -, -, -, holdover, kept, entered, -⟩ :=
    restartDatapathLeaves s
  change s.restartDatapath.selector = _ at selector
  change s.restartDatapath.realign = _ at realign
  change s.restartDatapath.servo.phaseValid = _ at valid
  change s.restartDatapath.servo.state = _ at state
  change s.restartDatapath.holdover = { s.holdover with
    settle := none, frozen := none, record := s.restartDatapath.holdover.record
    announced := s.restartDatapath.gradeNow, ctr := {} } at holdover
  change _ → s.restartDatapath.holdover.record = _ at kept
  change _ → _ → ∃ q, s.restartDatapath.holdover.record = some q ∧ _ at entered
  generalize s.restartDatapath = t at *
  refine ⟨fun _ => ?_, fun _ => ?_, fun _ => ?_, fun m l holding => ?_⟩
  · unfold State.rolesMatch
    rw [state, selector, valid]
    cases s.servo.phaseValid <;> exact ⟨rfl, rfl, rfl⟩
  · unfold State.selectedAreCandidates
    rw [selector]
    exact ⟨nofun, nofun⟩
  · refine ⟨?_, ?_, ?_, ?_, ?_, ?_⟩ <;> rw [realign]
    · rw [selector]
    · rw [selector]; exact ⟨fun _ => rfl, fun _ => rfl⟩
    · exact fun _ => ⟨rfl, rfl, rfl⟩
    · exact fun h => absurd rfl h
    · exact Nat.zero_le _
    · exact nofun
  · have phaseValid : s.servo.phaseValid = true := by
      cases hv : s.servo.phaseValid with
      | true => rfl
      | false =>
        unfold holdoverState at holding
        rw [state, hv] at holding
        cases holding
    have record : ∃ q, t.holdover.record = some q := by
      by_cases tracking : s.servo.state = .acquiring ∨ s.servo.state = .locked
      · obtain ⟨q, h, -⟩ := entered phaseValid tracking
        exact ⟨q, h⟩
      · rw [kept (.inr (not_or.1 tracking))]
        refine l.hasEntry ?_
        unfold State.rolesMatch at m
        cases hs : s.servo.state <;> simp [hs, phaseValid, holdoverState] at m tracking ⊢
    obtain ⟨q, h⟩ := record
    refine ⟨q, h, ?_⟩
    have announced : t.holdover.announced = t.gradeNow := by rw [holdover]
    rw [announced]
    exact State.gradeNow_le_entry t q holding h

theorem roles_restart (s : State) (scope : RestartScope) : RolesKept s (s.restart scope) := by
  cases scope with
  | datapath => exact roles_restartDatapath s
  | full => exact roles_powerUp s _

theorem roles_restartAfterLoss (s : State) (scope : Option RestartScope) : RolesKept s (s.restartAfterLoss scope) := by
  cases scope with
  | none => exact RolesKept.refl s
  | some scope => exact (roles_restart _ scope).after (RolesKept.of_aside rfl rfl rfl rfl rfl)

theorem roles_zeroCounters (s : State) : RolesKept s s.zeroCounters :=
  RolesKept.of_fields rfl rfl rfl rfl rfl (fun r => by rw [State.zeroCounters_ref])
    (fun h => ⟨h.subject, h.idle, h.undecided, h.single, h.bound, h.suspended⟩) id

/-! ## The traffic path (01) -/

theorem roles_countPort (s : State) (p : Port) (f : PortCounters → PortCounters) : RolesKept s (s.countPort p f) :=
  RolesKept.of_aside rfl rfl rfl rfl rfl

theorem roles_updPort (s : State) (p : Port) (f : PortState → PortState) : RolesKept s (s.updPort p f) :=
  RolesKept.of_aside rfl rfl rfl rfl rfl

theorem roles_updMgmt (s : State) (f : Mgmt → Mgmt) : RolesKept s (s.updMgmt f) :=
  RolesKept.of_aside rfl rfl rfl rfl rfl

theorem roles_updAlarm (s : State) (f : Alarm → Alarm) : RolesKept s (s.updAlarm f) :=
  RolesKept.of_aside rfl rfl rfl rfl rfl

theorem roles_updPin (s : State) (k : Fin 4) (f : Pin → Pin) : RolesKept s (s.updPin k f) :=
  RolesKept.of_aside rfl rfl rfl rfl rfl

theorem roles_updSite (s : State) (k : Fin 6) (f : Site → Site) : RolesKept s (s.updSite k f) :=
  RolesKept.of_aside rfl rfl rfl rfl rfl

theorem roles_updClient (s : State) (c : Client) (f : ClientSession → ClientSession) : RolesKept s (s.updClient c f) :=
  RolesKept.of_aside rfl rfl rfl rfl rfl

theorem roles_updGnss (s : State) (f : Gnss → Gnss) : RolesKept s (s.updGnss f) :=
  RolesKept.of_aside rfl rfl rfl rfl rfl

theorem roles_useFree (s : State) : RolesKept s s.useFree := RolesKept.of_aside rfl rfl rfl rfl rfl

/-- A report changes the Alarm Unit alone. -/
theorem roles_report (s : State) (i : Fin 41) (present : Bool) : RolesKept s (s.report i present) :=
  RolesKept.of_aside rfl rfl rfl rfl rfl

/-- The Flow Table is no part of the four laws. -/
theorem roles_flow (s : State) (f : Vector FlowEntry 64) : RolesKept s { s with flow := f } :=
  RolesKept.of_aside rfl rfl rfl rfl rfl

/-- An operation that goes on from an offer keeps the laws when both continuations do. -/
theorem roles_offerThen {s t : State} (p : Port) (q : QueueClass) (f : QFrame) (yes no : State → State)
    (hs : RolesKept s t) (hy : ∀ u, RolesKept u (yes u)) (hn : ∀ u, RolesKept u (no u)) :
    RolesKept s (match t.offer p q f with
      | (u, true) => yes u
      | (u, false) => no u) := by
  have h := (quiet_offer t p q f).rolesKept
  split
  · next u e => rw [e] at h; exact (hs.trans h).trans (hy u)
  · next u e => rw [e] at h; exact (hs.trans h).trans (hn u)

theorem roles_forward (s : State) (p : Port) (e : EgressSet) (q : QueueClass) (x : QFrame) :
    RolesKept s (s.forward p e q x) := by
  unfold State.forward
  split
  · exact roles_countPort s p _
  · exact (Quiet.foldl (fun (t : State) k => (t.offer k q x).1) (fun t k => quiet_offer t k q x) _ s).rolesKept

theorem roles_judgedThen (s : State) (p : Port) (f : Frame) (next : State → State) (h : ∀ t, RolesKept t (next t)) :
    RolesKept s (s.judgedThen p f next) := by
  unfold State.judgedThen
  split
  · exact h s
  · exact roles_countPort s p _
  · exact roles_countPort s p _

theorem roles_acceptCommand (s : State) (p : Port) (f : Frame) : RolesKept s (s.acceptCommand p f) := by
  unfold State.acceptCommand
  dsimp only
  exact RolesKept.ite (roles_updMgmt s _) (RolesKept.ite (roles_updMgmt s _) (RolesKept.ite (roles_updMgmt s _)
    (RolesKept.ite (roles_updMgmt s _) (RolesKept.ite (roles_updMgmt s _) (roles_updMgmt s _)))))

theorem roles_manage (s : State) (p : Port) (f : Frame) : RolesKept s (s.manage p f) := by
  unfold State.manage
  split
  · exact RolesKept.ite (roles_judgedThen s p f _ fun t => roles_acceptCommand t p f) (roles_acceptCommand s p f)
  · exact roles_acceptCommand s p f

theorem roles_ownerTakes (s : State) (p : Port) (f : Frame) (stamps : Ingress) :
    RolesKept s (s.ownerTakes p f stamps) := by
  unfold State.ownerTakes
  split
  · exact (fair_clientSort s _ f stamps).rolesKept
  · exact (quiet_siteSort s _ f stamps).rolesKept
  · exact RolesKept.refl s

theorem roles_actOn (s : State) (p : Port) (f : Frame) (stamps : Ingress) (e : FlowEntry) :
    RolesKept s (s.actOn p f stamps e) := by
  unfold State.actOn
  split
  · exact roles_forward s p _ _ _
  · exact roles_forward s p _ _ _
  · exact RolesKept.ite (roles_judgedThen s p f _ fun t => roles_ownerTakes t p f stamps) (roles_countPort s p _)
  · exact roles_manage s p f
  · exact roles_countPort s p _

theorem roles_classify (s : State) (p : Port) (f : Frame) (stamps : Ingress) :
    RolesKept s (s.classify p f stamps) := by
  unfold State.classify
  split
  · exact (roles_actOn _ p f stamps _).after (roles_flow s _)
  · exact (roles_forward _ p _ _ _).after (roles_countPort s p _)

theorem roles_receive (s : State) (p : Port) (ok : Bool) (f : Frame) : RolesKept s (s.receive p ok f) :=
  RolesKept.ite ((roles_classify _ p f _).after (roles_countPort s p _)) (roles_countPort s p _)

theorem roles_linkClient (s : State) (p : Port) (up : Bool) : RolesKept s (s.linkClient p up) := by
  unfold State.linkClient
  split
  · exact RolesKept.refl s
  · next c _ =>
    exact RolesKept.ite ((fair_syncLine _ c).rolesKept.after (fair_clientStart s c).rolesKept)
      ((fair_syncLine _ c).rolesKept.after (fair_clientStop s c).rolesKept)

theorem roles_linkSite (s : State) (p : Port) (up : Bool) : RolesKept s (s.linkSite p up) := by
  unfold State.linkSite
  split
  · exact RolesKept.refl s
  · next k _ => exact RolesKept.ite (quiet_siteLinkUp s k).rolesKept (quiet_siteLinkDown s k).rolesKept

theorem roles_linkUp (s : State) (p : Port) : RolesKept s (s.linkUp p) :=
  (roles_report _ _ false).after ((roles_linkSite _ p true).after ((roles_linkClient _ p true).after
    (roles_updPort s p _)))

theorem roles_linkDown (s : State) (p : Port) : RolesKept s (s.linkDown p) :=
  (roles_restartAfterLoss _ _).after ((roles_report _ _ true).after ((roles_linkSite _ p false).after
    ((roles_linkClient _ p false).after ((quiet_flush _ p).rolesKept.after (roles_updPort s p _)))))

theorem roles_atEgress (s : State) (p : Port) (x : QFrame) : RolesKept s (s.atEgress p x).1 := by
  unfold State.atEgress State.correct
  dsimp only
  split
  · split
    · exact RolesKept.ite (RolesKept.refl s) (roles_countPort s p _)
    · exact roles_countPort s p fun c => { c with notCorrectable := bump c.notCorrectable }
  · exact RolesKept.refl s
  · exact RolesKept.refl s
  · split
    · exact roles_updClient s _ _
    · exact RolesKept.refl s
  all_goals exact RolesKept.refl s

theorem roles_egress (s : State) (p : Port) : RolesKept s (s.egress p) := by
  unfold State.egress
  dsimp only
  split
  · exact RolesKept.refl s
  · exact RolesKept.ite ((roles_updPort _ p _).after ((roles_atEgress _ p _).after (roles_updPort s p _)))
      (RolesKept.refl s)

theorem roles_endTransmit (s : State) (p : Port) (t : TxFrame) : RolesKept s (s.endTransmit p t) := by
  unfold State.endTransmit
  dsimp only
  have sent := RolesKept.ite (c := t.counted = true)
    ((roles_countPort _ p fun c => { c with transmittedFrames := bump c.transmittedFrames }).after
      (roles_updPort s p fun x => { x with tx := none })) (roles_updPort s p fun x => { x with tx := none })
  split
  · exact RolesKept.ite ((roles_restart _ _).after sent) sent
  · exact sent

/-! ## Entries written (R196) -/

/-- A written entry keeps the laws; a refused one leaves nothing. -/
def EntryResult.keepsRoles (s : State) : EntryResult → Prop
  | .refused _ => True
  | .written t _ => RolesKept s t

theorem EntryResult.keepsRoles_ite {s : State} {c : Prop} [Decidable c] {x y : EntryResult} (a : x.keepsRoles s)
    (b : y.keepsRoles s) : (if c then x else y).keepsRoles s := by split <;> assumption

theorem roles_putFlow (s : State) (i : Fin 64) (bs : List Byte) : (s.putFlow i bs).keepsRoles s := by
  unfold State.putFlow
  split
  · trivial
  · exact EntryResult.keepsRoles_ite trivial (EntryResult.keepsRoles_ite trivial
      (EntryResult.keepsRoles_ite trivial (roles_flow s _)))

theorem roles_putPortMap (s : State) (i : Fin 8) (bs : List Byte) : (s.putPortMap i bs).keepsRoles s := by
  unfold State.putPortMap
  dsimp only
  split
  · trivial
  · exact RolesKept.of_aside rfl rfl rfl rfl rfl

theorem roles_putMgmt (s : State) (p : Port) (bs : List Byte) : (s.putMgmt p bs).keepsRoles s := by
  unfold State.putMgmt
  dsimp only
  split
  · trivial
  · exact EntryResult.keepsRoles_ite trivial (EntryResult.keepsRoles_ite trivial
      (EntryResult.keepsRoles_ite trivial (roles_updMgmt s _)))

theorem roles_clientChanged (s : State) (c : Client) (old : ClientCfg) : RolesKept s (s.clientChanged c old) := by
  have expired (t : State) : RolesKept t (t.noticeCheck c) :=
    RolesKept.ite (fair_noticeExpired t c).rolesKept (RolesKept.refl t)
  have moved := RolesKept.ite (c := (old.enabled && !(s.client c).cfg.enabled) = true) (fair_clientStop s c).rolesKept
    (RolesKept.ite (c := (!old.enabled && (s.client c).cfg.enabled) = true) (fair_clientStart s c).rolesKept
      (RolesKept.ite (c := old.domain ≠ (s.client c).cfg.domain ∨ old.queryVlan ≠ (s.client c).cfg.queryVlan)
        (fair_clientRetune s c).rolesKept (RolesKept.refl s)))
  have aged (t : State) : RolesKept t (if old.replyTimeout = (s.client c).cfg.replyTimeout then t
      else t.updClient c (ClientSession.loseAged s.res)) :=
    RolesKept.ite (RolesKept.refl t) (roles_updClient t c _)
  unfold State.clientChanged
  dsimp only
  exact moved.trans ((aged _).trans (RolesKept.ite (RolesKept.refl _) (expired _)))

theorem roles_putClient (s : State) (c : Client) (bs : List Byte) : (s.putClient c bs).keepsRoles s := by
  unfold State.putClient
  split
  · trivial
  · exact (roles_clientChanged _ c _).after (roles_updClient s c _)

/-- A reference changed, but for its state. -/
theorem roles_updRef (s : State) (r : Ref) (f : Reference → Reference) (h : (f (s.ref r)).state = (s.ref r).state) :
    RolesKept s (s.updRef r f) := by
  refine RolesKept.of_fields rfl rfl rfl rfl rfl (fun q => ?_) (realignLaw_congr rfl rfl) id
  rw [State.ref_updRef]
  split
  · next e => rw [e]; exact h
  · rfl

theorem roles_timersCheck (s : State) (r : Ref) : RolesKept s (s.timersCheck r) := by
  unfold State.timersCheck
  dsimp only
  split
  · exact RolesKept.ite (fair_qualifyExpired s r).rolesKept (RolesKept.refl s)
  · exact RolesKept.ite (fair_holdOffExpired s r).rolesKept (RolesKept.refl s)
  · exact RolesKept.ite (fair_restoreExpired s r).rolesKept (RolesKept.refl s)
  · exact RolesKept.refl s
  · exact RolesKept.refl s

theorem roles_refChanged (s : State) (r : Ref) (old : RefCfg) : RolesKept s (s.refChanged r old) := by
  unfold State.refChanged
  dsimp only
  cases refClient? r with
  | none =>
    exact (RolesKept.ite (roles_updGnss s _) (RolesKept.refl s)).trans ((roles_updRef _ r _ rfl).trans
      ((RolesKept.ite (RolesKept.refl _) (fair_judge _ r _ id).rolesKept).trans
        (RolesKept.ite (RolesKept.refl _) (roles_timersCheck _ r))))
  | some c =>
    exact (RolesKept.ite (roles_updGnss s _) (RolesKept.refl s)).trans ((roles_updRef _ r _ rfl).trans
      ((RolesKept.ite (RolesKept.refl _) (fair_judge _ r _ id).rolesKept).trans
        ((RolesKept.ite (RolesKept.refl _) (fair_starveCheck _ c).rolesKept).trans
          (RolesKept.ite (RolesKept.refl _) (roles_timersCheck _ r)))))

theorem roles_putRef (s : State) (r : Ref) (bs : List Byte) : (s.putRef r bs).keepsRoles s := by
  unfold State.putRef
  split
  · trivial
  · exact (roles_updRef s r _ rfl).trans (RolesKept.ite (fair_refDisable _ r).rolesKept
      (RolesKept.ite (fair_refEnable _ r).rolesKept (RolesKept.ite (roles_refChanged _ r _) (RolesKept.refl _))))

/-- The roles are evaluated again under the new lists, so the candidates of R72 need no law of the old ones (R75). -/
theorem roles_putSelector (s : State) (bs : List Byte) : (s.putSelector bs).keepsRoles s := by
  unfold State.putSelector
  split
  · trivial
  · exact EntryResult.keepsRoles_ite trivial (EntryResult.keepsRoles_ite (RolesKept.refl s)
      (RolesKept.reevaluated (t := s.updSel _) id (realignLaw_congr rfl rfl) fun _ => id))

/-- A Max Offset written clamps B and B_susp to it at once (R79). -/
theorem roles_writeMaxOffset (s : State) (p : RealignParams) :
    RolesKept s ((s.updReal fun x => { x with params := p }).updReal (writeMaxOffset p.maxOffset)) := by
  refine roles_updReal s (fun x => writeMaxOffset p.maxOffset { x with params := p }) fun h =>
    ⟨h.subject, h.idle, fun n => ?_, fun e => ?_, natAbs_clampMag _ _, fun u e => ?_⟩
  · obtain ⟨zero, build, slew⟩ := h.undecided n
    exact ⟨by show clampMag p.maxOffset s.realign.b = 0; rw [zero]; unfold clampMag clampInt; omega, build, slew⟩
  · obtain ⟨build, free⟩ := h.single e
    exact ⟨build, by show s.realign.suspended.map _ = none; rw [free]; rfl⟩
  · obtain ⟨y, -, rfl⟩ := Option.map_eq_some_iff.1 (show s.realign.suspended.map _ = some u from e)
    exact natAbs_clampMag _ _

theorem roles_suspendedCheck (s : State) : RolesKept s s.suspendedCheck := by
  unfold State.suspendedCheck
  split
  · exact RolesKept.refl s
  · exact RolesKept.ite (roles_expireSuspended s) (RolesKept.refl s)

theorem roles_putRealign (s : State) (bs : List Byte) : (s.putRealign bs).keepsRoles s := by
  unfold State.putRealign
  split
  · trivial
  · next p _ _ =>
    dsimp only
    have stored : RolesKept s (if p.maxOffset = s.realign.params.maxOffset then s.updReal fun x => { x with params := p }
        else (s.updReal fun x => { x with params := p }).updReal (writeMaxOffset p.maxOffset)) := by
      split
      · next same =>
        exact roles_updReal s _ fun h => ⟨h.subject, h.idle, h.undecided, h.single, h.bound.trans_eq same.symm,
          fun u e => (h.suspended u e).trans_eq same.symm⟩
      · exact roles_writeMaxOffset s p
    exact stored.trans (RolesKept.ite (RolesKept.refl _) (roles_suspendedCheck _))

theorem roles_putServo (s : State) (bs : List Byte) : (s.putServo bs).keepsRoles s := by
  unfold State.putServo
  split
  · trivial
  · refine RolesKept.of_fields ?_ ?_ rfl rfl rfl (fun _ => rfl) (realignLaw_congr rfl rfl) id
    all_goals
      dsimp only [State.updServo]
      split <;> rfl

/-- The Holdover Unit changed, but for what the law of the Entry Grade reads. -/
theorem roles_updHold (s : State) (f : Holdover → Holdover)
    (h : s.holdover.withinEntry → (f s.holdover).withinEntry) : RolesKept s (s.updHold f) :=
  RolesKept.of_fields rfl rfl rfl rfl rfl (fun _ => rfl) (realignLaw_congr rfl rfl) h

theorem roles_putHoldover (s : State) (bs : List Byte) : (s.putHoldover bs).keepsRoles s := by
  unfold State.putHoldover
  split
  · trivial
  · exact (roles_updHold s _ id).trans (RolesKept.ite (RolesKept.refl _) (quiet_regrade _).rolesKept)

theorem roles_putBudget (s : State) (i : Nat) (bs : List Byte) : (s.putBudget i bs).keepsRoles s := by
  unfold State.putBudget
  dsimp only
  split
  · trivial
  · exact EntryResult.keepsRoles_ite trivial (EntryResult.keepsRoles_ite trivial
      ((quiet_regrade _).rolesKept.after (roles_updHold s _ id)))

theorem roles_siteChanged (s : State) (k : Fin 6) (old : SiteCfg) : RolesKept s (s.siteChanged k old) := by
  unfold State.siteChanged
  dsimp only
  exact (RolesKept.ite (RolesKept.refl s) (quiet_siteGrade s k).rolesKept).trans
    ((RolesKept.ite (quiet_enterServing _ k).rolesKept (RolesKept.refl _)).trans
      (RolesKept.ite (quiet_siteAbsent _ k).rolesKept (RolesKept.refl _)))

theorem roles_putSite (s : State) (k : Fin 6) (bs : List Byte) : (s.putSite k bs).keepsRoles s := by
  unfold State.putSite
  split
  · trivial
  · exact EntryResult.keepsRoles_ite trivial ((roles_updSite s k _).trans
      (RolesKept.ite (quiet_siteDisable _ k).rolesKept (RolesKept.ite (quiet_siteEnable _ k).rolesKept
        (RolesKept.ite (roles_siteChanged _ k _) (RolesKept.refl _)))))

theorem roles_putPin (s : State) (k : Fin 4) (bs : List Byte) : (s.putPin k bs).keepsRoles s := by
  unfold State.putPin
  split
  · trivial
  · have driven (t : State) (was : Bool) : RolesKept t (t.pinDrive k was) := by
      unfold State.pinDrive
      dsimp only
      exact RolesKept.ite (RolesKept.ite (RolesKept.refl t) (RolesKept.ite ((roles_useFree _).after (roles_updPin t k _))
        (roles_updPin t k _))) (roles_updPin t k _)
    have taken (t : State) (a b : PinFunction) : RolesKept t (t.freqInTaken a b) :=
      RolesKept.ite (roles_updRef t _ _ rfl) (RolesKept.refl t)
    exact EntryResult.keepsRoles_ite trivial (EntryResult.keepsRoles_ite trivial
      ((roles_updPin _ k _).after ((driven _ _).after ((taken _ _ _).after (roles_updPin s k _)))))

theorem roles_putAlarmCfg (s : State) (c : Fin 12) (bs : List Byte) : (s.putAlarmCfg c bs).keepsRoles s := by
  unfold State.putAlarmCfg
  split
  · trivial
  · exact roles_updAlarm s _

theorem roles_putAlarmSet (s : State) (bs : List Byte) : (s.putAlarmSet bs).keepsRoles s := by
  unfold State.putAlarmSet
  split
  · trivial
  · exact EntryResult.keepsRoles_ite trivial (roles_updAlarm s _)

/-- Every entry written keeps the laws. -/
theorem roles_putEntry (s : State) (p : Port) (table index : Nat) (bs : List Byte) :
    (s.putEntry p table index bs).keepsRoles s := by
  have dite' {c : Prop} [Decidable c] (x : c → EntryResult) (hx : ∀ h, (x h).keepsRoles s) :
      (if h : c then x h else .refused stBadIndex).keepsRoles s := by
    split
    · exact hx _
    · trivial
  unfold State.putEntry
  split
  · exact dite' _ fun h => roles_putFlow s ⟨index, h⟩ bs
  · exact dite' _ fun h => roles_putPortMap s ⟨index, h⟩ bs
  · exact roles_putMgmt s p bs
  · exact roles_putClient s _ bs
  · split
    · exact roles_putRef s _ bs
    · trivial
  · exact roles_putSelector s bs
  · exact roles_putRealign s bs
  · exact roles_putServo s bs
  · exact roles_putHoldover s bs
  · exact roles_putBudget s index bs
  · exact dite' _ fun h => roles_putSite s ⟨index, h⟩ bs
  · exact dite' _ fun h => roles_putPin s ⟨index, h⟩ bs
  · exact dite' _ fun h => roles_putAlarmCfg s ⟨index, h⟩ bs
  · exact roles_putAlarmSet s bs
  · trivial

theorem roles_putRun (p : Port) (table : Nat) : ∀ (n index : Nat) (bs : List Byte) (acc : RunResult),
    RolesKept acc.state (State.putRun p table n index bs acc).state
  | 0, _, _, acc => RolesKept.refl _
  | n + 1, index, bs, acc => by
    unfold State.putRun
    split
    · exact RolesKept.refl _
    · next fields rest _ =>
      have entry := roles_putEntry acc.state p table index fields
      split
      · exact RolesKept.refl _
      · next t adjusted e =>
        rw [e] at entry
        exact entry.trans (roles_putRun p table n (nextInBlock table index) rest
          { acc with state := t, adjusted := acc.adjusted || adjusted, count := acc.count + 1
                     stored := acc.stored ++ t.encEntry table index })

end Sys2Proof.Machine
end

section
/-! PROOFS. What every command keeps of the roles and the servo, and O8. -/
namespace Sys2Proof.Machine
open Sys2Proof

/-! ## The commands (R191) -/

theorem roles_readFrom (s : State) (table start count : Nat) : RolesKept s (s.readFrom table start count).state :=
  (roles_updMgmt _ _).after (RolesKept.ite (roles_updAlarm s _) (RolesKept.refl s))

/-- What a command runs to keeps the laws in both cases of a test. -/
theorem roles_replyIte {s : State} {c : Prop} [Decidable c] {x y : Reply} (a : RolesKept s x.state)
    (b : RolesKept s y.state) : RolesKept s (if c then x else y).state := by split <;> assumption

theorem roles_runPut (s : State) (c : Command) : RolesKept s (runPut s c).state :=
  roles_replyIte (RolesKept.refl s) (roles_replyIte (RolesKept.refl s) (roles_replyIte (RolesKept.refl s)
    (roles_replyIte (RolesKept.refl s) (roles_putRun c.ingress _ _ _ _ ⟨s, false, 0, [], none⟩))))

theorem roles_clearFlow (s : State) (index : Nat) : RolesKept s (clearFlow s index).state := by
  unfold clearFlow
  split
  · exact roles_replyIte (RolesKept.refl s) (roles_flow s _)
  · exact RolesKept.refl s

theorem roles_clearBudget (s : State) (index : Nat) : RolesKept s (clearBudget s index).state :=
  roles_replyIte (RolesKept.refl s) (roles_replyIte (RolesKept.refl s)
    ((quiet_regrade _).rolesKept.after (roles_updHold s _ id)))

theorem roles_runClear (s : State) (c : Command) : RolesKept s (runClear s c).state :=
  roles_replyIte (RolesKept.refl s) (roles_replyIte (roles_clearFlow s _) (roles_replyIte (roles_clearBudget s _)
    (roles_replyIte (RolesKept.refl s) (RolesKept.refl s))))

theorem roles_pinFlow (s : State) (pinned : Bool) (index : Nat) : RolesKept s (pinFlow s pinned index).state := by
  unfold pinFlow
  split
  · exact roles_flow s _
  · exact RolesKept.refl s

/-- A Selector changed, but for its configuration and its selections. -/
theorem quiet_updSel (s : State) (f : Selector → Selector) (cfg : (f s.selector).cfg = s.selector.cfg)
    (phase : (f s.selector).phase = s.selector.phase) (freq : (f s.selector).freq = s.selector.freq) :
    Quiet s (s.updSel f) :=
  ⟨calm_updSel s f cfg, rfl, rfl, phase, freq, fun _ => rfl, rfl, id⟩

/-- A forced role is reported like any other change of it, and the roles are evaluated again (R76). -/
theorem roles_force (s : State) (phase : Bool) (r : Ref) : RolesKept s (s.force phase r) := by
  unfold State.force
  refine RolesKept.ite ?_ ?_
  · have forced := (quiet_updSel s (fun x => { x with phaseForced := true }) rfl rfl rfl).rolesKept
    obtain ⟨-, -, -, -, roles, slews, entry⟩ :=
      applyPhase_spec (s.updSel fun x => { x with phaseForced := true }) (some r) s.holdover.announced
    exact RolesKept.reevaluated (fun m => roles (forced.roles m)) (fun h => slews (forced.slews h))
      fun m h => entry (forced.roles m) (forced.entry m h)
  · have forced := (quiet_updSel s (fun x => { x with freqForced := true }) rfl rfl rfl).rolesKept
    obtain ⟨-, -, -, -, roles, slews, entry⟩ :=
      applyFreq_spec (s.updSel fun x => { x with freqForced := true }) (some r) s.holdover.announced
    exact RolesKept.reevaluated (fun m => roles (forced.roles m)) (fun h => slews (forced.slews h))
      fun m h => entry (forced.roles m) (forced.entry m h)

theorem roles_runForce (s : State) (c : Command) : RolesKept s (runForce s c).state := by
  unfold runForce
  dsimp only
  refine roles_replyIte (RolesKept.refl s) ?_
  cases refOfNat? (c.arg 1 1) with
  | none => exact RolesKept.refl s
  | some r =>
    exact roles_replyIte (RolesKept.refl s) (roles_replyIte (RolesKept.refl s) (roles_force s (c.arg 0 1 = 0) r))

theorem roles_runRelease (s : State) (c : Command) : RolesKept s (runRelease s c).state := by
  unfold runRelease
  split
  · exact RolesKept.ite ((fair_reevaluate _).rolesKept.after (quiet_updSel s _ rfl rfl rfl).rolesKept) (RolesKept.refl s)
  · exact RolesKept.ite ((fair_reevaluate _).rolesKept.after (quiet_updSel s _ rfl rfl rfl).rolesKept) (RolesKept.refl s)
  · exact RolesKept.refl s

theorem roles_runTimeSet (s : State) (c : Command) : RolesKept s (runTimeSet s c).state :=
  roles_replyIte (RolesKept.refl s) (roles_replyIte (roles_timeSet s _ _) (roles_timeSet s _ _))

theorem roles_runAck (s : State) (c : Command) : RolesKept s (runAck s c).state := by
  unfold runAck
  dsimp only
  split
  · exact roles_updAlarm s _
  · split
    · exact roles_updAlarm s _
    · exact RolesKept.refl s

theorem roles_runGet (s : State) (c : Command) : RolesKept s (runGet s c).state :=
  roles_replyIte (RolesKept.refl s) (roles_replyIte (RolesKept.refl s) (roles_readFrom s _ _ _))

theorem roles_runContinue (s : State) (c : Command) : RolesKept s (runContinue s c).state :=
  roles_replyIte (RolesKept.refl s) (roles_replyIte (RolesKept.refl s) (roles_readFrom s _ _ _))

theorem roles_runRestart (s : State) (c : Command) : RolesKept s (runRestart s c).state := by
  unfold runRestart; split <;> exact RolesKept.refl s

theorem roles_runTest (s : State) (c : Command) : RolesKept s (runTest s c).state :=
  (roles_updAlarm (s.report recTest true) fun a => { a with test := some s.res }).after (roles_report s recTest true)

theorem roles_answer (s : State) (c : Command) (x : Reply) : RolesKept x.state (s.answer c x) := by
  unfold State.answer
  dsimp only
  refine roles_offerThen _ _ _ id _ ((roles_updMgmt _ _).after (roles_useFree x.state)) RolesKept.refl fun u => ?_
  cases x.restart with
  | none => exact roles_updMgmt u _
  | some scope => exact roles_restartAfterLoss u (some scope)

/-- The completion of a command keeps the laws when what it runs to does. -/
theorem roles_complete (s : State) (dt : Nat) (kind : Command → Bool) (run : State → Command → Reply)
    (h : ∀ t c, RolesKept t (run t c).state) : RolesKept s (s.complete dt kind run) := by
  unfold State.complete
  split
  · exact RolesKept.refl s
  · exact RolesKept.ite ((roles_answer _ _ _).after ((h _ _).after (roles_pass s dt))) (RolesKept.refl s)

/-! ## The events of the pins and the alarms -/

theorem roles_fallAt (s : State) (k : Fin 4) : RolesKept s (s.fallAt k) := by
  unfold State.fallAt
  split
  · next fall _ =>
    cases fall with
    | atResidence t => exact roles_atReach s _ _ fun u => roles_updPin u k _
    | atOsc t => exact roles_atReachOsc s t _ fun u => roles_updPin u k _
  · exact RolesKept.refl s

theorem roles_freqEdge (s : State) (k : Fin 4) : RolesKept s (s.freqEdge k) := by
  unfold State.freqEdge
  split
  · exact roles_atReach s _ _ fun u => roles_updPin u k _
  · exact roles_atReach s _ _ fun u => roles_updPin u k _
  · exact roles_atReachOsc s _ _ fun u => roles_updPin u k _
  · unfold State.leaveBypassEdge
    split
    · next u there =>
      refine roles_atInstant s _ _ (fun v came => ?_) fun v => roles_updPin v k _
      exact (roles_reach came).after (roles_reachOsc there)
    · exact RolesKept.refl s

theorem roles_offerHead (s : State) (collector : Addr) (n : Notice) : RolesKept s (s.offerHead collector n) := by
  unfold State.offerHead
  exact roles_offerThen _ _ _ _ _ ((roles_updAlarm _ _).after (roles_useFree s))
    (fun u => roles_updAlarm u fun a => { a with ctr := { a.ctr with noticesSent := bump a.ctr.noticesSent } })
    (fun u => roles_updAlarm u fun a => { a with ctr := { a.ctr with noticesDiscarded := bump a.ctr.noticesDiscarded } })

theorem roles_noticeOffer (s : State) : ∃ t, execNoticeOffer s = .next t ∧ RolesKept s t := by
  refine ⟨_, rfl, ?_⟩
  split
  · next n _ collector _ _ =>
    refine RolesKept.ite ?_ (RolesKept.refl s)
    unfold State.sendNotice
    split
    · exact roles_atReach s _ _ fun u => roles_offerHead u collector n
    · exact roles_offerHead s collector n
  · exact RolesKept.refl s

theorem roles_ppsEdge (s : State) (k : Fin 4) : RolesKept s (s.ppsEdge k) :=
  (fair_gnssEdge _).rolesKept.after (roles_updPin s k _)

theorem roles_freqEdges (s : State) (k : Fin 4) (edges : Nat) : RolesKept s (s.freqEdges k edges) :=
  (fair_extEdge _).rolesKept.after (roles_updPin s k _)

/-! ## Every command -/

/-- An event that happens only where its guard holds. -/
theorem roles_guarded {s t : State} {c : Prop} [Decidable c] (h : RolesKept s t) : RolesKept s (if c then t else s) :=
  RolesKept.ite h (RolesKept.refl s)

/-- What every command keeps. -/
theorem exec_rolesKept (i : Instr) (s : State) : ∃ t, exec i s = .next t ∧ RolesKept s t := by
  have pass := fun dt => roles_pass s dt
  have command := roles_complete s
  cases i with
  | powerOn straps => exact ⟨_, rfl, roles_powerUp s straps⟩
  | resetPin straps => exact ⟨_, rfl, roles_powerUp s straps⟩
  | frameReceived dt p ok f => exact ⟨_, rfl, roles_guarded ((roles_receive _ p ok f).after (pass dt))⟩
  | linkUp dt p => exact ⟨_, rfl, RolesKept.ite (RolesKept.refl s) ((roles_linkUp _ p).after (pass dt))⟩
  | linkDown dt p => exact ⟨_, rfl, roles_guarded ((roles_linkDown _ p).after (pass dt))⟩
  | egressMoment p => exact ⟨_, rfl, roles_egress s p⟩
  | transmitEnd dt p =>
    refine ⟨_, rfl, ?_⟩
    split
    · next t _ => exact (roles_endTransmit _ p t).after (pass dt)
    · exact RolesKept.refl s
  | secondBoundary order => exact ⟨_, rfl, roles_secondBoundary s order⟩
  | counterWrap =>
    refine ⟨_, rfl, ?_⟩
    split
    · next c _ => exact (roles_counterCarry _).after (roles_withClock s c)
    · exact RolesKept.refl s
  | ppsInputEdge dt k => exact ⟨_, rfl, roles_guarded ((roles_ppsEdge _ k).after (pass dt))⟩
  | freqInputEdge dt k edges => exact ⟨_, rfl, roles_guarded ((roles_freqEdges _ k edges).after (pass dt))⟩
  | todRecord dt b => exact ⟨_, rfl, roles_guarded ((fair_todByte _ b).rolesKept.after (pass dt))⟩
  | todFramingError dt => exact ⟨_, rfl, (quiet_todFraming _).rolesKept.after (pass dt)⟩
  | todByteGap =>
    exact ⟨_, rfl, RolesKept.ite (RolesKept.refl s) (roles_atReach s _ _ fun u => roles_updGnss u _)⟩
  | quietIntervalExpires p =>
    refine ⟨_, rfl, ?_⟩
    split
    · exact roles_atReach s _ _ fun u => (quiet_quietOver u p).rolesKept
    · exact RolesKept.refl s
  | queryDue c =>
    refine ⟨_, rfl, ?_⟩
    split
    · next m _ => exact roles_atReach s _ _ fun u => (quiet_queryAt u c m _).rolesKept
    · exact RolesKept.refl s
  | replyTimeout c =>
    refine ⟨_, rfl, ?_⟩
    split
    · exact roles_atReach s _ _ fun u => roles_updClient u c _
    · exact RolesKept.refl s
  | noticeIntervalExpires c =>
    exact ⟨_, rfl, roles_guarded (roles_atReach s _ _ fun u => (fair_noticeExpired u c).rolesKept)⟩
  | gnssSignalTimeout => exact ⟨_, rfl, roles_atEnd s _ _ fun u => (fair_gnssLost u).rolesKept⟩
  | todIntervalTimeout => exact ⟨_, rfl, roles_atEnd s _ _ fun u => (fair_todMissing u).rolesKept⟩
  | extEdgeTimeout => exact ⟨_, rfl, roles_atEnd s _ _ fun u => (fair_extLost u).rolesKept⟩
  | starveCountReached c => exact ⟨_, rfl, roles_guarded (fair_starveCheck s c).rolesKept⟩
  | qualifyTimeReached r =>
    exact ⟨_, rfl, roles_guarded (roles_atTimer s _ _ _ fun u => (fair_qualifyExpired u r).rolesKept)⟩
  | holdOffExpires r =>
    exact ⟨_, rfl, roles_guarded (roles_atTimer s _ _ _ fun u => (fair_holdOffExpired u r).rolesKept)⟩
  | restoreWaitReached r =>
    exact ⟨_, rfl, roles_guarded (roles_atTimer s _ _ _ fun u => (fair_restoreExpired u r).rolesKept)⟩
  | suspendedSlewExpires =>
    refine ⟨_, rfl, ?_⟩
    split
    · exact roles_atReach s _ _ roles_expireSuspended
    · exact RolesKept.refl s
  | lockCountReached => exact ⟨_, rfl, roles_boundaryWhere s _ _⟩
  | unlockCountReached => exact ⟨_, rfl, roles_boundaryWhere s _ _⟩
  | holdoverMinute =>
    refine ⟨_, rfl, ?_⟩
    split
    · exact roles_guarded (roles_atTimer s _ _ _ fun u => (quiet_minutePassed u).rolesKept)
    · exact RolesKept.refl s
  | serveDelayExpires k =>
    exact ⟨_, rfl, roles_guarded (roles_atTimer s _ _ _ fun u => (quiet_enterServing u k).rolesKept)⟩
  | presenceTimeout k =>
    refine ⟨_, rfl, ?_⟩
    split
    · exact roles_guarded (roles_atReach s _ _ fun u => (quiet_siteAbsent u k).rolesKept)
    · exact RolesKept.refl s
  | markDue k => exact ⟨_, rfl, roles_guarded (roles_atReach s _ _ fun u => (quiet_markAt u k _).rolesKept)⟩
  | ppsOutputEdge k => exact ⟨_, rfl, roles_guarded (roles_atReach s _ _ fun u => roles_updPin u k _)⟩
  | ppsPulseEnd k => exact ⟨_, rfl, roles_guarded (roles_fallAt s k)⟩
  | raiseHoldOffExpires i =>
    exact ⟨_, rfl, roles_guarded (roles_afterSpan s _ _ _ fun u => roles_updAlarm u _)⟩
  | clearDelayExpires i =>
    exact ⟨_, rfl, roles_guarded (roles_afterSpan s _ _ _ fun u => roles_updAlarm u _)⟩
  | noticeOffer => exact roles_noticeOffer s
  | testIntervalExpires =>
    exact ⟨_, rfl, roles_afterSpan s _ _ _ fun u => (roles_report _ _ _).after (roles_updAlarm u _)⟩
  | pinPulseEnd => exact ⟨_, rfl, roles_afterSpan s _ _ _ fun u => roles_updAlarm u _⟩
  | get dt => exact ⟨_, rfl, command dt _ _ roles_runGet⟩
  | continueRead dt => exact ⟨_, rfl, command dt _ _ roles_runContinue⟩
  | put dt => exact ⟨_, rfl, command dt _ _ roles_runPut⟩
  | clear dt => exact ⟨_, rfl, command dt _ _ roles_runClear⟩
  | pin dt => exact ⟨_, rfl, command dt _ _ fun t _ => roles_pinFlow t true _⟩
  | unpin dt => exact ⟨_, rfl, command dt _ _ fun t _ => roles_pinFlow t false _⟩
  | forceSelect dt => exact ⟨_, rfl, command dt _ _ roles_runForce⟩
  | release dt => exact ⟨_, rfl, command dt _ _ roles_runRelease⟩
  | slewHold dt => exact ⟨_, rfl, command dt _ _ fun t _ => roles_hold t true⟩
  | slewRelease dt => exact ⟨_, rfl, command dt _ _ fun t _ => roles_hold t false⟩
  | timeSet dt => exact ⟨_, rfl, command dt _ _ roles_runTimeSet⟩
  | ack dt => exact ⟨_, rfl, command dt _ _ roles_runAck⟩
  | testAlarm dt => exact ⟨_, rfl, command dt _ _ roles_runTest⟩
  | status dt => exact ⟨_, rfl, command dt _ _ fun t _ => RolesKept.refl t⟩
  | countersClear dt => exact ⟨_, rfl, command dt _ _ fun t _ => roles_zeroCounters t⟩
  | restartDatapath dt => exact ⟨_, rfl, command dt _ _ roles_runRestart⟩
  | restartFull input =>
    exact ⟨_, rfl, command input.dt _ _ fun t c => (roles_runRestart _ c).after
      (roles_updMgmt t fun m => { m with straps := input.straps })⟩
  | unknownCommand dt => exact ⟨_, rfl, command dt _ _ fun t _ => RolesKept.refl t⟩
  | todByteReceived dt b => exact ⟨_, rfl, (fair_todByte _ b).rolesKept.after (pass dt)⟩
  | freqOutputEdge k => exact ⟨_, rfl, roles_guarded (roles_freqEdge s k)⟩
  | halfCycleEnd k => exact ⟨_, rfl, roles_guarded (roles_fallAt s k)⟩
  | lineClockCycle dt c cycles =>
    exact ⟨_, rfl, roles_guarded ((roles_updPort _ (clientPort c) _).after (pass dt))⟩

/-- Settles O8: the four laws are what every command keeps; a step takes one command, or idles. -/
theorem stepKeepsRolesAndServo : Obligations.StepKeepsRolesAndServo := by
  intro s t h
  unfold step at h
  split at h
  · cases h
    exact ⟨id, id, id, fun _ => id⟩
  · next c rest _ =>
    obtain ⟨u, run, kept⟩ := exec_rolesKept c { s with pending := rest }
    rw [run] at h
    cases h
    have queue : RolesKept s { s with pending := rest } := RolesKept.of_aside rfl rfl rfl rfl rfl
    obtain ⟨roles, chosen, slews, entry⟩ := queue.trans kept
    exact ⟨roles, chosen, slews, entry⟩

end Sys2Proof.Machine
end

section
/-! PROOFS. What a change of servo state, of a grade and of a role leaves of the Time Engine, the Selector, the
Realignment Unit and the references, to the field. The realignment decision (O40), slew progress (O44) and the choice of
a reference (O56) rest on it. -/
namespace Sys2Proof.Machine
open Sys2Proof

/-! ## Operations that none of the four blocks sees -/

/-- The Time Engine, the Selector, the Realignment Unit and the references stay. -/
structure ChoiceKept (s t : State) : Prop where
  servo    : t.servo = s.servo
  selector : t.selector = s.selector
  realign  : t.realign = s.realign
  refs     : t.refs = s.refs

theorem ChoiceKept.refl (s : State) : ChoiceKept s s := ⟨rfl, rfl, rfl, rfl⟩

theorem ChoiceKept.trans {s t u : State} (a : ChoiceKept s t) (b : ChoiceKept t u) : ChoiceKept s u :=
  ⟨b.servo.trans a.servo, b.selector.trans a.selector, b.realign.trans a.realign, b.refs.trans a.refs⟩

theorem ChoiceKept.ite {s t u : State} {c : Prop} [Decidable c] (a : ChoiceKept s t) (b : ChoiceKept s u) :
    ChoiceKept s (if c then t else u) := by split <;> assumption

theorem ChoiceKept.foldl {α : Type} (f : State → α → State) (h : ∀ t a, ChoiceKept t (f t a)) (l : List α) (s : State) :
    ChoiceKept s (l.foldl f s) := foldl_relates ChoiceKept.refl ChoiceKept.trans h l s

theorem choice_updHold (s : State) (f : Holdover → Holdover) : ChoiceKept s (s.updHold f) := ⟨rfl, rfl, rfl, rfl⟩

theorem choice_updPin (s : State) (k : Fin 4) (f : Pin → Pin) : ChoiceKept s (s.updPin k f) := ⟨rfl, rfl, rfl, rfl⟩

theorem choice_report (s : State) (i : Fin 41) (present : Bool) : ChoiceKept s (s.report i present) :=
  ⟨rfl, rfl, rfl, rfl⟩

theorem choice_refReport (s : State) (r : Ref) : ChoiceKept s (s.refReport r) := ⟨rfl, rfl, rfl, rfl⟩

theorem choice_serveCheck (s : State) (k : Fin 6) : ChoiceKept s (s.serveCheck k) := by
  unfold State.serveCheck
  refine ChoiceKept.ite ?_ ⟨rfl, rfl, rfl, rfl⟩
  split
  · exact ChoiceKept.refl s
  · exact ChoiceKept.ite ⟨rfl, rfl, rfl, rfl⟩ ⟨rfl, rfl, rfl, rfl⟩

theorem choice_gradeMute (s : State) (k : Fin 6) : ChoiceKept s (s.gradeMute k) :=
  ChoiceKept.ite ⟨rfl, rfl, rfl, rfl⟩ (ChoiceKept.refl s)

theorem choice_deliverGrade (s : State) : ChoiceKept s s.deliverGrade :=
  ChoiceKept.foldl _ (fun t k => (choice_gradeMute t k).trans (choice_serveCheck _ k)) _ s

theorem choice_deliverSquelch (s : State) : ChoiceKept s s.deliverSquelch :=
  ChoiceKept.foldl _ (fun t k => choice_updPin t k _) _ s

theorem choice_pinsFallback (s : State) (r : Ref) : ChoiceKept s (s.pinsFallback r) :=
  ChoiceKept.foldl _ (fun t k => choice_updPin t k _) _ s

theorem choice_regrade (s : State) : ChoiceKept s s.regrade :=
  (ChoiceKept.ite (ChoiceKept.refl s)
    (((choice_updHold s _).trans (choice_deliverGrade _)).trans (choice_deliverSquelch _))).trans (choice_report _ _ _)

theorem choice_servoConditions (s : State) : ChoiceKept s s.servoConditions :=
  (choice_report s _ _).trans (choice_report _ _ _)

theorem choice_enterHoldover (s : State) (g : Nat) : ChoiceKept s (s.enterHoldover g) := by
  unfold State.enterHoldover
  split
  · exact ChoiceKept.ite ((choice_updHold s _).trans (choice_report _ _ _)) (choice_updHold s _)
  · exact choice_updHold s _

theorem choice_endHoldover (s : State) : ChoiceKept s s.endHoldover := by
  unfold State.endHoldover
  split
  · exact ChoiceKept.refl s
  · exact ChoiceKept.ite ((choice_updHold s _).trans (choice_report _ _ _)) (choice_updHold s _)

/-! ## A change of servo state (R99 to R103) -/

/-- What a change of servo state to `new` leaves: F and I too where it leads to ACQUIRING or LOCKED, and every reference
unless it leads to FREERUN (R53, R101). -/
structure ServoMoved (new : ServoState) (s t : State) : Prop where
  selector : t.selector = s.selector
  realign  : t.realign = s.realign
  refs     : new ≠ .freerun → t.refs = s.refs
  servo    : t.servo = { s.servo with
    state := t.servo.state, f := t.servo.f, i := t.servo.i, transient := t.servo.transient
    ctr := { s.servo.ctr with stateChanges := t.servo.ctr.stateChanges } }
  still    : new.tracking = true → t.servo.f = s.servo.f ∧ t.servo.i = s.servo.i

theorem ServoMoved.refl (new : ServoState) (s : State) : ServoMoved new s s :=
  ⟨rfl, rfl, fun _ => rfl, rfl, fun _ => ⟨rfl, rfl⟩⟩

theorem ServoMoved.trans {new : ServoState} {s t u : State} (a : ServoMoved new s t) (b : ServoMoved new t u) :
    ServoMoved new s u := by
  refine ⟨b.selector.trans a.selector, b.realign.trans a.realign, fun h => (b.refs h).trans (a.refs h), ?_,
    fun h => ⟨(b.still h).1.trans (a.still h).1, (b.still h).2.trans (a.still h).2⟩⟩
  have engine := b.servo
  rw [a.servo] at engine
  exact engine

theorem ServoMoved.ite {new : ServoState} {s t u : State} {c : Prop} [Decidable c] (a : c → ServoMoved new s t)
    (b : ServoMoved new s u) : ServoMoved new s (if c then t else u) := by
  split
  · next h => exact a h
  · exact b

theorem ChoiceKept.moved {s t : State} (h : ChoiceKept s t) (new : ServoState) : ServoMoved new s t :=
  ⟨h.selector, h.realign, fun _ => h.refs, by rw [h.servo], fun _ => by rw [h.servo]; exact ⟨rfl, rfl⟩⟩

theorem moved_clearTransient (new : ServoState) (s : State) : ServoMoved new s s.clearTransient :=
  ⟨rfl, rfl, fun _ => rfl, rfl, fun _ => ⟨rfl, rfl⟩⟩

theorem moved_giveHoldFreq {new : ServoState} (rests : new.tracking = false) (s : State) :
    ServoMoved new s s.giveHoldFreq := by
  cases record : s.holdover.record with
  | none => rw [State.giveHoldFreq_none record]; exact ServoMoved.refl new s
  | some r =>
    rw [State.giveHoldFreq_some record]
    exact ⟨rfl, rfl, fun _ => rfl, rfl, fun tracks => absurd (tracks.symm.trans rests) (by decide)⟩

theorem moved_holdoverChange (s : State) (prev new : ServoState) (g : Nat) :
    ServoMoved new s (s.holdoverChange prev new g) := by
  have noted (z : Option Nat) (new : ServoState) :
      ServoMoved new s (s.updHold fun x => { x with settle := none, frozen := z }) := (choice_updHold s _).moved new
  cases new with
  | freerun => exact noted _ _
  | acquiring => exact (noted _ _).trans ((ChoiceKept.ite (choice_updHold _ _) (ChoiceKept.refl _)).moved _)
  | locked => exact (noted _ _).trans ((choice_endHoldover _).moved _)
  | holdover =>
    exact (noted _ _).trans (ServoMoved.ite
      (fun _ => ((choice_enterHoldover _ g).moved _).trans (moved_giveHoldFreq rfl _))
      (ServoMoved.ite (fun _ => moved_giveHoldFreq rfl _) (ServoMoved.refl _ _)))
  | freqTrack => exact (noted _ _).trans ((ChoiceKept.ite (choice_enterHoldover _ g) (ChoiceKept.refl _)).moved _)

/-- FREQ_TRACK sets I to F (R101). -/
theorem moved_integral (new : ServoState) (s : State) :
    ServoMoved new s (if new = .freqTrack then s.updServo (fun x => { x with i := x.f }) else s) :=
  ServoMoved.ite (fun h => ⟨rfl, rfl, fun _ => rfl, rfl, fun tracks => by rw [h] at tracks; cases tracks⟩)
    (ServoMoved.refl new s)

/-- FREERUN takes TOD_MISMATCH from GNSS (R53). -/
theorem moved_mismatch (new : ServoState) (s : State) :
    ServoMoved new s (if new = .freerun then s.dropMismatch else s) :=
  ServoMoved.ite (fun h => ⟨rfl, rfl, fun no => absurd h no, rfl, fun _ => ⟨rfl, rfl⟩⟩) (ServoMoved.refl new s)

theorem moved_setServo (s : State) (new : ServoState) (g : Nat) : ServoMoved new s (s.setServo new g) := by
  have entered : ServoMoved new s (s.updServo fun x =>
      { x with state := new, ctr := { x.ctr with stateChanges := bump x.ctr.stateChanges } }) :=
    ⟨rfl, rfl, fun _ => rfl, rfl, fun _ => ⟨rfl, rfl⟩⟩
  unfold State.setServo
  dsimp only
  refine ServoMoved.ite (fun _ => ServoMoved.refl new s) ?_
  refine ServoMoved.trans ?_ (((choice_regrade _).trans (choice_servoConditions _)).moved new)
  refine ServoMoved.trans ?_ ((moved_integral new _).trans (moved_mismatch new _))
  refine ServoMoved.trans ?_ (moved_holdoverChange _ _ new g)
  exact ServoMoved.ite (fun _ => entered) (entered.trans (moved_clearTransient new _))

/-! ## A change of role (R78) -/

/-- A change of the Slew record, told to the Holdover Unit, reaches none of the other three blocks (R80, R132). -/
theorem choice_putSlew (s : State) (slew : Option Bool) : (s.putSlew slew).servo = s.servo ∧
    (s.putSlew slew).selector = s.selector ∧ (s.putSlew slew).refs = s.refs :=
  have kept := choice_regrade (s.updReal fun x => { x with slew := slew })
  ⟨kept.servo, kept.selector, kept.refs⟩

/-- The Realignment Unit's answer to a switch touches nothing of the other three blocks, nor Too Far (R86). -/
theorem realSwitched_keeps (s : State) (r : Ref) : (s.realSwitched r).servo = s.servo ∧
    (s.realSwitched r).selector = s.selector ∧ (s.realSwitched r).refs = s.refs ∧
    (s.realSwitched r).realign.ctr.tooFar = s.realign.ctr.tooFar := by
  unfold State.realSwitched
  split
  · exact ⟨rfl, rfl, rfl, rfl⟩
  · rw [State.putSlew_realign]
    obtain ⟨servo, selector, refs⟩ := choice_putSlew (s.updReal fun x =>
      { startDecision r x with ctr := { x.ctr with slewsAbandoned := bump x.ctr.slewsAbandoned } }) none
    exact ⟨servo, selector, refs, rfl⟩

/-- The same of its answer to a loss (R86). -/
theorem realLost_keeps (s : State) (r : Ref) : (s.realLost r).servo = s.servo ∧
    (s.realLost r).selector = s.selector ∧ (s.realLost r).refs = s.refs ∧
    (s.realLost r).realign.ctr.tooFar = s.realign.ctr.tooFar := by
  unfold State.realLost
  split
  · exact ⟨rfl, rfl, rfl, rfl⟩
  · next held slewing =>
    rw [State.putSlew_realign]
    obtain ⟨servo, selector, refs⟩ := choice_putSlew (s.updReal fun x =>
      { endDecision x with
        suspended := some ⟨r, x.b, s.res, held⟩
        ctr := { x.ctr with slewsSuspended := bump x.ctr.slewsSuspended } }) none
    exact ⟨servo, selector, refs, rfl⟩

/-- Two counters that no change of role moves: Missing Samples and Too Far. -/
structure CountsKept (s t : State) : Prop where
  missing : t.servo.ctr.missingSamples = s.servo.ctr.missingSamples
  tooFar  : t.realign.ctr.tooFar = s.realign.ctr.tooFar

theorem CountsKept.refl (s : State) : CountsKept s s := ⟨rfl, rfl⟩

theorem CountsKept.trans {s t u : State} (a : CountsKept s t) (b : CountsKept t u) : CountsKept s u :=
  ⟨b.missing.trans a.missing, b.tooFar.trans a.tooFar⟩

theorem CountsKept.ite {s t u : State} {c : Prop} [Decidable c] (a : CountsKept s t) (b : CountsKept s u) :
    CountsKept s (if c then t else u) := by split <;> assumption

theorem ChoiceKept.counts {s t : State} (h : ChoiceKept s t) : CountsKept s t :=
  ⟨by rw [h.servo], by rw [h.realign]⟩

theorem ServoMoved.counts {new : ServoState} {s t : State} (h : ServoMoved new s t) : CountsKept s t :=
  ⟨by rw [h.servo], by rw [h.realign]⟩

/-- The Selector with Phase Selected changed (R78). -/
def State.phaseNow (s : State) (new : Option Ref) : State :=
  s.updSel fun x => { x with phase := new, ctr := { x.ctr with phaseChanges := bump x.ctr.phaseChanges } }

/-- The Selector with Frequency Selected changed (R78). -/
def State.freqNow (s : State) (new : Option Ref) : State :=
  s.updSel fun x => { x with freq := new, ctr := { x.ctr with frequencyChanges := bump x.ctr.frequencyChanges } }

theorem applyPhase_same {s : State} {new : Option Ref} (same : new = s.selector.phase) (g : Nat) :
    s.applyPhase new g = s := by
  unfold State.applyPhase
  subst same
  cases s.selector.phase with
  | none => rfl
  | some r => exact if_pos rfl

theorem applyPhase_gained {s : State} (before : s.selector.phase = none) (r : Ref) (g : Nat) :
    s.applyPhase (some r) g = ((s.phaseNow (some r)).servoPhaseGained g).realGained r := by
  unfold State.applyPhase
  rw [before]
  rfl

theorem applyPhase_lost {s : State} {r : Ref} (before : s.selector.phase = some r) (g : Nat) :
    s.applyPhase none g = ((s.phaseNow none).servoPhaseLost g).realLost r := by
  unfold State.applyPhase
  rw [before]
  rfl

theorem applyPhase_switched {s : State} {old r : Ref} (before : s.selector.phase = some old) (changed : old ≠ r)
    (g : Nat) : s.applyPhase (some r) g = ((s.phaseNow (some r)).servoPhaseSwitched).realSwitched r := by
  unfold State.applyPhase
  rw [before]
  exact if_neg changed

/-- A change of role in the Selector and in the two counters; the references stay where it cannot lead to FREERUN. -/
structure RoleApplied (s t : State) (after : Selector) (awake : Prop) : Prop where
  selector : t.selector = after
  counts   : CountsKept s t
  refs     : awake → t.refs = s.refs

/-- The Selector once Phase Selected is `new`. -/
def Selector.withPhase (new : Option Ref) (x : Selector) : Selector :=
  { x with
    phase := new
    ctr := { x.ctr with phaseChanges := if new = x.phase then x.ctr.phaseChanges else bump x.ctr.phaseChanges } }

/-- The Selector once Frequency Selected is `new`. -/
def Selector.withFreq (new : Option Ref) (x : Selector) : Selector :=
  { x with
    freq := new
    ctr := { x.ctr with
      frequencyChanges := if new = x.freq then x.ctr.frequencyChanges else bump x.ctr.frequencyChanges } }

theorem Selector.withPhase_same (x : Selector) : x.withPhase x.phase = x := by
  unfold Selector.withPhase
  rw [if_pos rfl]

theorem Selector.withFreq_same (x : Selector) : x.withFreq x.freq = x := by
  unfold Selector.withFreq
  rw [if_pos rfl]

theorem phaseNow_selector {s : State} {new : Option Ref} (changed : new ≠ s.selector.phase) :
    (s.phaseNow new).selector = s.selector.withPhase new := by
  unfold Selector.withPhase
  rw [if_neg changed]
  rfl

theorem freqNow_selector {s : State} {new : Option Ref} (changed : new ≠ s.selector.freq) :
    (s.freqNow new).selector = s.selector.withFreq new := by
  unfold Selector.withFreq
  rw [if_neg changed]
  rfl

/-- A phase role that is given, or lost beside a frequency reference, does not lead to FREERUN (R101). -/
theorem applyPhase_applied (s : State) (new : Option Ref) (g : Nat) :
    RoleApplied s (s.applyPhase new g) (s.selector.withPhase new) (new.isSome ∨ s.selector.freq.isSome) := by
  by_cases same : new = s.selector.phase
  · rw [applyPhase_same same, same, Selector.withPhase_same]
    exact ⟨rfl, CountsKept.refl s, fun _ => rfl⟩
  · rw [← phaseNow_selector same]
    cases new with
    | none =>
      obtain ⟨r, before⟩ := Option.ne_none_iff_exists'.1 (Ne.symm same)
      rw [applyPhase_lost before]
      obtain ⟨-, selector, refs, tooFar⟩ := realLost_keeps ((s.phaseNow none).servoPhaseLost g) r
      obtain ⟨servo, -⟩ := realLost_keeps ((s.phaseNow none).servoPhaseLost g) r
      have moved := moved_setServo ((s.phaseNow none).updServo fun x => { x.clearRuns with acqFromHold := none })
        (if s.selector.freq.isSome then .freqTrack else s.servo.restState) g
      refine ⟨selector.trans moved.selector, ⟨?_, tooFar.trans moved.counts.tooFar⟩, fun awake => ?_⟩
      · rw [servo]
        exact moved.counts.missing
      · have other : s.selector.freq.isSome = true := awake.resolve_left (by simp)
        exact refs.trans (moved.refs (by rw [if_pos other]; decide))
    | some r =>
      cases before : s.selector.phase with
      | none =>
        rw [applyPhase_gained before]
        have moved := moved_setServo ((s.phaseNow (some r)).updServo fun x =>
          { x.clearRuns with acqFromHold := some (holdoverState x.state x.phaseValid) }) .acquiring g
        exact ⟨moved.selector, ⟨moved.counts.missing, moved.counts.tooFar⟩, fun _ => moved.refs (by decide)⟩
      | some old =>
        rw [applyPhase_switched before fun e => same (by rw [before, e])]
        obtain ⟨servo, selector, refs, tooFar⟩ := realSwitched_keeps (s.phaseNow (some r)).servoPhaseSwitched r
        exact ⟨selector, ⟨by rw [servo]; rfl, tooFar⟩, fun _ => refs⟩

theorem applyFreq_same {s : State} {new : Option Ref} (same : new = s.selector.freq) (g : Nat) :
    s.applyFreq new g = s := by
  unfold State.applyFreq
  subst same
  cases s.selector.freq with
  | none => rfl
  | some r => exact if_pos rfl

theorem applyFreq_gained {s : State} (before : s.selector.freq = none) (r : Ref) (g : Nat) :
    s.applyFreq (some r) g = (s.freqNow (some r)).servoFreqGained g := by
  unfold State.applyFreq
  rw [before]
  rfl

theorem applyFreq_lost {s : State} {r : Ref} (before : s.selector.freq = some r) (g : Nat) :
    s.applyFreq none g = (s.freqNow none).servoFreqLost g := by
  unfold State.applyFreq
  rw [before]
  rfl

theorem applyFreq_switched {s : State} {old r : Ref} (before : s.selector.freq = some old) (changed : old ≠ r)
    (g : Nat) : s.applyFreq (some r) g = (s.freqNow (some r)).servoFreqSwitched := by
  unfold State.applyFreq
  rw [before]
  exact if_neg changed

theorem moved_servoFreqGained (s : State) (g : Nat) : ServoMoved .freqTrack s (s.servoFreqGained g) := by
  unfold State.servoFreqGained
  split
  · exact moved_setServo s _ g
  · exact moved_setServo s _ g
  all_goals exact ServoMoved.refl _ s

theorem moved_servoFreqLost (s : State) (g : Nat) : ServoMoved s.servo.restState s (s.servoFreqLost g) := by
  unfold State.servoFreqLost
  split
  · exact moved_setServo s _ g
  all_goals exact ServoMoved.refl _ s

/-- Beside a selected phase reference the loss of the frequency role leaves the servo state (R102). -/
theorem servoFreqLost_tracking {s : State} (tracks : s.servo.state.tracking = true) (g : Nat) :
    s.servoFreqLost g = s := by
  unfold State.servoFreqLost
  split
  · next follows => rw [follows] at tracks; cases tracks
  all_goals rfl

/-- A frequency role that is given, or lost in ACQUIRING or LOCKED, does not lead to FREERUN (R102). -/
theorem applyFreq_applied (s : State) (new : Option Ref) (g : Nat) :
    RoleApplied s (s.applyFreq new g) (s.selector.withFreq new) (new.isSome ∨ s.servo.state.tracking = true) := by
  by_cases same : new = s.selector.freq
  · rw [applyFreq_same same, same, Selector.withFreq_same]
    exact ⟨rfl, CountsKept.refl s, fun _ => rfl⟩
  · rw [← freqNow_selector same]
    cases new with
    | none =>
      obtain ⟨r, before⟩ := Option.ne_none_iff_exists'.1 (Ne.symm same)
      rw [applyFreq_lost before]
      have moved := moved_servoFreqLost (s.freqNow none) g
      refine ⟨moved.selector, ⟨moved.counts.missing, moved.counts.tooFar⟩, fun awake => ?_⟩
      rw [servoFreqLost_tracking (s := s.freqNow none) (awake.resolve_left (by simp))]
      rfl
    | some r =>
      cases before : s.selector.freq with
      | none =>
        rw [applyFreq_gained before]
        have moved := moved_servoFreqGained (s.freqNow (some r)) g
        exact ⟨moved.selector, ⟨moved.counts.missing, moved.counts.tooFar⟩, fun _ => moved.refs (by decide)⟩
      | some old =>
        rw [applyFreq_switched before fun e => same (by rw [before, e])]
        exact ⟨rfl, ⟨rfl, rfl⟩, fun _ => rfl⟩

/-! ## Both roles (R73) -/

theorem RoleApplied.trans {s t u : State} {x y : Selector} {a b : Prop} (first : RoleApplied s t x a)
    (then' : RoleApplied t u y b) : RoleApplied s u y (a ∧ b) :=
  ⟨then'.selector, first.counts.trans then'.counts, fun h => (then'.refs h.2).trans (first.refs h.1)⟩

/-- A change of role after an operation on the Selector alone. -/
theorem RoleApplied.ofSelector {s t u : State} {x : Selector} {a b : Prop} (applied : RoleApplied t u x a)
    (counts : CountsKept s t) (refs : t.refs = s.refs) (awake : b → a) : RoleApplied s u x b :=
  ⟨applied.selector, counts.trans applied.counts, fun h => (applied.refs (awake h)).trans refs⟩

/-- The Selector with the Forced fields and the lapsed forces of an evaluation of both roles. -/
def Selector.withForces (p f : RoleResult) (x : Selector) : Selector :=
  { x with
    phaseForced := p.forced
    freqForced := f.forced
    ctr := { x.ctr with
      forcesLapsed := bumpBy ((if p.lapsed then 1 else 0) + (if f.lapsed then 1 else 0)) x.ctr.forcesLapsed } }

/-- A selected phase reference stands in ACQUIRING or LOCKED (R99). -/
theorem rolesMatch_tracking {s : State} (matched : s.rolesMatch) (given : s.selector.phase.isSome = true) :
    s.servo.state.tracking = true := by
  unfold State.rolesMatch at matched
  cases state : s.servo.state with
  | acquiring => rfl
  | locked => rfl
  | _ =>
    rw [state] at matched
    rw [matched.1] at given
    cases given

/-- A change of both roles that cannot lead to FREERUN: the frequency role stays given, or the phase role does in a
state that matches the roles. -/
def State.staysAwake (s : State) (p f : Option Ref) : Prop :=
  (s.selector.freq.isSome = true ∧ f.isSome = true) ∨
    (s.rolesMatch ∧ s.selector.phase.isSome = true ∧ p.isSome = true)

theorem phaseThenFreq_applied (s : State) (p f : Option Ref) (g : Nat) :
    RoleApplied s ((s.applyPhase p g).applyFreq f g) ((s.selector.withPhase p).withFreq f) (s.staysAwake p f) := by
  have first := applyPhase_applied s p g
  have second := applyFreq_applied (s.applyPhase p g) f g
  obtain ⟨-, selected, -, -, matches', -, -⟩ := applyPhase_spec s p g
  rw [first.selector] at second
  refine ⟨(first.trans second).selector, (first.trans second).counts, fun awake => (first.trans second).refs ?_⟩
  rcases awake with ⟨before, after⟩ | ⟨matched, -, after⟩
  · exact ⟨Or.inr before, Or.inl after⟩
  · exact ⟨Or.inl after, Or.inr (rolesMatch_tracking (matches' matched) (by rw [selected]; exact after))⟩

theorem freqThenPhase_applied (s : State) (p f : Option Ref) (g : Nat) :
    RoleApplied s ((s.applyFreq f g).applyPhase p g) ((s.selector.withPhase p).withFreq f) (s.staysAwake p f) := by
  have first := applyFreq_applied s f g
  have second := applyPhase_applied (s.applyFreq f g) p g
  obtain ⟨-, selected, -, -, -, -, -⟩ := applyFreq_spec s f g
  rw [first.selector] at second
  refine ⟨(first.trans second).selector, (first.trans second).counts, fun awake => (first.trans second).refs ?_⟩
  rcases awake with ⟨-, after⟩ | ⟨matched, before, after⟩
  · exact ⟨Or.inl after, Or.inr after⟩
  · exact ⟨Or.inr (rolesMatch_tracking matched before), Or.inl after⟩

/-- Both roles given what they were evaluated to. -/
theorem applyRoles_applied (s : State) (p f : RoleResult) :
    RoleApplied s (s.applyRoles p f) (((s.selector.withForces p f).withPhase p.selected).withFreq f.selected)
      (s.staysAwake p.selected f.selected) := by
  unfold State.applyRoles
  dsimp only
  split
  · split
    · exact (freqThenPhase_applied _ _ _ _).ofSelector ⟨rfl, rfl⟩ rfl id
    · exact (phaseThenFreq_applied _ _ _ _).ofSelector ⟨rfl, rfl⟩ rfl id
  · exact (phaseThenFreq_applied _ _ _ _).ofSelector ⟨rfl, rfl⟩ rfl id

/-- A re-evaluation of both roles, before what an entry to FREERUN does to GNSS. -/
theorem reevaluateRoles_applied (s : State) :
    RoleApplied s s.reevaluateRoles
      (((s.selector.withForces s.evalPhase s.evalFreq).withPhase s.evalPhase.selected).withFreq s.evalFreq.selected)
      (s.staysAwake s.evalPhase.selected s.evalFreq.selected) := applyRoles_applied s _ _

/-! ## The two counters through a judgement -/

theorem counts_reactWith {reeval : State → State} (h : ∀ t, CountsKept t (reeval t)) (s : State) (r : Ref)
    (was : List Defect) : CountsKept s (s.reactWith reeval r was) := by
  have reacted : CountsKept s (s.updRef r fun _ => (s.ref r).react s.res was) := ⟨rfl, rfl⟩
  unfold State.reactWith State.announceWith
  dsimp only
  refine CountsKept.ite ?_ (CountsKept.ite (reacted.trans (choice_refReport _ r).counts) reacted)
  exact (reacted.trans (choice_refReport _ r).counts).trans ((h _).trans (choice_pinsFallback _ r).counts)

theorem counts_reevaluate (s : State) : CountsKept s s.reevaluate :=
  have roles : ∀ t : State, CountsKept t t.reevaluateRoles := fun t => (reevaluateRoles_applied t).counts
  (roles s).trans (CountsKept.ite (CountsKept.refl _) (counts_reactWith roles _ .gnss _))

/-- A changed defect set, with every re-evaluation that follows from it, leaves Missing Samples and Too Far. -/
theorem counts_setDefects (s : State) (r : Ref) (f : List Defect → List Defect) : CountsKept s (s.setDefects r f) := by
  unfold State.setDefects State.judge
  dsimp only
  refine CountsKept.ite (CountsKept.refl s) ?_
  have updated : ∀ g : Reference → Reference, CountsKept s (s.updRef r g) := fun _ => ⟨rfl, rfl⟩
  have judged : ∀ (ds : List Defect) (g : Reference → Reference), CountsKept s (if ds = (s.ref r).defects then
      s.updRef r g else (s.updRef r g).reactWith State.reevaluate r (s.ref r).defects) := fun ds g =>
    CountsKept.ite (updated g) ((updated g).trans (counts_reactWith counts_reevaluate _ r _))
  exact CountsKept.ite ((judged _ _).trans (counts_reevaluate _)) (judged _ _)

end Sys2Proof.Machine
end

section
/-! PROOFS. A slew held and released (O57); a slew that moves, a Suspended Slew record that expires, and the written
Realignment Parameters (O44). -/
namespace Sys2Proof.Machine
open Sys2Proof

/-! ## Held (R85) -/

/-- The relay after SLEW_HOLD or SLEW_RELEASE: Held moves on a present Slew record that has it the other way (R85). -/
def State.slewHeld (s : State) (held : Bool) : State :=
  if s.realign.slew = some (!held) then { s with realign := { s.realign with slew := some held } } else s

theorem updReal_held (s : State) (held : Bool) :
    (s.updReal fun x => { x with slew := x.slew.map fun _ => held }) = s.slewHeld held := by
  unfold State.slewHeld
  split
  · next other =>
    show ({ s with realign := { s.realign with slew := s.realign.slew.map fun _ => held } } : State) = _
    rw [other]
    rfl
  · next same =>
    have stays : s.realign.slew.map (fun _ => held) = s.realign.slew := by
      cases present : s.realign.slew with
      | none => rfl
      | some flag =>
        rw [present] at same
        have : flag = held := by simpa [Bool.eq_not] using same
        exact congrArg some this.symm
    show ({ s with realign := { s.realign with slew := s.realign.slew.map fun _ => held } } : State) = s
    rw [stays]

theorem runHold_eq (held : Bool) (s : State) (c : Command) :
    runHold held s c = { state := s.slewHeld held, status := 0, results := [] } :=
  congrArg done (updReal_held s held)

/-- A loss suspends a Slew record with the B it had, its age at 0 and its Held flag (R86). -/
theorem realLost_suspended {s : State} {held : Bool} (slewing : s.realign.slew = some held) (r : Ref) :
    (s.realLost r).realign.suspended = some ⟨r, s.realign.b, s.res, held⟩ := by
  unfold State.realLost
  rw [slewing]
  dsimp only
  rw [State.putSlew_realign]
  rfl

/-- Settles O57. -/
theorem slewHoldAndRelease : Obligations.SlewHoldAndRelease := by
  refine ⟨?_, fun s r held slewing => realLost_suspended slewing r, fun s u => ?_, fun s held => ?_⟩
  · intro s dt c rest head v after
    refine ⟨fun type => ⟨_, rfl, ?_⟩, fun type => ⟨_, rfl, ?_⟩⟩
    · exact State.complete_answered s dt _ _ c rest head (decide_eq_true type) _ _ _ (runHold_eq true v c)
    · exact State.complete_answered s dt _ _ c rest head (decide_eq_true type) _ _ _ (runHold_eq false v c)
  · exact congrArg Realign.slew (State.putSlew_realign _ (some u.held))
  · exact slewProgress_still (by rw [held]; decide)

/-! ## A Suspended Slew record that expires (R87) -/

theorem expireSuspended_some {s : State} {u : Suspended} (record : s.realign.suspended = some u) :
    s.expireSuspended = s.updReal fun x =>
      { x with suspended := none, ctr := { x.ctr with suspendedExpired := bump x.ctr.suspendedExpired } } := by
  unfold State.expireSuspended
  rw [record]

theorem exec_suspendedSlewExpires_none {s : State} (free : s.realign.suspended = none) :
    exec .suspendedSlewExpires s = .next s := by
  show execSuspendedSlewExpires s = _
  unfold execSuspendedSlewExpires
  rw [free]

theorem exec_suspendedSlewExpires_some {s : State} {u : Suspended} (record : s.realign.suspended = some u) :
    exec .suspendedSlewExpires s = .next (s.atInstant
      (s.reachRes (u.at' + s.realign.params.resumeWindow * secUnits)) State.expireSuspended) := by
  show execSuspendedSlewExpires s = _
  unfold execSuspendedSlewExpires
  rw [record]

/-! ## Written Realignment Parameters (R79, R196) -/

/-- The relay once Realignment Parameters have been stored. -/
def State.realignWritten (s : State) (p : RealignParams) : State :=
  let s1 := s.updReal fun x => { x with params := p }
  let s2 := if p.maxOffset = s.realign.params.maxOffset then s1 else s1.updReal (writeMaxOffset p.maxOffset)
  if p.resumeWindow = s.realign.params.resumeWindow then s2 else s2.suspendedCheck

/-- A phase under the Max Offset of new parameters: clamped where they change it (R79). -/
def RealignParams.clamped (old new : RealignParams) (b : Int) : Int :=
  if new.maxOffset = old.maxOffset then b else heldMag new.maxOffset b

/-- The Realignment Unit with new parameters, before a Suspended Slew record is looked at. -/
def Realign.rewritten (p : RealignParams) (x : Realign) : Realign :=
  { x with
    params := p, b := x.params.clamped p x.b
    suspended := x.suspended.map fun y => { y with b := x.params.clamped p y.b } }

theorem realignWritten_eq (s : State) (p : RealignParams) : s.realignWritten p =
    if p.resumeWindow = s.realign.params.resumeWindow then s.updReal (Realign.rewritten p)
    else (s.updReal (Realign.rewritten p)).suspendedCheck := by
  have stored : (if p.maxOffset = s.realign.params.maxOffset then s.updReal fun x => { x with params := p }
      else (s.updReal fun x => { x with params := p }).updReal (writeMaxOffset p.maxOffset)) =
      s.updReal (Realign.rewritten p) := by
    split
    · next same =>
      have unclamped : s.realign.params.clamped p = id := funext fun b => if_pos same
      unfold State.updReal Realign.rewritten
      rw [unclamped]
      exact congrArg (fun u => ({ s with realign := { s.realign with params := p, suspended := u } } : State))
        (Option.map_id' (x := s.realign.suspended)).symm
    · next changed =>
      have clamps : s.realign.params.clamped p = heldMag p.maxOffset := funext fun b => if_neg changed
      unfold State.updReal Realign.rewritten
      rw [clamps]
      rfl
  unfold State.realignWritten
  dsimp only
  rw [stored]

theorem suspendedCheck_stays {s : State}
    (young : ∀ u, s.realign.suspended = some u → u.age s.res < s.realign.params.resumeWindow * secUnits) :
    s.suspendedCheck = s := by
  unfold State.suspendedCheck
  split
  · rfl
  · next u record => exact if_neg (Nat.not_le.2 (young u record))

theorem suspendedCheck_expires {s : State} {u : Suspended} (record : s.realign.suspended = some u)
    (old : s.realign.params.resumeWindow * secUnits ≤ u.age s.res) : s.suspendedCheck = s.expireSuspended := by
  unfold State.suspendedCheck
  rw [record]
  exact if_pos old

/-- A changed Resume Window that the age of a record has reached removes it (R79, R87). -/
theorem realignWritten_expires {s : State} {p : RealignParams} {y : Suspended} (record : s.realign.suspended = some y)
    (changed : p.resumeWindow ≠ s.realign.params.resumeWindow)
    (reached : p.resumeWindow * secUnits ≤ s.clock.residence - y.at') : s.realignWritten p =
      { s with realign := { s.realign with
        params := p, b := s.realign.params.clamped p s.realign.b, suspended := none
        ctr := { s.realign.ctr with suspendedExpired := bump s.realign.ctr.suspendedExpired } } } := by
  have stored : (s.updReal (Realign.rewritten p)).realign.suspended =
      some { y with b := s.realign.params.clamped p y.b } := by
    show s.realign.suspended.map _ = _
    rw [record]
    rfl
  rw [realignWritten_eq, if_neg changed, suspendedCheck_expires stored reached, expireSuspended_some stored]
  rfl

/-- Otherwise a record stays, its B clamped as the running one (R79). -/
theorem realignWritten_stays {s : State} {p : RealignParams}
    (stays : ∀ y, s.realign.suspended = some y → ¬ (p.resumeWindow ≠ s.realign.params.resumeWindow ∧
      p.resumeWindow * secUnits ≤ s.clock.residence - y.at')) :
    s.realignWritten p = s.updReal (Realign.rewritten p) := by
  rw [realignWritten_eq]
  split
  · rfl
  · next changed =>
    refine suspendedCheck_stays fun u record => ?_
    obtain ⟨y, old, rfl⟩ := Option.map_eq_some_iff.1 (show s.realign.suspended.map _ = some u from record)
    exact Nat.not_le.1 fun reached => stays y old ⟨changed, reached⟩

section
variable (policy : StepPolicy) (threshold maxOff rate window tolerance : Int)

/-- The parameters that the fields of a PUT store, numbers clamped to their ranges (R79). -/
def writtenRealignParams : RealignParams :=
  { stepPolicy := policy, stepThreshold := held 100 1000000000 threshold, maxOffset := held 1000 1000000000 maxOff
    slewRate := held 1 1000 rate, resumeWindow := held 1 86400 window, resumeTolerance := held 10 100000 tolerance }

/-- The fields of the Realignment Parameters as a PUT carries them (11). -/
def realignFields : List Byte :=
  encIn stepPolicies policy ++ encNum threshold ++ encNum maxOff ++ encNum rate ++ encNum window ++ encNum tolerance

theorem realignFields_length : (realignFields policy threshold maxOff rate window tolerance).length = 41 := by
  unfold realignFields
  simp only [List.length_append, encNum_length]
  rfl

variable {threshold maxOff rate window tolerance}

theorem takeRealignParams_fields (fitThreshold : isField threshold) (fitMaxOff : isField maxOff)
    (fitRate : isField rate) (fitWindow : isField window) (fitTolerance : isField tolerance) :
    readWhole takeRealignParams (realignFields policy threshold maxOff rate window tolerance) =
      some (writtenRealignParams policy threshold maxOff rate window tolerance,
        outside 100 1000000000 threshold || outside 1000 1000000000 maxOff || outside 1 1000 rate ||
          outside 1 86400 window || outside 10 100000 tolerance) := by
  have known : policy ∈ stepPolicies := by cases policy <;> decide
  have last := takeNum_encNum tolerance fitTolerance []
  rw [List.append_nil] at last
  unfold readWhole realignFields
  simp only [List.append_assoc]
  rw [show takeRealignParams _ = some _ from
    read_then (takeIn_encIn _ _ known (by decide) _) <| read_then (takeNum_encNum _ fitThreshold _) <|
    read_then (takeNum_encNum _ fitMaxOff _) <| read_then (takeNum_encNum _ fitRate _) <|
    read_then (takeNum_encNum _ fitWindow _) <| read_then last rfl]
  rfl

end

theorem putEntry_realign {s : State} {p : Port} {bs : List Byte} {params : RealignParams} {adjusted : Bool}
    (decoded : readWhole takeRealignParams bs = some (params, adjusted)) :
    s.putEntry p 9 0 bs = .written (s.realignWritten params) adjusted := by
  show s.putRealign bs = _
  unfold State.putRealign
  rw [decoded]
  rfl

/-- Settles O44: the two cases of slew progress, the expiry, and the write by what becomes of a record. -/
theorem slewMovesAndExpires : Obligations.SlewMovesAndExpires := by
  refine ⟨fun s => ⟨fun still => slewProgress_still still, fun slewing => ?_,
    fun free => exec_suspendedSlewExpires_none free, ?_⟩, ?_⟩
  · rcases Nat.lt_or_ge s.realign.params.slewRate s.realign.b.natAbs with more | done
    · rw [slewProgress_more slewing more]
      refine ⟨(down_updReal s _).kept, rfl, rfl, fun done => absurd more (Nat.not_lt.2 done), fun _ => ⟨?_, rfl⟩⟩
      rw [(slewMove_more more).1]
      rfl
    · rw [slewProgress_done slewing done]
      obtain ⟨servo, selector, -⟩ := choice_putSlew (s.updReal fun x =>
        { x with b := 0, ctr := { x.ctr with slewsCompleted := bump x.ctr.slewsCompleted } }) none
      exact ⟨((down_updReal s _).trans (down_putSlew _ none)).kept, selector, servo,
        fun _ => State.putSlew_realign _ none, fun more => absurd more (Nat.not_lt.2 done)⟩
  · intro u record d can
    obtain ⟨k, advance, acts⟩ := State.atInstant_reached can
    have expired := expireSuspended_some (s := s.arrive k) record
    refine ⟨(s.arrive k).expireSuspended, by rw [exec_suspendedSlewExpires_some record, acts], ?_, ?_⟩
    · rw [expired]
      exact advance
    · rw [expired]
      rfl
  · intro s dt c policy threshold maxOff rate window tolerance fitThreshold fitMaxOff fitRate fitWindow fitTolerance
      puts v x p exact' clamped gone
    have decoded := takeRealignParams_fields policy fitThreshold fitMaxOff fitRate fitWindow fitTolerance
    obtain ⟨t, run, stored⟩ := put_written s dt c 9 0 (realignFields policy threshold maxOff rate window tolerance)
      (v.realignWritten p) _ exact' puts (by decide) (by decide) (show 0 < 1 from by decide)
      (by decide) (by rw [realignFields_length]; decide) (putEntry_realign decoded) (by
        simp only [Bool.or_eq_true, outside_iff, exact', not_and_or, or_assoc])
    exact ⟨v.realignWritten p, t, run, stored, fun y record left => realignWritten_expires record left.1 left.2,
      fun stays => realignWritten_stays stays⟩

end Sys2Proof.Machine
end

section
/-! PROOFS. The four cases of the realignment decision (O40): each as an equation of the operation it comes to, with what
the loop input, its absence and the Time Step leave. -/
namespace Sys2Proof.Machine
open Sys2Proof

/-! ## The loop input of a boundary (R104, R105) -/

theorem tracking_iff (x : ServoState) : x.tracking = true ↔ x = .acquiring ∨ x = .locked := by cases x <;> decide

/-- F, I and Last e_loop stay, and the Realignment Unit. -/
structure LoopKept (s t : State) : Prop where
  f       : t.servo.f = s.servo.f
  i       : t.servo.i = s.servo.i
  last    : t.servo.lastLoop = s.servo.lastLoop
  realign : t.realign = s.realign

theorem LoopKept.refl (s : State) : LoopKept s s := ⟨rfl, rfl, rfl, rfl⟩

theorem LoopKept.trans {s t u : State} (a : LoopKept s t) (b : LoopKept t u) : LoopKept s u :=
  ⟨b.f.trans a.f, b.i.trans a.i, b.last.trans a.last, b.realign.trans a.realign⟩

theorem LoopKept.ite {s t u : State} {c : Prop} [Decidable c] (a : LoopKept s t) (b : LoopKept s u) :
    LoopKept s (if c then t else u) := by split <;> assumption

theorem ServoMoved.loop {new : ServoState} {s t : State} (h : ServoMoved new s t) (tracks : new.tracking = true) :
    LoopKept s t := ⟨(h.still tracks).1, (h.still tracks).2, by rw [h.servo], h.realign⟩

theorem loop_enterLocked (s : State) (g : Nat) : LoopKept s (s.enterLocked g) := by
  unfold State.enterLocked
  refine LoopKept.trans ?_ ((moved_setServo _ .locked g).loop rfl)
  exact ⟨rfl, rfl, rfl, rfl⟩

theorem loop_leaveLocked (s : State) (g : Nat) : LoopKept s (s.leaveLocked g) := by
  unfold State.leaveLocked
  refine LoopKept.trans ?_ ((moved_setServo _ .acquiring g).loop rfl)
  exact ⟨rfl, rfl, rfl, rfl⟩

theorem loop_takeLock (s : State) : LoopKept s s.takeLock := LoopKept.ite (loop_enterLocked s _) (LoopKept.refl s)

theorem loop_takeUnlock (s : State) : LoopKept s s.takeUnlock := LoopKept.ite (loop_leaveLocked s _) (LoopKept.refl s)

theorem loop_countRuns (s : State) (e : Int) : LoopKept s (s.updServo (Servo.countRuns e)) := by
  have runs : ∀ x : Servo,
      (x.countRuns e).f = x.f ∧ (x.countRuns e).i = x.i ∧ (x.countRuns e).lastLoop = x.lastLoop := by
    intro x
    unfold Servo.countRuns
    split <;> exact ⟨rfl, rfl, rfl⟩
  obtain ⟨f, i, last⟩ := runs s.servo
  exact ⟨f, i, last, rfl⟩

/-- The lock runs, PHASE_TRANSIENT and a lock or unlock leave what the loop run gave (R106 to R110). -/
theorem loop_loopInput (s : State) (e : Int) : LoopKept (s.updServo (Servo.loop e)) (s.loopInput e) := by
  have told : ∀ t : State, LoopKept t (if s.servo.clamps e then t.raiseTransient else t.clearTransient) := fun t =>
    LoopKept.ite ⟨rfl, rfl, rfl, rfl⟩ ⟨rfl, rfl, rfl, rfl⟩
  have counted := (told (s.updServo (Servo.loop e))).trans (loop_countRuns _ e)
  unfold State.loopInput
  exact LoopKept.ite counted (LoopKept.ite (counted.trans (loop_takeLock _)) (counted.trans (loop_takeUnlock _)))

theorem giveInput_realign (s : State) (e : Int) : (s.giveInput e).realign = s.realign := by
  unfold State.giveInput
  split
  · exact (loop_loopInput s e).realign
  · rfl

/-- Outside ACQUIRING and LOCKED a loop input goes nowhere (R104). -/
theorem giveInput_resting {s : State} (rests : ¬ (s.servo.state = .acquiring ∨ s.servo.state = .locked)) (e : Int) :
    s.giveInput e = s := if_neg fun tracks => rests ((tracking_iff _).1 tracks)

/-- In ACQUIRING and LOCKED the loop runs on it (R104, R106 to R108). -/
theorem giveInput_tracking {s : State} (follows : s.servo.state = .acquiring ∨ s.servo.state = .locked) (e : Int) :
    (s.giveInput e).servo.f = (s.servo.loop e).f ∧ (s.giveInput e).servo.i = (s.servo.loop e).i ∧
      (s.giveInput e).servo.lastLoop = some ⟨e, decide (s.servo.params.phaseClamp < e.natAbs)⟩ := by
  unfold State.giveInput
  rw [if_pos ((tracking_iff _).2 follows)]
  have kept := loop_loopInput s e
  exact ⟨kept.f, kept.i, kept.last⟩

/-- A boundary without a loop input moves Missing Samples and PHASE_TRANSIENT alone (R105, R106). -/
theorem noInput_servo (s : State) : s.noInput.servo = { s.servo with
    transient := s.noInput.servo.transient
    ctr := { s.servo.ctr with missingSamples := s.noInput.servo.ctr.missingSamples } } := by
  unfold State.noInput
  split <;> rfl

theorem noInput_missing {s : State} (follows : s.servo.state = .acquiring ∨ s.servo.state = .locked) :
    s.noInput.servo.ctr.missingSamples = bump s.servo.ctr.missingSamples := by
  unfold State.noInput
  rw [if_pos ((tracking_iff _).2 follows)]
  rfl

theorem noInput_aside (s : State) : s.noInput.realign = s.realign ∧ s.noInput.clock = s.clock ∧
    s.noInput.refs = s.refs := by
  unfold State.noInput
  split <;> exact ⟨rfl, rfl, rfl⟩

/-! ## A Time Step (R93) -/

/-- The clocks, the Time Engine and the Realignment Unit stay. -/
structure StepKept (s t : State) : Prop where
  clock   : t.clock = s.clock
  servo   : t.servo = s.servo
  realign : t.realign = s.realign

theorem StepKept.refl (s : State) : StepKept s s := ⟨rfl, rfl, rfl⟩

theorem StepKept.trans {s t u : State} (a : StepKept s t) (b : StepKept t u) : StepKept s u :=
  ⟨b.clock.trans a.clock, b.servo.trans a.servo, b.realign.trans a.realign⟩

theorem StepKept.ite {s t u : State} {c : Prop} [Decidable c] (a : StepKept s t) (b : StepKept s u) :
    StepKept s (if c then t else u) := by split <;> assumption

theorem StepKept.foldl {α : Type} (f : State → α → State) (h : ∀ t a, StepKept t (f t a)) (l : List α) (s : State) :
    StepKept s (l.foldl f s) := foldl_relates StepKept.refl StepKept.trans h l s

theorem discardSuspended_none {s : State} (free : s.realign.suspended = none) : s.discardSuspended = s := by
  unfold State.discardSuspended
  rw [free]

theorem discardSuspended_some {s : State} {u : Suspended} (record : s.realign.suspended = some u) :
    s.discardSuspended = s.updReal fun x =>
      { x with suspended := none, ctr := { x.ctr with suspendedDiscarded := bump x.ctr.suspendedDiscarded } } := by
  unfold State.discardSuspended
  rw [record]

theorem step_updHold (s : State) (f : Holdover → Holdover) : StepKept s (s.updHold f) := ⟨rfl, rfl, rfl⟩

theorem step_updClient (s : State) (c : Client) (f : ClientSession → ClientSession) : StepKept s (s.updClient c f) :=
  ⟨rfl, rfl, rfl⟩

theorem step_updRef (s : State) (r : Ref) (f : Reference → Reference) : StepKept s (s.updRef r f) := ⟨rfl, rfl, rfl⟩

theorem step_updSite (s : State) (k : Fin 6) (f : Site → Site) : StepKept s (s.updSite k f) := ⟨rfl, rfl, rfl⟩

theorem step_updPin (s : State) (k : Fin 4) (f : Pin → Pin) : StepKept s (s.updPin k f) := ⟨rfl, rfl, rfl⟩

theorem step_updGnss (s : State) (f : Gnss → Gnss) : StepKept s (s.updGnss f) := ⟨rfl, rfl, rfl⟩

theorem step_sessionsEpoch (s : State) : StepKept s s.sessionsEpoch :=
  StepKept.foldl _ (fun t c => step_updClient t c _) _ s

theorem step_monitorEpoch (s : State) : StepKept s s.monitorEpoch :=
  (StepKept.foldl _ (fun t r => step_updRef t r _) allRefs s).trans (step_updGnss _ _)

theorem step_ringEpoch (s : State) (before : Nat) : StepKept s (s.ringEpoch before) := by
  unfold State.ringEpoch
  dsimp only
  exact (StepKept.ite (step_updHold s _) (StepKept.ite (step_updHold s _) (StepKept.refl s))).trans (step_updHold _ _)

theorem step_sitesEpoch (s : State) : StepKept s s.sitesEpoch := StepKept.foldl _ (fun t k => step_updSite t k _) _ s

theorem step_pinsEpoch (s : State) : StepKept s s.pinsEpoch := StepKept.foldl _ (fun t k => step_updPin t k _) _ s

/-- Without a Suspended Slew record a change of Epoch reaches none of the three (R94). -/
theorem step_epochChange {s : State} (free : s.realign.suspended = none) (before : Nat) :
    StepKept s (s.epochChange before) := by
  have early := (step_sessionsEpoch s).trans (step_monitorEpoch _)
  have real : StepKept s s.sessionsEpoch.monitorEpoch.realEpoch := by
    unfold State.realEpoch
    rw [discardSuspended_none (by rw [early.realign]; exact free)]
    exact early
  exact ((real.trans (step_ringEpoch _ before)).trans (step_sitesEpoch _)).trans (step_pinsEpoch _)

/-- A Time Step in the clocks, the Time Engine and the Realignment Unit (R92, R93). -/
theorem timeStep_spec {s : State} (free : s.realign.suspended = none) (v : Int) :
    (s.timeStep v).clock = s.clock.moveTo (stepCounter s.clock.counter v) ∧
    (s.timeStep v).servo = { s.servo with ctr := { s.servo.ctr with timeSteps := bump s.servo.ctr.timeSteps } } ∧
    (s.timeStep v).realign = s.realign := by
  unfold State.timeStep State.moveCounter
  have kept := step_epochChange (s := ((s.countServo fun c => { c with timeSteps := bump c.timeSteps }).withClock
    (s.clock.moveTo (stepCounter s.clock.counter v)))) free s.clock.counter
  exact ⟨kept.clock, kept.servo, kept.realign⟩

/-- The counter moved by `v` ns within its range (R93). -/
theorem stepCounter_eq (counter : Nat) (v : Int) : (stepCounter counter v : Int) =
    max 0 (min ((counter : Int) + v * 65536) (281474976710656 * 65536000000000 - 1)) := by
  unfold stepCounter counterTop secRange secUnits nsUnits
  omega

/-! ## The record of a decision (R82, R87) -/

/-- The Realignment Unit once a decision is counted and no Suspended Slew record is left for it. -/
def Realign.undecided (x : Realign) : Realign :=
  { x with
    suspended := none
    ctr := { x.ctr with
      decisions := bump x.ctr.decisions
      suspendedDiscarded :=
        if x.suspended.isSome then bump x.ctr.suspendedDiscarded else x.ctr.suspendedDiscarded } }

theorem Realign.undecided_none {x : Realign} (free : x.suspended = none) :
    x.undecided = { x with ctr := { x.ctr with decisions := bump x.ctr.decisions } } := by
  unfold Realign.undecided
  rw [free]
  rfl

theorem Realign.undecided_some {x : Realign} {u : Suspended} (record : x.suspended = some u) :
    x.undecided = { x with
      suspended := none
      ctr := { x.ctr with
        decisions := bump x.ctr.decisions, suspendedDiscarded := bump x.ctr.suspendedDiscarded } } := by
  unfold Realign.undecided
  rw [record]
  rfl

theorem resumes_iff {s : State} {r : Ref} (subject : s.realign.decisionRef = some r) (u : Suspended) (e : Int) :
    s.resumes u e = true ↔ u.ref = r ∧ s.clock.residence - u.at' ≤ s.realign.params.resumeWindow * secUnits ∧
      (e - u.b).natAbs ≤ s.realign.params.resumeTolerance := by
  unfold State.resumes Suspended.age State.res
  rw [subject]
  simp only [Bool.and_eq_true, decide_eq_true_eq, Option.some.injEq, and_assoc]
  rw [eq_comm]

theorem steps_iff (s : State) (e : Int) : s.steps e = true ↔
    s.servo.phaseValid = false ∧ s.realign.params.stepThreshold < e.natAbs ∧
      (s.realign.params.stepPolicy = .always ∨
        (s.realign.params.stepPolicy = .beforeServe ∧ s.servingSince = false)) := by
  unfold State.steps
  simp only [Bool.and_eq_true, Bool.not_eq_true', Bool.or_eq_true, decide_eq_true_eq]
  tauto

/-- A record that is not resumed is discarded, and the decision is taken without one (R82, R87). -/
theorem takeDecision_fresh {s : State} {e : Int}
    (other : ∀ u, s.realign.suspended = some u → s.resumes u e ≠ true) :
    s.takeDecision e = (s.updReal Realign.undecided).decideFresh e := by
  unfold State.takeDecision
  dsimp only
  split
  · next free =>
    show _ = ({ s with realign := s.realign.undecided } : State).decideFresh e
    rw [Realign.undecided_none (x := s.realign) free]
    rfl
  · next u record =>
    show _ = ({ s with realign := s.realign.undecided } : State).decideFresh e
    rw [Realign.undecided_some (x := s.realign) record, discardSuspended_some record]
    exact if_neg (other u record)

/-- A resume (R82, case 1). -/
theorem takeDecision_resume {s : State} {u : Suspended} {e : Int} (record : s.realign.suspended = some u)
    (resumes : s.resumes u e = true) :
    s.takeDecision e =
      ((s.countReal fun c => { c with decisions := bump c.decisions }).resume u).giveInput (e - u.b) := by
  unfold State.takeDecision
  dsimp only
  split
  · next free => cases record.symm.trans free
  · next v record' =>
    cases record.symm.trans record'
    exact if_pos resumes

theorem resume_spec (s : State) (u : Suspended) : (s.resume u).servo = s.servo ∧
    (s.resume u).realign = { s.realign with
      decision := .decided, b := u.b, slew := some u.held, suspended := none
      ctr := { s.realign.ctr with resumes := bump s.realign.ctr.resumes } } := by
  unfold State.resume
  rw [State.putSlew_realign]
  exact ⟨(choice_putSlew _ _).1, rfl⟩

/-- A step (R82, case 2; R93). -/
theorem decideFresh_step {s : State} {e : Int} (steps : s.steps e = true) : s.decideFresh e =
    ((s.updReal fun x =>
      { x with decision := .decided, ctr := { x.ctr with steps := bump x.ctr.steps } }).timeStep e).noInput :=
  if_pos steps

/-- Too far (R82, case 3). -/
theorem decideFresh_tooFar {s : State} {e : Int} {r : Ref} (subject : s.realign.decisionRef = some r)
    (stays : s.steps e ≠ true) (far : s.realign.params.maxOffset < e.natAbs) : s.decideFresh e =
      (s.countReal fun c => { c with tooFar := bump c.tooFar }).noInput.setDefects r (putDefect .phaseFar true) := by
  unfold State.decideFresh
  rw [if_neg stays, if_pos (show s.isTooFar e = true from decide_eq_true far)]
  dsimp only
  rw [subject]

/-- B becomes E (R82, case 4). -/
theorem decideFresh_absorb {s : State} {e : Int} (stays : s.steps e ≠ true)
    (near' : e.natAbs ≤ s.realign.params.maxOffset) : s.decideFresh e = (s.absorb e).giveInput 0 := by
  unfold State.decideFresh
  rw [if_neg stays]
  exact if_neg fun far => absurd (of_decide_eq_true far) (Nat.not_lt.2 near')

/-- The record that absorbs E: a build-out, none, or a slew (R82, case 4). -/
def Realign.absorbed (buildsOut : Bool) (e : Int) (x : Realign) : Realign :=
  if buildsOut then
    { x with decision := .decided, b := e, buildOut := true, ctr := { x.ctr with buildOuts := bump x.ctr.buildOuts } }
  else if e = 0 then { x with decision := .decided, b := e }
  else
    { x with
      decision := .decided, b := e, slew := some false
      ctr := { x.ctr with slewsStarted := bump x.ctr.slewsStarted } }

theorem absorb_spec (s : State) (e : Int) : (s.absorb e).servo = s.servo ∧
    (s.absorb e).realign = s.realign.absorbed s.buildsOut e := by
  unfold State.absorb Realign.absorbed
  dsimp only
  split
  · exact ⟨rfl, rfl⟩
  · split
    · exact ⟨rfl, rfl⟩
    · rw [State.putSlew_realign]
      exact ⟨(choice_putSlew _ _).1, rfl⟩

/-! ## The decision -/

theorem buildsOut_iff {s : State} {r : Ref} (subject : s.realign.decisionRef = some r) :
    s.buildsOut = true ↔ (s.ref r).cfg.policy = .buildOut := by
  unfold State.buildsOut
  rw [subject]
  exact decide_eq_true_iff

/-- A step in the clocks, the Time Engine and the Realignment Unit (R82, R93, R105). -/
theorem decideFresh_stepped {s : State} {e : Int} (free : s.realign.suspended = none) (steps : s.steps e = true) :
    (s.decideFresh e).realign = { s.realign with
      decision := .decided, ctr := { s.realign.ctr with steps := bump s.realign.ctr.steps } } ∧
    (s.decideFresh e).clock = s.clock.moveTo (stepCounter s.clock.counter e) ∧
    (s.decideFresh e).servo = { s.servo with
      transient := (s.decideFresh e).servo.transient
      ctr := { s.servo.ctr with
        timeSteps := bump s.servo.ctr.timeSteps
        missingSamples := (s.decideFresh e).servo.ctr.missingSamples } } ∧
    (s.servo.state = .acquiring ∨ s.servo.state = .locked →
      (s.decideFresh e).servo.ctr.missingSamples = bump s.servo.ctr.missingSamples) := by
  obtain ⟨clock, servo, realign⟩ := timeStep_spec (s := s.updReal fun x =>
    { x with decision := .decided, ctr := { x.ctr with steps := bump x.ctr.steps } }) free e
  rw [decideFresh_step steps]
  generalize (s.updReal fun x =>
    { x with decision := .decided, ctr := { x.ctr with steps := bump x.ctr.steps } }).timeStep e = v at *
  obtain ⟨realign', clock', -⟩ := noInput_aside v
  refine ⟨realign'.trans realign, clock'.trans clock, ?_, fun tracks => ?_⟩
  · have engine := noInput_servo v
    rw [servo] at engine
    exact engine
  · rw [noInput_missing (by rw [servo]; exact tracks), servo]
    rfl

/-- A reference too far, in the two counters and on the reference (R62, R82, R105). -/
theorem decideFresh_far {s : State} {e : Int} {r : Ref} (subject : s.realign.decisionRef = some r)
    (stays : s.steps e ≠ true) (far : s.realign.params.maxOffset < e.natAbs) :
    (s.servo.state = .acquiring ∨ s.servo.state = .locked →
      (s.decideFresh e).servo.ctr.missingSamples = bump s.servo.ctr.missingSamples) ∧
    (s.decideFresh e).realign.ctr.tooFar = bump s.realign.ctr.tooFar ∧
    ((s.ref r).state ≠ .disabled → Defect.phaseFar ∈ ((s.decideFresh e).ref r).defects) := by
  rw [decideFresh_tooFar subject stays far]
  obtain ⟨realign, -, refs⟩ := noInput_aside (s.countReal fun c => { c with tooFar := bump c.tooFar })
  have missing := fun tracks =>
    noInput_missing (s := s.countReal fun c => { c with tooFar := bump c.tooFar }) tracks
  generalize (s.countReal fun c => { c with tooFar := bump c.tooFar }).noInput = v at *
  have counts := counts_setDefects v r (putDefect .phaseFar true)
  refine ⟨fun tracks => counts.missing.trans (missing tracks), counts.tooFar.trans (by rw [realign]; rfl),
    fun enabled => ?_⟩
  have same : v.ref r = s.ref r := by unfold State.ref; rw [refs]; rfl
  unfold State.setDefects
  rw [judge_defects v r _ _ .phaseFar (by rw [same]; exact enabled) (by decide), mem_putDefect, mem_putDefect]
  rfl

/-- E absorbed: the record of R82, and the loop run on 0 (R83, R104). -/
theorem decideFresh_absorbed {s : State} {e : Int} (stays : s.steps e ≠ true)
    (near' : e.natAbs ≤ s.realign.params.maxOffset) :
    (s.servo.state = .acquiring ∨ s.servo.state = .locked →
      (s.decideFresh e).servo.f = (s.servo.loop 0).f ∧ (s.decideFresh e).servo.i = (s.servo.loop 0).i ∧
      (s.decideFresh e).servo.lastLoop = some ⟨0, decide (s.servo.params.phaseClamp < (0 : Int).natAbs)⟩) ∧
    (s.decideFresh e).realign = s.realign.absorbed s.buildsOut e := by
  obtain ⟨servo, realign⟩ := absorb_spec s e
  rw [decideFresh_absorb stays near']
  refine ⟨fun tracks => ?_, (giveInput_realign _ 0).trans realign⟩
  have given := giveInput_tracking (s := s.absorb e) (by rw [servo]; exact tracks) 0
  rw [servo] at given
  exact given

/-- Settles O40, by the record present and the cases of R82. -/
theorem decisionCases : Obligations.DecisionCases := by
  intro s r e subject x t fits stepping y follows input noInput
  have fits_iff : ∀ u, s.resumes u e = true ↔ fits u := fun u => resumes_iff subject u e
  have resumed : ∀ u, x.suspended = some u → fits u → t =
      ((s.countReal fun c => { c with decisions := bump c.decisions }).resume u).giveInput (e - u.b) :=
    fun u record fit => takeDecision_resume record ((fits_iff u).2 fit)
  refine ⟨fun rests u record fit => ?_, fun u record fit => ⟨fun tracks => ?_, ?_⟩, fun other => ?_⟩
  · obtain ⟨servo, -⟩ := resume_spec (s.countReal fun c => { c with decisions := bump c.decisions }) u
    rw [resumed u record fit, giveInput_resting (by rw [servo]; exact rests), servo]
    rfl
  · obtain ⟨servo, -⟩ := resume_spec (s.countReal fun c => { c with decisions := bump c.decisions }) u
    have given := giveInput_tracking (s := (s.countReal fun c =>
      { c with decisions := bump c.decisions }).resume u) (by rw [servo]; exact tracks) (e - u.b)
    rw [servo] at given
    rw [resumed u record fit]
    exact given
  · rw [resumed u record fit, giveInput_realign]
    exact (resume_spec _ u).2
  · have taken : t = (s.updReal Realign.undecided).decideFresh e :=
      takeDecision_fresh fun u record resumes => other u record ((fits_iff u).1 resumes)
    have steps : (s.updReal Realign.undecided).steps e = true ↔ stepping := steps_iff _ e
    refine ⟨fun now => ?_, fun stays far => ?_, fun stays near' => ?_⟩
    · have stepped := decideFresh_stepped (s := s.updReal Realign.undecided) rfl (steps.2 now)
      rw [← taken] at stepped
      obtain ⟨realign, clock, servo, missing⟩ := stepped
      refine ⟨realign, ?_, ?_, ?_⟩
      · rw [clock]
        rfl
      · rw [clock]
        exact stepCounter_eq _ e
      · refine ⟨?_, ?_, ?_, ?_, ?_, ?_, ?_, missing⟩ <;> rw [servo] <;> rfl
    · have far' := decideFresh_far (s := s.updReal Realign.undecided) subject (mt steps.1 stays) far
      rw [← taken] at far'
      exact far'
    · have absorbed := decideFresh_absorbed (s := s.updReal Realign.undecided) (mt steps.1 stays) near'
      rw [← taken] at absorbed
      obtain ⟨given, realign⟩ := absorbed
      refine ⟨given, ?_⟩
      rw [realign]
      unfold Realign.absorbed
      exact if_congr (buildsOut_iff subject) rfl rfl

end Sys2Proof.Machine
end

section
/-! PROOFS. The re-evaluation of both roles (R72, R73), read for either role at once: what it selects, which force it keeps,
and what of that stands after the answer to an entry to FREERUN (R53). FORCE_SELECT, RELEASE and a written Selector
Configuration (O56) rest on it. -/
namespace Sys2Proof.Machine
open Sys2Proof

/-! ## One role of the Selector: true is PHASE, false is FREQUENCY -/

/-- The reference selected for a role. -/
def Selector.chosen (x : Selector) : Bool → Option Ref
  | true => x.phase
  | false => x.freq

/-- The Forced field of a role. -/
def Selector.forced (x : Selector) : Bool → Bool
  | true => x.phaseForced
  | false => x.freqForced

/-- The preference list of a role. -/
def SelectorCfg.list (x : SelectorCfg) : Bool → List Ref
  | true => x.phaseList
  | false => x.freqList

/-- The best candidate of a role. -/
def State.best (s : State) : Bool → Option Ref
  | true => s.bestPhase
  | false => s.bestFreq

/-- A candidate of a role: in its list, and QUALIFIED (R72). -/
def State.candidate (s : State) (role : Bool) (r : Ref) : Prop :=
  r ∈ s.selector.cfg.list role ∧ (s.ref r).state = .qualified

/-- The evaluation of a role. -/
def State.evalOf (s : State) : Bool → RoleResult
  | true => s.evalPhase
  | false => s.evalFreq

theorem evalOf_eq (s : State) (role : Bool) : s.evalOf role = evalRole (s.isCandidate (s.selector.cfg.list role))
    (s.best role) s.selector.cfg.revertive (s.selector.forced role) (s.selector.chosen role) := by
  cases role <;> rfl

theorem isCandidate_iff (s : State) (role : Bool) (r : Ref) :
    s.isCandidate (s.selector.cfg.list role) r = true ↔ s.candidate role r := by
  unfold State.isCandidate State.candidate
  rw [Bool.and_eq_true, List.contains_iff_mem, decide_eq_true_eq]

theorem best_candidate {s : State} {role : Bool} {r : Ref} (best : s.best role = some r) : s.candidate role r := by
  rw [← isCandidate_iff]
  cases role
  · exact bestFreq_candidate s r best
  · exact bestPhase_candidate s r best

/-! ## The best candidate (R72) -/

theorem highest_none {rank : Ref → Nat} {l : List Ref} : highest rank l = none ↔ l = [] := by
  cases l with
  | nil => exact iff_of_true rfl rfl
  | cons a l =>
    refine iff_of_false ?_ (List.cons_ne_nil a l)
    unfold highest
    split
    · exact nofun
    · split <;> exact nofun

/-- Among the references of a list that pass, the highest is no lower than any, and the earliest of its rank. -/
theorem highest_filter_spec (rank : Ref → Nat) (p : Ref → Bool) : ∀ (l : List Ref) (r : Ref),
    highest rank (l.filter p) = some r → ∀ q, q ∈ l → p q = true →
      rank q ≤ rank r ∧ (rank q = rank r → l.idxOf r ≤ l.idxOf q)
  | [], _, _, q, there, _ => absurd there List.not_mem_nil
  | a :: l, r, best, q, there, passes => by
    have ih := highest_filter_spec rank p l
    have first : ∀ x, (a :: l).idxOf a ≤ (a :: l).idxOf x := fun x => by
      rw [List.idxOf_cons_self]
      exact Nat.zero_le _
    have later : ∀ {x y : Ref}, a ≠ x → a ≠ y → l.idxOf x ≤ l.idxOf y → (a :: l).idxOf x ≤ (a :: l).idxOf y :=
      fun {x y} nx ny le => by
        rw [List.idxOf_cons_ne _ nx, List.idxOf_cons_ne _ ny]
        exact Nat.succ_le_succ le
    by_cases pa : p a = true
    · rw [List.filter_cons_of_pos pa] at best
      unfold highest at best
      split at best
      · next none' =>
        cases best
        have empty := highest_none.1 none'
        rcases List.mem_cons.1 there with rfl | there
        · exact ⟨le_rfl, fun _ => le_rfl⟩
        · have : q ∈ l.filter p := List.mem_filter.2 ⟨there, passes⟩
          rw [empty] at this
          exact absurd this List.not_mem_nil
      · next x some' =>
        have rest : q ∈ l → rank q ≤ rank x ∧ (rank q = rank x → l.idxOf x ≤ l.idxOf q) :=
          fun there => ih x some' q there passes
        split at best
        · next lower =>
          cases best
          by_cases same : a = q
          · subst same
            exact ⟨le_of_lt lower, fun e => absurd e (Nat.ne_of_lt lower)⟩
          · obtain ⟨le, early⟩ := rest ((List.mem_cons.1 there).resolve_left (Ne.symm same))
            exact ⟨le, fun e => later (fun e => by subst e; exact lt_irrefl _ lower) same (early e)⟩
        · next higher =>
          cases best
          refine ⟨?_, fun _ => first q⟩
          rcases List.mem_cons.1 there with rfl | there
          · exact le_rfl
          · exact (rest there).1.trans (Nat.not_lt.1 higher)
    · rw [List.filter_cons_of_neg pa] at best
      have na : ∀ {x : Ref}, p x = true → a ≠ x := fun px e => pa (e ▸ px)
      obtain ⟨le, early⟩ := ih r best q ((List.mem_cons.1 there).resolve_left (Ne.symm (na passes))) passes
      have pr := (List.mem_filter.1 (highest_mem rank _ r best)).2
      exact ⟨le, fun e => later (na pr) (na passes) (early e)⟩

theorem bestFreq_find (s : State) :
    s.bestFreq = s.selector.cfg.freqList.find? fun r => decide ((s.ref r).state = .qualified) := List.head?_filter

theorem bestPhase_find {s : State} (plain : s.selector.cfg.ranking = false) :
    s.bestPhase = s.selector.cfg.phaseList.find? fun r => decide ((s.ref r).state = .qualified) := by
  unfold State.bestPhase
  dsimp only
  rw [plain]
  exact List.head?_filter

theorem bestPhase_ranked {s : State} (ranked : s.selector.cfg.ranking = true) : s.bestPhase =
    highest (fun r => gradeRank (s.ref r).grade) (s.candidates s.selector.cfg.phaseList) := by
  unfold State.bestPhase
  dsimp only
  rw [if_pos ranked]

theorem candidates_nil_iff (s : State) (role : Bool) :
    s.candidates (s.selector.cfg.list role) = [] ↔ ∀ r, ¬ s.candidate role r := by
  unfold State.candidates
  rw [List.filter_eq_nil_iff]
  exact forall_congr' fun r => by
    unfold State.candidate
    rw [decide_eq_true_eq, not_and]

theorem best_none_iff (s : State) (role : Bool) : s.best role = none ↔ ∀ r, ¬ s.candidate role r := by
  rw [← candidates_nil_iff]
  cases role with
  | false => exact List.head?_eq_none_iff
  | true =>
    cases ranking : s.selector.cfg.ranking with
    | true =>
      show s.bestPhase = none ↔ _
      rw [bestPhase_ranked ranking]
      exact highest_none
    | false =>
      show s.bestPhase = none ↔ _
      unfold State.bestPhase
      dsimp only
      rw [ranking]
      exact List.head?_eq_none_iff

theorem best_isSome {s : State} {role : Bool} {r : Ref} (there : s.candidate role r) : (s.best role).isSome = true := by
  rw [Option.isSome_iff_ne_none]
  exact fun none' => (best_none_iff s role).1 none' r there

/-! ## The evaluation of a role (R73) -/

theorem evalOf_kept {s : State} {role : Bool} {r : Ref} (selected : s.selector.chosen role = some r)
    (there : s.candidate role r) (forced : s.selector.forced role = true) : s.evalOf role = ⟨some r, true, false⟩ := by
  rw [evalOf_eq, selected, forced]
  unfold evalRole
  dsimp only
  rw [if_pos ((isCandidate_iff s role r).2 there)]
  rfl

theorem evalOf_free {s : State} {role : Bool} {r : Ref} (selected : s.selector.chosen role = some r)
    (there : s.candidate role r) (free : s.selector.forced role = false) :
    s.evalOf role = ⟨if s.selector.cfg.revertive then s.best role else some r, false, false⟩ := by
  rw [evalOf_eq, selected, free]
  unfold evalRole
  dsimp only
  rw [if_pos ((isCandidate_iff s role r).2 there)]
  rfl

theorem evalOf_lapsed {s : State} {role : Bool}
    (gone : ∀ r, s.selector.chosen role = some r → ¬ s.candidate role r) :
    s.evalOf role = ⟨s.best role, false, s.selector.forced role⟩ := by
  rw [evalOf_eq]
  unfold evalRole
  split
  · rfl
  · next r selected => exact if_neg (mt (isCandidate_iff s role r).1 (gone r selected))

/-! ## The re-evaluation (R73) -/

theorem reevaluateRoles_chosen (s : State) (role : Bool) :
    s.reevaluateRoles.selector.chosen role = (s.evalOf role).selected ∧
      s.reevaluateRoles.selector.forced role = (s.evalOf role).forced ∧
      s.reevaluateRoles.selector.cfg = s.selector.cfg := by
  rw [(reevaluateRoles_applied s).selector]
  cases role <;> exact ⟨rfl, rfl, rfl⟩

/-- A QUALIFIED reference that only loses defects stays QUALIFIED (R65). -/
theorem Reference.react_qualified {x : Reference} (qualified : x.state = .qualified) (res : Nat) {was : List Defect}
    (fewer : ∀ d, d ∈ x.defects → d ∈ was) : (x.react res was).state = .qualified := by
  unfold Reference.react
  rw [qualified]
  dsimp only
  split
  · rfl
  · next some' =>
    have near' : newlyFar was x.defects = false := by
      unfold newlyFar
      rw [Bool.and_eq_false_iff, Bool.not_eq_false', List.contains_iff_mem]
      by_cases far : Defect.phaseFar ∈ x.defects
      · exact Or.inr (fewer _ far)
      · exact Or.inl (by simpa using far)
    have before : was.isEmpty ≠ true := fun empty => some' (by
      rw [List.isEmpty_iff] at empty ⊢
      exact List.eq_nil_iff_forall_not_mem.2 fun d m => by
        have := fewer d m
        rw [empty] at this
        exact absurd this List.not_mem_nil)
    rw [near', if_neg (by decide), if_neg before]
    exact qualified

/-- After the answer to an entry to FREERUN the Selector stands as it was, or as a re-evaluation leaves it in which no
candidate has been lost. -/
theorem answerFreerun_selector (s : State) {was : List Defect} (fewer : ∀ d, d ∈ (s.ref .gnss).defects → d ∈ was) :
    (s.answerFreerun was).selector = s.selector ∨ ∃ w : State, w.selector = s.selector ∧
      (∀ r, (s.ref r).state = .qualified → (w.ref r).state = .qualified) ∧
      (s.answerFreerun was).selector = w.reevaluateRoles.selector := by
  unfold State.answerFreerun State.reactWith State.announceWith
  dsimp only
  split
  · exact Or.inl rfl
  · split
    · refine Or.inr ⟨(s.updRef .gnss fun _ => (s.ref .gnss).react s.res was).refReport .gnss, rfl, fun r qualified => ?_,
        (choice_pinsFallback _ _).selector⟩
      show ((s.updRef .gnss fun _ => (s.ref .gnss).react s.res was).ref r).state = .qualified
      rw [State.ref_updRef]
      split
      · next gnss =>
        subst gnss
        exact Reference.react_qualified qualified s.res fewer
      · exact qualified
    · split <;> exact Or.inl rfl

/-- After a whole re-evaluation the Selector stands as the roles were evaluated, or evaluated once more with no candidate
lost between the two. -/
theorem reevaluate_selector (s : State) : s.reevaluate.selector = s.reevaluateRoles.selector ∨
    ∃ w : State, w.selector = s.reevaluateRoles.selector ∧
      (∀ r, (s.ref r).state = .qualified → (w.ref r).state = .qualified) ∧
      s.reevaluate.selector = w.reevaluateRoles.selector := by
  have down := down_reevaluateRoles s
  have fewer : ∀ d, d ∈ (s.reevaluateRoles.ref .gnss).defects → d ∈ (s.ref .gnss).defects := by
    obtain ⟨ds, same, mem⟩ := down.gref
    rw [same]
    exact fun d m => ((mem d).1 m).1
  rcases answerFreerun_selector s.reevaluateRoles fewer with same | ⟨w, selector, qualified, after⟩
  · exact Or.inl same
  · exact Or.inr ⟨w, selector, fun r q => qualified r ((down.refState r).trans q), after⟩

theorem reevaluateRoles_keeps {s : State} {role : Bool} {r : Ref} (selected : s.selector.chosen role = some r)
    (there : s.candidate role r) (holds : s.selector.forced role = true ∨ s.selector.cfg.revertive = false) :
    s.reevaluateRoles.selector.chosen role = some r ∧
      s.reevaluateRoles.selector.forced role = s.selector.forced role := by
  obtain ⟨chosen, forced, -⟩ := reevaluateRoles_chosen s role
  rw [chosen, forced]
  cases force : s.selector.forced role with
  | true =>
    rw [evalOf_kept selected there force]
    exact ⟨rfl, rfl⟩
  | false =>
    rw [evalOf_free selected there force, holds.resolve_left (by rw [force]; decide)]
    exact ⟨rfl, rfl⟩

/-- A selection that is a candidate stays, with its Forced field, if it is forced or under NON_REVERTIVE (R73, R75). -/
theorem reevaluate_keeps {s : State} {role : Bool} {r : Ref} (selected : s.selector.chosen role = some r)
    (there : s.candidate role r) (holds : s.selector.forced role = true ∨ s.selector.cfg.revertive = false) :
    s.reevaluate.selector.chosen role = some r ∧ s.reevaluate.selector.forced role = s.selector.forced role := by
  obtain ⟨chosen, forced⟩ := reevaluateRoles_keeps selected there holds
  obtain ⟨-, -, cfg⟩ := reevaluateRoles_chosen s role
  rcases reevaluate_selector s with same | ⟨w, selector, qualified, after⟩
  · rw [same]
    exact ⟨chosen, forced⟩
  · rw [after, ← forced]
    have again := reevaluateRoles_keeps (s := w) (role := role) (r := r) (by rw [selector]; exact chosen)
      ⟨by rw [selector, cfg]; exact there.1, qualified r there.2⟩ (by rw [selector, cfg, forced]; exact holds)
    rw [selector] at again
    exact again

theorem reevaluateRoles_unforced {s : State} {role : Bool} (free : s.selector.forced role = false ∨
    ∀ r, s.selector.chosen role = some r → ¬ s.candidate role r) :
    s.reevaluateRoles.selector.forced role = false := by
  rw [(reevaluateRoles_chosen s role).2.1]
  by_cases gone : ∀ r, s.selector.chosen role = some r → ¬ s.candidate role r
  · rw [evalOf_lapsed gone]
  · simp only [not_forall, not_not] at gone
    obtain ⟨r, selected, there⟩ := gone
    rw [evalOf_free selected there (free.resolve_right fun gone => gone r selected there)]

/-- A role that is not forced, or whose selection is no candidate, is not forced after a re-evaluation (R73, R77). -/
theorem reevaluate_unforced {s : State} {role : Bool} (free : s.selector.forced role = false ∨
    ∀ r, s.selector.chosen role = some r → ¬ s.candidate role r) : s.reevaluate.selector.forced role = false := by
  have once := reevaluateRoles_unforced free
  rcases reevaluate_selector s with same | ⟨w, selector, -, after⟩
  · rw [same]
    exact once
  · rw [after]
    exact reevaluateRoles_unforced (Or.inl (by rw [selector]; exact once))

/-- A re-evaluation selects candidates only (R73). -/
theorem reevaluate_candidate {s : State} {role : Bool} {r : Ref} (selected : s.reevaluate.selector.chosen role = some r) :
    s.reevaluate.candidate role r := by
  obtain ⟨-, phase, freq⟩ := reevaluate_settles s
  rw [← isCandidate_iff]
  cases role
  · exact freq r selected
  · exact phase r selected

theorem reevaluate_cfg (s : State) : s.reevaluate.selector.cfg = s.selector.cfg :=
  (reevaluate_settles s).1.calm.settings.select

/-- Where the roles cannot lead to FREERUN, a whole re-evaluation is that of the roles. -/
theorem reevaluate_awake {s : State} (awake : s.staysAwake (s.evalOf true).selected (s.evalOf false).selected) :
    s.reevaluate = s.reevaluateRoles := by
  have same := (reevaluateRoles_applied s).refs awake
  unfold State.reevaluate State.answerFreerun
  exact if_pos (by unfold State.ref; rw [same])

/-- Under REVERTIVE a role that is not forced takes its best candidate, where that cannot lead to FREERUN: always for the
frequency role, for the phase role in a state that matches the roles (R73). -/
theorem reevaluate_reverts {s : State} {role : Bool} {r : Ref} (selected : s.selector.chosen role = some r)
    (there : s.candidate role r) (free : s.selector.forced role = false) (revertive : s.selector.cfg.revertive = true)
    (matched : role = true → s.rolesMatch) : s.reevaluate.selector.chosen role = s.best role := by
  have result := evalOf_free selected there free
  rw [revertive, if_pos rfl] at result
  have awake : s.staysAwake (s.evalOf true).selected (s.evalOf false).selected := by
    cases role with
    | false => exact Or.inl ⟨Option.isSome_of_eq_some selected, by rw [result]; exact best_isSome there⟩
    | true => exact Or.inr ⟨matched rfl, Option.isSome_of_eq_some selected, by rw [result]; exact best_isSome there⟩
  rw [reevaluate_awake awake, (reevaluateRoles_chosen s role).1, result]

end Sys2Proof.Machine
end

section
/-! PROOFS. FORCE_SELECT, RELEASE, the re-evaluation of both roles and a written Selector Configuration (O56). -/
namespace Sys2Proof.Machine
open Sys2Proof

/-! ## The re-evaluation, counted (R73, R77, R78, R88) -/

/-- Whether a forced selection has lapsed: it is no candidate any more, or there is none (R77). -/
def State.lapses (s : State) (role : Bool) : Prop :=
  s.selector.forced role = true ∧ ∀ r, s.selector.chosen role = some r → ¬ s.candidate role r

theorem evalOf_lapsed_iff (s : State) (role : Bool) : (s.evalOf role).lapsed = true ↔ s.lapses role := by
  unfold State.lapses
  by_cases gone : ∀ r, s.selector.chosen role = some r → ¬ s.candidate role r
  · rw [evalOf_lapsed gone]
    exact ⟨fun forced => ⟨forced, gone⟩, And.left⟩
  · refine iff_of_false ?_ fun h => gone h.2
    simp only [not_forall, not_not] at gone
    obtain ⟨r, selected, there⟩ := gone
    cases force : s.selector.forced role with
    | true => rw [evalOf_kept selected there force]; exact nofun
    | false => rw [evalOf_free selected there force]; exact nofun

/-- What a re-evaluation makes of a role, by its selection and its Forced field. -/
theorem reevaluateRoles_role (s : State) (role : Bool) :
    (∀ r, s.selector.chosen role = some r → s.candidate role r → s.selector.forced role = true →
      s.reevaluateRoles.selector.chosen role = some r ∧ s.reevaluateRoles.selector.forced role = true) ∧
    (∀ r, s.selector.chosen role = some r → s.candidate role r → s.selector.forced role = false →
      s.reevaluateRoles.selector.forced role = false ∧
      s.reevaluateRoles.selector.chosen role = if s.selector.cfg.revertive then s.best role else some r) ∧
    ((∀ r, s.selector.chosen role = some r → ¬ s.candidate role r) →
      s.reevaluateRoles.selector.forced role = false ∧ s.reevaluateRoles.selector.chosen role = s.best role) := by
  obtain ⟨chosen, forced, -⟩ := reevaluateRoles_chosen s role
  rw [chosen, forced]
  refine ⟨fun r selected there force => ?_, fun r selected there free => ?_, fun gone => ?_⟩
  · rw [evalOf_kept selected there force]
    exact ⟨rfl, rfl⟩
  · rw [evalOf_free selected there free]
    exact ⟨rfl, rfl⟩
  · rw [evalOf_lapsed gone]
    exact ⟨rfl, rfl⟩

theorem reevaluateRoles_counts (s : State) : s.reevaluateRoles.selector.ctr =
    { phaseChanges := if s.reevaluateRoles.selector.phase = s.selector.phase then s.selector.ctr.phaseChanges
        else bump s.selector.ctr.phaseChanges
      frequencyChanges := if s.reevaluateRoles.selector.freq = s.selector.freq then s.selector.ctr.frequencyChanges
        else bump s.selector.ctr.frequencyChanges
      forcesLapsed := min (s.selector.ctr.forcesLapsed +
        ((if (s.evalOf true).lapsed then 1 else 0) + (if (s.evalOf false).lapsed then 1 else 0))) 4294967295 } := by
  rw [(reevaluateRoles_applied s).selector]
  rfl

/-! ## FORCE_SELECT and RELEASE (R76, R77) -/

/-- The numbers of the two roles in a command's arguments (11). -/
theorem roleNumber_eq {k : Nat} (small : k ≤ 1) : k = if decide (k = 0) then 0 else 1 := by
  by_cases zero : k = 0
  · rw [zero]
    rfl
  · rw [decide_eq_false zero]
    exact le_antisymm small (Nat.pos_of_ne_zero zero)

theorem listOfNumber_eq (x : SelectorCfg) (k : Nat) :
    (if k = 0 then x.phaseList else x.freqList) = x.list (decide (k = 0)) := by
  by_cases zero : k = 0
  · rw [decide_eq_true zero]
    exact if_pos zero
  · rw [decide_eq_false zero]
    exact if_neg zero

theorem refOfNat_idx (r : Ref) : refOfNat? (refIdx r).val = some r := by cases r <;> rfl

theorem refOfNat_none {k : Nat} (beyond : 5 < k) : refOfNat? k = none :=
  List.getElem?_eq_none (show 6 ≤ k from beyond)

/-- A role of the Selector forced, or forced no more. -/
def State.forceSet (s : State) (role : Bool) (forced : Bool) : State :=
  s.updSel fun x => match role with
    | true => { x with phaseForced := forced }
    | false => { x with freqForced := forced }

/-- A role given a selection. -/
def State.applyRole (s : State) (role : Bool) (r : Ref) : State :=
  match role with
  | true => s.applyPhase (some r) s.holdover.announced
  | false => s.applyFreq (some r) s.holdover.announced

theorem force_eq (s : State) (role : Bool) (r : Ref) :
    s.force role r = ((s.forceSet role true).applyRole role r).reevaluate := by cases role <;> rfl

theorem applyRole_spec (s : State) (role : Bool) (r : Ref) : Down s (s.applyRole role r) ∧
    (s.applyRole role r).selector.chosen role = some r ∧
    (s.applyRole role r).selector.forced role = s.selector.forced role ∧
    (s.applyRole role r).selector.cfg = s.selector.cfg := by
  cases role with
  | true =>
    have selector := (applyPhase_applied s (some r) s.holdover.announced).selector
    refine ⟨down_applyPhase s _ _, ?_⟩
    unfold State.applyRole
    rw [selector]
    exact ⟨rfl, rfl, rfl⟩
  | false =>
    have selector := (applyFreq_applied s (some r) s.holdover.announced).selector
    refine ⟨down_applyFreq s _ _, ?_⟩
    unfold State.applyRole
    rw [selector]
    exact ⟨rfl, rfl, rfl⟩

theorem forceSet_spec (s : State) (role forced : Bool) : (s.forceSet role forced).selector.forced role = forced ∧
    (s.forceSet role forced).selector.chosen role = s.selector.chosen role ∧
    (s.forceSet role forced).selector.cfg = s.selector.cfg ∧ (s.forceSet role forced).best role = s.best role := by
  cases role <;> exact ⟨rfl, rfl, rfl, rfl⟩

/-- A candidate that is forced is the role's selection, forced, whatever follows from it (R76). -/
theorem force_selects {s : State} {role : Bool} {r : Ref} (there : s.candidate role r) :
    UpstreamKept [] [] s (s.force role r) ∧ (s.force role r).selector.chosen role = some r ∧
      (s.force role r).selector.forced role = true := by
  obtain ⟨forced, -, cfg, -⟩ := forceSet_spec s role true
  obtain ⟨down, chosen, forced', cfg'⟩ := applyRole_spec (s.forceSet role true) role r
  rw [forced] at forced'
  rw [cfg] at cfg'
  rw [force_eq]
  generalize (s.forceSet role true).applyRole role r = w at *
  have still : w.candidate role r := ⟨by rw [cfg']; exact there.1, (down.refState r).trans there.2⟩
  have kept := reevaluate_keeps chosen still (Or.inl forced')
  exact ⟨((down_updSel s _).trans down).kept.trans (kept_reevaluate w), kept.1, kept.2.trans forced'⟩

/-- A force that is released: the role is forced no more, and a selection that is a candidate stays or gives way to the
best one (R77). -/
theorem release_role (s : State) (role : Bool) : UpstreamKept [] [] s (s.forceSet role false).reevaluate ∧
    (s.forceSet role false).reevaluate.selector.forced role = false ∧
    ∀ r, s.selector.chosen role = some r → s.candidate role r →
      (s.selector.cfg.revertive = false →
        (s.forceSet role false).reevaluate.selector.chosen role = some r) ∧
      (s.selector.cfg.revertive = true → (role = true → s.rolesMatch) →
        (s.forceSet role false).reevaluate.selector.chosen role = s.best role) := by
  obtain ⟨free, chosen, cfg, best⟩ := forceSet_spec s role false
  refine ⟨(down_updSel s _).kept.trans (kept_reevaluate _), reevaluate_unforced (Or.inl free),
    fun r selected there => ?_⟩
  have there' : (s.forceSet role false).candidate role r := ⟨by rw [cfg]; exact there.1, there.2⟩
  have selected' := chosen.trans selected
  refine ⟨fun plain => (reevaluate_keeps selected' there' (Or.inr (by rw [cfg]; exact plain))).1,
    fun revertive matched => ?_⟩
  rw [reevaluate_reverts selected' there' free (by rw [cfg]; exact revertive) fun phase => ?_, best]
  cases role
  · cases phase
  · exact matched rfl

theorem runForce_badValue {s : State} {c : Command} (bad : 1 < c.arg 0 1 ∨ 5 < c.arg 1 1) :
    runForce s c = refuse s stBadValue := by
  unfold runForce
  dsimp only
  split
  · rfl
  · next fits => rw [refOfNat_none (bad.resolve_left fits)]

/-- FORCE_SELECT of a role and a reference that there are. -/
theorem runForce_named {s : State} {c : Command} {r : Ref} {role : Bool} (asked : c.arg 0 1 = if role then 0 else 1)
    (named : c.arg 1 1 = (refIdx r).val) : runForce s c =
      if r ∉ s.selector.cfg.list role then refuse s stBadValue
      else if (s.ref r).state ≠ .qualified then refuse s stNotQualified
      else done (s.force role r) := by
  unfold runForce
  rw [asked, named, refOfNat_idx]
  have listed : ∀ l : List Ref, (!l.contains r) = true ↔ r ∉ l := fun l => by
    rw [Bool.not_eq_true', ← Bool.not_eq_true, List.contains_iff_mem]
  cases role
  · exact (if_neg (by decide)).trans (if_congr (listed _) rfl rfl)
  · exact (if_neg (by decide)).trans (if_congr (listed _) rfl rfl)

theorem runRelease_free {s : State} {c : Command} {role : Bool} (asked : c.arg 0 1 = if role then 0 else 1)
    (free : s.selector.forced role = false) : runRelease s c = done s := by
  unfold runRelease
  rw [asked]
  cases role <;> exact congrArg done (if_neg (Bool.eq_false_iff.1 free))

theorem runRelease_forced {s : State} {c : Command} {role : Bool} (asked : c.arg 0 1 = if role then 0 else 1)
    (forced : s.selector.forced role = true) : runRelease s c = done (s.forceSet role false).reevaluate := by
  unfold runRelease
  rw [asked]
  cases role <;> exact congrArg done (if_pos forced)

theorem runRelease_badValue {s : State} {c : Command} (bad : 1 < c.arg 0 1) : runRelease s c = refuse s stBadValue := by
  unfold runRelease
  split
  · next zero => rw [zero] at bad; exact absurd bad (by decide)
  · next one => rw [one] at bad; exact absurd bad (by decide)
  · rfl

/-! ## A written Selector Configuration (R70, R196) -/

theorem phaseCapable_iff (r : Ref) : phaseCapable r = true ↔ (refIdx r).val ≤ 2 := by cases r <;> decide

/-- Lists without an id twice fit their capacities. -/
theorem goodLists_iff (phase freq : List Ref) :
    (goodList phaseCapable 3 phase = true ∧ goodList (fun _ => true) 6 freq = true) ↔
      phase.Nodup ∧ freq.Nodup ∧ ∀ r, r ∈ phase → (refIdx r).val ≤ 2 := by
  unfold goodList
  simp only [Bool.and_eq_true, decide_eq_true_eq, List.all_eq_true, phaseCapable_iff]
  constructor
  · rintro ⟨⟨⟨once, capable⟩, -⟩, ⟨once', -⟩, -⟩
    exact ⟨once, once', capable⟩
  · rintro ⟨once, once', capable⟩
    have few : phase.length ≤ [Ref.gnss, .pkt0, .pkt1].length := by
      refine (once.subperm fun r m => ?_).length_le
      have small := capable r m
      revert small
      cases r <;> decide
    have few' : freq.length ≤ allRefs.length := (once'.subperm fun r _ => by cases r <;> decide).length_le
    exact ⟨⟨⟨once, capable⟩, few⟩, ⟨once', fun _ _ => trivial⟩, few'⟩

/-- The fields of a Selector Configuration as a PUT carries them (11). -/
def selectorFields (x : SelectorCfg) : List Byte :=
  encList encRef x.phaseList ++ encList encRef x.freqList ++ encFirst x.revertive ++ encFirst x.ranking

theorem encRefs_length (l : List Ref) : (encList encRef l).length = 1 + l.length := by
  unfold encList
  rw [List.length_append, beBytes_length]
  congr 1
  induction l with
  | nil => rfl
  | cons r l ih => rw [List.flatMap_cons, List.length_append, ih, List.length_cons, Nat.add_comm]; rfl

theorem selectorFields_length (x : SelectorCfg) :
    (selectorFields x).length = 1 + x.phaseList.length + (1 + x.freqList.length) + 1 + 1 := by
  unfold selectorFields
  simp only [List.length_append, encRefs_length]
  rfl

theorem takeSelectorCfg_fields {x : SelectorCfg} (phase : x.phaseList.length < 256) (freq : x.freqList.length < 256) :
    readWhole takeSelectorCfg (selectorFields x) = some x := by
  have last := takeFirst_encFirst x.ranking []
  rw [List.append_nil] at last
  unfold readWhole selectorFields
  simp only [List.append_assoc]
  rw [show takeSelectorCfg _ = some _ from
    read_then (takeRefs_encList _ phase _) <| read_then (takeRefs_encList _ freq _) <|
    read_then (takeFirst_encFirst _ _) <| read_then last rfl]

theorem putSelector_refused {s : State} {bs : List Byte} {x : SelectorCfg}
    (decoded : readWhole takeSelectorCfg bs = some x)
    (bad : ¬ (x.phaseList.Nodup ∧ x.freqList.Nodup ∧ ∀ r, r ∈ x.phaseList → (refIdx r).val ≤ 2)) :
    s.putSelector bs = .refused 5 := by
  rw [← goodLists_iff] at bad
  unfold State.putSelector
  rw [decoded]
  refine if_pos ?_
  rw [← Bool.not_and, Bool.not_eq_true', ← Bool.not_eq_true, Bool.and_eq_true]
  exact bad

theorem putSelector_good {s : State} {bs : List Byte} {x : SelectorCfg}
    (decoded : readWhole takeSelectorCfg bs = some x)
    (good : x.phaseList.Nodup ∧ x.freqList.Nodup ∧ ∀ r, r ∈ x.phaseList → (refIdx r).val ≤ 2) : s.putSelector bs =
      if x = s.selector.cfg then .written s false
      else .written (s.updSel fun y => { y with cfg := x }).reevaluate false := by
  obtain ⟨phase, freq⟩ := (goodLists_iff _ _).2 good
  unfold State.putSelector
  rw [decoded]
  exact if_neg (by rw [phase, freq]; decide)

/-- What a stored Selector Configuration makes of a role (R73, R75, R77). -/
theorem written_role (s : State) (x : SelectorCfg) (role : Bool) {r : Ref} (selected : s.selector.chosen role = some r) :
    (r ∉ x.list role →
      (s.updSel fun y => { y with cfg := x }).reevaluate.selector.chosen role ≠ some r ∧
      (s.updSel fun y => { y with cfg := x }).reevaluate.selector.forced role = false) ∧
    (r ∈ x.list role → (s.ref r).state = .qualified → s.selector.forced role = true ∨ x.revertive = false →
      (s.updSel fun y => { y with cfg := x }).reevaluate.selector.chosen role = some r ∧
      (s.updSel fun y => { y with cfg := x }).reevaluate.selector.forced role = s.selector.forced role) := by
  have chosen : (s.updSel fun y => { y with cfg := x }).selector.chosen role = some r := by
    rw [← selected]
    cases role <;> rfl
  have forced : (s.updSel fun y => { y with cfg := x }).selector.forced role = s.selector.forced role := by
    cases role <;> rfl
  refine ⟨fun removed => ⟨fun still => removed ?_, reevaluate_unforced (Or.inr fun q is there => ?_)⟩,
    fun listed qualified holds => ?_⟩
  · have there := (reevaluate_candidate still).1
    rw [reevaluate_cfg] at there
    exact there
  · cases chosen.symm.trans is
    exact removed there.1
  · rw [← forced] at holds ⊢
    exact reevaluate_keeps chosen ⟨listed, qualified⟩ holds

/-! ## Bytes beyond an enumeration (R205) -/

theorem takeBytes_length : ∀ (l r : List Byte), takeBytes l.length (l ++ r) = some (l.map BitVec.toNat, r)
  | [], _ => rfl
  | b :: l, r => by
    show (takeBytes l.length (l ++ r)).map (fun x => (b.toNat :: x.1, x.2)) = _
    rw [takeBytes_length l r]
    rfl

theorem takeRefs_bytes {l : List Byte} (few : l.length < 256) (r : List Byte) :
    takeRefs (beBytes 1 l.length ++ l ++ r) = ((l.map BitVec.toNat).mapM refOfNat?).map fun x => (x, r) := by
  have count : (BitVec.ofNat 8 l.length).toNat = l.length := by
    rw [BitVec.toNat_ofNat]
    exact Nat.mod_eq_of_lt few
  have items : takeByteList (beBytes 1 l.length ++ l ++ r) = some (l.map BitVec.toNat, r) := by
    show takeBytes (BitVec.ofNat 8 l.length).toNat (l ++ r) = _
    rw [count, takeBytes_length]
  unfold takeRefs
  rw [items]

theorem mapM_refOfNat_none : ∀ {l : List Byte} {b : Byte}, b ∈ l → 5 < b.toNat →
    (l.map BitVec.toNat).mapM refOfNat? = none
  | a :: l, b, there, beyond => by
    rw [List.map_cons, List.mapM_cons]
    rcases List.mem_cons.1 there with rfl | there
    · rw [refOfNat_none beyond]
      rfl
    · rw [mapM_refOfNat_none there beyond]
      cases refOfNat? a.toNat <;> rfl

theorem takeFirst_beyond {b : Byte} (beyond : 1 < b.toNat) (r : List Byte) : takeFirst (b :: r) = none := by
  show ([true, false][b.toNat]?).map _ = none
  rw [List.getElem?_eq_none (show 2 ≤ b.toNat from beyond)]
  rfl

/-- The fields of a Selector Configuration, byte for byte. -/
def selectorBytes (phase freq : List Byte) (mode ranking : Byte) : List Byte :=
  beBytes 1 phase.length ++ phase ++ beBytes 1 freq.length ++ freq ++ [mode, ranking]

theorem selectorBytes_length (phase freq : List Byte) (mode ranking : Byte) :
    (selectorBytes phase freq mode ranking).length = 1 + phase.length + 1 + freq.length + 2 := by
  simp only [selectorBytes, List.length_append, beBytes_length, List.length_cons, List.length_nil]

/-- One field of an entry read, and then a field that fails. -/
theorem read_fails {α β : Type} {field : Option α} {a : α} {rest : α → Option β} (first : field = some a)
    (then' : rest a = none) : (field >>= rest) = none := by
  rw [first]
  exact then'

/-- An id above 5, or a byte beyond an enumeration, is no Selector Configuration. -/
theorem takeSelectorCfg_beyond {phase freq : List Byte} {mode ranking : Byte} (few : phase.length < 256)
    (few' : freq.length < 256)
    (bad : (∃ b : Byte, b ∈ phase ++ freq ∧ 5 < b.toNat) ∨ 1 < mode.toNat ∨ 1 < ranking.toNat) :
    readWhole takeSelectorCfg (selectorBytes phase freq mode ranking) = none := by
  have fails : takeSelectorCfg (selectorBytes phase freq mode ranking) = none := by
    have layout : selectorBytes phase freq mode ranking =
        beBytes 1 phase.length ++ phase ++ (beBytes 1 freq.length ++ freq ++ [mode, ranking]) := by
      simp only [selectorBytes, List.append_assoc]
    rw [layout]
    unfold takeSelectorCfg
    rw [takeRefs_bytes few]
    cases phases : (phase.map BitVec.toNat).mapM refOfNat? with
    | none => rfl
    | some l =>
      refine read_fails rfl ?_
      dsimp only
      rw [takeRefs_bytes few']
      cases freqs : (freq.map BitVec.toNat).mapM refOfNat? with
      | none => rfl
      | some m =>
        refine read_fails rfl ?_
        rcases bad with ⟨b, there, beyond⟩ | beyond | beyond
        · rcases List.mem_append.1 there with there | there
          · cases phases.symm.trans (mapM_refOfNat_none there beyond)
          · cases freqs.symm.trans (mapM_refOfNat_none there beyond)
        · show (takeFirst [mode, ranking] >>= _) = none
          rw [takeFirst_beyond beyond]
          rfl
        · show (takeFirst [mode, ranking] >>= _) = none
          cases first : takeFirst [mode, ranking] with
          | none => rfl
          | some x =>
            obtain ⟨a, -, rfl⟩ := Option.map_eq_some_iff.1
              (show ([true, false][mode.toNat]?).map (fun a => (a, [ranking])) = some x from first)
            show (takeFirst [ranking] >>= _) = none
            rw [takeFirst_beyond beyond]
            rfl
  unfold readWhole
  rw [fails]

/-! ## The statement -/

/-- FORCE_SELECT answered, with `t` the state it completes in (R76, R192). -/
theorem forceSelect_answered {s t : State} {dt : Nat} {c : Command} (role : Bool) (r : Ref)
    (answered : ∀ u status results, runForce (s.pass dt) c = { state := u, status := status, results := results } →
      Answered u t s.mgmt.station c status results)
    (asked : c.arg 0 1 = if role then 0 else 1) (named : c.arg 1 1 = (refIdx r).val) :
    (r ∉ s.selector.cfg.list role → Answered (s.pass dt) t s.mgmt.station c 5 []) ∧
    (r ∈ s.selector.cfg.list role → (s.ref r).state ≠ .qualified → Answered (s.pass dt) t s.mgmt.station c 11 []) ∧
    (r ∈ s.selector.cfg.list role → (s.ref r).state = .qualified → ∃ u, UpstreamKept [] [] (s.pass dt) u ∧
      (u.selector.chosen role = some r ∧ u.selector.forced role = true) ∧ Answered u t s.mgmt.station c 0 []) := by
  have run := runForce_named (s := s.pass dt) asked named
  refine ⟨fun unlisted => answered _ 5 [] (run.trans (if_pos unlisted)), fun listed waits => answered _ 11 [] ?_,
    fun listed qualified => ?_⟩
  · exact run.trans ((if_neg (not_not_intro listed)).trans (if_pos waits))
  · obtain ⟨kept, selected⟩ := force_selects (s := s.pass dt) (role := role) (r := r) ⟨listed, qualified⟩
    exact ⟨_, kept, selected, answered _ 0 []
      (run.trans ((if_neg (not_not_intro listed)).trans (if_neg (not_not_intro qualified))))⟩

/-- RELEASE of a role answered, with `t` the state it completes in (R77, R192). -/
theorem release_answered {s t : State} {dt : Nat} {c : Command} (role : Bool)
    (answered : ∀ u status results, runRelease (s.pass dt) c = { state := u, status := status, results := results } →
      Answered u t s.mgmt.station c status results)
    (asked : c.arg 0 1 = if role then 0 else 1) :
    (s.selector.forced role = false → Answered (s.pass dt) t s.mgmt.station c 0 []) ∧
    (s.selector.forced role = true → ∃ u, UpstreamKept [] [] (s.pass dt) u ∧ u.selector.forced role = false ∧
      (∀ r, s.selector.chosen role = some r → s.candidate role r →
        (s.selector.cfg.revertive = false → u.selector.chosen role = some r) ∧
        (s.selector.cfg.revertive = true → (role = true → s.rolesMatch) → u.selector.chosen role = s.best role)) ∧
      Answered u t s.mgmt.station c 0 []) := by
  refine ⟨fun free => answered _ 0 [] (runRelease_free asked free), fun forced => ?_⟩
  obtain ⟨kept, free, stays⟩ := release_role (s.pass dt) role
  refine ⟨_, kept, free, fun r selected there => ?_, answered _ 0 [] (runRelease_forced asked forced)⟩
  have best : (s.pass dt).best role = s.best role := by cases role <;> rfl
  rw [← best]
  exact stays r selected there

/-- Settles O56: the two commands, the re-evaluation, and the write by what is written. -/
theorem forceAndRelease : Obligations.ForceAndRelease := by
  refine ⟨?_, fun s => ?_, ?_, ?_⟩
  · intro s dt c rest head v x role id
    refine ⟨fun type => ?_, fun type => ?_⟩
    · have answered := State.complete_answered s dt (ofType 0x16) runForce c rest head (decide_eq_true type)
      refine ⟨_, rfl, fun bad => answered _ 5 [] (runForce_badValue bad), ?_⟩
      intro r small named list
      have asked : role = if decide (role = 0) then 0 else 1 := roleNumber_eq small
      have lists : list = s.selector.cfg.list (decide (role = 0)) := listOfNumber_eq _ _
      rw [lists]
      obtain ⟨unlisted, waits, taken⟩ := forceSelect_answered (decide (role = 0)) r answered asked named
      refine ⟨unlisted, waits, fun listed qualified => ?_⟩
      obtain ⟨u, kept, selected, told⟩ := taken listed qualified
      refine ⟨u, kept, fun phase => ?_, fun freq => ?_, told⟩
      · rw [decide_eq_true phase] at selected
        exact selected
      · rw [decide_eq_false (by rw [freq]; decide)] at selected
        exact selected
    · have answered := State.complete_answered s dt (ofType 0x17) runRelease c rest head (decide_eq_true type)
      refine ⟨_, rfl, fun bad => answered _ 5 [] (runRelease_badValue bad), fun phase => ?_, fun freq => ?_,
        fun phase forced => ?_, fun freq forced => ?_⟩
      · exact (release_answered true answered phase).1
      · exact (release_answered false answered freq).1
      · obtain ⟨u, kept, free, stays, told⟩ := (release_answered true answered phase).2 forced
        refine ⟨u, kept, free, fun r selected listed qualified => ?_, told⟩
        obtain ⟨keeps, reverts⟩ := stays r selected ⟨listed, qualified⟩
        exact ⟨keeps, fun revertive matched => reverts revertive fun _ => matched⟩
      · obtain ⟨u, kept, free, stays, told⟩ := (release_answered false answered freq).2 forced
        refine ⟨u, kept, free, fun r selected listed qualified => ?_, told⟩
        obtain ⟨keeps, reverts⟩ := stays r selected ⟨listed, qualified⟩
        exact ⟨keeps, fun revertive => reverts revertive nofun⟩
  · refine ⟨reevaluateRoles_role s true, reevaluateRoles_role s false,
      ⟨_, _, fun h => if_pos ((evalOf_lapsed_iff s true).2 h), fun h => if_neg (mt (evalOf_lapsed_iff s true).1 h),
        fun h => if_pos ((evalOf_lapsed_iff s false).2 h), fun h => if_neg (mt (evalOf_lapsed_iff s false).1 h),
        reevaluateRoles_counts s⟩, (down_reevaluateRoles s).kept, bestFreq_find s, fun plain => bestPhase_find plain,
      fun ranked => ⟨best_none_iff s true, fun r best => ⟨best_candidate (role := true) best, fun q there => ?_⟩⟩⟩
    rw [bestPhase_ranked ranked] at best
    exact highest_filter_spec _ _ _ r best q there.1 (decide_eq_true there.2)
  · intro s dt c phase freq revertive ranking few few' puts v x cfg good
    have decoded := takeSelectorCfg_fields (x := cfg) few few'
    have short : (selectorFields cfg).length < 65536 := by
      rw [selectorFields_length]
      show 1 + phase.length + (1 + freq.length) + 1 + 1 < 65536
      omega
    have starts : 0 < v.putStarts 7 := show 0 < 1 by decide
    refine ⟨fun bad => ?_, fun fine same => ?_, fun fine changed => ?_⟩
    · exact put_refused s dt c 7 0 (selectorFields cfg) 5 puts (by decide) (by decide) starts (by decide) short
        (putSelector_refused decoded bad)
    · exact put_written s dt c 7 0 (selectorFields cfg) v false True puts (by decide) (by decide) starts (by decide) short
        ((putSelector_good decoded fine).trans (if_pos same)) (by decide)
    · obtain ⟨t, run, stored⟩ := put_written s dt c 7 0 (selectorFields cfg)
        (v.updSel fun y => { y with cfg := cfg }).reevaluate false True puts (by decide) (by decide) starts (by decide)
        short ((putSelector_good decoded fine).trans (if_neg changed)) (by decide)
      refine ⟨_, t, run, stored, (down_updSel v _).kept.trans (kept_reevaluate _), reevaluate_cfg _,
        fun r selected => (written_role v cfg true selected).1, fun r selected => (written_role v cfg false selected).1,
        fun r selected => (written_role v cfg true selected).2, fun r selected => (written_role v cfg false selected).2⟩
  · intro s dt c phase freq mode ranking few few' puts bad
    have short : (selectorBytes phase freq mode ranking).length < 65536 := by
      rw [selectorBytes_length]
      omega
    have refused : (s.pass dt).putSelector (selectorBytes phase freq mode ranking) = .refused 5 := by
      unfold State.putSelector
      rw [takeSelectorCfg_beyond few few' bad]
      rfl
    exact put_refused s dt c 7 0 _ 5 puts (by decide) (by decide) (show 0 < 1 by decide) (by decide) short refused

end Sys2Proof.Machine
end

section
/-! PROOFS. The clocks: they stay within their ranges and run at the rate of R90, however time passes; and with them what
every step keeps of F, I and the lock runs (O7). -/
namespace Sys2Proof.Machine
open Sys2Proof

/-! ## The rate of R90 -/

/-- A division rounded up takes less than one divisor beyond what it divides. -/
theorem ceilDiv_spec {d : Nat} (pos : 0 < d) (n : Nat) : n ≤ ceilDiv n d * d ∧ ceilDiv n d * d < n + d := by
  unfold ceilDiv
  have parts := Nat.div_add_mod (n + (d - 1)) d
  have small := Nat.mod_lt (n + (d - 1)) pos
  rw [Nat.mul_comm] at parts
  omega

/-- A division rounded up is at most any number whose multiple of the divisor reaches what it divides. -/
theorem ceilDiv_le {d n k : Nat} (pos : 0 < d) (reaches : n ≤ k * d) : ceilDiv n d ≤ k := by
  by_contra more
  have step : (k + 1) * d ≤ ceilDiv n d * d := Nat.mul_le_mul_right d (Nat.lt_of_not_le more)
  rw [Nat.succ_mul] at step
  have upper := (ceilDiv_spec pos n).2
  omega

/-- Within the Pull Range the rate is positive and below two units of oscillator time (R90, R96). -/
theorem rateOf_inRange {x : Servo} (h : x.inRange) :
    (rateOf x.f : Int) = 1000000000000 + x.f ∧ 0 < rateOf x.f ∧ rateOf x.f < unitParts := by
  obtain ⟨pulled, -, -, -, limit⟩ := h
  unfold rateOf unitParts
  omega

/-- The oscillator's time `osc` has moved the clocks on by `units`, the left-over parts kept (R90). -/
structure Clock.Ran (f : Int) (units osc : Nat) (c d : Clock) : Prop where
  fields : d = { c with
    counter := c.counter + units, residence := c.residence + units, osc := c.osc + osc
    residue := d.residue, boundaryDue := d.boundaryDue }
  parts  : unitParts * units + d.residue = osc * rateOf f + c.residue
  left   : d.residue < unitParts

/-- Nothing passes. -/
theorem Clock.Ran.rest {f : Int} {c : Clock} (left : c.residue < unitParts) : c.Ran f 0 0 c :=
  ⟨rfl, by omega, left⟩

/-- Whether the work of a boundary is outstanding is no part of the run. -/
theorem Clock.Ran.due {f : Int} {units osc : Nat} {c d : Clock} (h : c.Ran f units osc d) (b : Bool) :
    c.Ran f units osc { d with boundaryDue := b } :=
  ⟨by rw [h.fields], h.parts, h.left⟩

/-- A run of given units takes the least oscillator time that they need (R90). -/
theorem Clock.ran_run {x : Servo} (h : x.inRange) {c : Clock} (left : c.residue < unitParts) (units : Nat) :
    c.Ran x.f units (ceilDiv (unitParts * units - c.residue) (rateOf x.f)) (c.run x.f units) := by
  obtain ⟨-, pos, below⟩ := rateOf_inRange h
  obtain ⟨enough, tight⟩ := ceilDiv_spec pos (unitParts * units - c.residue)
  have residue : (c.run x.f units).residue =
      c.residue + ceilDiv (unitParts * units - c.residue) (rateOf x.f) * rateOf x.f - unitParts * units := rfl
  refine ⟨rfl, ?_, ?_⟩
  · omega
  · rcases Nat.eq_zero_or_pos units with none | some
    · have still : ceilDiv (unitParts * units - c.residue) (rateOf x.f) = 0 :=
        Nat.le_zero.1 (ceilDiv_le pos (by rw [none]; omega))
      rw [residue, still]
      omega
    · have one : unitParts ≤ unitParts * units := Nat.le_mul_of_pos_right _ some
      omega

/-- Oscillator time that stays short of the boundary gives the units it holds, the rest left over (R90). -/
theorem Clock.ran_whole (f : Int) (osc : Nat) (c : Clock) :
    c.Ran f ((c.residue + osc * rateOf f) / unitParts) osc
      { c with
        counter := c.counter + (c.residue + osc * rateOf f) / unitParts
        residence := c.residence + (c.residue + osc * rateOf f) / unitParts
        residue := (c.residue + osc * rateOf f) % unitParts
        osc := c.osc + osc } := by
  refine ⟨rfl, ?_, Nat.mod_lt _ (by decide)⟩
  rw [Nat.div_add_mod, Nat.add_comm]

/-- The units that oscillator time holds, once they reach `units`, need no more than that time (R90). -/
theorem Clock.run_within {x : Servo} (h : x.inRange) {c : Clock} {units osc : Nat}
    (reaches : units ≤ (c.residue + osc * rateOf x.f) / unitParts) :
    ceilDiv (unitParts * units - c.residue) (rateOf x.f) ≤ osc := by
  have whole := (Nat.le_div_iff_mul_le (show 0 < unitParts by decide)).1 reaches
  rw [Nat.mul_comm] at whole
  exact ceilDiv_le (rateOf_inRange h).2.1 (by omega)

/-! ## The room of a second -/

theorem Clock.room_due {c : Clock} (due : c.boundaryDue = true) : c.room = 0 := if_pos due

/-- With no boundary outstanding the room ends at the next whole second. -/
theorem Clock.room_open {c : Clock} (clear : c.boundaryDue = false) :
    0 < c.room ∧ c.counter + c.room = (secondsOf c.counter + 1) * secUnits := by
  have room : c.room = secUnits - c.counter % secUnits := if_neg (by rw [clear]; decide)
  rw [room]
  unfold secondsOf secUnits
  omega

/-- How time passes before an event from outside (log 6): nothing at a boundary, the time given short of the next one, or
all units but the last. -/
theorem Clock.pass_cases (f : Int) (dt : Nat) (c : Clock) :
    (c.boundaryDue = true ∧ c.pass f dt = c) ∨
    (c.boundaryDue = false ∧ (c.residue + dt * rateOf f) / unitParts < c.room ∧ c.pass f dt = { c with
      counter := c.counter + (c.residue + dt * rateOf f) / unitParts
      residence := c.residence + (c.residue + dt * rateOf f) / unitParts
      residue := (c.residue + dt * rateOf f) % unitParts
      osc := c.osc + dt }) ∨
    (c.boundaryDue = false ∧ c.room ≤ (c.residue + dt * rateOf f) / unitParts ∧
      c.pass f dt = c.run f (c.room - 1)) := by
  unfold Clock.pass
  dsimp only
  split
  · next due => exact .inl ⟨due, rfl⟩
  · next clear =>
    have clear' := Bool.eq_false_iff.2 clear
    split
    · next short => exact .inr (.inl ⟨clear', short, rfl⟩)
    · next full => exact .inr (.inr ⟨clear', Nat.not_lt.1 full, rfl⟩)

/-- How an instant `d` units ahead is reached: the clocks stand there, or run short of the boundary, or up to it. -/
theorem Clock.reach_cases {f : Int} {d : Nat} {c c' : Clock} (h : c.reach f d = some c') :
    (d = 0 ∧ c' = c) ∨ (d < c.room ∧ c' = c.run f d) ∨
      (0 < d ∧ d = c.room ∧ secondsOf c.counter + 1 < secRange ∧ c' = { c.run f d with boundaryDue := true }) := by
  unfold Clock.reach at h
  split at h
  · next zero => cases h; exact .inl ⟨zero, rfl⟩
  · next some =>
    split at h
    · next short => cases h; exact .inr (.inl ⟨short, rfl⟩)
    · split at h
      · next full => cases h; exact .inr (.inr ⟨Nat.pos_of_ne_zero some, full.1, full.2, rfl⟩)
      · cases h

/-- How the next second boundary is reached. -/
theorem Clock.toBoundary_cases {f : Int} {c c' : Clock} (h : c.toBoundary f = some c') :
    (c.boundaryDue = true ∧ c' = c) ∨ (c.boundaryDue = false ∧ secondsOf c.counter + 1 < secRange ∧
      c' = { c.run f c.room with boundaryDue := true }) := by
  unfold Clock.toBoundary at h
  split at h
  · next due => cases h; exact .inl ⟨due, rfl⟩
  · next clear =>
    split at h
    · next within => cases h; exact .inr ⟨Bool.eq_false_iff.2 clear, within, rfl⟩
    · cases h

/-- How an oscillator time is reached: it is past, or comes short of the boundary, or together with it (log 4). -/
theorem Clock.reachOsc_cases {f : Int} {target : Nat} {c c' : Clock} (h : c.reachOsc f target = some c') :
    (target ≤ c.osc ∧ c' = c) ∨
    (c.osc < target ∧ (c.residue + (target - c.osc) * rateOf f) / unitParts < c.room ∧ c' = { c with
      counter := c.counter + (c.residue + (target - c.osc) * rateOf f) / unitParts
      residence := c.residence + (c.residue + (target - c.osc) * rateOf f) / unitParts
      residue := (c.residue + (target - c.osc) * rateOf f) % unitParts
      osc := target }) ∨
    (c.osc < target ∧ c.room ≤ (c.residue + (target - c.osc) * rateOf f) / unitParts ∧ c.boundaryDue = false ∧
      secondsOf c.counter + 1 < secRange ∧ target ≤ c'.osc ∧ c' = { c.run f c.room with boundaryDue := true }) := by
  unfold Clock.reachOsc at h
  dsimp only at h
  split at h
  · next past => cases h; exact .inl ⟨past, rfl⟩
  · next ahead =>
    have ahead' := Nat.not_le.1 ahead
    split at h
    · next short => cases h; exact .inr (.inl ⟨ahead', short, rfl⟩)
    · next full =>
      obtain ⟨there, test⟩ := Option.mem_filter_iff.1 h
      obtain ⟨clear, late⟩ : c.boundaryDue = false ∧ target ≤ c'.osc := by simpa using test
      rcases Clock.toBoundary_cases there with ⟨due, -⟩ | ⟨-, within, arrived⟩
      · rw [clear] at due; cases due
      · exact .inr (.inr ⟨ahead', Nat.not_lt.1 full, clear, within, late, arrived⟩)

/-! ## The ranges of the clocks (R90, R92) -/

/-- Short of the boundary the counter stays below it, with no boundary outstanding. -/
theorem Clock.inRange_short {c d : Clock} (h : c.inRange) {units : Nat} (short : units < c.room)
    (counter : d.counter = c.counter + units) (epoch : d.epoch = c.epoch) (due : d.boundaryDue = c.boundaryDue) :
    d.inRange := by
  obtain ⟨top, byte, -⟩ := h
  have clear : c.boundaryDue = false := Bool.eq_false_iff.2 fun due => by
    rw [Clock.room_due due] at short; omega
  have second := (Clock.room_open clear).2
  refine ⟨?_, epoch ▸ byte, fun e => by rw [due, clear] at e; cases e⟩
  rw [counter]
  unfold counterTop secondsOf secUnits secRange at *
  omega

/-- At the boundary the counter stands at the next whole second, which is within its range. -/
theorem Clock.inRange_boundary {c d : Clock} (h : c.inRange) (clear : c.boundaryDue = false)
    (within : secondsOf c.counter + 1 < secRange) (counter : d.counter = c.counter + c.room)
    (epoch : d.epoch = c.epoch) : d.inRange := by
  have second := (Clock.room_open clear).2
  refine ⟨?_, epoch ▸ h.2.1, fun _ => ?_⟩ <;> rw [counter, second]
  · unfold counterTop secUnits secRange at *
    omega
  · exact Nat.mul_mod_left _ _

theorem Clock.inRange_pass (f : Int) (dt : Nat) {c : Clock} (h : c.inRange) : (c.pass f dt).inRange := by
  rcases Clock.pass_cases f dt c with ⟨-, e⟩ | ⟨-, short, e⟩ | ⟨clear, -, e⟩ <;> rw [e]
  · exact h
  · exact Clock.inRange_short h short rfl rfl rfl
  · exact Clock.inRange_short h (units := c.room - 1) (Nat.sub_lt (Clock.room_open clear).1 Nat.one_pos) rfl rfl rfl

theorem Clock.inRange_reach {f : Int} {d : Nat} {c c' : Clock} (there : c.reach f d = some c') (h : c.inRange) :
    c'.inRange := by
  rcases Clock.reach_cases there with ⟨-, rfl⟩ | ⟨short, rfl⟩ | ⟨ahead, full, within, rfl⟩
  · exact h
  · exact Clock.inRange_short h short rfl rfl rfl
  · have clear : c.boundaryDue = false := Bool.eq_false_iff.2 fun due => by
      rw [Clock.room_due due] at full; omega
    exact Clock.inRange_boundary h clear within (by rw [← full]; rfl) rfl

theorem Clock.inRange_toBoundary {f : Int} {c c' : Clock} (there : c.toBoundary f = some c') (h : c.inRange) :
    c'.inRange := by
  rcases Clock.toBoundary_cases there with ⟨-, rfl⟩ | ⟨clear, within, rfl⟩
  · exact h
  · exact Clock.inRange_boundary h clear within rfl rfl

theorem Clock.inRange_reachOsc {f : Int} {target : Nat} {c c' : Clock} (there : c.reachOsc f target = some c')
    (h : c.inRange) : c'.inRange := by
  rcases Clock.reachOsc_cases there with ⟨-, rfl⟩ | ⟨-, short, rfl⟩ | ⟨-, -, clear, within, -, rfl⟩
  · exact h
  · exact Clock.inRange_short h short rfl rfl rfl
  · exact Clock.inRange_boundary h clear within rfl rfl

/-! ## The passing of time (O7) -/

/-- What passes before an event from outside is no more than was given, and less only short of the next boundary. -/
theorem Clock.ran_pass {x : Servo} (h : x.inRange) {c : Clock} (left : c.residue < unitParts) (dt : Nat) :
    ∃ units osc, c.Ran x.f units osc (c.pass x.f dt) ∧ osc ≤ dt ∧
      (osc < dt → c.boundaryDue = true ∨ units + 1 = c.room) := by
  rcases Clock.pass_cases x.f dt c with ⟨due, e⟩ | ⟨-, -, e⟩ | ⟨clear, full, e⟩ <;> rw [e]
  · exact ⟨0, 0, Clock.Ran.rest left, Nat.zero_le _, fun _ => .inl due⟩
  · exact ⟨_, dt, Clock.ran_whole x.f dt c, Nat.le_refl _, fun less => absurd less (Nat.lt_irrefl _)⟩
  · exact ⟨c.room - 1, _, Clock.ran_run h left _, Clock.run_within h (by omega),
      fun _ => .inr (Nat.sub_add_cancel (Clock.room_open clear).1)⟩

theorem Clock.ran_reach {x : Servo} (h : x.inRange) {c c' : Clock} (left : c.residue < unitParts) {units : Nat}
    (there : c.reach x.f units = some c') : ∃ osc, c.Ran x.f units osc c' := by
  rcases Clock.reach_cases there with ⟨rfl, rfl⟩ | ⟨-, rfl⟩ | ⟨-, -, -, rfl⟩
  · exact ⟨0, Clock.Ran.rest left⟩
  · exact ⟨_, Clock.ran_run h left units⟩
  · exact ⟨_, (Clock.ran_run h left units).due true⟩

/-- A boundary that an oscillator time falls together with is reached at that very time. -/
theorem Clock.ran_reachOsc {x : Servo} (h : x.inRange) {c c' : Clock} (left : c.residue < unitParts) {target : Nat}
    (there : c.reachOsc x.f target = some c') :
    ∃ units osc, c.Ran x.f units osc c' ∧ (c.osc ≤ target → c'.osc = target) := by
  rcases Clock.reachOsc_cases there with ⟨past, rfl⟩ | ⟨ahead, -, rfl⟩ | ⟨-, full, -, -, late, rfl⟩
  · exact ⟨0, 0, Clock.Ran.rest left, fun ahead => Nat.le_antisymm ahead past⟩
  · have ran := Clock.ran_whole x.f (target - c.osc) c
    rw [Nat.add_sub_cancel' (Nat.le_of_lt ahead)] at ran
    exact ⟨_, target - c.osc, ran, fun _ => rfl⟩
  · refine ⟨c.room, _, (Clock.ran_run h left c.room).due true, fun _ => Nat.le_antisymm ?_ late⟩
    have within := Clock.run_within h full
    show c.osc + ceilDiv (unitParts * c.room - c.residue) (rateOf x.f) ≤ target
    omega

/-- The parts of R90 as they are written for whole numbers. -/
theorem Clock.Ran.parts_int {x : Servo} (h : x.inRange) {units osc : Nat} {c d : Clock} (ran : c.Ran x.f units osc d) :
    2000000000000 * (units : Int) + d.residue = osc * (1000000000000 + x.f) + c.residue := by
  have parts : ((unitParts * units + d.residue : Nat) : Int) = ((osc * rateOf x.f + c.residue : Nat) : Int) :=
    congrArg _ ran.parts
  rw [Nat.cast_add, Nat.cast_add, Nat.cast_mul, Nat.cast_mul, (rateOf_inRange h).1] at parts
  exact parts

end Sys2Proof.Machine
end

section
/-! PROOFS. What every command keeps of the ranges of the Time Engine (O7): `RangesKept` is closed under composition and
holds of every `Calm` operation, so that only what moves the clocks, or writes the Servo Parameters, is looked into. -/
namespace Sys2Proof.Machine
open Sys2Proof

/-! ## The relation -/

/-- F, I, the lock runs and the Pull Range stay within their ranges (R96, R98, R107), and the clocks within theirs (R90,
R92). -/
structure RangesKept (s t : State) : Prop where
  servo : s.servo.inRange → t.servo.inRange
  clock : s.clock.inRange → t.clock.inRange

theorem RangesKept.refl (s : State) : RangesKept s s := ⟨id, id⟩

theorem RangesKept.trans {s t u : State} (a : RangesKept s t) (b : RangesKept t u) : RangesKept s u :=
  ⟨fun h => b.servo (a.servo h), fun h => b.clock (a.clock h)⟩

/-- `trans` with its arguments the other way round, the last operation first. -/
theorem RangesKept.after {s t u : State} (b : RangesKept t u) (a : RangesKept s t) : RangesKept s u := a.trans b

theorem RangesKept.ite {s t u : State} {c : Prop} [Decidable c] (a : RangesKept s t) (b : RangesKept s u) :
    RangesKept s (if c then t else u) := by split <;> assumption

/-- An event that happens only where its guard holds. -/
theorem RangesKept.guarded {s t : State} {c : Prop} [Decidable c] (h : RangesKept s t) :
    RangesKept s (if c then t else s) := h.ite (RangesKept.refl s)

/-- The same where the guard is what forbids the event. -/
theorem RangesKept.unless {s t : State} {c : Prop} [Decidable c] (h : RangesKept s t) :
    RangesKept s (if c then s else t) := (RangesKept.refl s).ite h

theorem RangesKept.foldl {α : Type} (f : State → α → State) (h : ∀ t a, RangesKept t (f t a)) (l : List α) (s : State) :
    RangesKept s (l.foldl f s) := foldl_relates RangesKept.refl RangesKept.trans h l s

theorem Calm.ranges {s t : State} (c : Calm s t) : RangesKept s t := ⟨c.range, by rw [c.clock]; exact id⟩

theorem Quiet.ranges {s t : State} (q : Quiet s t) : RangesKept s t := q.calm.ranges

theorem Slewed.ranges {s t : State} (q : Slewed s t) : RangesKept s t := q.calm.ranges

theorem Fair.ranges {s t : State} (f : Fair s t) : RangesKept s t := f.calm.ranges

/-- An operation that leaves the Time Engine alone. -/
theorem RangesKept.aside {s t : State} (servo : t.servo = s.servo) (clock : t.clock = s.clock) : RangesKept s t :=
  ⟨fun h => servo ▸ h, fun h => clock ▸ h⟩

/-! ## The passing of time -/

theorem ranges_pass (s : State) (dt : Nat) : RangesKept s (s.pass dt) := ⟨id, Clock.inRange_pass _ dt⟩

theorem ranges_reach {s u : State} {d : Nat} (h : s.reach d = some u) : RangesKept s u := by
  obtain ⟨c, there, rfl⟩ := Option.map_eq_some_iff.1 h
  exact ⟨id, Clock.inRange_reach there⟩

theorem ranges_reachOsc {s u : State} {d : Nat} (h : s.reachOsc d = some u) : RangesKept s u := by
  obtain ⟨c, there, rfl⟩ := Option.map_eq_some_iff.1 h
  exact ⟨id, Clock.inRange_reachOsc there⟩

/-- An operation taken where the relay has come to, if it can come there. -/
theorem ranges_atInstant (s : State) (there : Option State) (act : State → State)
    (came : ∀ u, there = some u → RangesKept s u) (h : ∀ u, RangesKept u (act u)) :
    RangesKept s (s.atInstant there act) := by
  unfold State.atInstant
  split
  · next u => exact (came u rfl).trans (h u)
  · exact RangesKept.refl s

theorem ranges_atReach (s : State) (d : Nat) (act : State → State) (h : ∀ u, RangesKept u (act u)) :
    RangesKept s (s.atInstant (s.reach d) act) := ranges_atInstant s _ act (fun _ => ranges_reach) h

theorem ranges_atReachOsc (s : State) (osc : Nat) (act : State → State) (h : ∀ u, RangesKept u (act u)) :
    RangesKept s (s.atInstant (s.reachOsc osc) act) := ranges_atInstant s _ act (fun _ => ranges_reachOsc) h

theorem ranges_atTimer (s : State) (t : Timer) (seconds : Nat) (act : State → State) (h : ∀ u, RangesKept u (act u)) :
    RangesKept s (s.atTimer t seconds act) := by
  unfold State.atTimer
  split
  · exact ranges_atReach s _ act h
  · exact RangesKept.refl s

theorem ranges_atEnd (s : State) (instant : Option Nat) (act : State → State) (h : ∀ u, RangesKept u (act u)) :
    RangesKept s (s.atEnd instant act) := by
  unfold State.atEnd
  split
  · exact ranges_atReach s _ act h
  · exact RangesKept.refl s

theorem ranges_afterSpan (s : State) (start : Option Nat) (span : Nat) (act : State → State)
    (h : ∀ u, RangesKept u (act u)) : RangesKept s (s.afterSpan start span act) := by
  unfold State.afterSpan
  split
  · exact ranges_atReach s _ act h
  · exact RangesKept.refl s

/-! ## The counter moved (R91 to R95) -/

/-- The blocks of R94 take a change of Epoch within the laws of their queues and settings. -/
theorem calm_epochChange (s : State) (before : Nat) : Calm s (s.epochChange before) :=
  (((((quiet_sessionsEpoch s).calm.trans (quiet_monitorEpoch _).calm).trans (slewed_discardSuspended _).calm).trans
    (quiet_ringEpoch _ before).calm).trans (quiet_sitesEpoch _).calm).trans (quiet_pinsEpoch _).calm

theorem Clock.inRange_moveTo {counter : Nat} (top : counter ≤ counterTop) (c : Clock) : (c.moveTo counter).inRange :=
  ⟨top, Nat.mod_lt _ (by decide), nofun⟩

/-- Wherever the counter stood, it is within its range once it is moved there. -/
theorem ranges_moveCounter (s : State) (counter : Nat) (top : counter ≤ counterTop) :
    RangesKept s (s.moveCounter counter) :=
  (calm_epochChange _ _).ranges.after (t := s.withClock (s.clock.moveTo counter))
    ⟨id, fun _ => Clock.inRange_moveTo top _⟩

theorem ranges_timeStep (s : State) (v : Int) : RangesKept s (s.timeStep v) :=
  (ranges_moveCounter _ _ (Nat.min_le_right _ _)).after (quiet_countServo s _).ranges

theorem ranges_timeSet (s : State) (seconds nanos : Nat) (last : seconds < secRange) (whole : nanos < 1000000000) :
    RangesKept s (s.timeSet seconds nanos) := by
  refine (ranges_moveCounter _ _ ?_).after (quiet_countServo s _).ranges
  unfold timeOf counterTop secUnits nsUnits secRange at *
  omega

/-- At the carry the counter has run out of its range, and returns to 0 (R91). -/
theorem ranges_carry (s : State) (c : Clock) : RangesKept s (s.withClock c).counterCarry :=
  have counted := (quiet_countServo (s.withClock c) fun k => { k with counterWraps := bump k.counterWraps }).ranges
  have carried := (calm_epochChange (((s.withClock c).countServo fun k =>
    { k with counterWraps := bump k.counterWraps }).withClock (c.moveTo 0)) counterTop).ranges
  ⟨fun h => carried.servo (counted.servo h), fun _ => carried.clock (Clock.inRange_moveTo (Nat.zero_le _) c)⟩

/-! ## The second boundary -/

theorem ranges_decideFresh (s : State) (e : Int) : RangesKept s (s.decideFresh e) := by
  unfold State.decideFresh
  dsimp only
  refine RangesKept.ite ?_ (RangesKept.ite ?_ ?_)
  · exact (fair_noInput _).ranges.after ((ranges_timeStep _ e).after (slewed_updReal s _ rfl).ranges)
  · have far := (fair_noInput _).ranges.after (slewed_countReal s fun c => { c with tooFar := bump c.tooFar }).ranges
    split
    · exact far.trans (fair_setDefects _ _ _).ranges
    · exact far
  · exact (fair_giveInput _ 0).ranges.after (slewed_absorb s e).ranges

theorem ranges_takeDecision (s : State) (e : Int) : RangesKept s (s.takeDecision e) := by
  unfold State.takeDecision
  dsimp only
  refine (slewed_countReal s fun c => { c with decisions := bump c.decisions }).ranges.trans ?_
  split
  · exact ranges_decideFresh _ e
  · exact RangesKept.ite ((fair_giveInput _ _).ranges.after (slewed_resume _ _).ranges)
      ((ranges_decideFresh _ e).after (slewed_discardSuspended _).ranges)

theorem ranges_followSample (s : State) (e : Option Int) : RangesKept s (s.followSample e) := by
  unfold State.followSample
  dsimp only
  refine (slewed_slewProgress s).ranges.trans ?_
  split
  · exact (fair_noInput _).ranges
  · split
    · exact ranges_takeDecision _ _
    · exact (fair_giveInput _ _).ranges
    · exact (fair_noInput _).ranges

theorem ranges_work (g : Gathered) (s : State) (w : BoundaryWork) : RangesKept s (s.work g w) := by
  cases w with
  | samples =>
    exact (ranges_followSample _ _).after ((quiet_dropSamples _ _).ranges.after
      (Fair.foldl (fun (t : State) r => t.judgeSample (g.samples r) r) (fun t r => fair_judgeSample t _ r)
        [.gnss, .pkt0, .pkt1] s).ranges)
  | windows => exact (fair_windowsWork s g).ranges
  | tracking => exact (fair_trackingWork s g).ranges
  | grade => exact (quiet_regrade s).ranges
  | notices => exact (quiet_notices s).ranges

theorem ranges_secondBoundary (s : State) (order : List BoundaryWork) : RangesKept s (s.secondBoundary order) := by
  unfold State.secondBoundary State.atBoundary
  split
  · next u e =>
    obtain ⟨c, there, rfl⟩ := Option.map_eq_some_iff.1 e
    have settled : RangesKept s ((s.arrive c).withClock c.settle) :=
      ⟨id, fun h => have ⟨top, byte, _⟩ := Clock.inRange_toBoundary there h; ⟨top, byte, nofun⟩⟩
    exact (quiet_addMeanF _ _).ranges.after ((RangesKept.foldl _ (ranges_work _) _ _).after
      ((quiet_turnSecond _).ranges.after settled))
  · exact RangesKept.refl s

theorem ranges_boundaryWhere (s : State) (state : ServoState) (reached : Servo → Bool) :
    RangesKept s (s.boundaryWhere state reached) := (ranges_secondBoundary s []).guarded

/-! ## The restarts (R201, R202) -/

theorem ranges_powerUp (s : State) (straps : BitVec 4) : RangesKept s (s.powerUp straps) :=
  ⟨fun _ => by
    show Servo.inRange {}
    exact ⟨by decide, by decide, by decide, by decide, by decide⟩,
   fun _ => ⟨Nat.zero_le _, Nat.zero_lt_succ _, nofun⟩⟩

theorem ranges_zeroCounters (s : State) : RangesKept s s.zeroCounters := ⟨id, id⟩

theorem ranges_restart (s : State) (scope : RestartScope) : RangesKept s (s.restart scope) := by
  cases scope with
  | datapath =>
    have emptied (t : State) : RangesKept t t.restartMgmt := RangesKept.aside rfl rfl
    exact (ranges_zeroCounters _).after ((emptied _).after (calm_restartBlocks s).ranges)
  | full => exact ranges_powerUp s _

theorem ranges_restartAfterLoss (s : State) (scope : Option RestartScope) :
    RangesKept s (s.restartAfterLoss scope) := by
  cases scope with
  | none => exact RangesKept.refl s
  | some scope => exact (ranges_restart _ scope).after (RangesKept.aside rfl rfl)

/-! ## The traffic path (01) -/

theorem ranges_updPort (s : State) (p : Port) (f : PortState → PortState) : RangesKept s (s.updPort p f) :=
  RangesKept.aside rfl rfl

theorem ranges_judgedThen (s : State) (p : Port) (f : Frame) (next : State → State) (h : ∀ t, RangesKept t (next t)) :
    RangesKept s (s.judgedThen p f next) := by
  unfold State.judgedThen
  split
  · exact h s
  · exact (quiet_countPort s p _).ranges
  · exact (quiet_countPort s p _).ranges

theorem ranges_acceptCommand (s : State) (p : Port) (f : Frame) : RangesKept s (s.acceptCommand p f) := by
  unfold State.acceptCommand
  dsimp only
  repeat' refine RangesKept.ite (RangesKept.aside rfl rfl) ?_
  exact RangesKept.aside rfl rfl

theorem ranges_manage (s : State) (p : Port) (f : Frame) : RangesKept s (s.manage p f) := by
  unfold State.manage
  split
  · exact RangesKept.ite (ranges_judgedThen s p f _ fun t => ranges_acceptCommand t p f) (ranges_acceptCommand s p f)
  · exact ranges_acceptCommand s p f

theorem ranges_ownerTakes (s : State) (p : Port) (f : Frame) (stamps : Ingress) :
    RangesKept s (s.ownerTakes p f stamps) := by
  unfold State.ownerTakes
  split
  · exact (fair_clientSort s _ f stamps).ranges
  · exact (quiet_siteSort s _ f stamps).ranges
  · exact RangesKept.refl s

theorem ranges_forward (s : State) (p : Port) (e : EgressSet) (q : QueueClass) (x : QFrame) :
    RangesKept s (s.forward p e q x) := by
  unfold State.forward
  split
  · exact (quiet_countPort s p _).ranges
  · exact (Quiet.foldl (fun (t : State) k => (t.offer k q x).1) (fun t k => quiet_offer t k q x) _ s).ranges

theorem ranges_actOn (s : State) (p : Port) (f : Frame) (stamps : Ingress) (e : FlowEntry) :
    RangesKept s (s.actOn p f stamps e) := by
  unfold State.actOn
  split
  · exact ranges_forward s p _ _ _
  · exact ranges_forward s p _ _ _
  · exact RangesKept.ite (ranges_judgedThen s p f _ fun t => ranges_ownerTakes t p f stamps)
      (quiet_countPort s p _).ranges
  · exact ranges_manage s p f
  · exact (quiet_countPort s p _).ranges

theorem ranges_flow (s : State) (f : Vector FlowEntry 64) : RangesKept s { s with flow := f } :=
  RangesKept.aside rfl rfl

theorem ranges_classify (s : State) (p : Port) (f : Frame) (stamps : Ingress) :
    RangesKept s (s.classify p f stamps) := by
  unfold State.classify
  split
  · exact (ranges_actOn _ p f stamps _).after (ranges_flow s _)
  · exact (ranges_forward _ p _ _ _).after (quiet_countPort s p _).ranges

theorem ranges_receive (s : State) (p : Port) (ok : Bool) (f : Frame) : RangesKept s (s.receive p ok f) :=
  RangesKept.ite ((ranges_classify _ p f _).after (quiet_countPort s p _).ranges) (quiet_countPort s p _).ranges

theorem ranges_linkClient (s : State) (p : Port) (up : Bool) : RangesKept s (s.linkClient p up) := by
  unfold State.linkClient
  split
  · exact RangesKept.refl s
  · next c _ =>
    exact RangesKept.ite ((fair_syncLine _ c).ranges.after (fair_clientStart s c).ranges)
      ((fair_syncLine _ c).ranges.after (fair_clientStop s c).ranges)

theorem ranges_linkSite (s : State) (p : Port) (up : Bool) : RangesKept s (s.linkSite p up) := by
  unfold State.linkSite
  split
  · exact RangesKept.refl s
  · next k _ => exact RangesKept.ite (quiet_siteLinkUp s k).ranges (quiet_siteLinkDown s k).ranges

theorem ranges_linkUp (s : State) (p : Port) : RangesKept s (s.linkUp p) :=
  (quiet_report _ _ false).ranges.after ((ranges_linkSite _ p true).after ((ranges_linkClient _ p true).after
    (ranges_updPort s p _)))

theorem ranges_linkDown (s : State) (p : Port) : RangesKept s (s.linkDown p) :=
  (ranges_restartAfterLoss _ _).after ((quiet_report _ _ true).ranges.after ((ranges_linkSite _ p false).after
    ((ranges_linkClient _ p false).after ((quiet_flush _ p).ranges.after (ranges_updPort s p _)))))

theorem ranges_atEgress (s : State) (p : Port) (x : QFrame) : RangesKept s (s.atEgress p x).1 := by
  refine RangesKept.aside ?_ ?_
  all_goals
    unfold State.atEgress State.correct
    dsimp only
    repeat' split
    all_goals rfl

theorem ranges_egress (s : State) (p : Port) : RangesKept s (s.egress p) := by
  unfold State.egress
  dsimp only
  split
  · exact RangesKept.refl s
  · exact ((ranges_updPort _ p _).after ((ranges_atEgress _ p _).after (ranges_updPort s p _))).guarded

theorem ranges_endTransmit (s : State) (p : Port) (t : TxFrame) : RangesKept s (s.endTransmit p t) := by
  unfold State.endTransmit
  dsimp only
  have sent := RangesKept.ite (c := t.counted = true)
    ((quiet_countPort _ p fun c => { c with transmittedFrames := bump c.transmittedFrames }).ranges.after
      (ranges_updPort s p fun x => { x with tx := none })) (ranges_updPort s p fun x => { x with tx := none })
  split
  · exact sent.trans (ranges_restart _ _).guarded
  · exact sent

end Sys2Proof.Machine
end

section
/-! PROOFS. The writes and the commands keep the ranges of the Time Engine, and O7. -/
namespace Sys2Proof.Machine
open Sys2Proof

/-! ## Blocks beside the Time Engine -/

theorem ranges_updMgmt (s : State) (f : Mgmt → Mgmt) : RangesKept s (s.updMgmt f) := RangesKept.aside rfl rfl

theorem ranges_updAlarm (s : State) (f : Alarm → Alarm) : RangesKept s (s.updAlarm f) := RangesKept.aside rfl rfl

theorem ranges_updPin (s : State) (k : Fin 4) (f : Pin → Pin) : RangesKept s (s.updPin k f) := RangesKept.aside rfl rfl

theorem ranges_updSite (s : State) (k : Fin 6) (f : Site → Site) : RangesKept s (s.updSite k f) :=
  RangesKept.aside rfl rfl

theorem ranges_updClient (s : State) (c : Client) (f : ClientSession → ClientSession) : RangesKept s (s.updClient c f) :=
  RangesKept.aside rfl rfl

theorem ranges_updRef (s : State) (r : Ref) (f : Reference → Reference) : RangesKept s (s.updRef r f) :=
  RangesKept.aside rfl rfl

theorem ranges_updGnss (s : State) (f : Gnss → Gnss) : RangesKept s (s.updGnss f) := RangesKept.aside rfl rfl

theorem ranges_updSel (s : State) (f : Selector → Selector) : RangesKept s (s.updSel f) := RangesKept.aside rfl rfl

theorem ranges_updReal (s : State) (f : Realign → Realign) : RangesKept s (s.updReal f) := RangesKept.aside rfl rfl

theorem ranges_updHold (s : State) (f : Holdover → Holdover) : RangesKept s (s.updHold f) := RangesKept.aside rfl rfl

theorem ranges_useFree (s : State) : RangesKept s s.useFree := RangesKept.aside rfl rfl

/-- An operation that goes on from an offer keeps the ranges when both continuations do. -/
theorem ranges_offerThen {s t : State} (p : Port) (q : QueueClass) (f : QFrame) (yes no : State → State)
    (hs : RangesKept s t) (hy : ∀ u, RangesKept u (yes u)) (hn : ∀ u, RangesKept u (no u)) :
    RangesKept s (match t.offer p q f with
      | (u, true) => yes u
      | (u, false) => no u) := by
  have offered := hs.trans (quiet_offer t p q f).ranges
  split
  · next u e => rw [e] at offered; exact offered.trans (hy u)
  · next u e => rw [e] at offered; exact offered.trans (hn u)

/-! ## Entries written (R196) -/

/-- A written entry keeps the ranges; a refused one leaves nothing. -/
def EntryResult.keepsRanges (s : State) : EntryResult → Prop
  | .refused _ => True
  | .written t _ => RangesKept s t

theorem EntryResult.keepsRanges_ite {s : State} {c : Prop} [Decidable c] {x y : EntryResult} (a : x.keepsRanges s)
    (b : y.keepsRanges s) : (if c then x else y).keepsRanges s := by split <;> assumption

theorem ranges_putFlow (s : State) (i : Fin 64) (bs : List Byte) : (s.putFlow i bs).keepsRanges s := by
  unfold State.putFlow
  split
  · trivial
  · exact EntryResult.keepsRanges_ite trivial (EntryResult.keepsRanges_ite trivial
      (EntryResult.keepsRanges_ite trivial (ranges_flow s _)))

theorem ranges_putPortMap (s : State) (i : Fin 8) (bs : List Byte) : (s.putPortMap i bs).keepsRanges s := by
  unfold State.putPortMap
  dsimp only
  split
  · trivial
  · exact RangesKept.aside rfl rfl

theorem ranges_putMgmt (s : State) (p : Port) (bs : List Byte) : (s.putMgmt p bs).keepsRanges s := by
  unfold State.putMgmt
  dsimp only
  split
  · trivial
  · exact EntryResult.keepsRanges_ite trivial (EntryResult.keepsRanges_ite trivial
      (EntryResult.keepsRanges_ite trivial (ranges_updMgmt s _)))

theorem ranges_clientChanged (s : State) (c : Client) (old : ClientCfg) : RangesKept s (s.clientChanged c old) := by
  have aged (t : State) (p : Prop) [Decidable p] : RangesKept t (if p then t
      else t.updClient c (ClientSession.loseAged s.res)) := (ranges_updClient t c _).unless
  unfold State.clientChanged
  dsimp only
  refine RangesKept.trans (RangesKept.ite (fair_clientStop s c).ranges (RangesKept.ite (fair_clientStart s c).ranges
    (fair_clientRetune s c).ranges.guarded)) ((aged _ _).trans (RangesKept.unless ?_))
  exact (fair_noticeExpired _ c).ranges.guarded

theorem ranges_putClient (s : State) (c : Client) (bs : List Byte) : (s.putClient c bs).keepsRanges s := by
  unfold State.putClient
  split
  · trivial
  · exact (ranges_clientChanged _ c _).after (ranges_updClient s c _)

theorem ranges_timersCheck (s : State) (r : Ref) : RangesKept s (s.timersCheck r) := by
  unfold State.timersCheck
  dsimp only
  split
  · exact (fair_qualifyExpired s r).ranges.guarded
  · exact (fair_holdOffExpired s r).ranges.guarded
  · exact (fair_restoreExpired s r).ranges.guarded
  · exact RangesKept.refl s
  · exact RangesKept.refl s

theorem ranges_refChanged (s : State) (r : Ref) (old : RefCfg) : RangesKept s (s.refChanged r old) := by
  unfold State.refChanged
  dsimp only
  cases refClient? r with
  | none =>
    exact (ranges_updGnss s _).guarded.trans ((ranges_updRef _ r _).trans ((fair_judge _ r _ id).ranges.unless.trans
      (ranges_timersCheck _ r).unless))
  | some c =>
    exact (ranges_updGnss s _).guarded.trans ((ranges_updRef _ r _).trans ((fair_judge _ r _ id).ranges.unless.trans
      ((fair_starveCheck _ c).ranges.unless.trans (ranges_timersCheck _ r).unless)))

theorem ranges_putRef (s : State) (r : Ref) (bs : List Byte) : (s.putRef r bs).keepsRanges s := by
  unfold State.putRef
  split
  · trivial
  · exact (ranges_updRef s r _).trans (RangesKept.ite (fair_refDisable _ r).ranges
      (RangesKept.ite (fair_refEnable _ r).ranges (ranges_refChanged _ r _).guarded))

theorem ranges_putSelector (s : State) (bs : List Byte) : (s.putSelector bs).keepsRanges s := by
  unfold State.putSelector
  split
  · trivial
  · exact EntryResult.keepsRanges_ite trivial (EntryResult.keepsRanges_ite (RangesKept.refl s)
      ((fair_reevaluate _).ranges.after (ranges_updSel s _)))

theorem ranges_putRealign (s : State) (bs : List Byte) : (s.putRealign bs).keepsRanges s := by
  have checked (t : State) : RangesKept t t.suspendedCheck := by
    unfold State.suspendedCheck
    split
    · exact RangesKept.refl t
    · exact (slewed_expireSuspended t).ranges.guarded
  unfold State.putRealign
  split
  · trivial
  · dsimp only
    exact (RangesKept.ite (ranges_updReal s _) ((ranges_updReal _ _).after (ranges_updReal s _))).trans
      (checked _).unless

/-- The Pull Range as it is read is at most its largest value (R97). -/
theorem takeServoParams_pullRange {bs rest : List Byte} {p : ServoParams} {adjusted : Bool}
    (h : takeServoParams bs = some ((p, adjusted), rest)) : p.pullRange ≤ 5000000 := by
  unfold takeServoParams at h
  iterate 11 obtain ⟨⟨_, _⟩, -, h⟩ := Option.bind_eq_some_iff.1 h
  cases h
  show clampN 1000 5000000 _ ≤ 5000000
  unfold clampN clampInt
  omega

/-- A written Pull Range clamps F and I at once (R98). -/
theorem ranges_putServo (s : State) (bs : List Byte) : (s.putServo bs).keepsRanges s := by
  unfold State.putServo readWhole
  cases read : takeServoParams bs with
  | none => trivial
  | some found =>
    obtain ⟨⟨p, adjusted⟩, rest⟩ := found
    cases rest with
    | cons b rest => trivial
    | nil =>
      refine ⟨fun h => ?_, id⟩
      show Servo.inRange (if p.pullRange = s.servo.params.pullRange then { s.servo with params := p }
        else ({ s.servo with params := p } : Servo).writePull p.pullRange)
      obtain ⟨f, i, lockRun, unlockRun, -⟩ := h
      have most := takeServoParams_pullRange read
      split
      · next same => exact ⟨same ▸ f, same ▸ i, lockRun, unlockRun, most⟩
      · exact ⟨natAbs_clampMag _ _, natAbs_clampMag _ _, lockRun, unlockRun, most⟩

theorem ranges_putHoldover (s : State) (bs : List Byte) : (s.putHoldover bs).keepsRanges s := by
  unfold State.putHoldover
  split
  · trivial
  · exact (ranges_updHold s _).trans (quiet_regrade _).ranges.unless

theorem ranges_putBudget (s : State) (i : Nat) (bs : List Byte) : (s.putBudget i bs).keepsRanges s := by
  unfold State.putBudget
  dsimp only
  split
  · trivial
  · exact EntryResult.keepsRanges_ite trivial (EntryResult.keepsRanges_ite trivial
      ((quiet_regrade _).ranges.after (ranges_updHold s _)))

theorem ranges_putSite (s : State) (k : Fin 6) (bs : List Byte) : (s.putSite k bs).keepsRanges s := by
  have changed (t : State) (old : SiteCfg) : RangesKept t (t.siteChanged k old) := by
    unfold State.siteChanged
    dsimp only
    exact ((quiet_siteGrade t k).ranges.unless.trans (quiet_enterServing _ k).ranges.guarded).trans
      (quiet_siteAbsent _ k).ranges.guarded
  unfold State.putSite
  split
  · trivial
  · exact EntryResult.keepsRanges_ite trivial ((ranges_updSite s k _).trans
      (RangesKept.ite (quiet_siteDisable _ k).ranges (RangesKept.ite (quiet_siteEnable _ k).ranges
        (changed _ _).guarded)))

theorem ranges_pinDrive (s : State) (k : Fin 4) (was : Bool) : RangesKept s (s.pinDrive k was) := by
  unfold State.pinDrive
  dsimp only
  exact RangesKept.ite (RangesKept.ite ((ranges_useFree _).after (ranges_updPin s k _)) (ranges_updPin s k _)).unless
    (ranges_updPin s k _)

theorem ranges_putPin (s : State) (k : Fin 4) (bs : List Byte) : (s.putPin k bs).keepsRanges s := by
  have taken (t : State) (a b : PinFunction) : RangesKept t (t.freqInTaken a b) := (ranges_updRef t _ _).guarded
  unfold State.putPin
  split
  · trivial
  · exact EntryResult.keepsRanges_ite trivial (EntryResult.keepsRanges_ite trivial
      ((ranges_updPin _ k _).after ((ranges_pinDrive _ k _).after ((taken _ _ _).after (ranges_updPin s k _)))))

theorem ranges_putAlarmCfg (s : State) (c : Fin 12) (bs : List Byte) : (s.putAlarmCfg c bs).keepsRanges s := by
  unfold State.putAlarmCfg
  split
  · trivial
  · exact ranges_updAlarm s _

theorem ranges_putAlarmSet (s : State) (bs : List Byte) : (s.putAlarmSet bs).keepsRanges s := by
  unfold State.putAlarmSet
  split
  · trivial
  · exact EntryResult.keepsRanges_ite trivial (ranges_updAlarm s _)

/-- Every entry written keeps the ranges. -/
theorem ranges_putEntry (s : State) (p : Port) (table index : Nat) (bs : List Byte) :
    (s.putEntry p table index bs).keepsRanges s := by
  have within {c : Prop} [Decidable c] (x : c → EntryResult) (hx : ∀ h, (x h).keepsRanges s) :
      (if h : c then x h else .refused stBadIndex).keepsRanges s := by
    split
    · exact hx _
    · trivial
  unfold State.putEntry
  split
  · exact within _ fun h => ranges_putFlow s ⟨index, h⟩ bs
  · exact within _ fun h => ranges_putPortMap s ⟨index, h⟩ bs
  · exact ranges_putMgmt s p bs
  · exact ranges_putClient s _ bs
  · split
    · exact ranges_putRef s _ bs
    · trivial
  · exact ranges_putSelector s bs
  · exact ranges_putRealign s bs
  · exact ranges_putServo s bs
  · exact ranges_putHoldover s bs
  · exact ranges_putBudget s index bs
  · exact within _ fun h => ranges_putSite s ⟨index, h⟩ bs
  · exact within _ fun h => ranges_putPin s ⟨index, h⟩ bs
  · exact within _ fun h => ranges_putAlarmCfg s ⟨index, h⟩ bs
  · exact ranges_putAlarmSet s bs
  · trivial

theorem ranges_putRun (p : Port) (table : Nat) : ∀ (n index : Nat) (bs : List Byte) (acc : RunResult),
    RangesKept acc.state (State.putRun p table n index bs acc).state
  | 0, _, _, acc => RangesKept.refl _
  | n + 1, index, bs, acc => by
    unfold State.putRun
    split
    · exact RangesKept.refl _
    · next fields rest _ =>
      have entry := ranges_putEntry acc.state p table index fields
      split
      · exact RangesKept.refl _
      · next t adjusted e =>
        rw [e] at entry
        exact entry.trans (ranges_putRun p table n (nextInBlock table index) rest
          { acc with state := t, adjusted := acc.adjusted || adjusted, count := acc.count + 1
                     stored := acc.stored ++ t.encEntry table index })

/-! ## The commands (R191) -/

/-- What a command runs to keeps the ranges in both cases of a test. -/
theorem ranges_replyIte {s : State} {c : Prop} [Decidable c] {x y : Reply} (a : RangesKept s x.state)
    (b : RangesKept s y.state) : RangesKept s (if c then x else y).state := by split <;> assumption

theorem ranges_readFrom (s : State) (table start count : Nat) : RangesKept s (s.readFrom table start count).state :=
  (ranges_updMgmt _ _).after (ranges_updAlarm s _).guarded

theorem ranges_runGet (s : State) (c : Command) : RangesKept s (runGet s c).state :=
  ranges_replyIte (RangesKept.refl s) (ranges_replyIte (RangesKept.refl s) (ranges_readFrom s _ _ _))

theorem ranges_runContinue (s : State) (c : Command) : RangesKept s (runContinue s c).state :=
  ranges_replyIte (RangesKept.refl s) (ranges_replyIte (RangesKept.refl s) (ranges_readFrom s _ _ _))

theorem ranges_runPut (s : State) (c : Command) : RangesKept s (runPut s c).state :=
  ranges_replyIte (RangesKept.refl s) (ranges_replyIte (RangesKept.refl s) (ranges_replyIte (RangesKept.refl s)
    (ranges_replyIte (RangesKept.refl s) (ranges_putRun c.ingress _ _ _ _ ⟨s, false, 0, [], none⟩))))

theorem ranges_runClear (s : State) (c : Command) : RangesKept s (runClear s c).state := by
  have flow (index : Nat) : RangesKept s (clearFlow s index).state := by
    unfold clearFlow
    split
    · exact ranges_replyIte (RangesKept.refl s) (ranges_flow s _)
    · exact RangesKept.refl s
  have budget (index : Nat) : RangesKept s (clearBudget s index).state :=
    ranges_replyIte (RangesKept.refl s) (ranges_replyIte (RangesKept.refl s)
      ((quiet_regrade _).ranges.after (ranges_updHold s _)))
  exact ranges_replyIte (RangesKept.refl s) (ranges_replyIte (flow _) (ranges_replyIte (budget _)
    (ranges_replyIte (RangesKept.refl s) (RangesKept.refl s))))

theorem ranges_pinFlow (s : State) (pinned : Bool) (index : Nat) : RangesKept s (pinFlow s pinned index).state := by
  unfold pinFlow
  split
  · exact ranges_flow s _
  · exact RangesKept.refl s

theorem ranges_force (s : State) (phase : Bool) (r : Ref) : RangesKept s (s.force phase r) :=
  RangesKept.ite
    ((fair_reevaluate _).ranges.after ((applyPhase_spec _ (some r) _).1.ranges.after (ranges_updSel s _)))
    ((fair_reevaluate _).ranges.after ((applyFreq_spec _ (some r) _).1.ranges.after (ranges_updSel s _)))

theorem ranges_runForce (s : State) (c : Command) : RangesKept s (runForce s c).state := by
  unfold runForce
  dsimp only
  refine ranges_replyIte (RangesKept.refl s) ?_
  cases refOfNat? (c.arg 1 1) with
  | none => exact RangesKept.refl s
  | some r =>
    exact ranges_replyIte (RangesKept.refl s) (ranges_replyIte (RangesKept.refl s) (ranges_force s (c.arg 0 1 = 0) r))

theorem ranges_runRelease (s : State) (c : Command) : RangesKept s (runRelease s c).state := by
  unfold runRelease
  split
  · exact ((fair_reevaluate _).ranges.after (ranges_updSel s _)).guarded
  · exact ((fair_reevaluate _).ranges.after (ranges_updSel s _)).guarded
  · exact RangesKept.refl s

/-- The arguments of a TIME_SET are clamped to the counter's range first (R95). -/
theorem ranges_runTimeSet (s : State) (c : Command) : RangesKept s (runTimeSet s c).state := by
  have set := ranges_timeSet s (min (c.arg 0 6) (secRange - 1)) (min (c.arg 6 4) 999999999)
    (Nat.lt_succ_of_le (Nat.min_le_right _ _)) (Nat.lt_succ_of_le (Nat.min_le_right _ _))
  exact ranges_replyIte (RangesKept.refl s) (ranges_replyIte set set)

theorem ranges_runAck (s : State) (c : Command) : RangesKept s (runAck s c).state := by
  unfold runAck
  dsimp only
  split
  · exact ranges_updAlarm s _
  · split
    · exact ranges_updAlarm s _
    · exact RangesKept.refl s

theorem ranges_runRestart (s : State) (c : Command) : RangesKept s (runRestart s c).state := by
  unfold runRestart
  split <;> exact RangesKept.refl s

theorem ranges_answer (s : State) (c : Command) (x : Reply) : RangesKept x.state (s.answer c x) := by
  unfold State.answer
  dsimp only
  refine ranges_offerThen _ _ _ id _ ((ranges_updMgmt _ _).after (ranges_useFree x.state)) RangesKept.refl fun u => ?_
  cases x.restart with
  | none => exact ranges_updMgmt u _
  | some scope => exact ranges_restartAfterLoss u (some scope)

/-- The completion of a command keeps the ranges when what it runs to does. -/
theorem ranges_complete (s : State) (dt : Nat) (kind : Command → Bool) (run : State → Command → Reply)
    (h : ∀ t c, RangesKept t (run t c).state) : RangesKept s (s.complete dt kind run) := by
  unfold State.complete
  split
  · exact RangesKept.refl s
  · exact ((ranges_answer _ _ _).after ((h _ _).after (ranges_pass s dt))).guarded

/-! ## The events of the pins and the alarms -/

theorem ranges_fallAt (s : State) (k : Fin 4) : RangesKept s (s.fallAt k) := by
  unfold State.fallAt
  split
  · next fall _ =>
    cases fall with
    | atResidence t => exact ranges_atReach s _ _ fun u => ranges_updPin u k _
    | atOsc t => exact ranges_atReachOsc s t _ fun u => ranges_updPin u k _
  · exact RangesKept.refl s

theorem ranges_freqEdge (s : State) (k : Fin 4) : RangesKept s (s.freqEdge k) := by
  unfold State.freqEdge
  split
  · exact ranges_atReach s _ _ fun u => ranges_updPin u k _
  · exact ranges_atReach s _ _ fun u => ranges_updPin u k _
  · exact ranges_atReachOsc s _ _ fun u => ranges_updPin u k _
  · unfold State.leaveBypassEdge
    split
    · next u there =>
      exact ranges_atInstant s _ _ (fun v came => (ranges_reach came).after (ranges_reachOsc there))
        fun v => ranges_updPin v k _
    · exact RangesKept.refl s

theorem ranges_noticeOffer (s : State) : ∃ t, execNoticeOffer s = .next t ∧ RangesKept s t := by
  have offered (u : State) (collector : Addr) (n : Notice) : RangesKept u (u.offerHead collector n) := by
    unfold State.offerHead
    exact ranges_offerThen _ _ _ _ _ ((ranges_updAlarm _ _).after (ranges_useFree u))
      (fun v => ranges_updAlarm v fun a => { a with ctr := { a.ctr with noticesSent := bump a.ctr.noticesSent } })
      (fun v => ranges_updAlarm v fun a =>
        { a with ctr := { a.ctr with noticesDiscarded := bump a.ctr.noticesDiscarded } })
  refine ⟨_, rfl, ?_⟩
  split
  · next n _ collector _ _ =>
    refine RangesKept.guarded ?_
    unfold State.sendNotice
    split
    · exact ranges_atReach s _ _ fun u => offered u collector n
    · exact offered s collector n
  · exact RangesKept.refl s

/-! ## Every command -/

/-- What every command keeps. -/
theorem exec_rangesKept (i : Instr) (s : State) : ∃ t, exec i s = .next t ∧ RangesKept s t := by
  have pass := fun dt => ranges_pass s dt
  have command := ranges_complete s
  cases i with
  | powerOn straps => exact ⟨_, rfl, ranges_powerUp s straps⟩
  | resetPin straps => exact ⟨_, rfl, ranges_powerUp s straps⟩
  | frameReceived dt p ok f => exact ⟨_, rfl, ((ranges_receive _ p ok f).after (pass dt)).guarded⟩
  | linkUp dt p => exact ⟨_, rfl, ((ranges_linkUp _ p).after (pass dt)).unless⟩
  | linkDown dt p => exact ⟨_, rfl, ((ranges_linkDown _ p).after (pass dt)).guarded⟩
  | egressMoment p => exact ⟨_, rfl, ranges_egress s p⟩
  | transmitEnd dt p =>
    refine ⟨_, rfl, ?_⟩
    split
    · next t _ => exact (ranges_endTransmit _ p t).after (pass dt)
    · exact RangesKept.refl s
  | secondBoundary order => exact ⟨_, rfl, ranges_secondBoundary s order⟩
  | counterWrap =>
    refine ⟨_, rfl, ?_⟩
    split
    · next c _ => exact ranges_carry s c
    · exact RangesKept.refl s
  | ppsInputEdge dt k =>
    exact ⟨_, rfl, (((fair_gnssEdge _).ranges.after (ranges_updPin _ k _)).after (pass dt)).guarded⟩
  | freqInputEdge dt k edges =>
    exact ⟨_, rfl, (((fair_extEdge _).ranges.after (ranges_updPin _ k _)).after (pass dt)).guarded⟩
  | todRecord dt b => exact ⟨_, rfl, ((fair_todByte _ b).ranges.after (pass dt)).guarded⟩
  | todFramingError dt => exact ⟨_, rfl, (quiet_todFraming _).ranges.after (pass dt)⟩
  | todByteGap => exact ⟨_, rfl, (ranges_atReach s _ _ fun u => ranges_updGnss u _).unless⟩
  | quietIntervalExpires p =>
    refine ⟨_, rfl, ?_⟩
    split
    · exact ranges_atReach s _ _ fun u => (quiet_quietOver u p).ranges
    · exact RangesKept.refl s
  | queryDue c =>
    refine ⟨_, rfl, ?_⟩
    split
    · next m _ => exact ranges_atReach s _ _ fun u => (quiet_queryAt u c m _).ranges
    · exact RangesKept.refl s
  | replyTimeout c =>
    refine ⟨_, rfl, ?_⟩
    split
    · exact ranges_atReach s _ _ fun u => ranges_updClient u c _
    · exact RangesKept.refl s
  | noticeIntervalExpires c =>
    exact ⟨_, rfl, (ranges_atReach s _ _ fun u => (fair_noticeExpired u c).ranges).guarded⟩
  | gnssSignalTimeout => exact ⟨_, rfl, ranges_atEnd s _ _ fun u => (fair_gnssLost u).ranges⟩
  | todIntervalTimeout => exact ⟨_, rfl, ranges_atEnd s _ _ fun u => (fair_todMissing u).ranges⟩
  | extEdgeTimeout => exact ⟨_, rfl, ranges_atEnd s _ _ fun u => (fair_extLost u).ranges⟩
  | starveCountReached c => exact ⟨_, rfl, (fair_starveCheck s c).ranges.guarded⟩
  | qualifyTimeReached r =>
    exact ⟨_, rfl, (ranges_atTimer s _ _ _ fun u => (fair_qualifyExpired u r).ranges).guarded⟩
  | holdOffExpires r =>
    exact ⟨_, rfl, (ranges_atTimer s _ _ _ fun u => (fair_holdOffExpired u r).ranges).guarded⟩
  | restoreWaitReached r =>
    exact ⟨_, rfl, (ranges_atTimer s _ _ _ fun u => (fair_restoreExpired u r).ranges).guarded⟩
  | suspendedSlewExpires =>
    refine ⟨_, rfl, ?_⟩
    split
    · exact ranges_atReach s _ _ fun u => (slewed_expireSuspended u).ranges
    · exact RangesKept.refl s
  | lockCountReached => exact ⟨_, rfl, ranges_boundaryWhere s _ _⟩
  | unlockCountReached => exact ⟨_, rfl, ranges_boundaryWhere s _ _⟩
  | holdoverMinute =>
    refine ⟨_, rfl, ?_⟩
    split
    · exact (ranges_atTimer s _ _ _ fun u => (quiet_minutePassed u).ranges).guarded
    · exact RangesKept.refl s
  | serveDelayExpires k =>
    exact ⟨_, rfl, (ranges_atTimer s _ _ _ fun u => (quiet_enterServing u k).ranges).guarded⟩
  | presenceTimeout k =>
    refine ⟨_, rfl, ?_⟩
    split
    · exact (ranges_atReach s _ _ fun u => (quiet_siteAbsent u k).ranges).guarded
    · exact RangesKept.refl s
  | markDue k => exact ⟨_, rfl, (ranges_atReach s _ _ fun u => (quiet_markAt u k _).ranges).guarded⟩
  | ppsOutputEdge k => exact ⟨_, rfl, (ranges_atReach s _ _ fun u => ranges_updPin u k _).guarded⟩
  | ppsPulseEnd k => exact ⟨_, rfl, (ranges_fallAt s k).guarded⟩
  | raiseHoldOffExpires i => exact ⟨_, rfl, (ranges_afterSpan s _ _ _ fun u => ranges_updAlarm u _).guarded⟩
  | clearDelayExpires i => exact ⟨_, rfl, (ranges_afterSpan s _ _ _ fun u => ranges_updAlarm u _).guarded⟩
  | noticeOffer => exact ranges_noticeOffer s
  | testIntervalExpires =>
    exact ⟨_, rfl, ranges_afterSpan s _ _ _ fun u => (quiet_report _ _ _).ranges.after (ranges_updAlarm u _)⟩
  | pinPulseEnd => exact ⟨_, rfl, ranges_afterSpan s _ _ _ fun u => ranges_updAlarm u _⟩
  | get dt => exact ⟨_, rfl, command dt _ _ ranges_runGet⟩
  | continueRead dt => exact ⟨_, rfl, command dt _ _ ranges_runContinue⟩
  | put dt => exact ⟨_, rfl, command dt _ _ ranges_runPut⟩
  | clear dt => exact ⟨_, rfl, command dt _ _ ranges_runClear⟩
  | pin dt => exact ⟨_, rfl, command dt _ _ fun t _ => ranges_pinFlow t true _⟩
  | unpin dt => exact ⟨_, rfl, command dt _ _ fun t _ => ranges_pinFlow t false _⟩
  | forceSelect dt => exact ⟨_, rfl, command dt _ _ ranges_runForce⟩
  | release dt => exact ⟨_, rfl, command dt _ _ ranges_runRelease⟩
  | slewHold dt => exact ⟨_, rfl, command dt _ _ fun t _ => ranges_updReal t fun x => { x with slew := x.slew.map fun _ => true }⟩
  | slewRelease dt => exact ⟨_, rfl, command dt _ _ fun t _ => ranges_updReal t fun x => { x with slew := x.slew.map fun _ => false }⟩
  | timeSet dt => exact ⟨_, rfl, command dt _ _ ranges_runTimeSet⟩
  | ack dt => exact ⟨_, rfl, command dt _ _ ranges_runAck⟩
  | testAlarm dt =>
    exact ⟨_, rfl, command dt _ _ fun t _ =>
      (ranges_updAlarm (t.report recTest true) fun a => { a with test := some t.res }).after
        (quiet_report t recTest true).ranges⟩
  | status dt => exact ⟨_, rfl, command dt _ _ fun t _ => RangesKept.refl t⟩
  | countersClear dt => exact ⟨_, rfl, command dt _ _ fun t _ => ranges_zeroCounters t⟩
  | restartDatapath dt => exact ⟨_, rfl, command dt _ _ ranges_runRestart⟩
  | restartFull input =>
    exact ⟨_, rfl, command input.dt _ _ fun t c => (ranges_runRestart _ c).after
      (ranges_updMgmt t fun m => { m with straps := input.straps })⟩
  | unknownCommand dt => exact ⟨_, rfl, command dt _ _ fun t _ => RangesKept.refl t⟩
  | todByteReceived dt b => exact ⟨_, rfl, (fair_todByte _ b).ranges.after (pass dt)⟩
  | freqOutputEdge k => exact ⟨_, rfl, (ranges_freqEdge s k).guarded⟩
  | halfCycleEnd k => exact ⟨_, rfl, (ranges_fallAt s k).guarded⟩
  | lineClockCycle dt c cycles =>
    exact ⟨_, rfl, ((ranges_updPort _ (clientPort c) _).after (pass dt)).guarded⟩

/-- Settles O7: the ranges are what every command keeps, and the rate is that of `Clock.Ran` however time passes. -/
theorem stepKeepsRanges : Obligations.StepKeepsRanges := by
  refine ⟨fun s t h => ?_, fun s h left => ⟨fun dt => ?_, fun units t there => ?_, fun target t there => ?_⟩⟩
  · unfold step at h
    split at h
    · cases h
      exact ⟨id, id⟩
    · next c rest _ =>
      obtain ⟨u, run, kept⟩ := exec_rangesKept c { s with pending := rest }
      rw [run] at h
      cases h
      exact ⟨kept.servo, kept.clock⟩
  · obtain ⟨units, osc, passed, most, less⟩ := Clock.ran_pass h left dt
    exact ⟨units, osc, ⟨passed.fields, passed.parts_int h, passed.left⟩, most, less⟩
  · obtain ⟨c, came, rfl⟩ := Option.map_eq_some_iff.1 there
    obtain ⟨osc, reached⟩ := Clock.ran_reach h left came
    exact ⟨osc, reached.fields, reached.parts_int h, reached.left⟩
  · obtain ⟨c, came, rfl⟩ := Option.map_eq_some_iff.1 there
    obtain ⟨units, osc, reached, instant⟩ := Clock.ran_reachOsc h left came
    exact ⟨units, osc, ⟨reached.fields, reached.parts_int h, reached.left⟩, instant⟩

end Sys2Proof.Machine
end

section
/-! PROOFS. The servo to the field: the loop's arithmetic, the frequency update, and the Servo Context through a change
of state and a change of role (O41). -/
namespace Sys2Proof.Machine
open Sys2Proof

/-! ## Clamping to plus or minus a limit -/

theorem clampMag_lt (limit : Nat) (x : Int) : clampMag limit x < x ↔ (limit : Int) < x := by
  unfold clampMag clampInt
  omega

theorem lt_clampMag (limit : Nat) (x : Int) : x < clampMag limit x ↔ x < -(limit : Int) := by
  unfold clampMag clampInt
  omega

theorem eq_clampMag (limit : Nat) (x : Int) :
    x = clampMag limit x ↔ ¬((limit : Int) < x ∨ x < -(limit : Int)) := by
  unfold clampMag clampInt
  omega

/-- Anti-windup told by the unclamped output (R108). -/
theorem windupHeld_clampMag (limit : Nat) (raw step : Int) : windupHeld raw (clampMag limit raw) step =
    decide (((limit : Int) < raw ∧ 0 < step) ∨ (raw < -(limit : Int) ∧ step < 0)) := by
  unfold windupHeld
  simp only [clampMag_lt, lt_clampMag, Bool.decide_or, Bool.decide_and]

/-- A counter that counts the outputs clamped (R107). -/
theorem ite_eq_clampMag {α : Type} (limit : Nat) (raw : Int) (a b : α) :
    (if raw = clampMag limit raw then a else b) = if (limit : Int) < raw ∨ raw < -(limit : Int) then b else a := by
  rw [if_congr (eq_clampMag limit raw) rfl rfl, ite_not]

/-- A quotient by a positive number rounded to nearest, with ties away from zero. -/
theorem roundDiv_rounds (a : Int) {b : Nat} (pos : 0 < b) :
    2 * (b * roundDiv a b - a).natAbs ≤ b ∧
    (2 * (b * roundDiv a b - a).natAbs = b → a.natAbs ≤ (b * roundDiv a b).natAbs) := by
  have nearest := roundDiv_nearest a (b := b) (by omega)
  rwa [← Int.natAbs_neg, neg_sub, Int.natAbs_natCast] at nearest

/-! ## One loop run and one frequency update (R107, R108, R111) -/

/-- Proportional and integral gain of the state that stands. -/
theorem Servo.gains_eq (x : Servo) :
    x.gains.1 = (if x.state = .locked then x.params.lockedPg else x.params.acquiringPg) ∧
    x.gains.2 = (if x.state = .locked then x.params.lockedIg else x.params.acquiringIg) := by
  unfold Servo.gains
  constructor <;> split <;> rfl

theorem Servo.loop_eq (e : Int) (x : Servo) :
    let limit : Int := x.params.pullRange
    let ec := clampMag x.params.phaseClamp e
    let p := propTerm x.gains.1 ec
    let step := intTerm x.gains.2 ec
    let i1 := clampMag x.params.pullRange (x.i + step)
    let held : Bool := decide ((limit < i1 + p ∧ 0 < step) ∨ (i1 + p < -limit ∧ step < 0))
    x.loop e = { x with
      f := clampMag x.params.pullRange (i1 + p)
      i := if held then x.i else i1
      lastLoop := some ⟨e, decide (x.params.phaseClamp < e.natAbs)⟩
      ctr := { x.ctr with
        clampedSamples := if x.params.phaseClamp < e.natAbs then bump x.ctr.clampedSamples else x.ctr.clampedSamples
        outputClamps := if limit < i1 + p ∨ i1 + p < -limit then bump x.ctr.outputClamps else x.ctr.outputClamps
        windupHolds := if held then bump x.ctr.windupHolds else x.ctr.windupHolds } } := by
  unfold Servo.loop Servo.clamps
  simp only [windupHeld_clampMag, ite_eq_clampMag, decide_eq_true_eq]

theorem Servo.freqUpdate_eq (d : Int) (x : Servo) :
    let limit : Int := x.params.pullRange
    let raw := x.f + roundDiv (d * x.params.fg) 256
    x.freqUpdate d = { x with
      f := clampMag x.params.pullRange raw
      i := clampMag x.params.pullRange raw
      ctr := { x.ctr with
        frequencyUpdates := bump x.ctr.frequencyUpdates
        outputClamps := if limit < raw ∨ raw < -limit then bump x.ctr.outputClamps else x.ctr.outputClamps } } := by
  unfold Servo.freqUpdate
  simp only [ite_eq_clampMag]

theorem State.freqResult_aside {s : State} (aside : s.servo.state ≠ .freqTrack) (d : Option Int) :
    s.freqResult d = s := if_neg aside

theorem State.freqResult_void {s : State} (follows : s.servo.state = .freqTrack) :
    s.freqResult none = s.updHold fun x => { x with settle := none } := if_pos follows

theorem State.freqResult_given {s : State} (follows : s.servo.state = .freqTrack) (d : Int) : s.freqResult (some d) =
    (s.updHold fun x => { x with settle := some d }).updServo (Servo.freqUpdate d) := if_pos follows

/-! ## The Servo Context through a change of state (R101, R106, R112) -/

/-- The Holdover Unit moves F and I alone, and those only as HOLDOVER comes (R112). -/
theorem holdoverChange_servo (s : State) (prev new : ServoState) (g : Nat) :
    (s.holdoverChange prev new g).servo = { s.servo with
      f := (s.holdoverChange prev new g).servo.f, i := (s.holdoverChange prev new g).servo.i } ∧
    (new ≠ .holdover → (s.holdoverChange prev new g).servo = s.servo) := by
  have kept {t : State} (h : t.servo = s.servo) :
      t.servo = { s.servo with f := t.servo.f, i := t.servo.i } ∧ (new ≠ .holdover → t.servo = s.servo) :=
    ⟨by rw [h], fun _ => h⟩
  cases new with
  | freerun => exact kept rfl
  | acquiring => exact kept (ChoiceKept.ite (choice_updHold _ _) (ChoiceKept.refl _)).servo
  | locked => exact kept (choice_endHoldover _).servo
  | freqTrack => exact kept (ChoiceKept.ite (choice_enterHoldover _ g) (ChoiceKept.refl _)).servo
  | holdover =>
    exact ⟨((s.updHold fun x => { x with settle := none, frozen := none }).takeHoldover_spec prev g).2.1,
      fun no => absurd rfl no⟩

/-- The Servo Context as a change of state begins: PHASE_TRANSIENT goes with ACQUIRING and LOCKED (R103, R106). -/
def Servo.entered (new : ServoState) (x : Servo) : Servo :=
  { x with
    state := new, transient := x.transient && new.tracking
    ctr := { x.ctr with stateChanges := bump x.ctr.stateChanges } }

/-- A change of servo state to the field. -/
theorem setServo_servo {s : State} {new : ServoState} (changed : new ≠ s.servo.state) (g : Nat) :
    (s.setServo new g).servo = { s.servo.entered new with
      f := (s.setServo new g).servo.f, i := (s.setServo new g).servo.i } ∧
    (new ≠ .holdover → (s.setServo new g).servo = { s.servo.entered new with
      i := if new = .freqTrack then s.servo.f else s.servo.i }) := by
  have closing (t : State) : (if new = .freerun then
      (if new = .freqTrack then t.updServo (fun x => { x with i := x.f }) else t).dropMismatch
      else (if new = .freqTrack then t.updServo (fun x => { x with i := x.f }) else t)).servo =
      { t.servo with i := if new = .freqTrack then t.servo.f else t.servo.i } := by cases new <;> rfl
  unfold State.setServo
  dsimp only
  rw [if_neg changed, State.regraded_servo, closing]
  generalize opening : (if new.tracking then s.updServo _ else State.clearTransient _) = u
  have engine : u.servo = s.servo.entered new := by
    subst opening
    unfold Servo.entered
    split
    · next tracks => rw [tracks, Bool.and_true]; rfl
    · next rests => rw [Bool.eq_false_iff.2 rests, Bool.and_false]; rfl
  obtain ⟨moved, still⟩ := holdoverChange_servo u s.servo.state new g
  rw [engine] at moved still
  refine ⟨?_, fun other => by rw [still other]; rfl⟩
  rw [moved]

/-! ## The Servo Context through a change of role (R101, R102) -/

theorem servoPhaseLost_phaseValid (s : State) (g : Nat) : (s.servoPhaseLost g).servo.phaseValid = s.servo.phaseValid := by
  unfold State.servoPhaseLost
  dsimp only
  rw [(moved_setServo _ _ g).servo]
  rfl

/-- No change of role moves Phase Valid (R101, R102). -/
theorem applyPhase_phaseValid (s : State) (new : Option Ref) (g : Nat) :
    (s.applyPhase new g).servo.phaseValid = s.servo.phaseValid := by
  by_cases same : new = s.selector.phase
  · rw [applyPhase_same same]
  · cases new with
    | none =>
      obtain ⟨r, before⟩ := Option.ne_none_iff_exists'.1 (Ne.symm same)
      rw [applyPhase_lost before, (realLost_keeps _ r).1]
      exact servoPhaseLost_phaseValid (s.phaseNow none) g
    | some r =>
      cases before : s.selector.phase with
      | none =>
        rw [applyPhase_gained before]
        show (State.servoPhaseGained _ g).servo.phaseValid = _
        unfold State.servoPhaseGained
        rw [(moved_setServo _ _ g).servo]
        rfl
      | some old =>
        rw [applyPhase_switched before fun e => same (by rw [before, e]), (realSwitched_keeps _ r).1]
        rfl

theorem applyFreq_phaseValid (s : State) (new : Option Ref) (g : Nat) :
    (s.applyFreq new g).servo.phaseValid = s.servo.phaseValid := by
  by_cases same : new = s.selector.freq
  · rw [applyFreq_same same]
  · cases new with
    | none =>
      obtain ⟨r, before⟩ := Option.ne_none_iff_exists'.1 (Ne.symm same)
      rw [applyFreq_lost before, (moved_servoFreqLost _ g).servo]
      rfl
    | some r =>
      cases before : s.selector.freq with
      | none =>
        rw [applyFreq_gained before, (moved_servoFreqGained _ g).servo]
        rfl
      | some old =>
        rw [applyFreq_switched before fun e => same (by rw [before, e])]
        rfl

theorem applyPhase_gained_servo {s : State} {new : Option Ref} (before : s.selector.phase = none)
    (given : new.isSome = true) (enters : s.servo.state ≠ .acquiring) (g : Nat) :
    (s.applyPhase new g).servo = { s.servo.clearRuns with
      state := .acquiring
      acqFromHold := some (s.servo.state = .holdover || (s.servo.state = .freqTrack && s.servo.phaseValid))
      ctr := { s.servo.ctr with stateChanges := bump s.servo.ctr.stateChanges } } := by
  obtain ⟨r, rfl⟩ := Option.isSome_iff_exists.1 given
  rw [applyPhase_gained before]
  show (State.servoPhaseGained _ g).servo = _
  unfold State.servoPhaseGained
  refine ((setServo_servo (s := (s.phaseNow (some r)).updServo fun x =>
    { x.clearRuns with acqFromHold := some (holdoverState x.state x.phaseValid) }) (Ne.symm enters) g).2
      (by decide)).trans ?_
  simp only [Servo.entered, ServoState.tracking, Bool.and_true]
  rfl

theorem applyPhase_switched_servo {s : State} {r k : Ref} (before : s.selector.phase = some r) (changed : r ≠ k)
    (g : Nat) : (s.applyPhase (some k) g).servo = s.servo.clearRuns := by
  rw [applyPhase_switched before changed, (realSwitched_keeps _ k).1]
  rfl

/-- The state that the loss of the phase role leads to (R101). -/
def State.phaseLostState (s : State) : ServoState :=
  if s.selector.freq.isSome then .freqTrack else s.servo.restState

/-- Neither a loss of the phase role nor one of the frequency role leads to ACQUIRING or LOCKED. -/
theorem Servo.restState_rests (x : Servo) : x.restState.tracking = false := by
  unfold Servo.restState
  split <;> rfl

theorem State.phaseLostState_rests (s : State) : s.phaseLostState.tracking = false := by
  unfold State.phaseLostState
  split
  · rfl
  · exact s.servo.restState_rests

theorem applyPhase_lost_servo {s : State} (before : s.selector.phase.isSome = true)
    (tracks : s.servo.state.tracking = true) (g : Nat) :
    let t := s.applyPhase none g
    t.servo = { s.servo.clearRuns with
      state := s.phaseLostState, acqFromHold := none, transient := false, f := t.servo.f, i := t.servo.i
      ctr := { s.servo.ctr with stateChanges := bump s.servo.ctr.stateChanges } } ∧
    (s.phaseLostState ≠ .holdover →
      t.servo.f = s.servo.f ∧ t.servo.i = if s.phaseLostState = .freqTrack then s.servo.f else s.servo.i) := by
  dsimp only
  obtain ⟨r, selected⟩ := Option.isSome_iff_exists.1 before
  have rests := s.phaseLostState_rests
  rw [applyPhase_lost selected, (realLost_keeps _ r).1]
  have changed : s.phaseLostState ≠ s.servo.state := fun e => by rw [e, tracks] at rests; cases rests
  show (State.servoPhaseLost _ g).servo = _ ∧ (_ → (State.servoPhaseLost _ g).servo.f = _ ∧
    (State.servoPhaseLost _ g).servo.i = _)
  unfold State.servoPhaseLost
  obtain ⟨engine, still⟩ := setServo_servo
    (s := (s.phaseNow none).updServo fun x => { x.clearRuns with acqFromHold := none }) changed g
  refine ⟨?_, fun other => ?_⟩
  · refine engine.trans ?_
    simp only [Servo.entered, rests, Bool.and_false]
    rfl
  · have servo := still other
    have f := congrArg Servo.f servo
    have i := congrArg Servo.i servo
    exact ⟨f, i⟩

theorem applyFreq_tracking {s : State} (tracks : s.servo.state = .acquiring ∨ s.servo.state = .locked)
    (new : Option Ref) (g : Nat) : (s.applyFreq new g).servo = s.servo := by
  by_cases same : new = s.selector.freq
  · rw [applyFreq_same same]
  · cases new with
    | none =>
      obtain ⟨r, before⟩ := Option.ne_none_iff_exists'.1 (Ne.symm same)
      rw [applyFreq_lost before, servoFreqLost_tracking (s := s.freqNow none) ((tracking_iff _).2 tracks)]
      rfl
    | some r =>
      cases before : s.selector.freq with
      | none =>
        rw [applyFreq_gained before]
        unfold State.servoFreqGained
        rcases tracks with state | state <;>
          rw [show (s.freqNow (some r)).servo.state = _ from state] <;> rfl
      | some old =>
        rw [applyFreq_switched before fun e => same (by rw [before, e])]
        rfl

theorem applyFreq_gained_servo {s : State} {new : Option Ref} (before : s.selector.freq = none)
    (given : new.isSome = true) (rests : s.servo.state = .freerun ∨ s.servo.state = .holdover) (g : Nat) :
    (s.applyFreq new g).servo = { s.servo.entered .freqTrack with i := s.servo.f } := by
  obtain ⟨r, rfl⟩ := Option.isSome_iff_exists.1 given
  have changed : ServoState.freqTrack ≠ (s.freqNow (some r)).servo.state := fun e => by
    rcases rests with h | h <;> cases e.trans h
  have follows : (s.freqNow (some r)).servoFreqGained g = (s.freqNow (some r)).setServo .freqTrack g := by
    unfold State.servoFreqGained
    rcases rests with state | state <;> rw [show (s.freqNow (some r)).servo.state = _ from state]
  rw [applyFreq_gained before, follows, (setServo_servo changed g).2 (by decide)]
  rfl

theorem applyFreq_lost_servo {s : State} (before : s.selector.freq.isSome = true) (follows : s.servo.state = .freqTrack)
    (g : Nat) : (s.applyFreq none g).servo.state = s.servo.restState ∧ (s.servo.restState = .freerun →
      (s.applyFreq none g).servo = s.servo.entered .freerun) := by
  obtain ⟨r, selected⟩ := Option.isSome_iff_exists.1 before
  have changed : s.servo.restState ≠ (s.freqNow none).servo.state := by
    show s.servo.restState ≠ s.servo.state
    rw [follows]
    unfold Servo.restState
    split <;> decide
  have lost : (s.freqNow none).servoFreqLost g = (s.freqNow none).setServo s.servo.restState g := by
    unfold State.servoFreqLost
    rw [show (s.freqNow none).servo.state = _ from follows]
    rfl
  rw [applyFreq_lost selected, lost]
  obtain ⟨engine, still⟩ := setServo_servo changed g
  refine ⟨by rw [engine]; rfl, fun free => ?_⟩
  rw [free] at still ⊢
  exact still (by decide)

end Sys2Proof.Machine
end

section
/-! PROOFS. The written Servo Parameters (R97, R98), and the servo's loop, frequency updates and role reports (O41). -/
namespace Sys2Proof.Machine
open Sys2Proof

section
variable (clamp pull apg aig lpg lig fg lw lc uw uc : Int)

/-- The parameters that the fields of a PUT store, numbers clamped to their ranges (R97). -/
def writtenServoParams : ServoParams :=
  { phaseClamp := held 10 100000 clamp, pullRange := held 1000 5000000 pull, acquiringPg := held 0 255 apg
    acquiringIg := held 0 255 aig, lockedPg := held 0 255 lpg, lockedIg := held 0 255 lig, fg := held 0 255 fg
    lockWindow := held 10 10000 lw, lockCount := held 1 255 lc, unlockWindow := held 100 100000 uw
    unlockCount := held 1 255 uc }

/-- The fields of the Servo Parameters as a PUT carries them (11). -/
def servoFields : List Byte :=
  encNum clamp ++ encNum pull ++ encNum apg ++ encNum aig ++ encNum lpg ++ encNum lig ++ encNum fg ++ encNum lw ++
    encNum lc ++ encNum uw ++ encNum uc

theorem servoFields_length : (servoFields clamp pull apg aig lpg lig fg lw lc uw uc).length = 88 := by
  unfold servoFields
  simp only [List.length_append, encNum_length]

variable {clamp pull apg aig lpg lig fg lw lc uw uc}

theorem takeServoParams_fields (fitClamp : isField clamp) (fitPull : isField pull) (fitApg : isField apg)
    (fitAig : isField aig) (fitLpg : isField lpg) (fitLig : isField lig) (fitFg : isField fg) (fitLw : isField lw)
    (fitLc : isField lc) (fitUw : isField uw) (fitUc : isField uc) :
    readWhole takeServoParams (servoFields clamp pull apg aig lpg lig fg lw lc uw uc) =
      some (writtenServoParams clamp pull apg aig lpg lig fg lw lc uw uc,
        outside 10 100000 clamp || outside 1000 5000000 pull || outside 0 255 apg || outside 0 255 aig ||
          outside 0 255 lpg || outside 0 255 lig || outside 0 255 fg || outside 10 10000 lw || outside 1 255 lc ||
          outside 100 100000 uw || outside 1 255 uc) := by
  have last := takeNum_encNum uc fitUc []
  rw [List.append_nil] at last
  unfold readWhole servoFields
  simp only [List.append_assoc]
  rw [show takeServoParams _ = some _ from
    read_then (takeNum_encNum _ fitClamp _) <| read_then (takeNum_encNum _ fitPull _) <|
    read_then (takeNum_encNum _ fitApg _) <| read_then (takeNum_encNum _ fitAig _) <|
    read_then (takeNum_encNum _ fitLpg _) <| read_then (takeNum_encNum _ fitLig _) <|
    read_then (takeNum_encNum _ fitFg _) <| read_then (takeNum_encNum _ fitLw _) <|
    read_then (takeNum_encNum _ fitLc _) <| read_then (takeNum_encNum _ fitUw _) <| read_then last rfl]
  rfl

end

/-- The Servo Context with new parameters: a changed Pull Range clamps F and I at once (R98). -/
def Servo.rewritten (p : ServoParams) (x : Servo) : Servo :=
  if p.pullRange = x.params.pullRange then { x with params := p }
  else { x with params := p }.writePull p.pullRange

theorem putEntry_servo {s : State} {q : Port} {bs : List Byte} {p : ServoParams} {adjusted : Bool}
    (decoded : readWhole takeServoParams bs = some (p, adjusted)) :
    s.putEntry q 11 0 bs = .written (s.updServo (Servo.rewritten p)) adjusted := by
  show s.putServo bs = _
  unfold State.putServo
  rw [decoded]
  rfl

/-- Settles O41: the loop and the update by their equations, a role report by the role it changes, the write by its
decoded fields. -/
theorem loopRunFollowsTheGains : Obligations.LoopRunFollowsTheGains := by
  refine ⟨fun e x => ?_, fun s d => ?_, fun s grade new => ?_, fun s grade new => ?_, ?_⟩
  · obtain ⟨proportional, integral⟩ := x.gains_eq
    have run := x.loop_eq e
    rw [proportional, integral] at run
    dsimp only
    generalize (if x.state = .locked then x.params.lockedPg else x.params.acquiringPg) = pg at run ⊢
    generalize (if x.state = .locked then x.params.lockedIg else x.params.acquiringIg) = ig at run ⊢
    obtain ⟨nearP, tieP⟩ := roundDiv_rounds (clampMag x.params.phaseClamp e * 1000 * pg) (b := 256) (by decide)
    obtain ⟨nearI, tieI⟩ := roundDiv_rounds (clampMag x.params.phaseClamp e * 1000 * ig) (b := 65536) (by decide)
    exact ⟨propTerm pg (clampMag x.params.phaseClamp e), intTerm ig (clampMag x.params.phaseClamp e),
      nearP, tieP, nearI, tieI, run⟩
  · refine ⟨fun aside => ⟨State.freqResult_aside aside _, State.freqResult_aside aside _⟩, fun follows =>
      ⟨State.freqResult_void follows, roundDiv (d * s.servo.params.fg) 256, ?_⟩⟩
    obtain ⟨near, tie⟩ := roundDiv_rounds (d * s.servo.params.fg) (b := 256) (by decide)
    refine ⟨near, tie, ?_⟩
    dsimp only
    rw [State.freqResult_given follows]
    show ({ s with holdover := _, servo := s.servo.freqUpdate d } : State) = _
    rw [Servo.freqUpdate_eq]
    rfl
  · refine ⟨(down_applyPhase s new grade).kept, (applyPhase_spec s new grade).2.1, applyPhase_phaseValid s new grade,
      fun before given enters => applyPhase_gained_servo before given enters grade, ?_, ?_,
      fun same => applyPhase_same same.symm grade⟩
    · rintro r k before rfl changed
      exact applyPhase_switched_servo before changed grade
    · rintro before rfl tracks next
      obtain ⟨engine, still⟩ := applyPhase_lost_servo before ((tracking_iff _).2 tracks) grade
      have state : next = s.phaseLostState := rfl
      rw [← state] at engine still
      generalize next = after at engine still
      refine ⟨engine, fun follows => ?_, fun free => ?_⟩
      · subst follows
        exact still (by decide)
      · subst free
        exact still (by decide)
  · refine ⟨(down_applyFreq s new grade).kept, (applyFreq_spec s new grade).2.1, applyFreq_phaseValid s new grade,
      fun tracks => applyFreq_tracking tracks new grade, fun before given rests => ?_, ?_, ?_,
      fun same => applyFreq_same same.symm grade⟩
    · rw [applyFreq_gained_servo before given rests]
      exact ⟨rfl, rfl, rfl⟩
    · rintro before rfl follows
      obtain ⟨state, still⟩ := applyFreq_lost_servo before follows grade
      refine ⟨state, fun free => ?_⟩
      rw [still free]
      exact ⟨rfl, rfl⟩
    · rintro r k before rfl changed
      rw [applyFreq_switched before changed]
      exact ⟨rfl, rfl⟩
  · intro s dt c clamp pull apg aig lpg lig fg lw lc uw uc fitClamp fitPull fitApg fitAig fitLpg fitLig fitFg fitLw
      fitLc fitUw fitUc puts v x p exact' f i y
    have decoded := takeServoParams_fields fitClamp fitPull fitApg fitAig fitLpg fitLig fitFg fitLw fitLc fitUw fitUc
    obtain ⟨t, run, stored⟩ := put_written s dt c 11 0 (servoFields clamp pull apg aig lpg lig fg lw lc uw uc)
      (v.updServo (Servo.rewritten p)) _ exact' puts (by decide) (by decide) (show 0 < 1 from by decide)
      (by decide) (by rw [servoFields_length]; decide) (putEntry_servo decoded) (by
        simp only [Bool.or_eq_true, outside_iff, exact', not_and_or, or_assoc])
    exact ⟨t, run, stored⟩

end Sys2Proof.Machine
end

section
/-! PROOFS. A second boundary reached, and what the works beside the loop leave of the Time Engine (O38, O42). -/
namespace Sys2Proof.Machine
open Sys2Proof

/-! ## The boundary that comes next (R90) -/

/-- The counter value of the second boundary that comes next. -/
def Clock.nextBoundary (c : Clock) : Nat :=
  if c.boundaryDue then c.counter else (secondsOf c.counter + 1) * secUnits

/-- The clocks at the second boundary that comes next, its work outstanding. -/
structure Clock.AtBoundary (c c' : Clock) : Prop where
  counter   : c'.counter = c.nextBoundary
  residence : c'.residence = c.residence + (c.nextBoundary - c.counter)
  epoch     : c'.epoch = c.epoch
  due       : c'.boundaryDue = true

theorem Clock.toBoundary_atBoundary {f : Int} {c c' : Clock} (h : c.toBoundary f = some c') : c.AtBoundary c' := by
  unfold Clock.toBoundary at h
  split at h
  · next due =>
    cases h
    have stands : c.nextBoundary = c.counter := if_pos due
    exact ⟨stands.symm, by rw [stands, Nat.sub_self]; rfl, rfl, due⟩
  · next clear =>
    have ahead : c.nextBoundary = (secondsOf c.counter + 1) * secUnits := if_neg clear
    have room := (Clock.room_open (Bool.eq_false_iff.2 clear)).2
    rw [← ahead] at room
    split at h
    · cases h
      exact ⟨room, by rw [← room, Nat.add_sub_cancel_left]; rfl, rfl, rfl⟩
    · cases h

theorem Clock.toBoundary_isSome (f : Int) {c : Clock}
    (can : c.boundaryDue = true ∨ secondsOf c.counter + 1 < secRange) : ∃ c', c.toBoundary f = some c' := by
  unfold Clock.toBoundary
  split
  · exact ⟨_, rfl⟩
  · next clear => exact ⟨_, if_pos (can.resolve_left clear)⟩

/-- The relay at the boundary that comes next (R90, R117): the clocks reach it, its work about to be taken. -/
theorem State.atBoundary_some {s : State}
    (can : s.clock.boundaryDue = true ∨ secondsOf s.clock.counter + 1 < secRange) :
    ∃ c, s.clock.AtBoundary c ∧ s.atBoundary = some ((s.arrive c).withClock c.settle) := by
  obtain ⟨c, there⟩ := Clock.toBoundary_isSome s.servo.f can
  refine ⟨c, Clock.toBoundary_atBoundary there, ?_⟩
  unfold State.atBoundary
  rw [there]
  rfl

theorem State.secondBoundary_at {s u : State} (there : s.atBoundary = some u) (order : List BoundaryWork) :
    s.secondBoundary order = u.boundary (secondsOf u.clock.counter) order := by
  unfold State.secondBoundary
  rw [there]

/-- What is gathered of a second reads only the receiver, the sessions, the references and the Epoch. -/
theorem State.sampleOf_congr {s t : State} (epoch : t.clock.epoch = s.clock.epoch) (gnss : t.gnss = s.gnss)
    (sessions : t.sessions = s.sessions) (refs : t.refs = s.refs) (b : Nat) (r : Ref) :
    t.sampleOf b r = s.sampleOf b r := by
  unfold State.sampleOf State.gnssSample State.client State.ref
  rw [epoch, gnss, sessions, refs]

/-! ## Works that leave the Time Engine, the Selector and the references (R42, R132, R145, R147) -/

theorem choice_turnSecond (s : State) : ChoiceKept s s.turnSecond :=
  (ChoiceKept.foldl (fun (t : State) c => t.updClient c (ClientSession.boundary t.clock.counter))
    (fun _ _ => ⟨rfl, rfl, rfl, rfl⟩) allClients s).trans
    (ChoiceKept.foldl (fun (t : State) k => t.updSite k Site.boundary) (fun _ _ => ⟨rfl, rfl, rfl, rfl⟩) allSites _)

/-- The QUALITY_NOTICE that a session builds (R147, R148). -/
def State.qualityNotice (s : State) (k : Fin 6) : QFrame :=
  let x := s.site k
  let flags := (if x.state = .serving then 1 else 0) + (if x.epochPending then 2 else 0)
  ⟨s.siteFrame k timingGroup { s.siteHeader k typeQualityNotice x.nextNotice with flags := flags }
    (beBytes 6 s.mgmt.station.toNat ++ [0, 0]), .qualityNotice⟩

/-- A session whose notice has been offered, once its sequence is used (R147, R148). -/
def Site.noticed (queued : Bool) (x : Site) : Site :=
  if queued then { x with epochPending := false, ctr := { x.ctr with noticesQueued := bump x.ctr.noticesQueued } }
  else { x with ctr := { x.ctr with noticesSkipped := bump x.ctr.noticesSkipped } }

/-- A session that uses a notice's sequence. -/
def Site.usesNotice (x : Site) : Site := { x with nextNotice := (x.nextNotice + 1) % 65536 }

theorem offerNotice_disabled {s : State} {k : Fin 6} (disabled : (s.site k).state = .disabled) : s.offerNotice k = s :=
  if_pos disabled

theorem offerNotice_enabled {s : State} {k : Fin 6} (enabled : (s.site k).state ≠ .disabled) :
    let o := (s.updSite k Site.usesNotice).offer (sitePort k) .timing (s.qualityNotice k)
    s.offerNotice k = o.1.updSite k (Site.noticed o.2) := by
  dsimp only
  have built : s.offerNotice k = (match (s.updSite k Site.usesNotice).offer (sitePort k) .timing (s.qualityNotice k) with
      | (u, true) => u.updSite k fun y =>
          { y with epochPending := false, ctr := { y.ctr with noticesQueued := bump y.ctr.noticesQueued } }
      | (u, false) => u.countSite k fun c => { c with noticesSkipped := bump c.noticesSkipped }) := if_neg enabled
  rw [built]
  obtain ⟨u, queued⟩ := (s.updSite k Site.usesNotice).offer (sitePort k) .timing (s.qualityNotice k)
  cases queued <;> rfl

/-- A notice reaches only its session, its port and the Alarm Unit. -/
theorem offerNotice_frame (s : State) (k : Fin 6) :
    s.offerNotice k = { s with
      ports := (s.offerNotice k).ports, sites := (s.offerNotice k).sites, alarm := (s.offerNotice k).alarm } := by
  by_cases enabled : (s.site k).state = .disabled
  · rw [offerNotice_disabled enabled]
  · rw [offerNotice_enabled enabled]
    have frame := State.offer_frame (s.updSite k Site.usesNotice) (sitePort k) .timing (s.qualityNotice k)
    generalize (s.updSite k Site.usesNotice).offer (sitePort k) .timing (s.qualityNotice k) = o at frame ⊢
    rw [frame]
    rfl

theorem offerNotice_site_ne (s : State) {k j : Fin 6} (other : j ≠ k) : (s.offerNotice k).site j = s.site j := by
  by_cases enabled : (s.site k).state = .disabled
  · rw [offerNotice_disabled enabled]
  · rw [offerNotice_enabled enabled, State.site_updSite, if_neg other]
    have frame := State.offer_frame (s.updSite k Site.usesNotice) (sitePort k) .timing (s.qualityNotice k)
    refine (congrArg (fun t : State => t.site j) frame).trans ?_
    exact (State.site_updSite s k j _).trans (if_neg other)

theorem offerNotice_port_ne (s : State) {k : Fin 6} {q : Port} (other : q ≠ sitePort k) :
    (s.offerNotice k).port q = s.port q := by
  by_cases enabled : (s.site k).state = .disabled
  · rw [offerNotice_disabled enabled]
  · rw [offerNotice_enabled enabled]
    exact (State.offer_port _ _ _ _ _).trans (if_neg other)

theorem offerNotice_site {s : State} {k : Fin 6} (enabled : (s.site k).state ≠ .disabled) :
    (s.offerNotice k).site k = (s.site k).usesNotice.noticed
      (decide ((s.port (sitePort k)).linkUp = true ∧ (s.port (sitePort k)).timingQ.length < 16)) := by
  have queued := State.offer_timing_queued (s.updSite k Site.usesNotice) (sitePort k) (s.qualityNotice k)
  have frame := State.offer_frame (s.updSite k Site.usesNotice) (sitePort k) .timing (s.qualityNotice k)
  have used : ((s.updSite k Site.usesNotice).offer (sitePort k) .timing (s.qualityNotice k)).1.site k =
      (s.site k).usesNotice :=
    (congrArg (fun t : State => t.site k) frame).trans ((State.site_updSite s k k _).trans (if_pos rfl))
  rw [offerNotice_enabled enabled, State.site_updSite, if_pos rfl, used]
  exact congrArg (fun b => (s.site k).usesNotice.noticed b) (Bool.eq_iff_iff.2 (queued.trans decide_eq_true_iff.symm))

theorem offerNotice_port {s : State} {k : Fin 6} (enabled : (s.site k).state ≠ .disabled) :
    (s.offerNotice k).port (sitePort k) =
      (s.port (sitePort k)).offered s.res .timing (s.qualityNotice k) := by
  rw [offerNotice_enabled enabled]
  exact (State.offer_port _ _ _ _ _).trans (if_pos rfl)

theorem choice_offerNotice (s : State) (k : Fin 6) : ChoiceKept s (s.offerNotice k) := by
  rw [offerNotice_frame]
  exact ⟨rfl, rfl, rfl, rfl⟩

theorem choice_notices (s : State) : ChoiceKept s (allSites.foldl State.offerNotice s) :=
  ChoiceKept.foldl _ choice_offerNotice _ s

/-! ## The works of a boundary that do nothing, and what the samples work comes to (R55, R57, R74, R83, R104, R105) -/

/-- Between two marks no window ends and none begins (R57). -/
theorem windowsWork_between {g : Gathered} (mark : g.atMark = false) (s : State) : s.windowsWork g = s := by
  unfold State.windowsWork
  rw [mark, if_pos (by rfl)]

/-- Without the end of a window, or a frequency reference, nothing is followed (R111). -/
theorem trackingWork_aside {g : Gathered} {s : State} (aside : g.ending = false ∨ s.selector.freq = none) :
    s.trackingWork g = s := by
  unfold State.trackingWork
  rcases aside with between | alone
  · rw [between, if_pos (by rfl)]
  · split
    · rfl
    · rw [alone]

theorem trackingWork_followed {g : Gathered} {s : State} {r : Ref} (ending : g.ending = true)
    (selected : s.selector.freq = some r) : s.trackingWork g = s.freqResult (g.result s r) := by
  unfold State.trackingWork
  rw [ending, if_neg (by decide), selected]

theorem handedOn_none {s : State} (alone : s.selector.phase = none) (g : Gathered) : s.handedOn g = none := by
  unfold State.handedOn
  rw [alone]

/-- The selected phase reference hands on its sample, compensated, where it is QUALIFIED and in its Epoch (R55, R74). -/
theorem handedOn_selected {s : State} {r : Ref} (selected : s.selector.phase = some r) (g : Gathered) :
    s.handedOn g = if (s.ref r).state = .qualified ∧ s.clock.epoch = g.epoch then
      (g.samples r).map fun p => p + (s.ref r).cfg.compensation else none := by
  unfold State.handedOn
  rw [selected]

theorem followSample_none (s : State) : s.followSample none = s.slewProgress.noInput := rfl

theorem followSample_pending {s : State} (pending : s.slewProgress.realign.decision = .pending) (v : Int) :
    s.followSample (some v) = s.slewProgress.takeDecision v := by
  unfold State.followSample
  dsimp only
  rw [pending]

theorem followSample_decided {s : State} (decided : s.slewProgress.realign.decision = .decided) (v : Int) :
    s.followSample (some v) = s.slewProgress.giveInput (v - s.slewProgress.realign.b) := by
  unfold State.followSample
  dsimp only
  rw [decided]

theorem followSample_undecided {s : State} (undecided : s.slewProgress.realign.decision = .none) (e : Option Int) :
    s.followSample e = s.slewProgress.noInput := by
  unfold State.followSample
  dsimp only
  split
  · rfl
  · rw [undecided]

end Sys2Proof.Machine
end

section
/-! PROOFS. A loop input and the lock runs (O42): LOCKED entered and left, and the second boundary that brings it. -/
namespace Sys2Proof.Machine
open Sys2Proof

/-! ## A change of state in the Alarm Unit and the Holdover Unit (R103, R128, R131) -/

/-- A change of servo state ends with the two conditions of R103, told of the servo as it then stands. -/
theorem setServo_conditions {s : State} {new : ServoState} (changed : new ≠ s.servo.state) (g : Nat) :
    let t := s.setServo new g
    (t.alarm.record recHoldover).present = holdoverState t.servo.state t.servo.phaseValid ∧
    (t.alarm.record recFreerun).present = decide (t.servo.state = .freerun) := by
  have told (w : State) : (w.servoConditions.alarm.record recHoldover).present =
      holdoverState w.servo.state w.servo.phaseValid ∧
      (w.servoConditions.alarm.record recFreerun).present = decide (w.servo.state = .freerun) := by
    refine ⟨?_, report_present _ _ _ _ _ _ (by decide)⟩
    refine (congrArg AlarmRecord.present
      (report_record_ne _ _ recFreerun _ _ _ recHoldover (by decide) (by decide))).trans ?_
    exact report_present _ _ _ _ _ _ (by decide)
  unfold State.setServo
  dsimp only
  rw [if_neg changed, (choice_servoConditions _).servo]
  exact told _

theorem endHoldover_holdover (s : State) : s.endHoldover.holdover = { s.holdover with record := none } := by
  unfold State.endHoldover
  split
  · next none' => rw [← none']
  · split <;> rfl

/-- A servo state entered and counted (R103). -/
def State.entering (s : State) (new : ServoState) : State :=
  s.updServo fun x => { x with state := new, ctr := { x.ctr with stateChanges := bump x.ctr.stateChanges } }

theorem setServo_tracking {s : State} {new : ServoState} (changed : new ≠ s.servo.state) (tracks : new.tracking = true)
    (g : Nat) : s.setServo new g =
      ((s.entering new).holdoverChange s.servo.state new g).regrade.servoConditions := by
  unfold State.setServo
  dsimp only
  rw [if_neg changed, if_pos tracks, if_neg (fun e => by rw [e] at tracks; cases tracks),
    if_neg (fun e => by rw [e] at tracks; cases tracks)]
  rfl

/-- The Holdover Unit once LOCKED is entered (R118, R128, R131). -/
theorem setServo_locked_holdover {s : State} (changed : s.servo.state ≠ .locked) (g : Nat) :
    ∃ a c, (s.setServo .locked g).holdover =
      { s.holdover with settle := none, frozen := none, record := none, announced := a, ctr := c } := by
  obtain ⟨c, hold⟩ := State.regraded_holdover ((s.entering .locked).holdoverChange s.servo.state .locked g)
  rw [setServo_tracking (Ne.symm changed) rfl, hold]
  have ended := endHoldover_holdover ((s.entering .locked).updHold fun x => { x with settle := none, frozen := none })
  exact ⟨_, c, congrArg (fun h : Holdover => { h with
    announced := ((s.entering .locked).holdoverChange s.servo.state .locked g).gradeNow, ctr := c }) ended⟩

/-- The Holdover Unit once ACQUIRING is entered from a state that is no holdover (R118, R131). -/
theorem setServo_acquiring_holdover {s : State} (changed : s.servo.state ≠ .acquiring)
    (runs : holdoverState s.servo.state s.servo.phaseValid = false) (g : Nat) :
    ∃ a c, (s.setServo .acquiring g).holdover =
      { s.holdover with settle := none, frozen := none, announced := a, ctr := c } := by
  obtain ⟨c, hold⟩ := State.regraded_holdover ((s.entering .acquiring).holdoverChange s.servo.state .acquiring g)
  have noted : ((s.entering .acquiring).holdoverChange s.servo.state .acquiring g).holdover =
      { s.holdover with settle := none, frozen := none } := by
    have runs' : holdoverState s.servo.state (s.entering .acquiring).servo.phaseValid = false := runs
    unfold State.holdoverChange
    dsimp only
    rw [runs']
    rfl
  rw [setServo_tracking (Ne.symm changed) rfl, hold, noted]
  exact ⟨_, c, rfl⟩

/-! ## LOCKED entered and left (R109, R110) -/

/-- The Servo Context as a lock is taken, before its state changes (R109). -/
def Servo.lockTaken (x : Servo) : Servo :=
  { x with
    phaseValid := true, lockRun := 0, unlockRun := 0, acqFromHold := none
    ctr := { x.ctr with locks := bump x.ctr.locks } }

/-- The Servo Context as a lock is lost, before its state changes (R110). -/
def Servo.lockLost (x : Servo) : Servo :=
  { x with
    lockRun := 0, unlockRun := 0, acqFromHold := some false
    ctr := { x.ctr with unlocks := bump x.ctr.unlocks } }

theorem enterLocked_eq (s : State) (g : Nat) :
    s.enterLocked g = (s.updServo Servo.lockTaken).setServo .locked g := rfl

theorem leaveLocked_eq (s : State) (g : Nat) :
    s.leaveLocked g = (s.updServo Servo.lockLost).setServo .acquiring g := rfl

theorem enterLocked_servo {s : State} (changed : s.servo.state ≠ .locked) (g : Nat) :
    (s.enterLocked g).servo = { s.servo with
      state := .locked, phaseValid := true, lockRun := 0, unlockRun := 0, acqFromHold := none
      ctr := { s.servo.ctr with
        locks := bump s.servo.ctr.locks, stateChanges := bump s.servo.ctr.stateChanges } } := by
  rw [enterLocked_eq]
  refine ((setServo_servo (s := s.updServo Servo.lockTaken) (Ne.symm changed) g).2 (by decide)).trans ?_
  simp only [Servo.entered, ServoState.tracking, Bool.and_true]
  rfl

theorem leaveLocked_servo {s : State} (changed : s.servo.state ≠ .acquiring) (g : Nat) :
    (s.leaveLocked g).servo = { s.servo with
      state := .acquiring, lockRun := 0, unlockRun := 0, acqFromHold := some false
      ctr := { s.servo.ctr with
        unlocks := bump s.servo.ctr.unlocks, stateChanges := bump s.servo.ctr.stateChanges } } := by
  rw [leaveLocked_eq]
  refine ((setServo_servo (s := s.updServo Servo.lockLost) (Ne.symm changed) g).2 (by decide)).trans ?_
  simp only [Servo.entered, ServoState.tracking, Bool.and_true]
  rfl

/-! ## The loop input before a lock or an unlock (R106, R109, R110) -/

/-- The Servo Context once the loop has run on an input and PHASE_TRANSIENT follows it (R106). -/
def Servo.looped (e : Int) (x : Servo) : Servo :=
  { x.loop e with transient := decide (x.params.phaseClamp < e.natAbs) }

/-- The relay once the loop has run and the lock runs are counted. -/
def State.loopRun (s : State) (e : Int) : State :=
  (if s.servo.clamps e then (s.updServo (Servo.loop e)).raiseTransient
    else (s.updServo (Servo.loop e)).clearTransient).updServo (Servo.countRuns e)

/-- The loop run reaches the Time Engine and the Alarm Unit alone. -/
theorem loopRun_eq (s : State) (e : Int) :
    s.loopRun e = { s with servo := (s.servo.looped e).countRuns e, alarm := (s.loopRun e).alarm } := by
  unfold State.loopRun Servo.looped
  rw [show decide (s.servo.params.phaseClamp < e.natAbs) = s.servo.clamps e from rfl]
  cases s.servo.clamps e <;> rfl

theorem loopRun_servo (s : State) (e : Int) : (s.loopRun e).servo = (s.servo.looped e).countRuns e := by
  rw [loopRun_eq]

theorem choice_loopRun (s : State) (e : Int) : (s.loopRun e).selector = s.selector ∧
    (s.loopRun e).realign = s.realign ∧ (s.loopRun e).holdover = s.holdover := by
  rw [loopRun_eq]
  exact ⟨rfl, rfl, rfl⟩

theorem down_loopRun (s : State) (e : Int) : Down s (s.loopRun e) :=
  (down_updServo _ _).after (Down.ite ((down_raiseTransient _).after (down_updServo s _))
    ((down_clearTransient _).after (down_updServo s _)))

/-- A loop input is the run, and then a lock or an unlock where the input adds to the run of the state. -/
theorem loopInput_eq (s : State) (e : Int) : s.loopInput e =
    if !s.servo.extends e then s.loopRun e
    else if s.servo.state = .acquiring then (s.loopRun e).takeLock else (s.loopRun e).takeUnlock := by
  have same (t : State) (params : t.servo.params = s.servo.params) (state : t.servo.state = s.servo.state) :
      t.servo.extends e = s.servo.extends e ∧
        (t.updServo (Servo.countRuns e)).servo.state = s.servo.state := by
    unfold Servo.extends
    rw [params, state]
    refine ⟨rfl, ?_⟩
    show (t.servo.countRuns e).state = _
    rw [← state]
    unfold Servo.countRuns
    split <;> rfl
  unfold State.loopInput State.loopRun
  dsimp only
  generalize looped : (if s.servo.clamps e then _ else _ : State) = t
  obtain ⟨adds, state⟩ := same t (by rw [← looped]; split <;> rfl) (by rw [← looped]; split <;> rfl)
  rw [adds, state]

theorem loopInput_still {s : State} {e : Int} (adds : s.servo.extends e = false) : s.loopInput e = s.loopRun e := by
  rw [loopInput_eq, adds]
  rfl

theorem Servo.extends_acquiring {x : Servo} (state : x.state = .acquiring) (e : Int) :
    x.extends e = decide (e.natAbs ≤ x.params.lockWindow) := if_pos state

theorem Servo.extends_locked {x : Servo} (state : x.state = .locked) (e : Int) :
    x.extends e = decide (x.params.unlockWindow < e.natAbs) := if_neg (by rw [state]; decide)

section
variable {s : State} {e : Int}

/-- The lock run that an input in ACQUIRING leaves (R109). -/
theorem loopRun_acquiring (state : s.servo.state = .acquiring) (e : Int) : (s.loopRun e).servo =
    { s.servo.looped e with
      lockRun := if e.natAbs ≤ s.servo.params.lockWindow then min (s.servo.lockRun + 1) 255 else 0 } :=
  (loopRun_servo s e).trans (if_pos state)

/-- The unlock run that an input in LOCKED leaves (R110). -/
theorem loopRun_locked (state : s.servo.state = .locked) (e : Int) : (s.loopRun e).servo =
    { s.servo.looped e with
      unlockRun := if s.servo.params.unlockWindow < e.natAbs then min (s.servo.unlockRun + 1) 255 else 0 } :=
  (loopRun_servo s e).trans (if_neg fun other => by cases state.symm.trans other)

theorem loopRun_state (s : State) (e : Int) : (s.loopRun e).servo.state = s.servo.state := by
  rw [loopRun_servo]
  unfold Servo.countRuns
  split <;> rfl

/-- An input in ACQUIRING within Lock Window that does not reach Lock Count, or one beyond it (R109). -/
theorem loopInput_acquiring_still (state : s.servo.state = .acquiring)
    (short : e.natAbs ≤ s.servo.params.lockWindow → min (s.servo.lockRun + 1) 255 < s.servo.params.lockCount) :
    s.loopInput e = s.loopRun e := by
  by_cases near : e.natAbs ≤ s.servo.params.lockWindow
  · have run := loopRun_acquiring state e
    rw [if_pos near] at run
    rw [loopInput_eq, Servo.extends_acquiring state, decide_eq_true near, if_neg (by decide), if_pos state]
    refine if_neg fun reached => Nat.not_le.2 (short near) ?_
    rw [run] at reached
    exact reached.2
  · exact loopInput_still (by rw [Servo.extends_acquiring state, decide_eq_false near])

/-- An input in ACQUIRING that brings Lock Run to Lock Count (R109). -/
theorem loopInput_locks (state : s.servo.state = .acquiring) (near : e.natAbs ≤ s.servo.params.lockWindow)
    (reached : s.servo.params.lockCount ≤ min (s.servo.lockRun + 1) 255) :
    s.loopInput e = (s.loopRun e).enterLocked s.holdover.announced := by
  have run := loopRun_acquiring state e
  rw [if_pos near] at run
  rw [loopInput_eq, Servo.extends_acquiring state, decide_eq_true near, if_neg (by decide), if_pos state,
    ← (choice_loopRun s e).2.2]
  refine if_pos ?_
  rw [run]
  exact ⟨state, reached⟩

/-- An input in LOCKED beyond Unlock Window that does not reach Unlock Count, or one within it (R110). -/
theorem loopInput_locked_still (state : s.servo.state = .locked)
    (short : s.servo.params.unlockWindow < e.natAbs → min (s.servo.unlockRun + 1) 255 < s.servo.params.unlockCount) :
    s.loopInput e = s.loopRun e := by
  by_cases far : s.servo.params.unlockWindow < e.natAbs
  · have run := loopRun_locked state e
    rw [if_pos far] at run
    rw [loopInput_eq, Servo.extends_locked state, decide_eq_true far, if_neg (by decide),
      if_neg (by rw [state]; decide)]
    refine if_neg fun reached => Nat.not_le.2 (short far) ?_
    rw [run] at reached
    exact reached.2
  · exact loopInput_still (by rw [Servo.extends_locked state, decide_eq_false far])

/-- An input in LOCKED that brings Unlock Run to Unlock Count (R110). -/
theorem loopInput_unlocks (state : s.servo.state = .locked) (far : s.servo.params.unlockWindow < e.natAbs)
    (reached : s.servo.params.unlockCount ≤ min (s.servo.unlockRun + 1) 255) :
    s.loopInput e = (s.loopRun e).leaveLocked s.holdover.announced := by
  have run := loopRun_locked state e
  rw [if_pos far] at run
  rw [loopInput_eq, Servo.extends_locked state, decide_eq_true far, if_neg (by decide),
    if_neg (by rw [state]; decide), ← (choice_loopRun s e).2.2]
  refine if_pos ?_
  rw [run]
  exact ⟨state, reached⟩

/-- The Servo Context as LOCKED is entered (R109). -/
theorem loopInput_locks_servo (state : s.servo.state = .acquiring) (near : e.natAbs ≤ s.servo.params.lockWindow)
    (reached : s.servo.params.lockCount ≤ min (s.servo.lockRun + 1) 255) :
    (s.loopInput e).servo = { s.servo.looped e with
      state := .locked, phaseValid := true, lockRun := 0, unlockRun := 0, acqFromHold := none
      ctr := { (s.servo.looped e).ctr with
        locks := bump s.servo.ctr.locks, stateChanges := bump s.servo.ctr.stateChanges } } := by
  have run := loopRun_acquiring state e
  rw [loopInput_locks state near reached, enterLocked_servo (by rw [loopRun_state, state]; decide), run]
  rfl

/-- The Servo Context as LOCKED is left (R110). -/
theorem loopInput_unlocks_servo (state : s.servo.state = .locked) (far : s.servo.params.unlockWindow < e.natAbs)
    (reached : s.servo.params.unlockCount ≤ min (s.servo.unlockRun + 1) 255) :
    (s.loopInput e).servo = { s.servo.looped e with
      state := .acquiring, lockRun := 0, unlockRun := 0, acqFromHold := some false
      ctr := { (s.servo.looped e).ctr with
        unlocks := bump s.servo.ctr.unlocks, stateChanges := bump s.servo.ctr.stateChanges } } := by
  have run := loopRun_locked state e
  rw [loopInput_unlocks state far reached, leaveLocked_servo (by rw [loopRun_state, state]; decide), run]
  rfl

end

/-! ## A sample that neither jumps nor leaves the window (R55, R56, R60, R62) -/

/-- A change of defects that leaves an empty set empty, the grade as it stands and high enough (R60). -/
theorem setDefects_clean {s : State} {r : Ref} {f : List Defect → List Defect} (enabled : (s.ref r).state ≠ .disabled)
    (clean : (s.ref r).defects = []) (still : f [] = []) (grade : gradeIsLow (s.ref r).grade (s.ref r).cfg.minGrade = false) :
    s.setDefects r f = s := by
  unfold State.setDefects State.judge
  dsimp only
  have empty : putDefect .gradeLow false ([] : List Defect) = [] := rfl
  rw [if_neg enabled, clean, still, grade, Bool.and_false, empty, if_pos rfl, if_neg fun h => h.1 rfl]
  refine State.updRef_self ?_
  have void : ∀ v : Bool, (v || ([] : List Defect).contains .signalLost) = v := fun v => Bool.or_false v
  rw [void, ← clean]

/-- A sample that raises no defect. -/
theorem sampleDefects_clean (limit : Nat) (r : Ref) (e : Option Int) {starved : Bool}
    (fed : (refClient? r).isSome = true → starved = false) : sampleDefects limit r false starved e [] = [] := by
  have far : farAfter limit e (([] : List Defect).contains .phaseFar) = false := by
    cases e <;> rfl
  unfold sampleDefects
  rw [far]
  dsimp only
  split
  · next client => rw [fed client]; rfl
  · rfl

/-- The sample of a QUALIFIED reference without defects that raises none: its measurements alone move. -/
theorem judgeSample_clean {s : State} {r : Ref} {p l : Int} (state : (s.ref r).state = .qualified)
    (clean : (s.ref r).defects = []) (grade : ∀ g, (s.ref r).grade = some g → (s.ref r).cfg.minGrade ≤ g)
    (starve : 0 < (s.ref r).cfg.starveSeconds)
    (last : (s.ref r).lastE = some l) (near : (p + (s.ref r).cfg.compensation - l).natAbs ≤ (s.ref r).cfg.jumpLimit) :
    s.judgeSample (some p) r = s.updRef r (Reference.sampled r (some p)) := by
  have enabled : (s.ref r).state ≠ .disabled := by rw [state]; decide
  have stored : (s.updRef r (Reference.sampled r (some p))).ref r = (s.ref r).sampled r (some p) :=
    State.ref_updRef_same s r _
  have jump : (s.ref r).jumps (some (p + (s.ref r).cfg.compensation)) = false := by
    unfold Reference.jumps
    rw [last]
    exact decide_eq_false (Nat.not_lt.2 near)
  have fed (client : (refClient? r).isSome = true) : ((s.ref r).sampled r (some p)).isStarved = false := by
    refine decide_eq_false (Nat.not_le.2 ?_)
    show starveAfter r (some p) (s.ref r) < _
    rw [starveAfter_pkt client]
    exact starve
  have low : gradeIsLow (s.ref r).grade (s.ref r).cfg.minGrade = false := by
    unfold gradeIsLow
    split
    · rfl
    · next g given => exact decide_eq_false (Nat.not_lt.2 (grade g given))
  rw [State.judgeSample_enabled enabled, Option.map_some, jump, setDefects_clean]
  · unfold State.measured
    dsimp only
    rw [stored]
    have settled : ((s.ref r).sampled r (some p)).waits = false := by
      unfold Reference.waits
      show ((s.ref r).state = .monitoring && _ && _) = false
      rw [state]
      rfl
    rw [settled]
    rfl
  · rw [stored]; exact enabled
  · rw [stored]; exact clean
  · exact sampleDefects_clean _ _ _ fed
  · rw [stored]; exact low

/-! ## The boundary of a lone phase reference (R55, R104) -/

/-- With every other reference DISABLED the samples of a second are judged of one alone. -/
theorem samples_alone {s : State} {g : Gathered} {r : Ref} {p : Int} {f : Reference → Reference}
    (given : g.samples r = some p) (phase : phaseCapable r = true)
    (alone : ∀ k, k ≠ r → (s.ref k).state = .disabled) (judged : s.judgeSample (some p) r = s.updRef r f) :
    [Ref.gnss, .pkt0, .pkt1].foldl (fun t k => t.judgeSample (g.samples k) k) s = s.updRef r f := by
  have before (k : Ref) (other : k ≠ r) : s.judgeSample (g.samples k) k = s :=
    State.judgeSample_disabled (alone k other) _
  have after (k : Ref) (other : k ≠ r) : (s.updRef r f).judgeSample (g.samples k) k = s.updRef r f :=
    State.judgeSample_disabled (by rw [State.ref_updRef, if_neg other]; exact alone k other) _
  rw [← given] at judged
  simp only [List.foldl_cons, List.foldl_nil]
  cases r with
  | gnss => rw [judged, after .pkt0 (by decide), after .pkt1 (by decide)]
  | pkt0 => rw [before .gnss (by decide), judged, after .pkt1 (by decide)]
  | pkt1 => rw [before .gnss (by decide), before .pkt0 (by decide), judged]
  | line0 => cases phase
  | line1 => cases phase
  | ext => cases phase

/-- Only a phase-capable reference has a sample (R55). -/
theorem phaseCapable_of_sample {s : State} {b : Nat} {r : Ref} {p : Int} (sample : s.sampleOf b r = some p) :
    phaseCapable r = true := by
  unfold State.sampleOf at sample
  split at sample
  · cases sample
  · cases r
    case gnss => rfl
    case pkt0 => rfl
    case pkt1 => rfl
    all_goals cases sample

/-- The selected reference and its second, as O42 takes them: alone, QUALIFIED without defects, its sample `p` within the
Jump Limit of the last, its decision taken and no slew moving. -/
structure State.LoneSample (s : State) (r : Ref) (p l : Int) : Prop where
  selected  : s.selector.phase = some r
  alone     : ∀ k, k ≠ r → (s.ref k).state = .disabled
  qualified : (s.ref r).state = .qualified
  clean     : (s.ref r).defects = []
  grade     : ∀ g, (s.ref r).grade = some g → (s.ref r).cfg.minGrade ≤ g
  starve    : 0 < (s.ref r).cfg.starveSeconds
  last      : (s.ref r).lastE = some l
  near      : (p + (s.ref r).cfg.compensation - l).natAbs ≤ (s.ref r).cfg.jumpLimit
  decided   : s.realign.decision = .decided
  still     : s.realign.slew ≠ some false

/-- It reads only the Selector, the Realignment Unit and the references. -/
theorem State.LoneSample.congr {s t : State} {r : Ref} {p l : Int} (h : s.LoneSample r p l) (kept : ChoiceKept s t) :
    t.LoneSample r p l := by
  have ref (k : Ref) : t.ref k = s.ref k := by unfold State.ref; rw [kept.refs]
  obtain ⟨selected, alone, qualified, clean, grade, starve, last, near, decided, still⟩ := h
  constructor
  · rw [kept.selector]; exact selected
  · intro k other; rw [ref]; exact alone k other
  · rw [ref]; exact qualified
  · rw [ref]; exact clean
  · rw [ref]; exact grade
  · rw [ref]; exact starve
  · rw [ref]; exact last
  · rw [ref]; exact near
  · rw [kept.realign]; exact decided
  · rw [kept.realign]; exact still

/-- The samples work of such a second gives the Time Engine one loop input, E less the phase in force (R104). -/
theorem samplesWork_alone {s : State} {g : Gathered} {r : Ref} {p l : Int} (h : s.LoneSample r p l)
    (phase : phaseCapable r = true) (given : g.samples r = some p) (epoch : s.clock.epoch = g.epoch) :
    ∃ u : State, u.servo = s.servo ∧ u.clock = s.clock ∧
      s.samplesWork g = u.giveInput (p + (s.ref r).cfg.compensation - s.realign.b) := by
  have judged := judgeSample_clean h.qualified h.clean h.grade h.starve h.last h.near
  have all := samples_alone given phase h.alone judged
  have stored : (s.updRef r (Reference.sampled r (some p))).ref r = (s.ref r).sampled r (some p) :=
    State.ref_updRef_same s r _
  have handed := handedOn_selected (s := s.updRef r (Reference.sampled r (some p))) h.selected g
  rw [stored, if_pos ⟨h.qualified, epoch⟩, given] at handed
  have still : ((s.updRef r (Reference.sampled r (some p))).dropSamples g.second).slewProgress =
      (s.updRef r (Reference.sampled r (some p))).dropSamples g.second := slewProgress_still h.still
  refine ⟨(s.updRef r (Reference.sampled r (some p))).dropSamples g.second, rfl, rfl, ?_⟩
  unfold State.samplesWork
  dsimp only
  rw [all, handed, Option.map_some, followSample_decided (by rw [still]; exact h.decided), still]
  rfl

theorem addMeanF_servo (s : State) (b : Nat) : (s.addMeanF b).servo = s.servo := rfl

theorem addMeanF_clock (s : State) (b : Nat) : (s.addMeanF b).clock = s.clock := rfl

/-- The works in the default order: the samples first. -/
theorem boundary_default (s : State) (b : Nat) : s.boundary b [] =
    ([BoundaryWork.windows, .tracking, .grade, .notices].foldl (State.work (s.gather b))
      (s.turnSecond.samplesWork (s.gather b))).addMeanF b := by
  have order : workOrder [] = .samples :: [.windows, .tracking, .grade, .notices] := by decide
  unfold State.boundary
  rw [order, List.foldl_cons]
  rfl

/-- Without a window's end the other works leave the Time Engine and the clocks (R57, R111, R132, R147). -/
theorem otherWorks_still {g : Gathered} (mark : g.atMark = false) (ending : g.ending = false) (s : State) (b : Nat) :
    let t := ([BoundaryWork.windows, .tracking, .grade, .notices].foldl (State.work g) s).addMeanF b
    t.servo = s.servo ∧ t.clock = s.clock := by
  have works : [BoundaryWork.windows, .tracking, .grade, .notices].foldl (State.work g) s =
      allSites.foldl State.offerNotice s.regrade := by
    simp only [List.foldl_cons, List.foldl_nil]
    show allSites.foldl State.offerNotice (((s.windowsWork g).trackingWork g).regrade) = _
    rw [windowsWork_between mark, trackingWork_aside (.inl ending)]
  have servo := (choice_notices s.regrade).servo.trans (choice_regrade s).servo
  have clock := (quiet_notices s.regrade).calm.clock.trans (quiet_regrade s).calm.clock
  dsimp only
  rw [works, addMeanF_servo, addMeanF_clock]
  exact ⟨servo, clock⟩

/-- The second boundary of such a second, between window ends, its works in the default order (R90, R104). -/
theorem secondBoundary_alone {s : State} {r : Ref} {p l : Int}
    (can : s.clock.boundaryDue = true ∨ secondsOf s.clock.counter + 1 < secRange)
    (between : secondsOf s.clock.nextBoundary % 16 ≠ 0)
    (sample : s.sampleOf (secondsOf s.clock.nextBoundary) r = some p) (h : s.LoneSample r p l) :
    let t := s.secondBoundary []
    t.clock.counter = s.clock.nextBoundary ∧ t.clock.boundaryDue = false ∧
    ∃ u : State, u.servo = s.servo ∧ t.servo = (u.giveInput (p + (s.ref r).cfg.compensation - s.realign.b)).servo := by
  obtain ⟨c, reached, there⟩ := State.atBoundary_some can
  generalize arrived : (s.arrive c).withClock c.settle = u at there
  have clock : u.clock = c.settle := by rw [← arrived]; rfl
  have counter : u.clock.counter = s.clock.nextBoundary := by rw [clock]; exact reached.counter
  have epoch : u.clock.epoch = s.clock.epoch := by rw [clock]; exact reached.epoch
  have same : ChoiceKept s u := by rw [← arrived]; exact ⟨rfl, rfl, rfl, rfl⟩
  have kept := same.trans (choice_turnSecond u)
  have turned : u.turnSecond.clock = u.clock := (quiet_turnSecond u).calm.clock
  have epoch' : u.turnSecond.clock.epoch = (u.gather (secondsOf s.clock.nextBoundary)).epoch := by rw [turned]; rfl
  have given : (u.gather (secondsOf s.clock.nextBoundary)).samples r = some p := by
    refine Eq.trans ?_ sample
    exact State.sampleOf_congr epoch (by rw [← arrived]; rfl) (by rw [← arrived]; rfl) (by rw [← arrived]; rfl) _ r
  have between' : decide (secondsOf s.clock.nextBoundary % 16 = 0) = false := decide_eq_false between
  obtain ⟨v, servo, still, samples⟩ :=
    samplesWork_alone (h.congr kept) (phaseCapable_of_sample sample) given epoch'
  rw [show u.turnSecond.ref r = s.ref r by unfold State.ref; rw [kept.refs], kept.realign] at samples
  obtain ⟨engine, clocks⟩ := otherWorks_still (g := u.gather (secondsOf s.clock.nextBoundary)) between'
    (by unfold State.gather; rw [between']; rfl) (u.turnSecond.samplesWork (u.gather (secondsOf s.clock.nextBoundary)))
    (secondsOf s.clock.nextBoundary)
  have whole : s.secondBoundary [] = ([BoundaryWork.windows, .tracking, .grade, .notices].foldl
      (State.work (u.gather (secondsOf s.clock.nextBoundary)))
      (u.turnSecond.samplesWork (u.gather (secondsOf s.clock.nextBoundary)))).addMeanF
        (secondsOf s.clock.nextBoundary) := by
    rw [State.secondBoundary_at there, counter, boundary_default]
  have input : (v.giveInput (p + (s.ref r).cfg.compensation - s.realign.b)).clock = c.settle :=
    ((fair_giveInput v _).calm.clock.trans still).trans (turned.trans clock)
  dsimp only
  rw [whole, clocks, engine, samples, input]
  exact ⟨reached.counter, rfl, v, servo.trans kept.servo, rfl⟩

/-! ## What a loop input leaves (R109, R110, R128) -/

theorem enterLocked_aside (s : State) (g : Nat) :
    (s.enterLocked g).selector = s.selector ∧ (s.enterLocked g).realign = s.realign :=
  have moved := moved_setServo (s.updServo Servo.lockTaken) .locked g
  ⟨moved.selector, moved.realign⟩

theorem leaveLocked_aside (s : State) (g : Nat) :
    (s.leaveLocked g).selector = s.selector ∧ (s.leaveLocked g).realign = s.realign :=
  have moved := moved_setServo (s.updServo Servo.lockLost) .acquiring g
  ⟨moved.selector, moved.realign⟩

/-- LOCKED entered, in the Holdover Unit and the Alarm Unit (R103, R109, R128). -/
theorem enterLocked_holdover {s : State} (changed : s.servo.state ≠ .locked) (g : Nat) :
    let t := s.enterLocked g
    t.holdover.record = none ∧ t.holdover.frozen = none ∧ t.holdover.settle = none ∧
      t.holdover.ring = s.holdover.ring ∧ (t.alarm.record recHoldover).present = false ∧
      (t.alarm.record recFreerun).present = false := by
  intro t
  obtain ⟨a, c, hold⟩ := setServo_locked_holdover (s := s.updServo Servo.lockTaken) changed g
  obtain ⟨holding, running⟩ := setServo_conditions (s := s.updServo Servo.lockTaken) (Ne.symm changed) g
  have state : t.servo.state = .locked := by rw [show t.servo = _ from enterLocked_servo changed g]
  have unit : t.holdover = _ := hold
  have holding' : (t.alarm.record recHoldover).present = holdoverState t.servo.state t.servo.phaseValid := holding
  have running' : (t.alarm.record recFreerun).present = decide (t.servo.state = .freerun) := running
  rw [unit, holding', running', state]
  exact ⟨rfl, rfl, rfl, rfl, rfl, rfl⟩

/-- LOCKED left, in the Holdover Unit and the Alarm Unit (R103, R110). -/
theorem leaveLocked_holdover {s : State} (state : s.servo.state = .locked) (g : Nat) :
    let t := s.leaveLocked g
    t.holdover.record = s.holdover.record ∧ t.holdover.frozen = none ∧ t.holdover.ring = s.holdover.ring ∧
      (t.alarm.record recFreerun).present = false := by
  intro t
  have changed : s.servo.state ≠ .acquiring := by rw [state]; decide
  have runs : holdoverState s.servo.state s.servo.phaseValid = false := by rw [state]; rfl
  obtain ⟨a, c, hold⟩ := setServo_acquiring_holdover (s := s.updServo Servo.lockLost) changed runs g
  obtain ⟨-, running⟩ := setServo_conditions (s := s.updServo Servo.lockLost) (Ne.symm changed) g
  have entered : t.servo.state = .acquiring := by rw [show t.servo = _ from leaveLocked_servo changed g]
  have unit : t.holdover = _ := hold
  have running' : (t.alarm.record recFreerun).present = decide (t.servo.state = .freerun) := running
  rw [unit, running', entered]
  exact ⟨rfl, rfl, rfl, rfl⟩

/-- An input that neither locks nor unlocks reaches the Time Engine and the Alarm Unit alone (R98). -/
theorem loopRun_quiet {s : State} {e : Int} (run : s.loopInput e = s.loopRun e) :
    s.loopInput e = { s with servo := (s.loopInput e).servo, alarm := (s.loopInput e).alarm } := by
  rw [run, loopRun_eq]

/-! ## The timers of the lock runs (R98; log 14) -/

theorem exec_lockCountReached (s : State) : exec .lockCountReached s =
    .next (if s.servo.state = .acquiring ∧ (s.secondBoundary []).servo.state = .locked then s.secondBoundary []
      else s) := by
  show execLockCountReached s = _
  unfold execLockCountReached State.boundaryWhere
  simp only [decide_eq_true_eq]

theorem exec_unlockCountReached (s : State) : exec .unlockCountReached s =
    .next (if s.servo.state = .locked ∧ (s.secondBoundary []).servo.state = .acquiring ∧
      (s.secondBoundary []).servo.acqFromHold = some false then s.secondBoundary [] else s) := by
  show execUnlockCountReached s = _
  unfold execUnlockCountReached State.boundaryWhere
  simp only [Bool.and_eq_true, decide_eq_true_eq]

theorem giveInput_loops {s : State} (tracks : s.servo.state.tracking = true) (e : Int) :
    s.giveInput e = s.loopInput e := if_pos tracks

/-- Settles O42: the loop input by the state and by whether it reaches the count, the two timers by their equation, and
the boundary of a lone reference. -/
theorem lockAndUnlock : Obligations.LockAndUnlock := by
  refine ⟨fun s e => ⟨fun state => ⟨fun near reached => ?_, fun near short => ?_, fun far => ?_⟩,
    fun state => ⟨fun far reached => ?_, fun far short => ?_, fun near => ?_⟩⟩, fun s u run => ?_, ?_⟩
  · have servo := loopInput_locks_servo state near reached
    rw [loopInput_locks state near reached] at servo ⊢
    obtain ⟨selector, realign, holdover⟩ := choice_loopRun s e
    obtain ⟨selected, realigned⟩ := enterLocked_aside (s.loopRun e) s.holdover.announced
    have unit := enterLocked_holdover (s := s.loopRun e) (by rw [loopRun_state, state]; decide) s.holdover.announced
    rw [holdover] at unit
    exact ⟨((down_loopRun s e).trans (down_enterLocked _ _)).kept, selected.trans selector, realigned.trans realign,
      servo, unit⟩
  · have run := loopInput_acquiring_still (e := e) state fun _ => short
    refine ⟨loopRun_quiet run, ?_⟩
    rw [run, loopRun_acquiring state, if_pos near]
    rfl
  · have run := loopInput_acquiring_still (e := e) state fun near => absurd far (Nat.not_lt.2 near)
    refine ⟨loopRun_quiet run, ?_⟩
    rw [run, loopRun_acquiring state, if_neg (Nat.not_le.2 far)]
    rfl
  · have servo := loopInput_unlocks_servo state far reached
    rw [loopInput_unlocks state far reached] at servo ⊢
    obtain ⟨selector, realign, holdover⟩ := choice_loopRun s e
    obtain ⟨selected, realigned⟩ := leaveLocked_aside (s.loopRun e) s.holdover.announced
    have unit := leaveLocked_holdover (s := s.loopRun e) (by rw [loopRun_state, state]) s.holdover.announced
    rw [holdover] at unit
    exact ⟨((down_loopRun s e).trans (down_leaveLocked _ _)).kept, selected.trans selector, realigned.trans realign,
      servo, unit⟩
  · have run := loopInput_locked_still (e := e) state fun _ => short
    refine ⟨loopRun_quiet run, ?_⟩
    rw [run, loopRun_locked state, if_pos far]
    rfl
  · have run := loopInput_locked_still (e := e) state fun far => absurd far (Nat.not_lt.2 near)
    refine ⟨loopRun_quiet run, ?_⟩
    rw [run, loopRun_locked state, if_neg (Nat.not_lt.2 near)]
    rfl
  · cases (run : Host.Outcome.next (s.secondBoundary []) = .next u)
    rw [exec_lockCountReached, exec_unlockCountReached]
    refine ⟨fun other => ?_, fun before after => ?_, fun other => ?_, fun before after held => ?_⟩
    · rw [if_neg fun h => other.elim (absurd h.1) (absurd h.2)]
    · rw [if_pos ⟨before, after⟩]
    · rw [if_neg fun h => other.elim (absurd h.1) fun rest => rest.elim (absurd h.2.1) (absurd h.2.2)]
    · rw [if_pos ⟨before, after, held⟩]
  · intro s r p l x y at' b e input can between selected alone qualified clean grade starve sample last near decided
      still run
    obtain ⟨counter, due, v, servo, engine⟩ := secondBoundary_alone can between sample
      ⟨selected, alone, qualified, clean, grade, starve, last, near, decided, still⟩
    refine ⟨fun state near reached => ?_, fun state far reached => ?_⟩
    · have locks := loopInput_locks_servo (s := v) (by rw [servo]; exact state) (by rw [servo]; exact near)
        (by rw [servo]; exact reached)
      rw [← giveInput_loops (by rw [servo, state]; rfl), ← engine, servo] at locks
      exact ⟨s.secondBoundary [], by rw [exec_lockCountReached, if_pos ⟨state, by rw [locks]⟩], counter, due, locks⟩
    · have unlocks := loopInput_unlocks_servo (s := v) (by rw [servo]; exact state) (by rw [servo]; exact far)
        (by rw [servo]; exact reached)
      rw [← giveInput_loops (by rw [servo, state]; rfl), ← engine, servo] at unlocks
      exact ⟨s.secondBoundary [], by rw [exec_unlockCountReached, if_pos ⟨state, by rw [unlocks], by rw [unlocks]⟩],
        counter, due, unlocks⟩

end Sys2Proof.Machine
end

section
/-! PROOFS. A change of Epoch block by block, and the two events that bring one from outside the loop: COUNTER_WRAP and
TIME_SET (O39). -/
namespace Sys2Proof.Machine
open Sys2Proof

/-! ## The blocks that take a change of Epoch (R94) -/

theorem sessionsEpoch_eq (s : State) : ∃ x, s.sessionsEpoch = { s with sessions := x } ∧
    ∀ c, ({ s with sessions := x } : State).client c = { s.client c with
      outstanding := [], pair := none, best := none, queryDone := s.clock.counter } :=
  ⟨s.sessionsEpoch.sessions, rfl, fun c => s.sessionsEpoch_client c⟩

theorem monitorEpoch_eq (s : State) : ∃ x, s.monitorEpoch = { s with refs := x, gnss := { s.gnss with samples := [] } } ∧
    ∀ r, ({ s with refs := x, gnss := { s.gnss with samples := [] } } : State).ref r = (s.ref r).epoch := by
  have frame := foldl_relates (R := fun s t => t = { s with refs := t.refs }) (fun _ => rfl)
    (fun a b => by rw [a] at b; exact b) (op := fun t r => t.updRef r Reference.epoch) (fun _ _ => rfl) allRefs s
  have own (r : Ref) : (allRefs.foldl (fun (t : State) r => t.updRef r Reference.epoch) s).ref r = (s.ref r).epoch := by
    refine foldl_own (read := State.ref) (env := fun _ => ()) (g := fun _ _ x => x.epoch)
      (op := fun t r => t.updRef r Reference.epoch)
      (fun t k => ?_) (fun t k j ne => ?_) (fun _ _ => rfl) allRefs (by decide) s r (by cases r <;> decide)
    · exact State.ref_updRef_same t k _
    · exact (State.ref_updRef t k j _).trans (if_neg ne)
  unfold State.monitorEpoch
  generalize allRefs.foldl (fun (t : State) r => t.updRef r Reference.epoch) s = u at frame own
  exact ⟨u.refs, by rw [frame]; rfl, own⟩

/-- The Realignment Unit without its Suspended Slew record, which is counted (R87). -/
def Realign.discarded (x : Realign) : Realign :=
  { x with
    suspended := none
    ctr := { x.ctr with
      suspendedDiscarded :=
        if x.suspended.isSome then bump x.ctr.suspendedDiscarded else x.ctr.suspendedDiscarded } }

theorem Realign.discarded_none {x : Realign} (free : x.suspended = none) : x.discarded = x := by
  cases x
  dsimp only at free
  subst free
  rfl

theorem realEpoch_eq (s : State) : s.realEpoch = { s with realign := s.realign.discarded } := by
  unfold State.realEpoch
  cases record : s.realign.suspended with
  | none => rw [discardSuspended_none record, Realign.discarded_none record]
  | some u =>
    unfold Realign.discarded
    rw [discardSuspended_some record, record]
    rfl

/-- A minute closed, with the accumulator emptied and the oldest entry of a full ring gone (R116, R119). -/
theorem Holdover.append_eq (stamp : Nat) (source : Option Ref) (state : ServoState) (x : Holdover) :
    x.append stamp source state = { x with
      ring := (if 1440 ≤ x.ring.length then x.ring.drop 1 else x.ring) ++
        [{ stamp := stamp, lockedSeconds := x.acc.count
           meanFreq := if x.acc.count = 0 then none else some (roundDiv x.acc.iSum x.acc.count)
           source := source, servoState := state }]
      acc := ⟨0, 0, x.acc.firstVoid⟩
      ctr := { x.ctr with
        entriesAppended := bump x.ctr.entriesAppended
        ringOverwrites := if 1440 ≤ x.ring.length then bump x.ctr.ringOverwrites else x.ctr.ringOverwrites } } := by
  unfold Holdover.append ringCapacity
  simp only [decide_eq_true_eq]

/-- The minute that a change of Epoch closes or drops (R120): nothing of the Holdover Unit but the ring, the accumulator and
the counters moves. -/
theorem ringEpoch_eq (s : State) (before : Nat) : ∃ x, s.ringEpoch before = { s with holdover := x } ∧
    x = { s.holdover with ring := x.ring, acc := { count := 0, iSum := 0, firstVoid := true }, ctr := x.ctr } ∧
    (let old := secondsOf before / 60 + 1
    let new := secondsOf s.clock.counter / 60 + 1
    (old = new → x.ring = s.holdover.ring) ∧ (new < old → x.ring = []) ∧
    (old < new → ∃ e, e.stamp = old ∧ e.lockedSeconds = s.holdover.acc.count ∧
      x.ring = (if 1440 ≤ s.holdover.ring.length then s.holdover.ring.drop 1 else s.holdover.ring) ++ [e])) := by
  unfold State.ringEpoch minuteInProgress
  dsimp only
  split
  · next closes =>
    refine ⟨_, rfl, rfl, fun same => absurd same (Nat.ne_of_lt closes), fun drops => absurd drops (Nat.lt_asymm closes),
      fun _ => ?_⟩
    have ring := congrArg Holdover.ring
      (s.holdover.append_eq (secondsOf before / 60 + 1) s.ringSource s.servo.state)
    exact ⟨_, rfl, rfl, ring⟩
  · next open' =>
    split
    · next drops =>
      exact ⟨_, rfl, rfl, fun same => absurd same.symm (Nat.ne_of_lt drops), fun _ => rfl,
        fun closes => absurd closes open'⟩
    · next stays =>
      exact ⟨_, rfl, rfl, fun _ => rfl, fun drops => absurd drops stays, fun closes => absurd closes open'⟩

/-- A Delivery Session that takes a change of Epoch (R148, R150). -/
def Site.newEpoch (counter : Nat) (x : Site) : Site :=
  { x with epochPending := x.epochPending || decide (x.state ≠ .disabled), queries := 0, markDone := counter }

theorem sitesEpoch_eq (s : State) : ∃ x, s.sitesEpoch = { s with sites := x } ∧
    ∀ k, ({ s with sites := x } : State).site k = (s.site k).newEpoch s.clock.counter := by
  have frame : s.sitesEpoch = { s with sites := s.sitesEpoch.sites } := by
    refine foldl_relates (R := fun s t => t = { s with sites := t.sites }) (fun _ => rfl) ?_ (fun _ _ => rfl) allSites s
    intro s t u a b
    rw [a] at b
    exact b
  refine ⟨_, frame, fun k => ?_⟩
  rw [← frame]
  refine foldl_own (read := State.site) (env := fun t => t.clock.counter) (g := fun counter _ x => x.newEpoch counter)
    (op := fun t k => t.updSite k (Site.newEpoch t.clock.counter))
    (fun t j => ?_) (fun t j i ne => ?_) (fun _ _ => rfl) allSites (by decide) s k (by revert k; decide)
  · exact (State.site_updSite t j j _).trans (if_pos rfl)
  · exact (State.site_updSite t j i _).trans (if_neg ne)

theorem pinsEpoch_eq (s : State) : ∃ x, s.pinsEpoch = { s with pins := x } ∧
    ∀ k, ({ s with pins := x } : State).tpin k = (s.tpin k).epoch s.clock := by
  have frame : s.pinsEpoch = { s with pins := s.pinsEpoch.pins } := by
    refine foldl_relates (R := fun s t => t = { s with pins := t.pins }) (fun _ => rfl) ?_ (fun _ _ => rfl) allPins s
    intro s t u a b
    rw [a] at b
    exact b
  refine ⟨_, frame, fun k => ?_⟩
  rw [← frame]
  refine foldl_own (read := State.tpin) (env := fun _ => ()) (g := fun _ _ x => x.epoch s.clock)
    (op := fun t k => t.updPin k (Pin.epoch s.clock))
    (fun t j => ?_) (fun t j i ne => ?_) (fun _ _ => rfl) allPins (by decide) s k (mem_allPins k)
  · exact (State.tpin_updPin t j j _).trans (if_pos rfl)
  · exact (State.tpin_updPin t j i _).trans (if_neg ne)

/-- Where the schedules of a pin stand after a change of Epoch (R165; logs 41, 69). -/
theorem Pin.epoch_spec (c : Clock) (x : Pin) :
    let half := 65536000000000 / x.cfg.rate / 2
    ∃ left : Nat, (x.riseRes = none → left = 0) ∧
      (∀ rise, x.riseRes = some rise → left =
        if c.residence < rise + half then rise + half - c.residence
        else rise + 65536000000000 / x.cfg.rate - c.residence) ∧
      x.epoch c = { x with
        ppsLast := none, ppsFrom := c.counter
        phase := match x.phase with
          | .onCounter _ => .onCounter (c.counter + left)
          | .leavingCounter _ => .leavingCounter (c.counter + left)
          | .onBypass next rem => .onBypass next rem
          | .leavingBypass finish => .leavingBypass finish } := by
  refine ⟨x.halfLeft c.residence, fun none' => ?_, fun rise some' => ?_, rfl⟩
  · unfold Pin.halfLeft
    rw [none']
  · unfold Pin.halfLeft
    rw [some']
    rfl

/-- A change of Epoch, once the clocks have been moved and the Time Engine has counted it (R92, R94). -/
theorem epochChange_changed (s : State) (counter before : Nat) (x : Servo) :
    let t := ({ s with clock := s.clock.moveTo counter, servo := x } : State).epochChange before
    EpochChanged before s t ∧ t.servo = x ∧ t.clock.counter = counter := by
  unfold State.epochChange
  obtain ⟨sessions, first, clients⟩ := sessionsEpoch_eq { s with clock := s.clock.moveTo counter, servo := x }
  rw [first]
  obtain ⟨refs, second, references⟩ := monitorEpoch_eq
    { s with clock := s.clock.moveTo counter, servo := x, sessions := sessions }
  rw [second, realEpoch_eq]
  obtain ⟨holdover, third, minute, ring⟩ := ringEpoch_eq
    { s with
      clock := s.clock.moveTo counter, servo := x, sessions := sessions, refs := refs
      gnss := { s.gnss with samples := [] }, realign := s.realign.discarded } before
  rw [third]
  obtain ⟨sites, fourth, sessions'⟩ := sitesEpoch_eq
    { s with
      clock := s.clock.moveTo counter, servo := x, sessions := sessions, refs := refs
      gnss := { s.gnss with samples := [] }, realign := s.realign.discarded, holdover := holdover }
  rw [fourth]
  obtain ⟨pins, fifth, outputs⟩ := pinsEpoch_eq
    { s with
      clock := s.clock.moveTo counter, servo := x, sessions := sessions, refs := refs
      gnss := { s.gnss with samples := [] }, realign := s.realign.discarded, holdover := holdover, sites := sites }
  rw [fifth]
  refine ⟨⟨rfl, rfl, clients, references, rfl, minute, ring, sessions', fun k => ?_⟩, rfl, rfl⟩
  obtain ⟨left, low, high, placed⟩ := (s.tpin k).epoch_spec (s.clock.moveTo counter)
  exact ⟨left, low, high, (outputs k).trans placed⟩

/-! ## COUNTER_WRAP (R91) -/

theorem Clock.toWrap_none {f : Int} {c : Clock} (stays : c.boundaryDue = true ∨ secondsOf c.counter + 1 ≠ secRange) :
    c.toWrap f = none := by
  refine if_neg fun h => ?_
  rcases stays with due | below
  · rw [due] at h; cases h.1
  · exact below h.2

/-- The carry comes at the end of the last second, in the Epoch that stands (R91). -/
theorem Clock.toWrap_some {f : Int} {c : Clock} (clear : c.boundaryDue = false) (last : secondsOf c.counter + 1 = secRange) :
    ∃ d, c.toWrap f = some d ∧ d.residence = c.residence + (secRange * secUnits - c.counter) ∧ d.epoch = c.epoch := by
  refine ⟨c.run f c.room, if_pos ⟨clear, last⟩, ?_, rfl⟩
  have room := (Clock.room_open clear).2
  rw [last] at room
  show c.residence + c.room = _
  rw [← room, Nat.add_sub_cancel_left]

theorem exec_counterWrap (s : State) : exec .counterWrap s = .next (match s.clock.toWrap s.servo.f with
    | some c => (s.withClock c).counterCarry
    | none => s) := rfl

theorem counterCarry_changed (s : State) :
    EpochChanged (secRange * secUnits - 1) s s.counterCarry ∧
    s.counterCarry.servo = { s.servo with ctr := { s.servo.ctr with counterWraps := bump s.servo.ctr.counterWraps } } ∧
    s.counterCarry.clock.counter = 0 := epochChange_changed s 0 counterTop _

/-! ## TIME_SET (R95) -/

theorem timeSet_changed (s : State) (seconds nanos : Nat) :
    EpochChanged s.clock.counter s (s.timeSet seconds nanos) ∧
    (s.timeSet seconds nanos).servo = { s.servo with ctr := { s.servo.ctr with timeSets := bump s.servo.ctr.timeSets } } ∧
    (s.timeSet seconds nanos).clock.counter = seconds * secUnits + nanos * 65536 := by
  have whole : timeOf seconds nanos 0 = seconds * secUnits + nanos * 65536 := by
    unfold timeOf nsUnits
    rw [Nat.add_zero]
  unfold State.timeSet State.moveCounter
  rw [whole]
  exact epochChange_changed s (seconds * secUnits + nanos * 65536) s.clock.counter _

/-- TIME_SET out of FREERUN, and in it with and without a clamp (R95). -/
theorem runTimeSet_eq (s : State) (c : Command) :
    let seconds := beNat (c.args.take 6)
    let nanos := beNat ((c.args.drop 6).take 4)
    (s.servo.state ≠ .freerun → runTimeSet s c = { state := s, status := 10, results := [] }) ∧
    (s.servo.state = .freerun → runTimeSet s c =
      { state := s.timeSet (min seconds (secRange - 1)) (min nanos 999999999)
        status := if seconds < secRange ∧ nanos < 1000000000 then 0 else 1
        results := if seconds < secRange ∧ nanos < 1000000000 then []
          else beBytes 6 (min seconds (secRange - 1)) ++ beBytes 4 (min nanos 999999999) }) := by
  intro seconds nanos
  refine ⟨fun other => if_pos other, fun runs => ?_⟩
  have exact' : min seconds (secRange - 1) = seconds ∧ min nanos 999999999 = nanos ↔
      seconds < secRange ∧ nanos < 1000000000 := by
    unfold secRange
    omega
  have run : runTimeSet s c = if min seconds (secRange - 1) = seconds ∧ min nanos 999999999 = nanos then
      done (s.timeSet (min seconds (secRange - 1)) (min nanos 999999999))
      else { state := s.timeSet (min seconds (secRange - 1)) (min nanos 999999999), status := stAdjusted
             results := timeSetStored (min seconds (secRange - 1)) (min nanos 999999999) } :=
    if_neg (not_not_intro runs)
  rw [run]
  by_cases fits : seconds < secRange ∧ nanos < 1000000000
  · rw [if_pos (exact'.2 fits), if_pos fits, if_pos fits]
    rfl
  · rw [if_neg (mt exact'.1 fits), if_neg fits, if_neg fits]
    rfl

/-- Settles O39: both events by the change of Epoch that they hand on. -/
theorem epochChangesReachEveryBlock : Obligations.EpochChangesReachEveryBlock := by
  refine ⟨fun s stays => ?_, fun s clear last => ?_, fun s dt c rest head type => ⟨fun other => ?_, fun runs => ?_⟩⟩
  · rw [exec_counterWrap, Clock.toWrap_none stays]
  · obtain ⟨d, wraps, residence, epoch⟩ := Clock.toWrap_some (f := s.servo.f) clear last
    obtain ⟨changed, servo, counter⟩ := counterCarry_changed (s.withClock d)
    exact ⟨(s.withClock d).counterCarry, d, by rw [exec_counterWrap, wraps], counter, residence, epoch, changed, servo⟩
  · have answered := State.complete_answered s dt (ofType 0x1A) runTimeSet c rest head (decide_eq_true type) _ _ _
      ((runTimeSet_eq (s.pass dt) c).1 other)
    exact ⟨_, rfl, answered⟩
  · have answered := State.complete_answered s dt (ofType 0x1A) runTimeSet c rest head (decide_eq_true type) _ _ _
      ((runTimeSet_eq (s.pass dt) c).2 runs)
    obtain ⟨changed, servo, counter⟩ := timeSet_changed (s.pass dt) (min (beNat (c.args.take 6)) (secRange - 1))
      (min (beNat ((c.args.drop 6).take 4)) 999999999)
    exact ⟨_, _, rfl, counter, changed, servo, answered⟩

end Sys2Proof.Machine
end

section
/-! PROOFS. What the works of a second boundary leave of the second that it has turned: the sessions and sites as they
turned, the History Ring and the accumulator as they were closed (O38). `Turn` is closed under composition. -/
namespace Sys2Proof.Machine
open Sys2Proof

/-! ## The relation -/

/-- The sessions, the query counts and Mark Rates of the sites, the History Ring and the accumulator stay, and Phase Valid
once it is true (R42, R109, R116, R117, R150). -/
structure Turn (s t : State) : Prop where
  sessions : t.sessions = s.sessions
  sites    : ∀ k, (t.site k).queries = (s.site k).queries ∧ (t.site k).rate = (s.site k).rate
  ring     : t.holdover.ring = s.holdover.ring
  acc      : t.holdover.acc = s.holdover.acc
  valid    : s.servo.phaseValid = true → t.servo.phaseValid = true

theorem Turn.refl (s : State) : Turn s s := ⟨rfl, fun _ => ⟨rfl, rfl⟩, rfl, rfl, id⟩

theorem Turn.trans {s t u : State} (a : Turn s t) (b : Turn t u) : Turn s u :=
  ⟨b.sessions.trans a.sessions, fun k => ⟨(b.sites k).1.trans (a.sites k).1, (b.sites k).2.trans (a.sites k).2⟩,
    b.ring.trans a.ring, b.acc.trans a.acc, fun h => b.valid (a.valid h)⟩

/-- `trans` with its arguments the other way round, the last operation first. -/
theorem Turn.after {s t u : State} (b : Turn t u) (a : Turn s t) : Turn s u := a.trans b

theorem Turn.ite {s t u : State} {c : Prop} [Decidable c] (a : Turn s t) (b : Turn s u) :
    Turn s (if c then t else u) := by split <;> assumption

theorem Turn.foldl {α : Type} (f : State → α → State) (h : ∀ t a, Turn t (f t a)) (l : List α) (s : State) :
    Turn s (l.foldl f s) := foldl_relates Turn.refl Turn.trans h l s

/-- An operation on other blocks, on the ring's block beside its lists, or on the servo beside Phase Valid. -/
theorem Turn.aside {s t : State} (sessions : t.sessions = s.sessions) (sites : t.sites = s.sites)
    (ring : t.holdover.ring = s.holdover.ring) (acc : t.holdover.acc = s.holdover.acc)
    (valid : t.servo.phaseValid = s.servo.phaseValid) : Turn s t := by
  refine ⟨sessions, fun k => ?_, ring, acc, fun h => valid.trans h⟩
  unfold State.site
  rw [sites]
  exact ⟨rfl, rfl⟩

theorem turn_report (s : State) (i : Fin 41) (present : Bool) : Turn s (s.report i present) :=
  Turn.aside rfl rfl rfl rfl rfl

theorem turn_updRef (s : State) (r : Ref) (f : Reference → Reference) : Turn s (s.updRef r f) :=
  Turn.aside rfl rfl rfl rfl rfl

theorem turn_updReal (s : State) (f : Realign → Realign) : Turn s (s.updReal f) := Turn.aside rfl rfl rfl rfl rfl

theorem turn_updSel (s : State) (f : Selector → Selector) : Turn s (s.updSel f) := Turn.aside rfl rfl rfl rfl rfl

theorem turn_updPin (s : State) (k : Fin 4) (f : Pin → Pin) : Turn s (s.updPin k f) := Turn.aside rfl rfl rfl rfl rfl

/-! ## The grade and the servo state (R99 to R103, R132) -/

/-- Sites that a grade has been delivered to keep their second (R143). -/
theorem Delivered.turn {s t : State} (d : Delivered s t) (sessions : t.sessions = s.sessions) : Turn s t := by
  refine ⟨sessions, fun k => ?_, by rw [d.holdover], by rw [d.holdover], fun h => by rw [d.servo]; exact h⟩
  rw [(d.sites k).1]
  exact ⟨rfl, rfl⟩

theorem turn_regrade (s : State) : Turn s s.regrade := by
  obtain ⟨c, d⟩ := s.regrade_delivered
  exact (d.turn (down_regrade s).sessions).after (Turn.aside rfl rfl rfl rfl rfl)

theorem turn_putSlew (s : State) (slew : Option Bool) : Turn s (s.putSlew slew) :=
  (turn_regrade _).after (turn_updReal s _)

theorem turn_clearTransient (s : State) : Turn s s.clearTransient := Turn.aside rfl rfl rfl rfl rfl

theorem turn_enterHoldover (s : State) (g : Nat) : Turn s (s.enterHoldover g) := by
  obtain ⟨c, d⟩ := s.enterHoldover_delivered g
  exact (d.turn (down_enterHoldover s g).sessions).after (Turn.aside rfl rfl rfl rfl rfl)

theorem turn_giveHoldFreq (s : State) : Turn s s.giveHoldFreq := by
  unfold State.giveHoldFreq
  split
  · exact Turn.refl s
  · exact Turn.aside rfl rfl rfl rfl rfl

theorem turn_endHoldover (s : State) : Turn s s.endHoldover := by
  unfold State.endHoldover
  split
  · exact Turn.refl s
  · exact Turn.ite (Turn.aside rfl rfl rfl rfl rfl) (Turn.aside rfl rfl rfl rfl rfl)

theorem turn_holdoverChange (s : State) (prev new : ServoState) (g : Nat) : Turn s (s.holdoverChange prev new g) := by
  have noted (frozen : Option Nat) : Turn s (s.updHold fun x => { x with settle := none, frozen := frozen }) :=
    Turn.aside rfl rfl rfl rfl rfl
  cases new with
  | freerun => exact noted _
  | acquiring => exact (noted _).trans (Turn.ite (Turn.aside rfl rfl rfl rfl rfl) (Turn.refl _))
  | locked => exact (noted _).trans (turn_endHoldover _)
  | holdover =>
    exact (noted _).trans (Turn.ite ((turn_giveHoldFreq _).after (turn_enterHoldover _ g))
      (Turn.ite (turn_giveHoldFreq _) (Turn.refl _)))
  | freqTrack => exact (noted _).trans (Turn.ite (turn_enterHoldover _ g) (Turn.refl _))

theorem turn_setServo (s : State) (new : ServoState) (g : Nat) : Turn s (s.setServo new g) := by
  have entered : Turn s (s.updServo fun x =>
      { x with state := new, ctr := { x.ctr with stateChanges := bump x.ctr.stateChanges } }) :=
    Turn.aside rfl rfl rfl rfl rfl
  unfold State.setServo
  dsimp only
  refine Turn.ite (Turn.refl s) ?_
  refine Turn.trans ?_ ((turn_report _ _ _).after ((turn_report _ _ _).after (turn_regrade _)))
  have opened := Turn.ite (c := new.tracking = true) entered (entered.trans (turn_clearTransient _))
  refine Turn.trans (opened.trans (turn_holdoverChange _ s.servo.state new g)) ?_
  generalize State.holdoverChange _ s.servo.state new g = u
  have integral : Turn u (if new = .freqTrack then u.updServo (fun x => { x with i := x.f }) else u) :=
    Turn.ite (Turn.aside rfl rfl rfl rfl rfl) (Turn.refl u)
  exact Turn.ite ((turn_updRef _ _ _).after integral) integral

/-! ## The roles (R73, R78, R86) -/

theorem turn_realSwitched (s : State) (r : Ref) : Turn s (s.realSwitched r) := by
  unfold State.realSwitched
  split
  · exact turn_updReal s _
  · exact (turn_putSlew _ _).after (turn_updReal s _)

theorem turn_realLost (s : State) (r : Ref) : Turn s (s.realLost r) := by
  unfold State.realLost
  split
  · exact turn_updReal s _
  · exact (turn_putSlew _ _).after (turn_updReal s _)

theorem turn_applyPhase (s : State) (new : Option Ref) (g : Nat) : Turn s (s.applyPhase new g) := by
  have cleared (t : State) (x : Option Bool) :
      Turn t (t.updServo fun y => { y.clearRuns with acqFromHold := x }) := Turn.aside rfl rfl rfl rfl rfl
  unfold State.applyPhase
  dsimp only
  split
  · exact Turn.refl s
  · exact (turn_updReal _ _).after ((turn_setServo _ _ g).after
      (Turn.aside rfl rfl rfl rfl rfl))
  · exact (turn_realLost _ _).after ((turn_setServo _ _ g).after ((cleared _ _).after (turn_updSel s _)))
  · exact Turn.ite (Turn.refl s) ((turn_realSwitched _ _).after (Turn.aside rfl rfl rfl rfl rfl))

theorem turn_applyFreq (s : State) (new : Option Ref) (g : Nat) : Turn s (s.applyFreq new g) := by
  have gained (t : State) : Turn t (t.servoFreqGained g) := by
    unfold State.servoFreqGained
    split
    · exact turn_setServo t _ g
    · exact turn_setServo t _ g
    all_goals exact Turn.refl t
  have lost (t : State) : Turn t (t.servoFreqLost g) := by
    unfold State.servoFreqLost
    split
    · exact turn_setServo t _ g
    all_goals exact Turn.refl t
  unfold State.applyFreq
  dsimp only
  split
  · exact Turn.refl s
  · exact (gained _).after (turn_updSel s _)
  · exact (lost _).after (turn_updSel s _)
  · exact Turn.ite (Turn.refl s) (Turn.aside rfl rfl rfl rfl rfl)

theorem turn_reevaluateRoles (s : State) : Turn s s.reevaluateRoles := by
  have selected (f : Selector → Selector) : Turn s (s.updSel f).useFree := Turn.aside rfl rfl rfl rfl rfl
  unfold State.reevaluateRoles State.applyRoles
  dsimp only
  split
  · exact Turn.ite ((turn_applyPhase _ _ _).after ((turn_applyFreq _ _ _).after (selected _)))
      ((turn_applyFreq _ _ _).after ((turn_applyPhase _ _ _).after (selected _)))
  · exact (turn_applyFreq _ _ _).after ((turn_applyPhase _ _ _).after (turn_updSel s _))

/-! ## Judging a reference (R54 to R67) -/

theorem turn_pinsFallback (s : State) (r : Ref) : Turn s (s.pinsFallback r) :=
  Turn.foldl _ (fun t k => turn_updPin t k _) _ s

theorem turn_announceWith {reeval : State → State} (h : ∀ t, Turn t (reeval t)) (s : State) (r : Ref) :
    Turn s (s.announceWith reeval r) :=
  (turn_pinsFallback _ r).after ((h _).after (Turn.aside rfl rfl rfl rfl rfl))

theorem turn_reactWith {reeval : State → State} (h : ∀ t, Turn t (reeval t)) (s : State) (r : Ref)
    (was : List Defect) : Turn s (s.reactWith reeval r was) := by
  unfold State.reactWith
  dsimp only
  exact Turn.ite ((turn_announceWith h _ r).after (turn_updRef s r _))
    (Turn.ite (Turn.aside rfl rfl rfl rfl rfl) (turn_updRef s r _))

theorem turn_reevaluate (s : State) : Turn s s.reevaluate :=
  (turn_reevaluateRoles s).trans
    (Turn.ite (Turn.refl _) (turn_reactWith turn_reevaluateRoles _ .gnss _))

theorem turn_setDefects (s : State) (r : Ref) (f : List Defect → List Defect) : Turn s (s.setDefects r f) := by
  unfold State.setDefects State.judge
  dsimp only
  refine Turn.ite (Turn.refl s) ?_
  have judged (ds : List Defect) (g : Reference → Reference) : Turn s (if ds = (s.ref r).defects then
      s.updRef r g else (s.updRef r g).reactWith State.reevaluate r (s.ref r).defects) :=
    Turn.ite (turn_updRef s r g) ((turn_reactWith turn_reevaluate _ r _).after (turn_updRef s r g))
  exact Turn.ite ((turn_reevaluate _).after (judged _ _)) (judged _ _)

theorem turn_measured (s : State) (r : Ref) : Turn s (s.measured r) :=
  Turn.ite ((turn_announceWith turn_reevaluate _ r).after (turn_updRef s r _)) (Turn.refl s)

theorem turn_judgeSample (s : State) (sample : Option Int) (r : Ref) : Turn s (s.judgeSample sample r) := by
  by_cases disabled : (s.ref r).state = .disabled
  · rw [State.judgeSample_disabled disabled]
    exact Turn.refl s
  · rw [State.judgeSample_enabled disabled]
    exact (turn_measured _ r).after ((turn_setDefects _ r _).after (turn_updRef s r _))

theorem turn_judgeWindow (s : State) (meanF : Int) (d : Option Int) (r : Ref) :
    Turn s (s.judgeWindow meanF d r) := by
  unfold State.judgeWindow
  dsimp only
  split
  · exact Turn.refl s
  · split
    · exact turn_updRef s r _
    · exact (turn_pinsFallback _ r).after ((Turn.foldl _ (fun t k => turn_updPin t k _) _ _).after
        ((turn_measured _ r).after ((turn_setDefects _ r _).after (turn_updRef s r _))))

/-! ## The loop (R104 to R110) -/

theorem turn_enterLocked (s : State) (g : Nat) : Turn s (s.enterLocked g) :=
  (turn_setServo _ .locked g).after ⟨rfl, fun _ => ⟨rfl, rfl⟩, rfl, rfl, fun _ => rfl⟩

theorem turn_leaveLocked (s : State) (g : Nat) : Turn s (s.leaveLocked g) :=
  (turn_setServo _ .acquiring g).after (Turn.aside rfl rfl rfl rfl rfl)

theorem turn_loopRun (s : State) (e : Int) : Turn s (s.loopRun e) := by
  have valid : ((s.servo.looped e).countRuns e).phaseValid = s.servo.phaseValid := by
    unfold Servo.countRuns
    split <;> rfl
  rw [loopRun_eq]
  exact Turn.aside rfl rfl rfl rfl valid

theorem turn_giveInput (s : State) (e : Int) : Turn s (s.giveInput e) := by
  have taken : Turn s (s.loopInput e) := by
    rw [loopInput_eq]
    exact Turn.ite (turn_loopRun s e) (Turn.ite
      ((Turn.ite (turn_enterLocked _ _) (Turn.refl _)).after (turn_loopRun s e))
      ((Turn.ite (turn_leaveLocked _ _) (Turn.refl _)).after (turn_loopRun s e)))
  exact Turn.ite taken (Turn.refl s)

theorem turn_noInput (s : State) : Turn s s.noInput :=
  Turn.ite (Turn.aside rfl rfl rfl rfl rfl) (Turn.refl s)

theorem turn_slewProgress (s : State) : Turn s s.slewProgress := by
  unfold State.slewProgress
  exact Turn.ite (Turn.ite ((turn_putSlew _ _).after (Turn.aside rfl rfl rfl rfl rfl)) (turn_updReal s _)) (Turn.refl s)

theorem turn_absorb (s : State) (e : Int) : Turn s (s.absorb e) := by
  unfold State.absorb
  exact Turn.ite (Turn.aside rfl rfl rfl rfl rfl)
    (Turn.ite (turn_updReal s _) ((turn_putSlew _ _).after (Turn.aside rfl rfl rfl rfl rfl)))

theorem turn_discardSuspended (s : State) : Turn s s.discardSuspended := by
  unfold State.discardSuspended
  split
  · exact Turn.refl s
  · exact turn_updReal s _

/-! ## The works beside the samples (R57, R111, R132, R147) -/

theorem turn_windowsWork (s : State) (g : Gathered) : Turn s (s.windowsWork g) := by
  unfold State.windowsWork
  dsimp only
  refine Turn.ite (Turn.refl s) ?_
  have judged : Turn s (if g.ending then allRefs.foldl (fun t r => t.judgeWindow g.meanF (g.result t r) r) s else s) :=
    Turn.ite (Turn.foldl _ (fun t r => turn_judgeWindow t _ _ r) _ _) (Turn.refl s)
  have opened (t : State) (w : WindowState) : Turn t { t with window := w } := Turn.aside rfl rfl rfl rfl rfl
  generalize (if g.ending then allRefs.foldl (fun t r => t.judgeWindow g.meanF (g.result t r) r) s else s) = u at judged
  have begun : Turn u (allRefs.foldl (fun (t : State) r => t.updRef r (beginWindow (g.samples r) (g.caps r))) u) :=
    Turn.foldl _ (fun t r => turn_updRef t r _) allRefs u
  exact Turn.ite ((opened _ _).after (begun.after judged)) ((opened _ _).after judged)

theorem turn_trackingWork (s : State) (g : Gathered) : Turn s (s.trackingWork g) := by
  have followed (d : Option Int) : Turn s (s.freqResult d) := by
    unfold State.freqResult
    refine Turn.ite ?_ (Turn.refl s)
    cases d <;> exact Turn.aside rfl rfl rfl rfl rfl
  unfold State.trackingWork
  refine Turn.ite (Turn.refl s) ?_
  split
  · exact Turn.refl s
  · exact followed _

theorem turn_offerNotice (s : State) (k : Fin 6) : Turn s (s.offerNotice k) := by
  have frame := offerNotice_frame s k
  refine ⟨by rw [frame], fun j => ?_, by rw [frame], by rw [frame], fun h => by rw [frame]; exact h⟩
  by_cases own : j = k
  · subst own
    by_cases enabled : (s.site j).state = .disabled
    · rw [offerNotice_disabled enabled]
      exact ⟨rfl, rfl⟩
    · rw [offerNotice_site enabled]
      unfold Site.noticed
      split <;> exact ⟨rfl, rfl⟩
  · rw [offerNotice_site_ne s own]
    exact ⟨rfl, rfl⟩

end Sys2Proof.Machine
end

section
/-! PROOFS. The works of a second boundary: at most one of them, the samples, steps the counter, and once (O38). -/
namespace Sys2Proof.Machine
open Sys2Proof

/-! ## Works that leave the counter, and the one step that may come (R93) -/

/-- The clocks, the settings and what the second has turned stay. -/
structure Steady (s t : State) : Prop where
  calm : Calm s t
  turn : Turn s t

theorem Steady.refl (s : State) : Steady s s := ⟨Calm.refl s, Turn.refl s⟩

theorem Steady.trans {s t u : State} (a : Steady s t) (b : Steady t u) : Steady s u :=
  ⟨a.calm.trans b.calm, a.turn.trans b.turn⟩

/-- `trans` with its arguments the other way round, the last operation first. -/
theorem Steady.after {s t u : State} (b : Steady t u) (a : Steady s t) : Steady s u := a.trans b

theorem Steady.foldl {α : Type} (f : State → α → State) (h : ∀ t a, Steady t (f t a)) (l : List α) (s : State) :
    Steady s (l.foldl f s) := foldl_relates Steady.refl Steady.trans h l s

theorem steady_updReal (s : State) (f : Realign → Realign) (params : (f s.realign).params = s.realign.params) :
    Steady s (s.updReal f) := ⟨(slewed_updReal s f params).calm, turn_updReal s f⟩

theorem steady_noInput (s : State) : Steady s s.noInput := ⟨(fair_noInput s).calm, turn_noInput s⟩

theorem steady_giveInput (s : State) (e : Int) : Steady s (s.giveInput e) :=
  ⟨(fair_giveInput s e).calm, turn_giveInput s e⟩

theorem steady_setDefects (s : State) (r : Ref) (f : List Defect → List Defect) : Steady s (s.setDefects r f) :=
  ⟨(fair_setDefects s r f).calm, turn_setDefects s r f⟩

/-- One Time Step among works that leave the counter. -/
def Stepped (s t : State) : Prop :=
  ∃ u e, Steady s u ∧ u.steps e = true ∧ Steady (u.timeStep e) t

/-- Works of which at most one steps the counter, once. -/
def Turned (s t : State) : Prop := Steady s t ∨ Stepped s t

theorem Turned.trans_steady {s t u : State} (a : Turned s t) (b : Steady t u) : Turned s u :=
  a.imp (fun a => a.trans b) fun ⟨v, e, before, steps, after⟩ => ⟨v, e, before, steps, after.trans b⟩

theorem Steady.trans_turned {s t u : State} (a : Steady s t) (b : Turned t u) : Turned s u :=
  b.imp (fun b => a.trans b) fun ⟨v, e, before, steps, after⟩ => ⟨v, e, a.trans before, steps, after⟩

theorem Turned.ite {s t u : State} {c : Prop} [Decidable c] (a : c → Turned s t) (b : Turned s u) :
    Turned s (if c then t else u) := by
  split
  · next h => exact a h
  · exact b

theorem turned_decideFresh (s : State) (e : Int) : Turned s (s.decideFresh e) := by
  have decided (f : RealignCounters → RealignCounters) : Steady s (s.updReal fun x =>
      { x with decision := .decided, ctr := f x.ctr }) := steady_updReal s _ rfl
  have counted : Steady s (s.countReal fun c => { c with tooFar := bump c.tooFar }) := steady_updReal s _ rfl
  unfold State.decideFresh
  dsimp only
  refine Turned.ite (fun steps => ?_) (Turned.ite (fun _ => ?_) ?_)
  · exact .inr ⟨_, e, decided fun c => { c with steps := bump c.steps }, steps, steady_noInput _⟩
  · split
    · exact .inl ((counted.trans (steady_noInput _)).trans (steady_setDefects _ _ _))
    · exact .inl (counted.trans (steady_noInput _))
  · exact .inl ((steady_giveInput _ 0).after ⟨(slewed_absorb s e).calm, turn_absorb s e⟩)

theorem turned_takeDecision (s : State) (e : Int) : Turned s (s.takeDecision e) := by
  have counted : Steady s (s.countReal fun c => { c with decisions := bump c.decisions }) := steady_updReal s _ rfl
  have resumed (t : State) (u : Suspended) : Steady t (t.resume u) :=
    ⟨(slewed_resume t u).calm, (turn_putSlew _ _).after (turn_updReal t _)⟩
  have dropped (t : State) : Steady t t.discardSuspended := ⟨(slewed_discardSuspended t).calm, turn_discardSuspended t⟩
  unfold State.takeDecision
  dsimp only
  refine counted.trans_turned ?_
  split
  · exact turned_decideFresh _ e
  · exact Turned.ite (fun _ => .inl ((resumed _ _).trans (steady_giveInput _ _)))
      ((dropped _).trans_turned (turned_decideFresh _ e))

theorem turned_followSample (s : State) (e : Option Int) : Turned s (s.followSample e) := by
  have moved : Steady s s.slewProgress := ⟨(slewed_slewProgress s).calm, turn_slewProgress s⟩
  unfold State.followSample
  dsimp only
  refine moved.trans_turned ?_
  split
  · exact .inl (steady_noInput _)
  · split
    · exact turned_takeDecision _ _
    · exact .inl (steady_giveInput _ _)
    · exact .inl (steady_noInput _)

theorem turned_samplesWork (s : State) (g : Gathered) : Turned s (s.samplesWork g) := by
  have judged : Steady s ([Ref.gnss, .pkt0, .pkt1].foldl (fun t r => t.judgeSample (g.samples r) r) s) :=
    Steady.foldl _ (fun t r => ⟨(fair_judgeSample t _ r).calm, turn_judgeSample t _ r⟩) _ s
  have dropped (t : State) : Steady t (t.dropSamples g.second) :=
    ⟨(quiet_dropSamples t _).calm, Turn.aside rfl rfl rfl rfl rfl⟩
  unfold State.samplesWork
  dsimp only
  exact (judged.trans (dropped _)).trans_turned (turned_followSample _ _)

theorem steady_work (g : Gathered) (s : State) {w : BoundaryWork} (other : w ≠ .samples) : Steady s (s.work g w) := by
  cases w with
  | samples => exact absurd rfl other
  | windows => exact ⟨(fair_windowsWork s g).calm, turn_windowsWork s g⟩
  | tracking => exact ⟨(fair_trackingWork s g).calm, turn_trackingWork s g⟩
  | grade => exact ⟨(quiet_regrade s).calm, turn_regrade s⟩
  | notices => exact ⟨(quiet_notices s).calm, Turn.foldl _ turn_offerNotice _ s⟩

theorem steady_works (g : Gathered) : ∀ (l : List BoundaryWork) (s : State), BoundaryWork.samples ∉ l →
    Steady s (l.foldl (State.work g) s)
  | [], s, _ => Steady.refl s
  | _ :: l, s, h =>
    have ⟨first, rest⟩ := not_or.1 (mt List.mem_cons.2 h)
    (steady_work g s (Ne.symm first)).trans (steady_works g l _ rest)

/-- With each work done once, the counter is stepped at most once. -/
theorem turned_works (g : Gathered) : ∀ (l : List BoundaryWork) (s : State), l.Nodup →
    Turned s (l.foldl (State.work g) s)
  | [], s, _ => .inl (Steady.refl s)
  | w :: l, s, distinct => by
    obtain ⟨new, distinct⟩ := List.nodup_cons.1 distinct
    rw [List.foldl_cons]
    by_cases samples : w = .samples
    · subst samples
      exact (turned_samplesWork s g).trans_steady (steady_works g l _ new)
    · exact (steady_work g s samples).trans_turned (turned_works g l _ distinct)

/-! ## Each work is done once (log 8) -/

theorem nodup_eraseDups {α : Type} [BEq α] [LawfulBEq α] (l : List α) : l.eraseDups.Nodup := by
  match l with
  | [] => exact List.nodup_nil
  | a :: l =>
    rw [List.eraseDups_cons, List.nodup_cons]
    refine ⟨fun m => ?_, nodup_eraseDups _⟩
    have kept := (List.mem_filter.1 (List.mem_eraseDups.1 m)).2
    simp at kept
  termination_by l.length
  decreasing_by exact Nat.lt_succ_of_le (List.length_filter_le _ _)

theorem workOrder_nodup (order : List BoundaryWork) : (workOrder order).Nodup := by
  refine List.Nodup.append (nodup_eraseDups order) (List.Nodup.filter _ (by decide)) ?_
  intro w taken left
  have commanded := List.mem_eraseDups.1 taken
  have missing := (List.mem_filter.1 left).2
  rw [List.contains_iff_mem.2 commanded] at missing
  cases missing

/-! ## What the works leave (R42, R90, R150) -/

/-- What the works of a boundary leave, a step included: the counter may have moved, in the next Epoch. -/
structure Worked (s t : State) : Prop where
  residence : t.clock.residence = s.clock.residence
  clear     : s.clock.boundaryDue = false → t.clock.boundaryDue = false
  epoch     : t.clock.epoch = s.clock.epoch ∨ t.clock.epoch = (s.clock.epoch + 1) % 256
  flow      : t.flow = s.flow
  portMap   : t.portMap = s.portMap
  mgmt      : t.mgmt = s.mgmt
  pending   : t.pending = s.pending
  settings  : SameSettings s t
  links     : ∀ p, (t.port p).linkUp = (s.port p).linkUp
  clients   : ∀ c, ((s.client c).best = none → (t.client c).best = none) ∧ (t.client c).rate = (s.client c).rate ∧
    (t.client c).ctr.samples = (s.client c).ctr.samples
  sites     : ∀ k, ((s.site k).queries = 0 → (t.site k).queries = 0) ∧ (t.site k).rate = (s.site k).rate

theorem Steady.worked {s t : State} (h : Steady s t) : Worked s t := by
  obtain ⟨calm, turn⟩ := h
  refine ⟨by rw [calm.clock], fun clear => by rw [calm.clock]; exact clear, .inl (by rw [calm.clock]), calm.flow,
    calm.portMap, calm.mgmt, calm.pending, calm.settings, calm.links, fun c => ?_, fun k => ?_⟩
  · unfold State.client
    rw [turn.sessions]
    exact ⟨id, rfl, rfl⟩
  · exact ⟨fun zero => (turn.sites k).1.trans zero, (turn.sites k).2⟩

/-- The clocks moved by a Time Step and the step counted, before the change of Epoch is handed on (R92, R93). -/
def State.counterStepped (s : State) (e : Int) : State :=
  { s with
    clock := s.clock.moveTo (stepCounter s.clock.counter e)
    servo := { s.servo with ctr := { s.servo.ctr with timeSteps := bump s.servo.ctr.timeSteps } } }

theorem timeStep_eq (s : State) (e : Int) : s.timeStep e = (s.counterStepped e).epochChange s.clock.counter := rfl

/-- A Time Step empties the sessions and starts the sites' schedules again, and no more of these (R43, R94, R150). -/
theorem worked_timeStep (s : State) (e : Int) : Worked s (s.timeStep e) := by
  have changed : EpochChanged s.clock.counter s ((s.counterStepped e).epochChange s.clock.counter) :=
    (epochChange_changed s (stepCounter s.clock.counter e) s.clock.counter (s.counterStepped e).servo).1
  have calm := calm_epochChange (s.counterStepped e) s.clock.counter
  rw [← timeStep_eq] at changed calm
  have settings : SameSettings s (s.counterStepped e) :=
    ⟨fun _ => rfl, fun _ => rfl, fun _ => rfl, fun _ => rfl, rfl, rfl, rfl, rfl, rfl, rfl, rfl, rfl⟩
  refine ⟨by rw [calm.clock]; rfl, fun _ => by rw [calm.clock]; rfl, .inr (by rw [calm.clock]; rfl), calm.flow,
    calm.portMap, calm.mgmt, calm.pending, settings.trans calm.settings, calm.links, fun c => ?_, fun k => ?_⟩
  · rw [changed.clients]
    exact ⟨fun _ => rfl, rfl, rfl⟩
  · rw [changed.sites]
    exact ⟨fun _ => rfl, rfl⟩

/-- Works after which the Epoch may have changed, between two that leave it. -/
theorem Worked.within {s t u v : State} (a : Steady s t) (b : Worked t u) (c : Steady u v) : Worked s v := by
  have first := a.worked
  have last := c.worked
  have before := a.calm.clock
  have after := c.calm.clock
  refine ⟨last.residence.trans (b.residence.trans first.residence), fun h => last.clear (b.clear (first.clear h)), ?_,
    last.flow.trans (b.flow.trans first.flow), last.portMap.trans (b.portMap.trans first.portMap),
    last.mgmt.trans (b.mgmt.trans first.mgmt), last.pending.trans (b.pending.trans first.pending),
    first.settings.trans (b.settings.trans last.settings),
    fun p => (last.links p).trans ((b.links p).trans (first.links p)), fun c => ?_, fun k => ?_⟩
  · rw [after, ← before]
    exact b.epoch
  · obtain ⟨best, rate, samples⟩ := b.clients c
    obtain ⟨best', rate', samples'⟩ := first.clients c
    obtain ⟨best'', rate'', samples''⟩ := last.clients c
    exact ⟨fun h => best'' (best (best' h)), rate''.trans (rate.trans rate'), samples''.trans (samples.trans samples')⟩
  · obtain ⟨queries, rate⟩ := b.sites k
    obtain ⟨queries', rate'⟩ := first.sites k
    obtain ⟨queries'', rate''⟩ := last.sites k
    exact ⟨fun h => queries'' (queries (queries' h)), rate''.trans (rate.trans rate')⟩

theorem Turned.worked {s t : State} (h : Turned s t) : Worked s t := by
  rcases h with steady | ⟨u, e, before, -, after⟩
  · exact steady.worked
  · exact Worked.within before (worked_timeStep u e) after

/-- With Phase Valid, or under Step Policy NEVER, no work steps the counter (R82). -/
theorem Turned.steady {s t : State} (h : Turned s t)
    (never : s.realign.params.stepPolicy = .never ∨ s.servo.phaseValid = true) : Steady s t := by
  refine h.resolve_right fun ⟨u, e, before, steps, _⟩ => ?_
  obtain ⟨unlocked, -, allowed⟩ := (steps_iff u e).1 steps
  rcases never with policy | valid
  · rw [before.calm.settings.realign, policy] at allowed
    rcases allowed with always | ⟨serve, -⟩
    · cases always
    · cases serve
  · rw [before.turn.valid valid] at unlocked
    cases unlocked

/-! ## The second turned (R42, R145, R150) -/

/-- The sessions turned, and then the sites. -/
theorem turnSecond_eq (s : State) : ∃ x y, s.turnSecond = { s with sessions := x, sites := y } ∧
    (∀ c, ({ s with sessions := x } : State).client c = (s.client c).boundary s.clock.counter) ∧
    ∀ k, ({ s with sites := y } : State).site k = (s.site k).boundary := by
  have clients := foldl_relates (R := fun s t => t = { s with sessions := t.sessions }) (fun _ => rfl)
    (fun a b => by rw [a] at b; exact b)
    (op := fun t c => t.updClient c (ClientSession.boundary t.clock.counter)) (fun _ _ => rfl) allClients s
  have client (c : Client) : (allClients.foldl (fun (t : State) c =>
      t.updClient c (ClientSession.boundary t.clock.counter)) s).client c = (s.client c).boundary s.clock.counter := by
    refine foldl_own (read := State.client) (env := fun t => t.clock.counter) (g := fun counter _ x => x.boundary counter)
      (op := fun t c => t.updClient c (ClientSession.boundary t.clock.counter))
      (fun t d => ?_) (fun t d e ne => ?_) (fun _ _ => rfl) allClients (by decide) s c (by cases c <;> decide)
    · exact (State.client_updClient t d d _).trans (if_pos rfl)
    · exact (State.client_updClient t d e _).trans (if_neg ne)
  unfold State.turnSecond
  dsimp only
  generalize allClients.foldl (fun (t : State) c => t.updClient c (ClientSession.boundary t.clock.counter)) s = u
    at clients client
  have sites := foldl_relates (R := fun s t => t = { s with sites := t.sites }) (fun _ => rfl)
    (fun a b => by rw [a] at b; exact b) (op := fun t k => t.updSite k Site.boundary) (fun _ _ => rfl) allSites u
  have site (k : Fin 6) : (allSites.foldl (fun (t : State) k => t.updSite k Site.boundary) u).site k =
      (u.site k).boundary := by
    refine foldl_own (read := State.site) (env := fun _ => ()) (g := fun _ _ x => x.boundary)
      (op := fun t k => t.updSite k Site.boundary)
      (fun t d => ?_) (fun t d e ne => ?_) (fun _ _ => rfl) allSites (by decide) u k (by revert k; decide)
    · exact (State.site_updSite t d d _).trans (if_pos rfl)
    · exact (State.site_updSite t d e _).trans (if_neg ne)
  generalize allSites.foldl (fun (t : State) k => t.updSite k Site.boundary) u = v at sites site
  rw [clients] at sites client site
  exact ⟨u.sessions, v.sites, sites, client, fun k => by rw [sites] at site; exact site k⟩

theorem turnSecond_client (s : State) (c : Client) : s.turnSecond.client c = (s.client c).boundary s.clock.counter := by
  obtain ⟨x, y, turned, clients, -⟩ := turnSecond_eq s
  rw [turned]
  exact clients c

theorem turnSecond_site (s : State) (k : Fin 6) : s.turnSecond.site k = (s.site k).boundary := by
  obtain ⟨x, y, turned, -, sites⟩ := turnSecond_eq s
  rw [turned]
  exact sites k

theorem turnSecond_holdover (s : State) : s.turnSecond.holdover = s.holdover := by
  obtain ⟨x, y, turned, -⟩ := turnSecond_eq s
  rw [turned]

end Sys2Proof.Machine
end

section
/-! PROOFS. SECOND_BOUNDARY (O38): a second closed as its boundary is reached, the works taken at it, and what each hands
on. -/
namespace Sys2Proof.Machine
open Sys2Proof

/-! ## The close of a second (R116 to R119) -/

/-- The accumulator once the second just ended has been taken (R117). -/
theorem takeSecond_holdover (s : State) : s.takeSecond.holdover = { s.holdover with acc :=
    ⟨s.holdover.acc.count + (if s.qualifying then 1 else 0),
      s.holdover.acc.iSum + (if s.qualifying then s.servo.i else 0), false⟩ } := by
  unfold State.takeSecond MinuteAcc.take State.updHold
  cases s.qualifying
  · simp
  · rfl

theorem secondClosed_within {s : State} {b : Nat} (within : b % 60 ≠ 0) :
    s.secondClosed b = s.takeSecond.holdover := if_neg within

theorem secondClosed_minute {s : State} {b : Nat} (minute : b % 60 = 0) :
    s.secondClosed b = s.takeSecond.holdover.append (b / 60) s.ringSource s.servo.state := if_pos minute

theorem arrive_closes {s : State} {c : Clock} (due : c.boundaryDue = true) (clear : s.clock.boundaryDue = false) :
    s.arrive c = { s with clock := c, holdover := s.secondClosed (secondsOf c.counter) } := by
  unfold State.arrive
  rw [due, clear, if_pos (by rfl)]

theorem ringSource_eq (s : State) : s.ringSource =
    s.selector.phase.or (if s.servo.state = .freqTrack then s.selector.freq else none) := by
  unfold State.ringSource
  cases s.selector.phase <;> rfl

/-! ## The works as a whole (R90; log 8) -/

theorem boundary_turned (s : State) (b : Nat) (order : List BoundaryWork) :
    Turned s.turnSecond (s.boundary b order) :=
  (turned_works (s.gather b) _ _ (workOrder_nodup order)).trans_steady
    ⟨(quiet_addMeanF _ b).calm, Turn.aside rfl rfl rfl rfl rfl⟩

theorem atBoundary_reached {s u : State} (there : s.atBoundary = some u) :
    ∃ c, s.clock.toBoundary s.servo.f = some c ∧ u = (s.arrive c).withClock c.settle := by
  obtain ⟨c, reached, rfl⟩ := Option.map_eq_some_iff.1 there
  exact ⟨c, reached, rfl⟩

/-- Arriving at an instant keeps every setting. -/
theorem sameSettings_arrive (s : State) (c d : Clock) : SameSettings s ((s.arrive c).withClock d) := by
  rw [State.arrive_frame]
  exact ⟨fun _ => rfl, fun _ => rfl, fun _ => rfl, fun _ => rfl, rfl, rfl, rfl, rfl, rfl, rfl, rfl, rfl⟩

/-! ## Each site its one notice (R147) -/

theorem sitePort_injective {j k : Fin 6} (same : sitePort j = sitePort k) : j = k := by
  have found := portSite_sitePort j
  rw [same, portSite_sitePort] at found
  exact (Option.some.inj found).symm

/-- A notice reads its session and port, the Holdover Unit, the clocks and the Management Unit. -/
theorem offerNotice_congr {s t : State} {k : Fin 6} (site : t.site k = s.site k)
    (port : t.port (sitePort k) = s.port (sitePort k)) (clock : t.clock = s.clock) (holdover : t.holdover = s.holdover)
    (mgmt : t.mgmt = s.mgmt) : (t.offerNotice k).site k = (s.offerNotice k).site k ∧
      (t.offerNotice k).port (sitePort k) = (s.offerNotice k).port (sitePort k) := by
  by_cases enabled : (s.site k).state = .disabled
  · rw [offerNotice_disabled enabled, offerNotice_disabled (by rw [site]; exact enabled)]
    exact ⟨site, port⟩
  · have enabled' : (t.site k).state ≠ .disabled := by rw [site]; exact enabled
    have notice : t.qualityNotice k = s.qualityNotice k := by
      unfold State.qualityNotice State.siteFrame State.siteHeader
      rw [site, clock, holdover, mgmt]
    rw [offerNotice_site enabled, offerNotice_site enabled', offerNotice_port enabled, offerNotice_port enabled', notice,
      site, port]
    unfold State.res
    rw [clock]
    exact ⟨rfl, rfl⟩

/-- Of notices offered in turn, each leaves what it leaves of its session and its port alone. -/
theorem notices_own {k : Fin 6} : ∀ (l : List (Fin 6)) (s : State), l.Nodup → k ∈ l →
    (l.foldl State.offerNotice s).site k = (s.offerNotice k).site k ∧
      (l.foldl State.offerNotice s).port (sitePort k) = (s.offerNotice k).port (sitePort k)
  | [], _, _, m => absurd m List.not_mem_nil
  | a :: l, s, distinct, m => by
    obtain ⟨new, distinct⟩ := List.nodup_cons.1 distinct
    rw [List.foldl_cons]
    by_cases own : k = a
    · subst own
      have rest := foldl_other (read := fun (t : State) k => (t.site k, t.port (sitePort k))) (op := State.offerNotice)
        (fun t i j ne => Prod.ext (offerNotice_site_ne t ne)
          (offerNotice_port_ne t fun same => ne (sitePort_injective same))) l (s.offerNotice k) k new
      exact ⟨congrArg Prod.fst rest, congrArg Prod.snd rest⟩
    · have later := notices_own l (s.offerNotice a) distinct ((List.mem_cons.1 m).resolve_left own)
      have frame := offerNotice_frame s a
      have same := offerNotice_congr (s := s) (t := s.offerNotice a) (offerNotice_site_ne s own)
        (offerNotice_port_ne s fun same => own (sitePort_injective same)) (by rw [frame]) (by rw [frame]) (by rw [frame])
      exact ⟨later.1.trans same.1, later.2.trans same.2⟩

/-! ## The samples handed to the loop (R83, R84, R104, R105) -/

/-- A slew that moves, or is completed, leaves the Time Engine (R84). -/
theorem slewProgress_servo (s : State) : s.slewProgress.servo = s.servo := by
  by_cases slewing : s.realign.slew = some false
  · rcases Nat.lt_or_ge s.realign.params.slewRate s.realign.b.natAbs with more | done
    · rw [slewProgress_more slewing more]
      rfl
    · rw [slewProgress_done slewing done]
      exact (choice_putSlew _ none).1
  · rw [slewProgress_still slewing]

/-- The references whose samples a boundary judges, with their samples taken (R55). -/
def State.judgedSamples (s : State) (g : Gathered) : State :=
  ([Ref.gnss, .pkt0, .pkt1].foldl (fun t r => t.judgeSample (g.samples r) r) s).dropSamples g.second

/-- A pending sample that is dropped is not looked at again (R55). -/
theorem handedOn_dropSamples (s : State) (b : Nat) (g : Gathered) : (s.dropSamples b).handedOn g = s.handedOn g := rfl

theorem samplesWork_eq (s : State) (g : Gathered) :
    s.samplesWork g = (s.judgedSamples g).followSample ((s.judgedSamples g).handedOn g) := by
  unfold State.samplesWork State.judgedSamples
  rw [handedOn_dropSamples]

/-- A boundary without an input, after slew progress: Missing Samples counts it in ACQUIRING and LOCKED (R105). -/
theorem noInput_slewProgress (s : State) :
    let t := s.slewProgress.noInput
    t.realign = s.slewProgress.realign ∧ t.servo.f = s.servo.f ∧ t.servo.i = s.servo.i ∧
      t.servo.lockRun = s.servo.lockRun ∧ t.servo.unlockRun = s.servo.unlockRun ∧
      t.servo.lastLoop = s.servo.lastLoop ∧ ((s.servo.state = .acquiring ∨ s.servo.state = .locked) →
        t.servo.ctr.missingSamples = bump s.servo.ctr.missingSamples) := by
  have missing := noInput_missing (s := s.slewProgress)
  rw [slewProgress_servo] at missing
  refine ⟨(noInput_aside _).1, ?_, ?_, ?_, ?_, ?_, missing⟩ <;> rw [noInput_servo, slewProgress_servo]

/-! ## The boundary reached and its works taken (R42, R90, R150) -/

section
variable {s : State} {c : Clock} (reached : s.clock.AtBoundary c) (b : Nat) (order : List BoundaryWork)
include reached

/-- What any order of the works leaves at the boundary. -/
theorem boundary_worked :
    let t := ((s.arrive c).withClock c.settle).boundary b order
    t.clock.boundaryDue = false ∧ t.clock.residence = s.clock.residence + (s.clock.nextBoundary - s.clock.counter) ∧
    (t.clock.epoch = s.clock.epoch ∨ t.clock.epoch = (s.clock.epoch + 1) % 256) ∧
    SameSettings s t ∧ t.flow = s.flow ∧ t.portMap = s.portMap ∧ t.mgmt = s.mgmt ∧ t.pending = s.pending ∧
    (∀ p, (t.port p).linkUp = (s.port p).linkUp) ∧
    (∀ d, (t.client d).best = none ∧ (t.client d).rate = (s.client d).cfg.queryRate ∧ (t.client d).ctr.samples =
      if (s.client d).best.isSome then bump (s.client d).ctr.samples else (s.client d).ctr.samples) ∧
    (∀ k, (t.site k).queries = 0 ∧ (t.site k).rate = (s.site k).cfg.markRate) := by
  have settings := sameSettings_arrive s c c.settle
  have clients (d : Client) : ((s.arrive c).withClock c.settle).client d = s.client d := rfl
  have sites (k : Fin 6) : ((s.arrive c).withClock c.settle).site k = s.site k := rfl
  have flow : ((s.arrive c).withClock c.settle).flow = s.flow := rfl
  have portMap : ((s.arrive c).withClock c.settle).portMap = s.portMap := rfl
  have mgmt : ((s.arrive c).withClock c.settle).mgmt = s.mgmt := rfl
  have pending : ((s.arrive c).withClock c.settle).pending = s.pending := rfl
  have ports (p : Port) : ((s.arrive c).withClock c.settle).port p = s.port p := rfl
  have clock : ((s.arrive c).withClock c.settle).clock = c.settle := rfl
  generalize (s.arrive c).withClock c.settle = u at settings clients sites flow portMap mgmt pending ports clock
  have turned := (quiet_turnSecond u).calm
  have worked := (boundary_turned u b order).worked
  have clock' : u.turnSecond.clock = c.settle := turned.clock.trans clock
  refine ⟨worked.clear (by rw [clock']; rfl), ?_, ?_, (settings.trans turned.settings).trans worked.settings,
    worked.flow.trans (turned.flow.trans flow), worked.portMap.trans (turned.portMap.trans portMap),
    worked.mgmt.trans (turned.mgmt.trans mgmt), worked.pending.trans (turned.pending.trans pending), fun p => ?_,
    fun d => ?_, fun k => ?_⟩
  · rw [worked.residence, clock']
    exact reached.residence
  · rw [← reached.epoch]
    have epoch := worked.epoch
    rw [clock'] at epoch
    exact epoch
  · rw [worked.links, turned.links, ports]
  · obtain ⟨best, rate, samples⟩ := worked.clients d
    rw [turnSecond_client, clients] at best rate samples
    exact ⟨best rfl, rate, samples⟩
  · obtain ⟨queries, rate⟩ := worked.sites k
    rw [turnSecond_site, sites] at queries rate
    exact ⟨queries rfl, rate⟩

/-- Where no step can be taken, the counter, the ring and the accumulator stay as the boundary was reached. -/
theorem boundary_steady (never : s.realign.params.stepPolicy = .never ∨ s.servo.phaseValid = true) :
    let t := ((s.arrive c).withClock c.settle).boundary b order
    t.clock.counter = s.clock.nextBoundary ∧ t.clock.epoch = s.clock.epoch ∧
      t.holdover.ring = (s.arrive c).holdover.ring ∧ t.holdover.acc = (s.arrive c).holdover.acc := by
  have realign : ((s.arrive c).withClock c.settle).realign = s.realign := rfl
  have servo : ((s.arrive c).withClock c.settle).servo = s.servo := rfl
  have holdover : ((s.arrive c).withClock c.settle).holdover = (s.arrive c).holdover := rfl
  have clock : ((s.arrive c).withClock c.settle).clock = c.settle := rfl
  generalize (s.arrive c).withClock c.settle = u at realign servo holdover clock
  have kept := choice_turnSecond u
  obtain ⟨calm, turn⟩ := (boundary_turned u b order).steady (by rw [kept.realign, kept.servo, realign, servo]; exact never)
  have clock' := (calm.clock.trans (quiet_turnSecond u).calm.clock).trans clock
  have unit := (turnSecond_holdover u).trans holdover
  exact ⟨by rw [clock']; exact reached.counter, by rw [clock']; exact reached.epoch, by rw [turn.ring, unit],
    by rw [turn.acc, unit]⟩

end

/-- Settles O38: the close of a second and each work by its equation, and the boundary by the one step that its works may
take. -/
theorem secondBoundaryTurnsTheSecond : Obligations.SecondBoundaryTurnsTheSecond := by
  refine ⟨fun s c => ⟨fun stays => State.arrive_of_not_due s c stays, fun due clear => ⟨fun within => ?_, fun minute => ?_⟩⟩,
    fun s order can => ?_, fun s u order there => ?_, fun v g => ⟨fun alone => ?_, fun r selected => ?_,
      trackingWork_aside, fun r ending selected => ?_, rfl, fun k => ?_⟩, fun v e => ⟨fun none' => ?_, ?_, ?_⟩⟩
  · rw [arrive_closes due clear, secondClosed_within within, takeSecond_holdover]
    rfl
  · rw [arrive_closes due clear, secondClosed_minute minute, Holdover.append_eq, takeSecond_holdover, ringSource_eq]
    rfl
  · obtain ⟨c, reached, there⟩ := State.atBoundary_some can
    obtain ⟨due, residence, epoch, settings, flow, portMap, mgmt, pending, links, clients, sites⟩ :=
      boundary_worked reached (secondsOf c.counter) order
    refine ⟨_, congrArg Host.Outcome.next (State.secondBoundary_at there order), due, residence, epoch, settings, flow,
      portMap, mgmt, pending, links, clients, sites, fun never => ?_⟩
    obtain ⟨counter, same, ring, acc⟩ := boundary_steady reached (secondsOf c.counter) order never
    exact ⟨counter, same, c, reached.counter, reached.due, ring, acc⟩
  · obtain ⟨c, reached, rfl⟩ := atBoundary_reached there
    exact ⟨rfl, fun ranges => (Clock.inRange_toBoundary reached ranges).2.2 (Clock.toBoundary_atBoundary reached).due,
      congrArg Host.Outcome.next (State.secondBoundary_at there order)⟩
  · exact (samplesWork_eq v g).trans (congrArg (v.judgedSamples g).followSample (handedOn_none alone g))
  · have handed := handedOn_selected (s := v.judgedSamples g) selected g
    exact (samplesWork_eq v g).trans ((congrArg (v.judgedSamples g).followSample handed).trans (apply_ite _ _ _ _))
  · show v.trackingWork g = _
    rw [trackingWork_followed ending selected]
    unfold Gathered.result
    split <;> rfl
  · exact notices_own allSites v (by decide) (by revert k; decide)
  · have left : v.followSample e = v.slewProgress.noInput := by
      rcases none' with rfl | undecided
      · exact followSample_none v
      · exact followSample_undecided undecided e
    rw [left]
    exact noInput_slewProgress v
  · rintro x rfl decided follows
    have loops := giveInput_tracking (s := v.slewProgress) (by rw [slewProgress_servo]; exact follows)
      (x - v.slewProgress.realign.b)
    rw [slewProgress_servo] at loops
    rw [followSample_decided decided]
    exact ⟨giveInput_realign _ _, loops⟩
  · rintro x rfl pending
    exact followSample_pending pending x

end Sys2Proof.Machine
end

section
/-! PROOFS. How a holdover is entered, paused, resumed and ended, and the frequency of each of its minutes (O43). -/
namespace Sys2Proof.Machine
open Sys2Proof

/-! ## The history of a new holdover (R124, R125) -/

/-- The entries averaged, read in the order of the ring: past the newest Guard Minutes, the next Averaging Depth. -/
theorem keptEntries_eq (p : HoldoverParams) (ring : List RingEntry) : keptEntries p ring =
    ((ring.take (ring.length - p.guardMinutes)).drop (ring.length - p.guardMinutes - p.averagingDepth)).filter
      fun e => e.lockedSeconds = 60 := by
  have guarded : (ring.take (ring.length - p.guardMinutes)).length = ring.length - p.guardMinutes := by
    rw [List.length_take]
    omega
  unfold keptEntries
  rw [List.drop_reverse, List.take_reverse, List.filter_reverse, List.reverse_reverse, guarded]

theorem driftOf_absent {p : HoldoverParams} {kept : List RingEntry}
    (absent : p.driftEstimation = false ∨ kept.length < p.driftMinimum) : driftOf p kept = 0 := by
  refine if_neg fun ⟨estimated, reached⟩ => ?_
  rcases absent with off | few
  · rw [off] at estimated
    cases estimated
  · omega

/-- A drift that is estimated: the two halves' difference over their product, rounded, then within Drift Limit. -/
theorem driftOf_estimated {p : HoldoverParams} {kept : List RingEntry} (estimated : p.driftEstimation = true)
    (reached : p.driftMinimum ≤ kept.length) : driftOf p kept = clampMag p.driftLimit
      (roundDiv ((sumFreq (kept.drop (kept.length - kept.length / 2)) - sumFreq (kept.take (kept.length / 2))) * 60)
        ((kept.length / 2 * (kept.length / 2) : Nat) : Int)) :=
  if_pos ⟨estimated, reached⟩

/-- The history of a new holdover: n and Short, H, and D. -/
theorem newHoldover_spec (x : Holdover) (i : Int) (at' : Stamp) (res g : Nat) :
    let r := newHoldover x i at' res g
    let kept := keptEntries x.params x.ring
    r = { enteredAt := at', enteredRes := res, n := kept.length, h := r.h, d := r.d, entryGrade := g,
          short := decide (kept.length < x.params.minimumEntries), elapsed := ⟨0, some res⟩, minuteMark := 0 } ∧
    (kept.length < x.params.minimumEntries → r.h = i) ∧
    (x.params.minimumEntries ≤ kept.length → r.h = roundDiv (sumFreq kept) kept.length) ∧
    r.d = driftOf x.params kept :=
  ⟨rfl, fun few => if_neg (Nat.not_le.2 few), fun enough => if_pos enough, rfl⟩

/-! ## The frequency of a minute (R112, R127) -/

/-- The servo `y` is `x` with the frequency that a Holdover record gives for an elapsed time: with k its whole minutes,
F and I are H plus D k / 60 rounded to nearest, within Pull Range. -/
def HoldoverRec.gives (r : HoldoverRec) (elapsed : Nat) (x y : Servo) : Prop :=
  let k := elapsed / (60 * secUnits)
  ∃ move : Int, 2 * (60 * move - r.d * k).natAbs ≤ 60 ∧
    (2 * (60 * move - r.d * k).natAbs = 60 → (r.d * k).natAbs ≤ (60 * move).natAbs) ∧
    let f := max (-(x.params.pullRange : Int)) (min x.params.pullRange (r.h + move))
    y = { x with f := f, i := f }

theorem HoldoverRec.gives_heldFreq (r : HoldoverRec) (s : State) :
    r.gives (holdElapsed r s.res) s.servo { s.servo with f := s.heldFreq r, i := s.heldFreq r } := by
  obtain ⟨near, tie⟩ :=
    roundDiv_rounds (r.d * (holdElapsed r s.res / (60 * secUnits) : Nat)) (show 0 < 60 by decide)
  exact ⟨_, near, tie, rfl⟩

theorem State.giveHoldFreq_frame (s : State) : s.giveHoldFreq = { s with servo := s.giveHoldFreq.servo } := by
  unfold State.giveHoldFreq
  split <;> rfl

/-- What the Holdover record gives the Time Engine of a state `u` that has the clocks and the servo of `s`. -/
theorem State.giveHoldFreq_gives {s u : State} {r : HoldoverRec} (clock : u.clock = s.clock) (servo : u.servo = s.servo)
    (held : u.holdover.record = some r) : r.gives (holdElapsed r s.res) s.servo u.giveHoldFreq.servo := by
  have same : u.res = s.res := congrArg Clock.residence clock
  rw [State.giveHoldFreq_some held, ← same, ← servo]
  exact r.gives_heldFreq u

/-! ## A minute of a holdover (R127) -/

/-- A Holdover record with its next whole minute taken. -/
def HoldoverRec.nextMinute (r : HoldoverRec) : HoldoverRec := { r with minuteMark := r.minuteMark + 1 }

theorem State.minutePassed_eq {s : State} {r : HoldoverRec} (held : s.holdover.record = some r) :
    s.minutePassed = if s.servo.state = .holdover then
      (s.updHold fun x => { x with record := some r.nextMinute }).giveHoldFreq
      else s.updHold fun x => { x with record := some r.nextMinute } := by
  have marked : s.updHold (fun x => { x with record := x.record.map HoldoverRec.nextMinute }) =
      s.updHold fun x => { x with record := some r.nextMinute } := by
    unfold State.updHold
    dsimp only
    rw [held]
    rfl
  rw [← marked]
  rfl

theorem State.minutePassed_frame {s : State} {r : HoldoverRec} (held : s.holdover.record = some r) :
    s.minutePassed = { s with
      servo := s.minutePassed.servo
      holdover := { s.holdover with record := some { r with minuteMark := r.minuteMark + 1 } } } := by
  rw [State.minutePassed_eq held]
  split
  · exact State.giveHoldFreq_frame _
  · rfl

theorem State.minutePassed_other {s : State} {r : HoldoverRec} (held : s.holdover.record = some r)
    (other : s.servo.state ≠ .holdover) : s.minutePassed.servo = s.servo := by
  rw [State.minutePassed_eq held, if_neg other]
  rfl

/-- In HOLDOVER a minute gives the frequency for the Elapsed that stands. -/
theorem State.minutePassed_gives {s : State} {r : HoldoverRec} (held : s.holdover.record = some r)
    (holds : s.servo.state = .holdover) : r.gives (holdElapsed r s.res) s.servo s.minutePassed.servo := by
  rw [State.minutePassed_eq held, if_pos holds]
  exact State.giveHoldFreq_gives (r := r.nextMinute) rfl rfl rfl

theorem exec_holdoverMinute_none {s : State} (none' : s.holdover.record = none) : exec .holdoverMinute s = .next s := by
  show execHoldoverMinute s = _
  unfold execHoldoverMinute
  rw [none']

/-- With a record, HOLDOVER_MINUTE is the timer of Elapsed at its next whole minute, while it still counts (R122). -/
theorem exec_holdoverMinute_some {s : State} {r : HoldoverRec} (held : s.holdover.record = some r) :
    exec .holdoverMinute s = .next (if (r.minuteMark + 1) * 60 ≤ counterMax then
      s.atTimer r.elapsed ((r.minuteMark + 1) * 60) State.minutePassed else s) := by
  show execHoldoverMinute s = _
  unfold execHoldoverMinute
  rw [held]

theorem exec_holdoverMinute_paused {s : State} {r : HoldoverRec} (held : s.holdover.record = some r)
    (paused : r.elapsed.since = none) : exec .holdoverMinute s = .next s := by
  have stays : s.atTimer r.elapsed ((r.minuteMark + 1) * 60) State.minutePassed = s := by
    unfold State.atTimer
    rw [paused]
  rw [exec_holdoverMinute_some held, stays, ite_self]

/-- HOLDOVER_MINUTE of a holdover that runs, at its next whole minute. -/
theorem exec_holdoverMinute_running {s : State} {r : HoldoverRec} {start : Nat} (held : s.holdover.record = some r)
    (running : r.elapsed.since = some start) (counts : (r.minuteMark + 1) * 60 ≤ 4294967295)
    (can : s.canReach (start + ((r.minuteMark + 1) * 60 * secUnits - r.elapsed.base) - s.clock.residence)) :
    ∃ c, exec .holdoverMinute s = .next (s.arrive c).minutePassed ∧
      advanced s (s.arrive c) (start + ((r.minuteMark + 1) * 60 * secUnits - r.elapsed.base) - s.clock.residence) := by
  obtain ⟨c, advance, acts⟩ := State.atTimer_reached running can
  exact ⟨c, by rw [exec_holdoverMinute_some held, if_pos counts, acts], advance⟩

/-- The elapsed time of a running record is what it had shown when it last stopped and the time since it runs. -/
theorem holdElapsed_running {r : HoldoverRec} {start : Nat} (running : r.elapsed.since = some start) (res : Nat) :
    holdElapsed r res = min (r.elapsed.base + (res - start)) (counterMax * secUnits) := by
  unfold holdElapsed timerElapsed
  rw [running]

/-! ## Entering a holdover (R123 to R126) -/

theorem State.enterHoldover_frame (s : State) (g : Nat) : s.enterHoldover g =
    { s with holdover := (s.enterHoldover g).holdover, alarm := (s.enterHoldover g).alarm } := by
  unfold State.enterHoldover
  split
  · dsimp only
    split <;> rfl
  · rfl

/-- A holdover entered anew, before HISTORY_SHORT is reported (R123, R135). -/
def State.enteredAnew (s : State) (r : HoldoverRec) : State :=
  s.updHold fun x => { x with
    record := some r
    ctr := { x.ctr with
      holdoversEntered := bump x.ctr.holdoversEntered
      shortHoldovers := if r.short then bump x.ctr.shortHoldovers else x.ctr.shortHoldovers } }

theorem State.enterHoldover_anew {s : State} (none' : s.holdover.record = none) (g : Nat) :
    s.enterHoldover g = if (s.heldRecord g).short = true then
      (s.enteredAnew (s.heldRecord g)).report recHistoryShort true else s.enteredAnew (s.heldRecord g) := by
  unfold State.enterHoldover State.heldRecord
  rw [none']
  rfl

theorem State.enterHoldover_resumed {s : State} {r : HoldoverRec} (held : s.holdover.record = some r) (g : Nat) :
    s.enterHoldover g = s.updHold fun x => { x with
      record := some { r with
        elapsed := timerResume r.elapsed s.res, minuteMark := holdElapsed r s.res / (60 * secUnits) }
      ctr := { x.ctr with holdoversResumed := bump x.ctr.holdoversResumed } } := by
  unfold State.enterHoldover
  rw [held]

theorem State.enterHoldover_anew_holdover {s : State} (none' : s.holdover.record = none) (g : Nat) :
    (s.enterHoldover g).holdover = (s.enteredAnew (s.heldRecord g)).holdover := by
  rw [State.enterHoldover_anew none']
  split <;> rfl

/-- HISTORY_SHORT is the one record that entering a holdover reports (R126). -/
theorem State.enterHoldover_record_ne (s : State) (g : Nat) {i : Fin 41} (own : i ≠ recHistoryShort)
    (other : i ≠ recOverflow) : (s.enterHoldover g).alarm.record i = s.alarm.record i := by
  cases held : s.holdover.record with
  | none =>
    rw [State.enterHoldover_anew held]
    split
    · exact report_record_ne _ _ _ _ _ _ i own other
    · rfl
  | some r =>
    rw [State.enterHoldover_resumed held]
    rfl

theorem State.enterHoldover_short {s : State} (none' : s.holdover.record = none) {g : Nat}
    (short : (s.heldRecord g).short = true) :
    ((s.enterHoldover g).alarm.record recHistoryShort).present = true := by
  rw [State.enterHoldover_anew none', if_pos short]
  exact report_present _ _ _ _ _ _ (by decide)

theorem State.heldRecord_anew {s : State} (none' : s.holdover.record = none) (g : Nat) :
    s.heldRecord g = newHoldover s.holdover s.servo.i s.stamp s.res g := by
  unfold State.heldRecord
  rw [none']

/-! ## A change of servo state (R118, R128, R131) -/

theorem holdoverState_iff (state : ServoState) (phaseValid : Bool) : holdoverState state phaseValid = true ↔
    state = .holdover ∨ (state = .freqTrack ∧ phaseValid = true) := by
  unfold holdoverState
  simp

theorem State.endHoldover_frame (s : State) : s.endHoldover =
    { s with holdover := { s.holdover with record := none }, alarm := s.endHoldover.alarm } := by
  rw [← endHoldover_holdover]
  unfold State.endHoldover
  split
  · rfl
  · split <;> rfl

/-- The end of a short holdover reports HISTORY_SHORT absent (R126, R128). -/
theorem State.endHoldover_short {s : State} {r : HoldoverRec} (held : s.holdover.record = some r)
    (short : r.short = true) : (s.endHoldover.alarm.record recHistoryShort).present = false := by
  unfold State.endHoldover
  rw [held]
  dsimp only
  rw [if_pos short]
  exact report_present _ _ _ _ _ _ (by decide)

/-- A change of servo state empties the Settle Value and the Frozen Grade first (R118, R131). -/
def State.unsettled (s : State) (frozen : Option Nat) : State :=
  s.updHold fun x => { x with settle := none, frozen := frozen }

theorem State.holdoverChange_locked (s : State) (prev : ServoState) (g : Nat) :
    s.holdoverChange prev .locked g = (s.unsettled none).endHoldover := rfl

theorem State.holdoverChange_acquiring_holding {s : State} {prev : ServoState}
    (holding : holdoverState prev s.servo.phaseValid = true) (g : Nat) :
    s.holdoverChange prev .acquiring g = (s.unsettled (some s.holdover.announced)).pauseHoldover := by
  unfold State.holdoverChange
  dsimp only
  rw [if_pos rfl, if_pos holding, if_pos holding]
  rfl

theorem State.holdoverChange_acquiring_other {s : State} {prev : ServoState}
    (other : ¬ holdoverState prev s.servo.phaseValid = true) (g : Nat) :
    s.holdoverChange prev .acquiring g = s.unsettled none := by
  unfold State.holdoverChange
  dsimp only
  rw [if_pos rfl, if_neg other, if_neg other]
  rfl

/-- FREQ_TRACK with Phase Valid is a holdover state: from ACQUIRING or LOCKED a holdover starts (R123). -/
theorem State.holdoverChange_freqTrack {s : State} {prev : ServoState} (tracked : prev = .acquiring ∨ prev = .locked)
    (valid : s.servo.phaseValid = true) (g : Nat) :
    s.holdoverChange prev .freqTrack g = (s.unsettled none).enterHoldover g :=
  if_pos ⟨tracked, valid⟩

/-- HOLDOVER from ACQUIRING or LOCKED: a holdover is entered or resumed, and its record gives the frequency. -/
theorem State.holdoverChange_holdover_tracked {prev : ServoState} (tracked : prev = .acquiring ∨ prev = .locked)
    (s : State) (g : Nat) :
    let t := s.holdoverChange prev .holdover g
    t = { (s.unsettled none).enterHoldover g with servo := t.servo } ∧
      ∃ r, t.holdover.record = some r ∧ r.gives (holdElapsed r s.res) s.servo t.servo := by
  obtain ⟨r, held⟩ := State.enterHoldover_record (s.unsettled none) g
  have clock : ((s.unsettled none).enterHoldover g).clock = s.clock := (down_enterHoldover _ g).clock
  have servo : ((s.unsettled none).enterHoldover g).servo = s.servo := (choice_enterHoldover _ g).servo
  have change : s.holdoverChange prev .holdover g = ((s.unsettled none).enterHoldover g).giveHoldFreq := if_pos tracked
  have frame := State.giveHoldFreq_frame ((s.unsettled none).enterHoldover g)
  rw [change]
  exact ⟨frame, r, (congrArg (fun u : State => u.holdover.record) frame).trans held,
    State.giveHoldFreq_gives clock servo held⟩

/-- HOLDOVER from FREQ_TRACK: the holdover runs on, and its record gives the frequency. -/
theorem State.holdoverChange_holdover_freqTrack (s : State) (g : Nat) :
    s.holdoverChange .freqTrack .holdover g = (s.unsettled none).giveHoldFreq := rfl

/-- Settles O43: each entry, pause, resumption and end by its equation, and each frequency by `HoldoverRec.gives`. -/
theorem holdoverMinuteMovesTheFrequency : Obligations.HoldoverMinuteMovesTheFrequency := by
  refine ⟨fun s => ⟨exec_holdoverMinute_none, fun r => exec_holdoverMinute_paused, fun r start held running counts => ?_⟩,
    fun s g => ?_, fun s prev g => ?_⟩
  · intro d can
    obtain ⟨c, run, advance⟩ := exec_holdoverMinute_running held running counts can
    have held' : (s.arrive c).holdover.record = some r := by rw [State.arrive_frame]; exact held
    have frame := State.minutePassed_frame held'
    have clock : (s.arrive c).minutePassed.clock = c := (down_minutePassed _).clock
    refine ⟨_, run, ?_, ?_, State.minutePassed_other held', fun holds => ?_⟩
    · unfold advanced
      rw [clock]
      exact advance
    · rw [clock]
      exact frame
    · have given := State.minutePassed_gives held' holds
      rw [holdElapsed_running running] at given
      rw [clock]
      exact given
  · intro x p t usable kept n sum nearest
    have same : keptEntries p x.ring = kept := keptEntries_eq p x.ring
    refine ⟨s.enterHoldover_frame g, fun i own other => s.enterHoldover_record_ne g own other, fun none' => ?_,
      fun r held => ?_⟩
    · obtain ⟨record, standing, mean, drift⟩ := newHoldover_spec x s.servo.i s.stamp s.res g
      rw [same, ← State.heldRecord_anew none' g] at record standing mean drift
      have short : (s.heldRecord g).short = decide (n < p.minimumEntries) := congrArg HoldoverRec.short record
      refine ⟨_, State.enterHoldover_anew_holdover none' g, record,
        fun few => ⟨standing few, State.enterHoldover_short none' (short.trans (decide_eq_true few))⟩,
        fun some' enough => ?_, fun absent => drift.trans (driftOf_absent absent), fun estimated reached two => ?_⟩
      · rw [mean enough]
        exact roundDiv_rounds (sum kept) some'
      · have half : 0 < n / 2 := by omega
        exact ⟨_, roundDiv_rounds _ (Nat.mul_pos half half), drift.trans (driftOf_estimated estimated reached)⟩
    · have resumed : t = _ := State.enterHoldover_resumed held g
      rw [resumed]
      exact ⟨rfl, rfl⟩
  · intro x locked acquiring holding
    have ended : locked = (s.unsettled none).endHoldover := s.holdoverChange_locked prev g
    have holds : holdoverState prev s.servo.phaseValid = true ↔ holding := holdoverState_iff _ _
    rw [ended]
    refine ⟨State.endHoldover_frame _, fun r held short => State.endHoldover_short (s := s.unsettled none) held short,
      fun h => State.holdoverChange_acquiring_holding (holds.2 h) g,
      fun h => State.holdoverChange_acquiring_other (mt holds.1 h) g, ?_⟩
    intro emptied into given
    refine ⟨fun tracked => ?_, ?_⟩
    · obtain ⟨frame, freq⟩ := State.holdoverChange_holdover_tracked tracked s g
      exact ⟨frame, freq, fun valid => State.holdoverChange_freqTrack tracked valid g⟩
    · rintro rfl
      have change : into = emptied.giveHoldFreq := s.holdoverChange_holdover_freqTrack g
      have frame := emptied.giveHoldFreq_frame
      have freq {r : HoldoverRec} (held : x.record = some r) : r.gives (holdElapsed r s.res) s.servo into.servo := by
        rw [change]
        exact State.giveHoldFreq_gives rfl rfl held
      rw [← change] at frame
      exact ⟨frame, fun r held => freq held⟩

end Sys2Proof.Machine
end

section
/-! PROOFS. A frame that a Delivery Session offers to its own port (R16, R146, R147, R151), and what such an event
leaves alone; MARK_DUE and the QUALITY_NOTICE of a boundary (O47). -/
namespace Sys2Proof.Machine
open Sys2Proof

/-! ## Updates of one Delivery Session -/

theorem State.site_updSite_same (s : State) (k : Fin 6) (f : Site → Site) : (s.updSite k f).site k = f (s.site k) :=
  (State.site_updSite s k k f).trans (if_pos rfl)

theorem State.site_updSite_ne {s : State} {k j : Fin 6} (h : j ≠ k) (f : Site → Site) :
    (s.updSite k f).site j = s.site j := (State.site_updSite s k j f).trans (if_neg h)

theorem State.updSite_self {s : State} {k : Fin 6} {f : Site → Site} (h : f (s.site k) = s.site k) :
    s.updSite k f = s := by
  unfold State.updSite updAt
  rw [show f (s.sites.get k) = s.sites.get k from h]
  exact congrArg (fun v => { s with sites := v }) (Vector.set_getElem_self k.isLt)

/-- An event of one site reaches the ports, the sites and the Alarm Unit only, and of these its own port and session,
the records `own` and NOTICE_OVERFLOW. -/
structure SiteEvent (own : Fin 41 → Prop) (k : Fin 6) (s t : State) : Prop where
  frame : t = { s with ports := t.ports, sites := t.sites, alarm := t.alarm }
  sites : ∀ j, j ≠ k → t.site j = s.site j
  ports : ∀ q, q ≠ sitePort k → t.port q = s.port q
  recs  : ∀ i, ¬ own i → i ≠ recOverflow → t.alarm.record i = s.alarm.record i

theorem SiteEvent.trans {own : Fin 41 → Prop} {k : Fin 6} {s t u : State} (a : SiteEvent own k s t)
    (b : SiteEvent own k t u) : SiteEvent own k s u :=
  ⟨by rw [b.frame, a.frame], fun j h => (b.sites j h).trans (a.sites j h), fun q h => (b.ports q h).trans (a.ports q h),
    fun i other loss => (b.recs i other loss).trans (a.recs i other loss)⟩

theorem SiteEvent.mono {own more : Fin 41 → Prop} {k : Fin 6} {s t : State} (a : SiteEvent own k s t)
    (h : ∀ i, own i → more i) : SiteEvent more k s t :=
  ⟨a.frame, a.sites, a.ports, fun i other => a.recs i fun is => other (h i is)⟩

theorem siteEvent_updSite (own : Fin 41 → Prop) (s : State) (k : Fin 6) (f : Site → Site) :
    SiteEvent own k s (s.updSite k f) :=
  ⟨rfl, fun _ h => State.site_updSite_ne h f, fun _ _ => rfl, fun _ _ _ => rfl⟩

theorem siteEvent_report (s : State) (k : Fin 6) (i : Fin 41) (present : Bool) :
    SiteEvent (· = i) k s (s.report i present) :=
  ⟨rfl, fun _ _ => rfl, fun _ _ => rfl, fun j other loss => report_record_ne _ _ _ _ _ _ j other loss⟩

theorem State.offer_site (s : State) (p : Port) (q : QueueClass) (f : QFrame) (k : Fin 6) :
    (s.offer p q f).1.site k = s.site k :=
  (congrArg (fun t : State => t.site k) (State.offer_frame s p q f)).trans rfl

theorem siteEvent_offer (s : State) (k : Fin 6) (f : QFrame) :
    SiteEvent (· = recTimingLoss (sitePort k)) k s (s.offer (sitePort k) .timing f).1 :=
  ⟨by rw [State.offer_frame], fun j _ => State.offer_site s _ _ f j,
    fun q h => (State.offer_port s _ q _ f).trans (if_neg h), fun _ own other => State.offer_record s _ _ f own other⟩

/-! ## A frame offered to the session's own port (R16) -/

/-- A port takes one more Timing frame: its link is UP and its Timing Queue has room (R16). -/
def PortState.timingOpen (x : PortState) : Bool := decide (x.linkUp = true ∧ x.timingQ.length < 16)

/-- A session offers a frame to the Timing Queue of its port, and moves by whether it was queued. -/
def State.offerOwn (s : State) (k : Fin 6) (f : QFrame) (told : Bool → Site → Site) : State :=
  (s.offer (sitePort k) .timing f).1.updSite k (told (s.offer (sitePort k) .timing f).2)

section
variable (s : State) (k : Fin 6) (f : QFrame) (told : Bool → Site → Site)

theorem siteEvent_offerOwn : SiteEvent (· = recTimingLoss (sitePort k)) k s (s.offerOwn k f told) :=
  (siteEvent_offer s k f).trans (siteEvent_updSite _ _ k _)

theorem State.offerOwn_port :
    (s.offerOwn k f told).port (sitePort k) = (s.port (sitePort k)).offered s.res .timing f :=
  (State.offer_port s _ _ _ _).trans (if_pos rfl)

theorem State.offerOwn_site :
    (s.offerOwn k f told).site k = told (s.port (sitePort k)).timingOpen (s.site k) := by
  have queued : (s.offer (sitePort k) .timing f).2 = (s.port (sitePort k)).timingOpen :=
    Bool.eq_iff_iff.2 ((State.offer_timing_queued s _ f).trans decide_eq_true_iff.symm)
  unfold State.offerOwn
  rw [State.site_updSite_same, queued, State.offer_site]

end

/-- A frame the relay builds without a body. -/
theorem builtFrame_nil (dst src : Addr) (tag : Option Tag) (partEther : Nat) (h : Header) :
    builtFrame dst src tag partEther h [] =
      { dst := dst, src := src, tag := tag, etherType := BitVec.ofNat 16 partEther
        payload := headerBytes { h with bodyLen := 0 } } := by
  unfold builtFrame
  rw [List.append_nil]
  rfl

/-! ## A TIME_MARK (R145, R146) -/

/-- The TIME_MARK that a session builds (R146). -/
def State.timeMark (s : State) (k : Fin 6) : QFrame :=
  ⟨s.siteFrame k timingGroup (s.siteHeader k typeTimeMark (s.site k).nextMark) [], .timeMark⟩

/-- A session that uses a mark's sequence. -/
def Site.usesMark (x : Site) : Site := { x with nextMark := (x.nextMark + 1) % 65536 }

/-- A session whose mark has been offered. -/
def Site.marked (queued : Bool) (x : Site) : Site :=
  { x with ctr :=
      if queued then { x.ctr with marksQueued := bump x.ctr.marksQueued }
      else { x.ctr with marksSkipped := bump x.ctr.marksSkipped } }

theorem State.offerMark_eq (s : State) (k : Fin 6) :
    s.offerMark k = (s.updSite k Site.usesMark).offerOwn k (s.timeMark k) Site.marked := by
  have built : s.offerMark k = (match (s.updSite k Site.usesMark).offer (sitePort k) .timing (s.timeMark k) with
    | (u, true) => u.countSite k fun c => { c with marksQueued := bump c.marksQueued }
    | (u, false) => u.countSite k fun c => { c with marksSkipped := bump c.marksSkipped }) := rfl
  rw [built]
  unfold State.offerOwn
  obtain ⟨u, queued⟩ := (s.updSite k Site.usesMark).offer (sitePort k) .timing (s.timeMark k)
  cases queued <;> rfl

/-- The TIME_MARK of a session in full (R25, R146). -/
theorem State.timeMark_eq (s : State) (k : Fin 6) : s.timeMark k =
    ⟨{ dst := 0x014D44540000, src := s.mgmt.station, tag := builtTag (s.site k).cfg.vlan
       etherType := BitVec.ofNat 16 s.mgmt.partEther
       payload := headerBytes { cls := 1, type := 1, domain := (s.site k).cfg.domain, flags := 0
                                seq := (s.site k).nextMark, grade := s.holdover.announced, epoch := s.clock.epoch
                                seconds := 0, nanos := 0, correction := 0, bodyLen := 0 } }, .timeMark⟩ :=
  congrArg (QFrame.mk · .timeMark) (builtFrame_nil _ _ _ _ _)

/-- Arriving at an instant of the same Epoch leaves the mark that a session builds. -/
theorem timeMark_arrive {s : State} {k : Fin 6} {c : Clock} (epoch : c.epoch = s.clock.epoch) :
    (s.arrive c).timeMark k = s.timeMark k := by
  rw [State.timeMark_eq, State.timeMark_eq, State.arrive_frame, ← epoch]
  rfl

theorem siteEvent_offerMark (s : State) (k : Fin 6) :
    SiteEvent (· = recTimingLoss (sitePort k)) k s (s.offerMark k) := by
  rw [State.offerMark_eq]
  exact (siteEvent_updSite _ s k _).trans (siteEvent_offerOwn _ k _ _)

theorem State.offerMark_port (s : State) (k : Fin 6) :
    (s.offerMark k).port (sitePort k) = (s.port (sitePort k)).offered s.res .timing (s.timeMark k) := by
  rw [State.offerMark_eq, State.offerOwn_port]
  rfl

theorem State.offerMark_site (s : State) (k : Fin 6) :
    (s.offerMark k).site k = (s.site k).usesMark.marked (s.port (sitePort k)).timingOpen := by
  rw [State.offerMark_eq, State.offerOwn_site, State.site_updSite_same]
  rfl

/-! ## MARK_DUE (R145) -/

theorem exec_markDue_other {s : State} {k : Fin 6} (other : (s.site k).state ≠ .serving) :
    exec (.markDue k) s = .next s := congrArg Host.Outcome.next (if_neg other)

/-- Where a SERVING site's next due instant can be reached, MARK_DUE brings the relay there and takes its mark. -/
theorem exec_markDue_serving {s : State} {k : Fin 6} (serving : (s.site k).state = .serving) {due : Nat}
    (next : nextDue (periodUnits (s.site k).rate) (s.site k).markDone s.clock.counter = due)
    (can : s.canReach (due - s.clock.counter)) :
    ∃ c, exec (.markDue k) s = .next ((s.arrive c).markAt k due) ∧ advanced s (s.arrive c) (due - s.clock.counter) := by
  obtain ⟨c, reached, advance⟩ := State.reach_of_canReach can
  have there : s.reachCounter due = some (s.arrive c) := reached
  refine ⟨c, ?_, advance⟩
  have run : exec (.markDue k) s = .next (s.atInstant (s.reachCounter due) fun u => u.markAt k due) := by
    subst next
    exact congrArg Host.Outcome.next (if_pos serving)
  rw [run, there]
  rfl

/-- The mark due at a counter value, taken. -/
theorem markAt_takesTheMark (s : State) (k : Fin 6) (due : Nat) :
    let x := s.site k
    let p := s.port (sitePort k)
    SiteEvent (· = recTimingLoss (sitePort k)) k s (s.markAt k due) ∧
      (s.markAt k due).port (sitePort k) = p.offered s.res .timing (s.timeMark k) ∧
      (s.markAt k due).site k = ({ x with markDone := due } : Site).usesMark.marked p.timingOpen := by
  have own : (s.updSite k fun x => { x with markDone := due }).site k = { s.site k with markDone := due } :=
    State.site_updSite_same s k _
  have same : (s.updSite k fun x => { x with markDone := due }).timeMark k = s.timeMark k := by
    rw [State.timeMark_eq, State.timeMark_eq, own]
    rfl
  refine ⟨(siteEvent_updSite _ s k _).trans (siteEvent_offerMark _ k), ?_, ?_⟩
  · exact (State.offerMark_port _ k).trans (by rw [same]; rfl)
  · exact (State.offerMark_site _ k).trans (by rw [own]; rfl)

/-! ## A QUALITY_NOTICE (R147, R148) -/

theorem siteEvent_offerNotice (s : State) (k : Fin 6) :
    SiteEvent (· = recTimingLoss (sitePort k)) k s (s.offerNotice k) := by
  by_cases disabled : (s.site k).state = .disabled
  · rw [offerNotice_disabled disabled]
    exact ⟨rfl, fun _ _ => rfl, fun _ _ => rfl, fun _ _ _ => rfl⟩
  · rw [offerNotice_enabled disabled]
    exact (siteEvent_updSite _ s k _).trans (siteEvent_offerOwn _ k _ Site.noticed)

/-- The QUALITY_NOTICE of a session in full (R25, R147, R148). -/
theorem State.qualityNotice_eq (s : State) (k : Fin 6) : s.qualityNotice k =
    ⟨{ dst := 0x014D44540000, src := s.mgmt.station, tag := builtTag (s.site k).cfg.vlan
       etherType := BitVec.ofNat 16 s.mgmt.partEther
       payload := headerBytes { cls := 1, type := 2, domain := (s.site k).cfg.domain
                                flags := (if (s.site k).state = .serving then 1 else 0) +
                                  (if (s.site k).epochPending then 2 else 0)
                                seq := (s.site k).nextNotice, grade := s.holdover.announced, epoch := s.clock.epoch
                                seconds := 0, nanos := 0, correction := 0, bodyLen := 8 } ++
         beBytes 6 s.mgmt.station.toNat ++ [0, 0] }, .qualityNotice⟩ := by
  have length : (beBytes 6 s.mgmt.station.toNat ++ [0, 0]).length = 8 := by rw [List.length_append, beBytes_length]; rfl
  unfold State.qualityNotice State.siteFrame builtFrame
  dsimp only
  rw [length, ← List.append_assoc]
  rfl

/-- Settles O47: a mark taken at its due instant, and a notice by whether the port queues it. -/
theorem markDueSendsAMark : Obligations.MarkDueSendsAMark := by
  refine ⟨fun s k => ?_, fun s k => ?_⟩
  · intro x p due
    refine ⟨exec_markDue_other, fun serving can => ?_⟩
    obtain ⟨c, run, advance⟩ := exec_markDue_serving serving (due := due) rfl can
    obtain ⟨event, port, site⟩ := markAt_takesTheMark (s.arrive c) k due
    have clock : ((s.arrive c).markAt k due).clock = c := by rw [event.frame]; rfl
    have ⟨_, _, epoch⟩ := advance
    refine ⟨_, run, ?_, ?_, event.sites, event.ports, event.recs, ?_, ?_⟩
    · unfold advanced
      rw [clock]
      exact advance
    · rw [clock]
      exact event.frame
    · rw [port, clock, timeMark_arrive (c := c) epoch, State.timeMark_eq]
      rfl
    · by_cases queued : (s.port p).linkUp = true ∧ (s.port p).timingQ.length < 16
      · have taken : ((s.arrive c).port (sitePort k)).timingOpen = true := decide_eq_true queued
        rw [if_pos queued, if_pos queued, site, taken]
        rfl
      · have refused : ((s.arrive c).port (sitePort k)).timingOpen = false := decide_eq_false queued
        rw [if_neg queued, if_neg queued, site, refused]
        rfl
  · intro x p t flags queued
    refine ⟨offerNotice_disabled, fun enabled => ?_⟩
    have event := siteEvent_offerNotice s k
    refine ⟨event.frame, event.sites, event.ports, event.recs, ?_, fun taken => ?_, fun refused => ?_⟩
    · exact (offerNotice_port enabled).trans (by rw [State.qualityNotice_eq]; rfl)
    · exact (offerNotice_site enabled).trans (by rw [decide_eq_true taken]; rfl)
    · exact (offerNotice_site enabled).trans (by rw [decide_eq_false refused]; rfl)

end Sys2Proof.Machine
end

section
/-! PROOFS. A Delivery Session sorts a timing frame, and answers a query (O46). -/
namespace Sys2Proof.Machine
open Sys2Proof

/-! ## The conditions of a site (R153) -/

/-- The records of a site's own conditions. -/
def isSiteRecord (k : Fin 6) (i : Fin 41) : Prop := i = recSiteAbsent k ∨ i = recSiteMuted k

theorem siteEvent_siteConditions (s : State) (k : Fin 6) : SiteEvent (isSiteRecord k) k s (s.siteConditions k) :=
  ((siteEvent_report s k _ _).mono fun _ => .inl).trans ((siteEvent_report _ k _ _).mono fun _ => .inr)

theorem recSiteAbsent_ne (k : Fin 6) : recSiteAbsent k ≠ recSiteMuted k ∧ recSiteAbsent k ≠ recOverflow ∧
    recSiteMuted k ≠ recOverflow ∧ recSiteAbsent k ≠ recTimingLoss (sitePort k) := by revert k; decide

/-- SITE_ABSENT and SITE_MUTED stand as the site's state and its link say (R153). -/
theorem siteConditions_present (s : State) (k : Fin 6) :
    ((s.siteConditions k).alarm.record (recSiteAbsent k)).present =
        (decide ((s.site k).state = .serving) && !(s.site k).present) ∧
      ((s.siteConditions k).alarm.record (recSiteMuted k)).present =
        (decide ((s.site k).state = .muted) && (s.port (sitePort k)).linkUp) := by
  obtain ⟨other, absent, muted, -⟩ := recSiteAbsent_ne k
  refine ⟨?_, report_present _ _ _ _ _ _ muted⟩
  exact (congrArg AlarmRecord.present (report_record_ne _ _ _ _ _ _ _ other absent)).trans
    (report_present _ _ _ _ _ _ absent)

/-- A query marks its site present, heard at this moment, and SITE_ABSENT is absent (R152, R153). -/
theorem markPresent_hears (s : State) (k : Fin 6) :
    SiteEvent (isSiteRecord k) k s (s.markPresent k) ∧ (∀ q, (s.markPresent k).port q = s.port q) ∧
      (s.markPresent k).site k = { s.site k with present := true, lastQuery := some s.clock.residence } ∧
      ((s.markPresent k).alarm.record (recSiteAbsent k)).present = false := by
  have heard : (s.updSite k fun x => { x with present := true, lastQuery := some s.res }).site k =
      { s.site k with present := true, lastQuery := some s.clock.residence } := State.site_updSite_same s k _
  refine ⟨(siteEvent_updSite _ s k _).trans (siteEvent_siteConditions _ k), fun _ => rfl, heard, ?_⟩
  refine (siteConditions_present _ k).1.trans ?_
  rw [heard]
  exact Bool.and_false _

/-! ## The answer (R151) -/

/-- The DELAY_REPLY to a query (R151). -/
def State.delayReply (s : State) (k : Fin 6) (f : Frame) (stamps : Ingress) : QFrame :=
  let q := readHeader f.payload
  let t4 := addNanos stamps.counter (s.site k).cfg.pathComp
  ⟨s.siteFrame k f.src { s.siteHeader k typeDelayReply q.seq with
    seconds := secondsOf t4, nanos := nanosOf t4, correction := q.correction } [], .delayReply⟩

/-- A session that answers one query more this second. -/
def Site.answers (x : Site) : Site :=
  { x with queries := x.queries + 1, ctr := { x.ctr with queriesAnswered := bump x.ctr.queriesAnswered } }

/-- A session whose reply has been offered. -/
def Site.replied (queued : Bool) (x : Site) : Site :=
  if queued then x else { x with ctr := { x.ctr with repliesSkipped := bump x.ctr.repliesSkipped } }

theorem State.answerQuery_eq (s : State) (k : Fin 6) (f : Frame) (stamps : Ingress) : s.answerQuery k f stamps =
    (s.updSite k Site.answers).offerOwn k (s.delayReply k f stamps) Site.replied := by
  have built : s.answerQuery k f stamps =
      (match (s.updSite k Site.answers).offer (sitePort k) .timing (s.delayReply k f stamps) with
      | (u, true) => u
      | (u, false) => u.countSite k fun c => { c with repliesSkipped := bump c.repliesSkipped }) := rfl
  rw [built]
  unfold State.offerOwn
  obtain ⟨u, queued⟩ := (s.updSite k Site.answers).offer (sitePort k) .timing (s.delayReply k f stamps)
  cases queued with
  | true => exact (State.updSite_self rfl).symm
  | false => rfl

theorem siteEvent_answerQuery (s : State) (k : Fin 6) (f : Frame) (stamps : Ingress) :
    SiteEvent (· = recTimingLoss (sitePort k)) k s (s.answerQuery k f stamps) := by
  rw [State.answerQuery_eq]
  exact (siteEvent_updSite _ s k _).trans (siteEvent_offerOwn _ k _ _)

theorem State.answerQuery_port (s : State) (k : Fin 6) (f : Frame) (stamps : Ingress) :
    (s.answerQuery k f stamps).port (sitePort k) =
      (s.port (sitePort k)).offered s.res .timing (s.delayReply k f stamps) := by
  rw [State.answerQuery_eq, State.offerOwn_port]
  rfl

theorem State.answerQuery_site (s : State) (k : Fin 6) (f : Frame) (stamps : Ingress) :
    (s.answerQuery k f stamps).site k = (s.site k).answers.replied (s.port (sitePort k)).timingOpen := by
  rw [State.answerQuery_eq, State.offerOwn_site, State.site_updSite_same]
  rfl

/-- The DELAY_REPLY in full (R25, R151). -/
theorem State.delayReply_eq (s : State) (k : Fin 6) (f : Frame) (stamps : Ingress) :
    let q := readHeader f.payload
    let t4 := ((stamps.counter : Int) + (s.site k).cfg.pathComp * 65536).toNat
    s.delayReply k f stamps =
      ⟨{ dst := f.src, src := s.mgmt.station, tag := builtTag (s.site k).cfg.vlan
         etherType := BitVec.ofNat 16 s.mgmt.partEther
         payload := headerBytes { cls := 1, type := 4, domain := (s.site k).cfg.domain, flags := 0, seq := q.seq
                                  grade := s.holdover.announced, epoch := s.clock.epoch
                                  seconds := t4 / 65536000000000, nanos := t4 % 65536000000000 / 65536
                                  correction := q.correction, bodyLen := 0 } }, .delayReply⟩ :=
  congrArg (QFrame.mk · .delayReply) (builtFrame_nil _ _ _ _ _)

/-! ## The tests of R149 -/

section
variable {s : State} {k : Fin 6} {f : Frame} {stamps : Ingress}

theorem siteSort_disabled (disabled : (s.site k).state = .disabled) : s.siteSort k f stamps =
    s.countSite k fun c => { c with disabledDiscards := bump c.disabledDiscards } := if_pos disabled

variable (enabled : (s.site k).state ≠ .disabled)
include enabled

theorem siteSort_otherType (other : (readHeader f.payload).type ≠ 3) : s.siteSort k f stamps =
    s.countSite k fun c => { c with unusedTypes := bump c.unusedTypes } := (if_neg enabled).trans (if_pos other)

variable (query : (readHeader f.payload).type = 3)
include query

theorem siteSort_otherDomain (other : (readHeader f.payload).domain ≠ (s.site k).cfg.domain) :
    s.siteSort k f stamps = s.countSite k fun c => { c with otherDomain := bump c.otherDomain } :=
  (if_neg enabled).trans ((if_neg (not_not_intro query)).trans (if_pos other))

variable (own : (readHeader f.payload).domain = (s.site k).cfg.domain)
include own

/-- A query of its Domain marks the site present, and then the tests go on. -/
theorem siteSort_query : s.siteSort k f stamps =
    if stamps.epoch ≠ s.clock.epoch then
      (s.markPresent k).countSite k fun c => { c with epochDiscards := bump c.epochDiscards }
    else if (s.site k).state = .muted then
      (s.markPresent k).countSite k fun c => { c with mutedQueries := bump c.mutedQueries }
    else if (s.site k).cfg.queryLimit ≤ (s.site k).queries then
      (s.markPresent k).countSite k fun c => { c with overLimit := bump c.overLimit }
    else (s.markPresent k).answerQuery k f stamps :=
  (if_neg enabled).trans ((if_neg (not_not_intro query)).trans (if_neg (not_not_intro own)))

/-- A query of the Epoch that stands, to a SERVING session, goes by the limit of the second (R150). -/
theorem siteSort_served (epoch : stamps.epoch = s.clock.epoch) (serving : (s.site k).state = .serving) :
    s.siteSort k f stamps =
      if (s.site k).cfg.queryLimit ≤ (s.site k).queries then
        (s.markPresent k).countSite k fun c => { c with overLimit := bump c.overLimit }
      else (s.markPresent k).answerQuery k f stamps := by
  have notMuted : (s.site k).state ≠ .muted := by rw [serving]; decide
  rw [siteSort_query enabled query own, if_neg (not_not_intro epoch), if_neg notMuted]

end

/-- The records that a query to a site can move, beside NOTICE_OVERFLOW. -/
def isQueryRecord (k : Fin 6) (i : Fin 41) : Prop := isSiteRecord k i ∨ i = recTimingLoss (sitePort k)

/-- What a query that marked its site present comes to leaves the site's SITE_ABSENT, and all that is not the site's. -/
structure QueryTaken (k : Fin 6) (s t : State) : Prop where
  event  : SiteEvent (isQueryRecord k) k s t
  absent : (t.alarm.record (recSiteAbsent k)).present = false

theorem queryTaken_after {s t : State} {k : Fin 6}
    (later : SiteEvent (· = recTimingLoss (sitePort k)) k (s.markPresent k) t) : QueryTaken k s t := by
  obtain ⟨event, -, -, absent⟩ := markPresent_hears s k
  obtain ⟨-, noOverflow, -, noLoss⟩ := recSiteAbsent_ne k
  refine ⟨(event.mono fun _ => .inl).trans (later.mono fun _ => .inr), ?_⟩
  rw [later.recs _ noLoss noOverflow]
  exact absent

theorem siteSort_queryTaken {s : State} {k : Fin 6} {f : Frame} {stamps : Ingress}
    (enabled : (s.site k).state ≠ .disabled) (query : (readHeader f.payload).type = 3)
    (own : (readHeader f.payload).domain = (s.site k).cfg.domain) : QueryTaken k s (s.siteSort k f stamps) := by
  have counted : ∀ g, QueryTaken k s ((s.markPresent k).countSite k g) := fun g =>
    queryTaken_after (siteEvent_updSite _ _ k _)
  rw [siteSort_query enabled query own]
  split
  · exact counted _
  · split
    · exact counted _
    · split
      · exact counted _
      · exact queryTaken_after (siteEvent_answerQuery _ k f stamps)

/-- A query that is counted and not answered. -/
theorem queryCounted (s : State) (k : Fin 6) (g : SiteCounters → SiteCounters) :
    ((s.markPresent k).countSite k g).port (sitePort k) = s.port (sitePort k) ∧
      ((s.markPresent k).countSite k g).site k =
        { s.site k with present := true, lastQuery := some s.clock.residence, ctr := g (s.site k).ctr } := by
  obtain ⟨-, ports, heard, -⟩ := markPresent_hears s k
  refine ⟨ports _, (State.site_updSite_same _ k _).trans ?_⟩
  rw [heard]

/-- The reply of a session that has marked its site present is the one it would have built before. -/
theorem delayReply_markPresent (s : State) (k : Fin 6) (f : Frame) (stamps : Ingress) :
    (s.markPresent k).delayReply k f stamps = s.delayReply k f stamps := by
  obtain ⟨-, -, heard, -⟩ := markPresent_hears s k
  rw [State.delayReply_eq, State.delayReply_eq, heard]
  rfl

/-- Settles O46: the tests of R149 in their order. -/
theorem siteSortsAQuery : Obligations.SiteSortsAQuery := by
  intro s k f stamps x h t heard p t4
  refine ⟨siteSort_disabled, siteSort_otherType, siteSort_otherDomain, fun enabled query own => ?_⟩
  obtain ⟨event, absent⟩ := siteSort_queryTaken (stamps := stamps) enabled query own
  have sorted := siteSort_query (stamps := stamps) enabled query own
  refine ⟨event.frame, event.sites, event.ports, absent, fun i other other' loss => event.recs i ?_, ?_, ?_, ?_, ?_⟩
  · rintro ((rfl | rfl) | rfl)
    · exact other rfl
    · exact other' rfl
    · exact loss rfl
  · intro otherEpoch
    rw [show t = _ from sorted.trans (if_pos otherEpoch)]
    exact queryCounted s k _
  · intro epoch muted
    rw [show t = _ from sorted.trans ((if_neg (not_not_intro epoch)).trans (if_pos muted))]
    exact queryCounted s k _
  · intro epoch serving full
    rw [show t = _ from (siteSort_served enabled query own epoch serving).trans (if_pos full)]
    exact queryCounted s k _
  · intro epoch serving room
    have answered := (siteSort_served enabled query own epoch serving).trans (if_neg (Nat.not_le.2 room))
    obtain ⟨-, ports, present, -⟩ := markPresent_hears s k
    rw [show t = _ from answered, State.answerQuery_port, State.answerQuery_site,
      delayReply_markPresent, State.delayReply_eq, ports, present]
    refine ⟨rfl, ?_⟩
    by_cases queued : (s.port p).linkUp = true ∧ (s.port p).timingQ.length < 16
    · have taken : (s.port (sitePort k)).timingOpen = true := decide_eq_true queued
      rw [if_pos queued, taken]
      rfl
    · have refused : (s.port (sitePort k)).timingOpen = false := decide_eq_false queued
      rw [if_neg queued, refused]
      rfl

end Sys2Proof.Machine
end

section
/-! PROOFS. The timers of a site: SERVE_DELAY_EXPIRES and PRESENCE_TIMEOUT (O45). -/
namespace Sys2Proof.Machine
open Sys2Proof

/-! ## SERVE_DELAY_EXPIRES (R141) -/

theorem exec_serveDelayExpires_idle {s : State} {k : Fin 6}
    (idle : (s.site k).state ≠ .muted ∨ (s.site k).serve.since = none) : exec (.serveDelayExpires k) s = .next s := by
  refine congrArg Host.Outcome.next ?_
  rcases idle with other | stopped
  · exact if_neg other
  · unfold State.atTimer
    rw [stopped]
    exact ite_self s

theorem exec_serveDelayExpires_muted {s : State} {k : Fin 6} (muted : (s.site k).state = .muted) :
    exec (.serveDelayExpires k) s =
      .next (s.atTimer (s.site k).serve (s.site k).cfg.serveDelay fun u => u.enterServing k) :=
  congrArg Host.Outcome.next (if_pos muted)

/-- A session that enters SERVING at a counter value (R142). -/
def Site.serves (now : Nat) (x : Site) : Site :=
  { x with
    state := .serving, muteReason := none, serve := timerZero, markDone := now
    ctr := { x.ctr with serveEntries := bump x.ctr.serveEntries } }

theorem State.enterServing_eq (s : State) (k : Fin 6) : s.enterServing k =
    (({ s with servingSince := true } : State).updSite k (Site.serves s.clock.counter)).siteConditions k := rfl

/-- An entry to SERVING reaches only its site, the Serving-since-restart flag and the Alarm Unit (R142, R153). -/
theorem siteEvent_enterServing (s : State) (k : Fin 6) :
    SiteEvent (isSiteRecord k) k { s with servingSince := true } (s.enterServing k) := by
  rw [State.enterServing_eq]
  exact (siteEvent_updSite _ _ k _).trans (siteEvent_siteConditions _ k)

/-- SITE_MUTED is absent at a site that serves, and SITE_ABSENT stands by its presence (R153). -/
theorem enterServing_present (s : State) (k : Fin 6) :
    ((s.enterServing k).alarm.record (recSiteMuted k)).present = false ∧
      ((s.enterServing k).alarm.record (recSiteAbsent k)).present = !(s.site k).present := by
  obtain ⟨absent, muted⟩ :=
    siteConditions_present (({ s with servingSince := true } : State).updSite k (Site.serves s.clock.counter)) k
  rw [State.site_updSite_same] at absent muted
  exact ⟨muted, absent⟩

/-! ## PRESENCE_TIMEOUT (R152) -/

theorem exec_presenceTimeout_absent {s : State} {k : Fin 6} (absent : (s.site k).present = false) :
    exec (.presenceTimeout k) s = .next s := by
  refine congrArg Host.Outcome.next ?_
  split
  · exact if_neg (by rw [absent]; decide)
  · rfl

theorem exec_presenceTimeout_present {s : State} {k : Fin 6} {heard : Nat} (present : (s.site k).present = true)
    (last : (s.site k).lastQuery = some heard) : exec (.presenceTimeout k) s =
      .next (s.atInstant (s.reachRes (heard + (s.site k).cfg.queryTimeout * secUnits)) fun u => u.siteAbsent k) := by
  refine congrArg Host.Outcome.next ?_
  rw [last]
  exact if_pos present

/-- A site that goes ABSENT, and SITE_ABSENT by its state (R152, R153). -/
theorem siteAbsent_leaves (s : State) (k : Fin 6) :
    SiteEvent (isSiteRecord k) k s (s.siteAbsent k) ∧
      (s.siteAbsent k).ports = s.ports ∧
      (s.siteAbsent k).site k = { s.site k with present := false } ∧
      ((s.siteAbsent k).alarm.record (recSiteAbsent k)).present = decide ((s.site k).state = .serving) := by
  have gone : (s.updSite k fun x => { x with present := false }).site k = { s.site k with present := false } :=
    State.site_updSite_same s k _
  refine ⟨(siteEvent_updSite _ s k _).trans (siteEvent_siteConditions _ k), rfl, gone, ?_⟩
  refine (siteConditions_present _ k).1.trans ?_
  rw [gone]
  exact Bool.and_true _

end Sys2Proof.Machine
end

section
/-! PROOFS. A written Site Table entry (O45). -/
namespace Sys2Proof.Machine
open Sys2Proof

/-! ## What a write leaves alone -/

/-- A write of a site reaches the ports, the sites, the Serving-since-restart flag and the Alarm Unit only, and of these
its own session and the TIME_MARKs of its own port. -/
structure SiteMoved (k : Fin 6) (s t : State) : Prop where
  frame : t = { s with ports := t.ports, sites := t.sites, servingSince := t.servingSince, alarm := t.alarm }
  sites : ∀ j, j ≠ k → t.site j = s.site j
  ports : ∀ q, q ≠ sitePort k → t.port q = s.port q
  marks : t.port (sitePort k) = s.port (sitePort k) ∨ t.port (sitePort k) = (s.port (sitePort k)).withoutMarks

theorem PortState.withoutMarks_twice (x : PortState) : x.withoutMarks.withoutMarks = x.withoutMarks := by
  unfold PortState.withoutMarks
  dsimp only
  rw [List.filter_filter]
  simp only [Bool.and_self]

theorem SiteMoved.refl (k : Fin 6) (s : State) : SiteMoved k s s := ⟨rfl, fun _ _ => rfl, fun _ _ => rfl, .inl rfl⟩

theorem SiteMoved.trans {k : Fin 6} {s t u : State} (a : SiteMoved k s t) (b : SiteMoved k t u) : SiteMoved k s u := by
  refine ⟨by rw [b.frame, a.frame], fun j h => (b.sites j h).trans (a.sites j h),
    fun q h => (b.ports q h).trans (a.ports q h), ?_⟩
  rcases b.marks with same | without
  · rw [same]
    exact a.marks
  · refine .inr (without.trans ?_)
    rcases a.marks with same | without
    · rw [same]
    · rw [without, PortState.withoutMarks_twice]

theorem SiteMoved.ite {k : Fin 6} {s t u : State} {c : Prop} [Decidable c] (a : SiteMoved k s t)
    (b : SiteMoved k s u) : SiteMoved k s (if c then t else u) := by split <;> assumption

section
variable (s : State) (k : Fin 6)

theorem siteMoved_updSite (f : Site → Site) : SiteMoved k s (s.updSite k f) :=
  ⟨rfl, fun _ h => State.site_updSite_ne h f, fun _ _ => rfl, .inl rfl⟩

theorem siteMoved_siteConditions : SiteMoved k s (s.siteConditions k) :=
  ⟨rfl, fun _ _ => rfl, fun _ _ => rfl, .inl rfl⟩

theorem siteMoved_enterServing : SiteMoved k s (s.enterServing k) := by
  have event := siteEvent_enterServing s k
  exact ⟨event.frame, event.sites, event.ports, .inl rfl⟩

theorem siteMoved_serveCheck : SiteMoved k s (s.serveCheck k) :=
  SiteMoved.ite (SiteMoved.ite (SiteMoved.refl k s)
    (SiteMoved.ite (siteMoved_enterServing s k) (siteMoved_updSite s k _))) (siteMoved_updSite s k _)

theorem withdraw_port : (s.withdraw k).port (sitePort k) = (s.port (sitePort k)).withoutMarks :=
  (State.port_updPort s _ _ _).trans (if_pos rfl)

theorem siteMoved_withdraw : SiteMoved k s (s.withdraw k) :=
  ⟨rfl, fun _ h => State.site_updSite_ne (s := s.updPort _ _) h _, fun _ h => State.updPort_ne h _,
    .inr (withdraw_port s k)⟩

theorem siteMoved_gradeMute : SiteMoved k s (s.gradeMute k) :=
  SiteMoved.ite (((siteMoved_updSite s k _).trans (siteMoved_withdraw _ k)).trans (siteMoved_siteConditions _ k))
    (SiteMoved.refl k s)

theorem siteMoved_siteGrade : SiteMoved k s (s.siteGrade k) :=
  (siteMoved_gradeMute s k).trans (siteMoved_serveCheck _ k)

theorem siteMoved_siteAbsent : SiteMoved k s (s.siteAbsent k) :=
  (siteMoved_updSite s k _).trans (siteMoved_siteConditions _ k)

theorem siteMoved_siteEnable : SiteMoved k s (s.siteEnable k) :=
  ((siteMoved_updSite s k _).trans (siteMoved_serveCheck _ k)).trans (siteMoved_siteConditions _ k)

theorem siteMoved_siteDisable : SiteMoved k s (s.siteDisable k) :=
  ((SiteMoved.ite (siteMoved_withdraw s k) (SiteMoved.refl k s)).trans (siteMoved_updSite _ k _)).trans
    (siteMoved_siteConditions _ k)

/-! ## What a changed configuration does to a session that stays enabled (R138) -/

/-- The first of its works: a new Minimum Grade, by the grade as a delivery of it (R138, R143). -/
def State.gradeWritten (old new : SiteCfg) : State :=
  if old.minGrade = new.minGrade then s else s.siteGrade k

/-- The second: a new Serve Delay that the running timer has reached (R138; log 68). -/
def State.delayWritten (old new : SiteCfg) (res : Nat) : State :=
  if old.serveDelay ≠ new.serveDelay ∧ (s.site k).serveElapsed res = true then s.enterServing k else s

/-- The third: a new Query Timeout that the presence interval has reached (R138; log 68). -/
def State.timeoutWritten (old new : SiteCfg) (res : Nat) : State :=
  if old.queryTimeout ≠ new.queryTimeout ∧ (s.site k).queryStale res = true then s.siteAbsent k else s

theorem State.siteChanged_eq (old : SiteCfg) :
    let new := (s.site k).cfg
    s.siteChanged k old =
      ((s.gradeWritten k old new).delayWritten k old new s.res).timeoutWritten k old new s.res := rfl

theorem siteMoved_siteChanged (old : SiteCfg) : SiteMoved k s (s.siteChanged k old) := by
  rw [State.siteChanged_eq]
  exact ((SiteMoved.ite (SiteMoved.refl k s) (siteMoved_siteGrade s k)).trans
    (SiteMoved.ite (siteMoved_enterServing _ k) (SiteMoved.refl k _))).trans
    (SiteMoved.ite (siteMoved_siteAbsent _ k) (SiteMoved.refl k _))

theorem quiet_siteChanged (old : SiteCfg) : Quiet s (s.siteChanged k old) := by
  rw [State.siteChanged_eq]
  exact ((Quiet.ite (Quiet.refl s) (quiet_siteGrade s k)).trans
    (Quiet.ite (quiet_enterServing _ k) (Quiet.refl _))).trans (Quiet.ite (quiet_siteAbsent _ k) (Quiet.refl _))

/-- A configuration whose grade, delay and timeout are as they were changes nothing. -/
theorem State.siteChanged_same : s.siteChanged k (s.site k).cfg = s := by
  rw [State.siteChanged_eq]
  unfold State.timeoutWritten State.delayWritten State.gradeWritten
  rw [if_neg fun changed => changed.1 rfl, if_neg fun changed => changed.1 rfl, if_pos rfl]

/-- A session muted by the grade, its timer at 0 and its port's TIME_MARKs withdrawn (R141, R143). -/
def State.mutedByGrade (t : State) : Prop :=
  (t.site k).state = .muted ∧ (t.site k).muteReason = some .grade ∧ (t.site k).serve = timerZero ∧
    t.port (sitePort k) = (s.port (sitePort k)).withoutMarks

end

section
variable {s : State} {k : Fin 6}

theorem serveCheck_port (q : Port) : (s.serveCheck k).port q = s.port q := by
  have frame : s.sitesOnly (s.checkSite k) := checkSite_sitesOnly s k
  exact (congrArg (fun t : State => t.port q) frame).trans rfl

/-- A grade below the Minimum Grade mutes a SERVING session (R143). -/
theorem siteGrade_mutes (serving : (s.site k).state = .serving)
    (below : s.holdover.announced < (s.site k).cfg.minGrade) : s.mutedByGrade k (s.siteGrade k) := by
  have mutes : s.gradeMute k = ((s.updSite k fun x =>
      { x with state := .muted, muteReason := some .grade, ctr := { x.ctr with mutes := bump x.ctr.mutes } }).withdraw
        k).siteConditions k := if_pos ⟨serving, below⟩
  have site : ((s.gradeMute k).site k).state = .muted ∧ ((s.gradeMute k).site k).muteReason = some .grade ∧
      ((s.gradeMute k).site k).cfg = (s.site k).cfg := by
    unfold State.withdraw State.countSite at mutes
    rw [mutes, State.site_siteConditions, State.site_updSite_same, State.updPort_site, State.site_updSite_same]
    exact ⟨rfl, rfl, rfl⟩
  have port : (s.gradeMute k).port (sitePort k) = (s.port (sitePort k)).withoutMarks := by
    rw [mutes]
    exact withdraw_port _ k
  have grade : (s.gradeMute k).holdover.announced = s.holdover.announced := by
    rw [(siteMoved_gradeMute s k).frame]
  obtain ⟨state, reason, cfg⟩ := site
  have checked : (s.siteGrade k).site k = { (s.gradeMute k).site k with serve := timerZero } := by
    refine (serveCheck_site (s.gradeMute k) k k).trans ((if_pos rfl).trans (if_neg ?_))
    rintro ⟨-, -, enough⟩
    rw [cfg, grade] at enough
    exact Nat.not_le.2 below enough
  refine ⟨?_, ?_, ?_, (serveCheck_port _).trans port⟩
  · rw [checked]
    exact state
  · rw [checked]
    exact reason
  · rw [checked]

/-- A Minimum Grade written above the Announced Grade mutes a SERVING session, whatever else is written (R138). -/
theorem siteChanged_mutes {old : SiteCfg} (changed : old.minGrade ≠ (s.site k).cfg.minGrade)
    (serving : (s.site k).state = .serving) (below : s.holdover.announced < (s.site k).cfg.minGrade) :
    s.mutedByGrade k (s.siteChanged k old) := by
  have graded : s.gradeWritten k old (s.site k).cfg = s.siteGrade k := if_neg changed
  obtain ⟨state, reason, stopped, port⟩ := siteGrade_mutes serving below
  have still : ((s.siteGrade k).site k).serveElapsed s.res ≠ true := by
    unfold Site.serveElapsed timerRuns
    rw [stopped]
    simp [timerZero]
  have delayed : (s.siteGrade k).delayWritten k old (s.site k).cfg s.res = s.siteGrade k :=
    if_neg fun reached => still reached.2
  rw [State.siteChanged_eq, graded, delayed]
  unfold State.timeoutWritten
  split
  · obtain ⟨-, ports, gone, -⟩ := siteAbsent_leaves (s.siteGrade k) k
    unfold State.mutedByGrade State.port
    rw [gone, ports]
    exact ⟨state, reason, stopped, port⟩
  · exact ⟨state, reason, stopped, port⟩

end

/-! ## The write (R137, R138, R196) -/

/-- The relay once a configuration has been written to a site. -/
def State.siteWritten (s : State) (k : Fin 6) (cfg : SiteCfg) : State :=
  let old := (s.site k).cfg
  let s1 := s.updSite k fun y => { y with cfg := cfg }
  if old.enabled && !cfg.enabled then s1.siteDisable k
  else if !old.enabled && cfg.enabled then s1.siteEnable k
  else if cfg.enabled then s1.siteChanged k old
  else s1

section
variable (s : State) (k : Fin 6) (cfg : SiteCfg)

theorem siteMoved_siteWritten : SiteMoved k s (s.siteWritten k cfg) :=
  (siteMoved_updSite s k fun y => { y with cfg := cfg }).trans (SiteMoved.ite (siteMoved_siteDisable _ k)
    (SiteMoved.ite (siteMoved_siteEnable _ k) (SiteMoved.ite (siteMoved_siteChanged _ k _) (SiteMoved.refl k _))))

theorem siteWritten_cfg : ((s.siteWritten k cfg).site k).cfg = cfg := by
  have kept : Quiet (s.updSite k fun y => { y with cfg := cfg }) (s.siteWritten k cfg) :=
    Quiet.ite (quiet_siteDisable _ k) (Quiet.ite (quiet_siteEnable _ k)
      (Quiet.ite (quiet_siteChanged _ k _) (Quiet.refl _)))
  rw [kept.calm.settings.sites k, State.site_updSite_same]

theorem siteWritten_same : s.siteWritten k (s.site k).cfg = s := by
  have stored : (s.updSite k fun y => { y with cfg := (s.site k).cfg }) = s := State.updSite_self rfl
  unfold State.siteWritten
  dsimp only
  rw [stored, State.siteChanged_same]
  cases (s.site k).cfg.enabled <;> rfl

variable {s k cfg}

theorem siteWritten_off (was : (s.site k).cfg.enabled = true) (off : cfg.enabled = false) :
    ((s.siteWritten k cfg).site k).state = .disabled := by
  have written : s.siteWritten k cfg = (s.updSite k fun y => { y with cfg := cfg }).siteDisable k :=
    if_pos (by rw [was, off]; rfl)
  rw [written]
  unfold State.siteDisable
  dsimp only
  rw [State.site_siteConditions, State.site_updSite_same]
  rfl

theorem siteWritten_on (was : (s.site k).cfg.enabled = false) (on : cfg.enabled = true) :
    ((s.siteWritten k cfg).site k).state ≠ .disabled := by
  have written : s.siteWritten k cfg = (s.updSite k fun y => { y with cfg := cfg }).siteEnable k :=
    (if_neg (by rw [was]; simp)).trans (if_pos (by rw [was, on]; rfl))
  rw [written]
  unfold State.siteEnable
  rw [State.site_siteConditions, ne_eq, ((delivered_serveCheck _ k).sites k).2, State.site_updSite_same]
  exact SiteState.noConfusion

theorem siteWritten_mutes (was : (s.site k).cfg.enabled = true) (on : cfg.enabled = true)
    (serving : (s.site k).state = .serving) (changed : cfg.minGrade ≠ (s.site k).cfg.minGrade)
    (below : s.holdover.announced < cfg.minGrade) : s.mutedByGrade k (s.siteWritten k cfg) := by
  have own : (s.updSite k fun y => { y with cfg := cfg }).site k = { s.site k with cfg := cfg } :=
    State.site_updSite_same s k _
  have written : s.siteWritten k cfg = (s.updSite k fun y => { y with cfg := cfg }).siteChanged k (s.site k).cfg :=
    (if_neg (by rw [on]; simp)).trans ((if_neg (by rw [was]; simp)).trans (if_pos on))
  rw [written]
  exact siteChanged_mutes (by rw [own]; exact changed.symm) (by rw [own]; exact serving) (by rw [own]; exact below)

end

section
variable (enabled : Bool) (domain path grade delay limit timeout : Int) (vlan : Option Int) (rate : Nat)

/-- The configuration that the fields of a PUT store, numbers clamped to their ranges (R137). -/
def writtenSiteCfg : SiteCfg :=
  { enabled := enabled, domain := held 0 127 domain, vlan := vlan.map (held 0 4095), markRate := rate
    pathComp := heldMag 100000 path, minGrade := held 0 15 grade, serveDelay := held 0 60 delay
    queryLimit := held 1 256 limit, queryTimeout := held 1 60 timeout }

/-- The fields of a Site Table entry as a PUT carries them (11). -/
def siteCfgFields : List Byte :=
  encBool enabled ++ encNum domain ++ encOptInt vlan ++ encIn markRates rate ++ encNum path ++ encNum grade ++
    encNum delay ++ encNum limit ++ encNum timeout

theorem siteCfgFields_length :
    (siteCfgFields enabled domain path grade delay limit timeout vlan rate).length = 59 := by
  unfold siteCfgFields
  simp only [List.length_append, encNum_length, encOptInt_length]
  rfl

variable {domain path grade delay limit timeout vlan rate}

theorem takeSiteCfg_fields (fitDomain : isField domain) (fitPath : isField path) (fitGrade : isField grade)
    (fitDelay : isField delay) (fitLimit : isField limit) (fitTimeout : isField timeout) (fitVlan : isOptField vlan)
    (listed : rate ∈ markRates) :
    readWhole takeSiteCfg (siteCfgFields enabled domain path grade delay limit timeout vlan rate) =
      some (writtenSiteCfg enabled domain path grade delay limit timeout vlan rate,
        outside 0 127 domain || outsideOpt 0 4095 vlan || outside (-100000) 100000 path || outside 0 15 grade ||
          outside 0 60 delay || outside 1 256 limit || outside 1 60 timeout) := by
  have last := takeNum_encNum timeout fitTimeout []
  rw [List.append_nil] at last
  unfold readWhole siteCfgFields
  simp only [List.append_assoc]
  rw [show takeSiteCfg _ = some _ from
    read_then (takeBool_encBool _ _) <| read_then (takeNum_encNum _ fitDomain _) <|
    read_then (takeOptNum_encOptInt _ fitVlan _) <| read_then (takeIn_encIn _ _ listed (by decide) _) <|
    read_then (takeNum_encNum _ fitPath _) <| read_then (takeNum_encNum _ fitGrade _) <|
    read_then (takeNum_encNum _ fitDelay _) <| read_then (takeNum_encNum _ fitLimit _) <| read_then last rfl]
  rfl

variable (domain path grade delay limit timeout vlan)

/-- Every number of a written entry is stored as it was written. -/
def siteCfgKept : Prop :=
  kept 0 127 domain ∧ kept (-100000) 100000 path ∧ kept 0 15 grade ∧ kept 0 60 delay ∧ kept 1 256 limit ∧
    kept 1 60 timeout ∧ ∀ y, vlan = some y → kept 0 4095 y

theorem siteCfg_clamped_iff :
    (outside 0 127 domain || outsideOpt 0 4095 vlan || outside (-100000) 100000 path || outside 0 15 grade ||
      outside 0 60 delay || outside 1 256 limit || outside 1 60 timeout) = true ↔
      ¬ siteCfgKept domain path grade delay limit timeout vlan := by
  simp only [Bool.or_eq_true, outside_iff, outsideOpt_iff, ← not_and_or, and_assoc]
  exact not_congr ⟨fun ⟨d, v, p, g, e, l, t⟩ => ⟨d, p, g, e, l, t, v⟩,
    fun ⟨d, p, g, e, l, t, v⟩ => ⟨d, v, p, g, e, l, t⟩⟩

end

section
variable {s : State} {p : Port} {k : Fin 6} {bs : List Byte} {cfg : SiteCfg} {adjusted : Bool}

/-- A write that R138 forbids: it keeps a SERVING session enabled and changes its Domain, VLAN or Mark Rate. -/
def Site.protects (x : Site) (cfg : SiteCfg) : Prop :=
  x.state = .serving ∧ cfg.enabled = true ∧
    (cfg.domain ≠ x.cfg.domain ∨ cfg.vlan ≠ x.cfg.vlan ∨ cfg.markRate ≠ x.cfg.markRate)

theorem State.putEntry_site (s : State) (p : Port) (k : Fin 6) (bs : List Byte) :
    s.putEntry p 17 k.val bs = s.putSite k bs := dif_pos k.isLt

theorem putEntry_site_refused (decoded : readWhole takeSiteCfg bs = some (cfg, adjusted))
    (forbidden : (s.site k).protects cfg) : s.putEntry p 17 k.val bs = .refused 10 := by
  rw [State.putEntry_site]
  unfold State.putSite
  rw [decoded]
  exact if_pos forbidden

theorem putEntry_site_written (decoded : readWhole takeSiteCfg bs = some (cfg, adjusted))
    (free : ¬ (s.site k).protects cfg) : s.putEntry p 17 k.val bs = .written (s.siteWritten k cfg) adjusted := by
  rw [State.putEntry_site]
  unfold State.putSite
  rw [decoded]
  exact if_neg free

end

/-- Settles O45: the two timers at their ends, then the write by what it changes. -/
theorem siteTimersRunOut : Obligations.SiteTimersRunOut := by
  refine ⟨fun s k => ?_, ?_⟩
  · intro x near
    refine ⟨exec_serveDelayExpires_idle, exec_presenceTimeout_absent, ?_, ?_⟩
    · intro start muted running d can
      obtain ⟨c, advance, acts⟩ := State.atTimer_reached running can
      have run := (exec_serveDelayExpires_muted muted).trans
        (congrArg Host.Outcome.next (acts fun u => u.enterServing k))
      have event := siteEvent_enterServing (s.arrive c) k
      obtain ⟨notMuted, absent⟩ := enterServing_present (s.arrive c) k
      exact ⟨_, run, advance, ⟨event.sites, fun i other other' => event.recs i (not_or.2 ⟨other, other'⟩)⟩, rfl,
        State.enterServing_site (s.arrive c) k, notMuted, absent⟩
    · intro heard present last d can
      obtain ⟨c, advance, acts⟩ := State.atInstant_reached can
      have run := (exec_presenceTimeout_present present last).trans
        (congrArg Host.Outcome.next (acts fun u => u.siteAbsent k))
      obtain ⟨event, -, gone, absent⟩ := siteAbsent_leaves (s.arrive c) k
      exact ⟨_, run, advance, ⟨event.sites, fun i other other' => event.recs i (not_or.2 ⟨other, other'⟩)⟩, rfl,
        gone, absent⟩
  · intro s dt c k enabled domain path grade delay limit timeout vlan rate fitDomain fitPath fitGrade fitDelay fitLimit
      fitTimeout fitVlan listed puts v x cfg inRange protects
    have decoded := takeSiteCfg_fields enabled fitDomain fitPath fitGrade fitDelay fitLimit fitTimeout fitVlan listed
    have small : (siteCfgFields enabled domain path grade delay limit timeout vlan rate).length < 65536 := by
      rw [siteCfgFields_length]
      decide
    have slot : k.val < v.putStarts 17 := k.isLt
    refine ⟨fun forbidden => ?_, fun free => ?_⟩
    · exact put_refused s dt c 17 k.val (siteCfgFields enabled domain path grade delay limit timeout vlan rate) 10 puts
        (by decide) (by decide) slot (by omega) small (putEntry_site_refused decoded forbidden)
    · obtain ⟨t, run, stored⟩ := put_written s dt c 17 k.val
        (siteCfgFields enabled domain path grade delay limit timeout vlan rate) (v.siteWritten k cfg) _ inRange puts
        (by decide) (by decide) slot (by omega) small (putEntry_site_written decoded free)
        (siteCfg_clamped_iff domain path grade delay limit timeout vlan)
      have moved := siteMoved_siteWritten v k cfg
      refine ⟨v.siteWritten k cfg, t, run, stored, moved.frame, moved.sites, moved.ports, moved.marks,
        siteWritten_cfg v k cfg, fun same => ?_, fun was off => siteWritten_off (s := v) was off,
        fun was on => siteWritten_on (s := v) was on, fun was on serving changed below => ?_⟩
      · rw [same]
        exact siteWritten_same v k
      · obtain ⟨state, reason, -, port⟩ := siteWritten_mutes (s := v) was on serving changed below
        exact ⟨state, reason, port⟩

end Sys2Proof.Machine
end

section
/-! PROOFS. Rules that the events of the timing pins share: one pin updated, a pin that grades and states of references
have reached, and the stamp of an event from outside. -/
namespace Sys2Proof.Machine
open Sys2Proof

/-! ## Pins (R158) -/

section
variable {x y : Pin} (h : x.steady y)
include h

theorem Pin.steady.cfg : y.cfg = x.cfg := (congrArg Pin.cfg h :)

theorem Pin.steady.lastInput : y.lastInput = x.lastInput := (congrArg Pin.lastInput h :)

theorem Pin.steady.cycles : y.cycles = x.cycles := (congrArg Pin.cycles h :)

theorem Pin.steady.high : y.high = x.high := (congrArg Pin.high h :)

theorem Pin.steady.inputEdges : y.ctr.inputEdges = x.ctr.inputEdges := (congrArg (fun z : Pin => z.ctr.inputEdges) h :)

end

theorem State.tpin_updPin_same (s : State) (k : Fin 4) (f : Pin → Pin) : (s.updPin k f).tpin k = f (s.tpin k) :=
  (State.tpin_updPin s k k f).trans (if_pos rfl)

theorem State.tpin_updPin_ne {k j : Fin 4} (other : j ≠ k) (s : State) (f : Pin → Pin) :
    (s.updPin k f).tpin j = s.tpin j := (State.tpin_updPin s k j f).trans (if_neg other)

/-! ## The stamp of an event from outside (R1, R92) -/

theorem State.pass_epoch (s : State) (dt : Nat) : (s.pass dt).clock.epoch = s.clock.epoch :=
  Clock.pass_epoch s.servo.f dt s.clock

theorem State.pass_stamp (s : State) (dt : Nat) :
    (s.pass dt).stamp = ⟨(s.pass dt).clock.counter, s.clock.epoch⟩ := congrArg (Stamp.mk _) (s.pass_epoch dt)

end Sys2Proof.Machine
end

section
/-! PROOFS. PPS_INPUT_EDGE (O31): the tests of an edge, the sample that it leaves GNSS, and TOD_MISMATCH after it. -/
namespace Sys2Proof.Machine
open Sys2Proof

/-! ## An edge handed to GNSS (R49, R51 to R53) -/

/-- The counter's nanoseconds, rounded to nearest (R52). -/
theorem edgeNanos_eq (counter : Nat) : edgeNanos counter = (counter + 32768) / 65536 := by
  unfold edgeNanos nsUnits
  omega

theorem Reference.acceptsEdge_iff (x : Reference) (res : Nat) :
    x.acceptsEdge res = true ↔ ∀ last, x.lastEdge = some last → 500 * msUnits ≤ res - last := by
  unfold Reference.acceptsEdge
  cases x.lastEdge <;> simp

/-- The phase of an edge, its label written as the number it is computed with (R52). -/
theorem edgePhase_label (held : Option TodInfo) (near ns : Nat) :
    edgePhase ((held.map fun i => i.label).getD near) ns =
      (held.map fun i => (i.label : Int)).getD near * 1000000000 - ns := by
  cases held with
  | none => exact edgePhase.eq_1 near ns
  | some i => exact edgePhase.eq_1 i.label ns

/-- The receiver once an accepted edge has taken the held record as its label and left its sample (R51, R52). -/
def Gnss.edgeTaken (g : Gnss) (ns near epoch : Nat) : Gnss :=
  Gnss.hold { g with
    held := none
    ctr := { g.ctr with
      unlabelledEdges :=
        if (g.held.map fun i => i.label).isSome then g.ctr.unlabelledEdges else bump g.ctr.unlabelledEdges } }
    { second := near, p := edgePhase ((g.held.map fun i => i.label).getD near) ns, epoch := epoch }

theorem Gnss.edgeTaken_eq (g : Gnss) (ns near epoch : Nat) : g.edgeTaken ns near epoch =
    let label := g.held.map fun i => (i.label : Int)
    { g with
      held := none
      samples := g.samples.filter (fun y => y.second ≠ near) ++
        [{ second := near, p := label.getD near * 1000000000 - ns, epoch := epoch }]
      ctr := { g.ctr with
        unlabelledEdges := if label = none then bump g.ctr.unlabelledEdges else g.ctr.unlabelledEdges
        replacedEdges :=
          if g.samples.any (fun y => y.second = near) then bump g.ctr.replacedEdges else g.ctr.replacedEdges } } := by
  dsimp only
  rw [← edgePhase_label]
  unfold Gnss.edgeTaken Gnss.hold
  cases g.held <;> rfl

/-- The nearest second of an edge at this moment (R52). -/
def State.edgeSecond (s : State) : Nat := ((s.clock.counter + 32768) / 65536 + 499999999) / 1000000000

/-- The relay once GNSS has taken an edge, its defects not yet judged. -/
def State.edgeTaken (s : State) : State :=
  (s.updGnss fun g => g.edgeTaken ((s.clock.counter + 32768) / 65536) s.edgeSecond s.clock.epoch).updRef .gnss
    fun y => { y with lastEdge := some s.clock.residence }

/-- What an accepted edge does to the defect set: no SIGNAL_LOST, and TOD_MISMATCH by a label (R49, R53). -/
def State.edgeDefects (s : State) (near : Nat) (ds : List Defect) : List Defect :=
  match s.gnss.held.map fun i => i.label with
  | some l => putDefect .todMismatch (s.mismatch l near) (putDefect .signalLost false ds)
  | none => putDefect .signalLost false ds

theorem State.gnssEdge_disabled {s : State} (disabled : (s.ref .gnss).state = .disabled) : s.gnssEdge = s :=
  if_pos disabled

section
variable {s : State} (enabled : (s.ref .gnss).state ≠ .disabled)
include enabled

theorem State.gnssEdge_spurious {last : Nat} (previous : (s.ref .gnss).lastEdge = some last)
    (early : s.clock.residence - last < 500 * msUnits) :
    s.gnssEdge = s.countGnss fun c => { c with spuriousEdges := bump c.spuriousEdges } := by
  have refused : (s.ref .gnss).acceptsEdge s.res = false := by
    unfold Reference.acceptsEdge
    rw [previous]
    exact decide_eq_false (Nat.not_le_of_lt early)
  unfold State.gnssEdge
  dsimp only
  rw [if_neg enabled, refused]
  rfl

theorem State.gnssEdge_accepted
    (apart : ∀ last, (s.ref .gnss).lastEdge = some last → 500 * msUnits ≤ s.clock.residence - last) :
    s.gnssEdge = s.edgeTaken.setDefects .gnss (s.edgeDefects s.edgeSecond) := by
  have accepted : (s.ref .gnss).acceptsEdge s.res = true := (Reference.acceptsEdge_iff _ _).2 apart
  have near : nearestSecond (edgeNanos s.clock.counter) = s.edgeSecond := by rw [edgeNanos_eq]; rfl
  unfold State.gnssEdge
  dsimp only
  rw [if_neg enabled, if_neg (by rw [accepted]; decide), near, edgeNanos_eq]
  unfold State.edgeTaken
  generalize s.edgeSecond = second
  generalize (s.clock.counter + 32768) / 65536 = ns
  rfl

end

/-! ## TOD_MISMATCH where the machine does not move (R53, R64 to R66) -/

/-- A reference with defects stays in its state, but RESTORING, and QUALIFIED with no Hold-off or a new PHASE_FAR (R62,
R65, R66). -/
theorem Reference.react_stays {x : Reference} (defective : x.defects ≠ []) (other : x.state ≠ .restoring)
    {was : List Defect} (held : x.state = .qualified → 0 < x.cfg.holdOff ∧ newlyFar was x.defects = false)
    (res : Nat) : (x.react res was).state = x.state := by
  have some' : x.defects.isEmpty = false := by simpa using defective
  unfold Reference.react
  dsimp only
  rw [some']
  cases state : x.state with
  | disabled => exact state
  | monitoring => rfl
  | qualified =>
    obtain ⟨holds, near⟩ := held state
    dsimp only
    rw [if_neg (by decide), near, if_neg (by decide), if_neg (Nat.pos_iff_ne_zero.1 holds)]
    split
    · rfl
    · exact state
  | failed => exact state
  | restoring => exact absurd state other

/-- A change of the set that does not move the state is not answered by a re-evaluation, so the set is as it was put. -/
theorem setDefects_stays {s : State} {r : Ref} {f : List Defect → List Defect} (enabled : (s.ref r).state ≠ .disabled)
    (stays : (((s.ref r).judged r (s.ref r).grade f).react s.res (s.ref r).defects).state = (s.ref r).state) :
    ((s.setDefects r f).ref r).defects = ((s.ref r).judged r (s.ref r).grade f).defects := by
  unfold State.setDefects State.judge
  dsimp only
  rw [if_neg enabled, if_neg fun ranked => ranked.1 rfl]
  generalize stored : s.updRef r _ = u
  have judged : u.ref r = (s.ref r).judged r (s.ref r).grade f := by rw [← stored, State.ref_updRef_same]; rfl
  have now : u.res = s.res := by rw [← stored]; rfl
  have reacted : ((u.updRef r fun _ => (u.ref r).react u.res (s.ref r).defects).ref r).defects =
      ((s.ref r).judged r (s.ref r).grade f).defects := by
    rw [State.ref_updRef_same, Reference.react_defects, judged]
  split
  · rw [judged]
  · unfold State.reactWith
    dsimp only
    rw [if_neg (not_not_intro (by rw [judged, now]; exact stays))]
    split <;> exact reacted

theorem State.mem_edgeDefects_ne {d : Defect} (lost : d ≠ .signalLost) (mismatch : d ≠ .todMismatch) (s : State)
    (near : Nat) (ds : List Defect) : d ∈ s.edgeDefects near ds ↔ d ∈ ds := by
  unfold State.edgeDefects
  split <;> simp [mem_putDefect, lost, mismatch]

theorem State.edgeDefects_signalLost (s : State) (near : Nat) (ds : List Defect) :
    Defect.signalLost ∉ s.edgeDefects near ds := by
  unfold State.edgeDefects
  split <;> simp [mem_putDefect]

/-- TOD_MISMATCH after an accepted edge whose label is of another second than the edge (R53). -/
def State.edgeDiffers (s : State) (near : Nat) : Prop :=
  match s.gnss.held with
  | some i => s.servo.state ≠ .freerun ∧ i.label ≠ near
  | none => Defect.todMismatch ∈ (s.ref .gnss).defects

theorem State.edgeDefects_mismatch (s : State) (near : Nat) :
    Defect.todMismatch ∈ s.edgeDefects near (s.ref .gnss).defects ↔ s.edgeDiffers near := by
  unfold State.edgeDefects State.edgeDiffers State.mismatch
  cases s.gnss.held with
  | none => simp [mem_putDefect]
  | some i => simp [mem_putDefect]

/-! ## A re-evaluation adds no defect (R53) -/

theorem reevaluateRoles_subset (s : State) (r : Ref) : (s.reevaluateRoles.ref r).defects ⊆ (s.ref r).defects := by
  intro d present
  by_cases gnss : r = .gnss
  · subst gnss
    obtain ⟨ds, left, mem⟩ := (down_reevaluateRoles s).gref
    rw [left] at present
    exact ((mem d).1 present).1
  · rwa [(down_reevaluateRoles s).refs r gnss] at present

theorem reactWith_subset {reeval : State → State} {a : Ref}
    (h : ∀ t : State, ((reeval t).ref a).defects ⊆ (t.ref a).defects) (s : State) (r : Ref) (was : List Defect) :
    ((s.reactWith reeval r was).ref a).defects ⊆ (s.ref a).defects := by
  have reacted : ((s.updRef r fun _ => (s.ref r).react s.res was).ref a).defects = (s.ref a).defects := by
    rw [State.ref_updRef]
    split
    · next same => rw [same, Reference.react_defects]
    · rfl
  unfold State.reactWith State.announceWith
  dsimp only
  rw [← reacted]
  split
  · rw [pinsFallback_ref]
    exact h _
  · split <;> exact List.Subset.refl _

theorem reevaluate_subset (s : State) (r : Ref) : (s.reevaluate.ref r).defects ⊆ (s.ref r).defects := by
  unfold State.reevaluate State.answerFreerun
  split
  · exact reevaluateRoles_subset s r
  · exact List.Subset.trans (reactWith_subset (fun t => reevaluateRoles_subset t r) _ _ _) (reevaluateRoles_subset s r)

theorem subset_ite {c : Prop} [Decidable c] {t u : State} {r : Ref} {ds : List Defect} (yes : (t.ref r).defects ⊆ ds)
    (no : (u.ref r).defects ⊆ ds) : ((if c then t else u).ref r).defects ⊆ ds := by split <;> assumption

/-- A reference that is judged has no defect beyond those it is given. -/
theorem judge_subset {s : State} {r : Ref} (enabled : (s.ref r).state ≠ .disabled) (grade : Option Nat)
    (f : List Defect → List Defect) :
    ((s.judge r grade f).ref r).defects ⊆ ((s.ref r).judged r grade f).defects := by
  unfold State.judge
  dsimp only
  rw [if_neg enabled]
  generalize stored : s.updRef r _ = u
  have judged : u.ref r = (s.ref r).judged r grade f := by rw [← stored, State.ref_updRef_same]; rfl
  rw [← judged]
  have reacted (c : Prop) [Decidable c] : ((if c then u
      else u.reactWith State.reevaluate r (s.ref r).defects).ref r).defects ⊆ (u.ref r).defects :=
    subset_ite (List.Subset.refl _) (reactWith_subset (fun t => reevaluate_subset t r) u r _)
  exact subset_ite (List.Subset.trans (reevaluate_subset _ r) (reacted _)) (reacted _)

/-! ## PPS_INPUT_EDGE (R159) -/

/-- A PPS_IN pin once an edge has been stamped and counted (R159). -/
def Pin.ppsStamped (now : Stamp) (x : Pin) : Pin :=
  { x with lastInput := some now, ctr := { x.ctr with inputEdges := bump x.ctr.inputEdges } }

theorem exec_ppsInputEdge_other {s : State} {k : Fin 4} (other : (s.tpin k).cfg.function ≠ .ppsIn) (dt : Nat) :
    exec (.ppsInputEdge dt k) s = .next s := congrArg Host.Outcome.next (if_neg other)

theorem exec_ppsInputEdge {s : State} {k : Fin 4} (input : (s.tpin k).cfg.function = .ppsIn) (dt : Nat) :
    exec (.ppsInputEdge dt k) s = .next ((s.pass dt).updPin k
      (Pin.ppsStamped ⟨(s.pass dt).clock.counter, s.clock.epoch⟩)).gnssEdge := by
  refine congrArg Host.Outcome.next ((if_pos input).trans ?_)
  unfold State.ppsEdge
  rw [State.pass_stamp]
  rfl

/-- An accepted edge leaves the frame of an event of GNSS. -/
theorem kept_edgeTaken (s : State) (f : List Defect → List Defect) : UpstreamKept [.gnss] []
    (s.updGnss fun g => g.edgeTaken ((s.clock.counter + 32768) / 65536) s.edgeSecond s.clock.epoch)
    (s.edgeTaken.setDefects .gnss f) :=
  (kept_updRef _ .gnss _).trans (kept_setDefects _ .gnss f)

theorem State.edgeTaken_gnss (s : State) :
    s.edgeTaken.ref .gnss = { s.ref .gnss with lastEdge := some s.clock.residence } := State.ref_updRef_same _ .gnss _

/-- The judged set of an accepted edge has TOD_MISMATCH by its label (R53). -/
theorem edgeTaken_judged (s : State) (near : Nat) (grade : Option Nat) :
    Defect.todMismatch ∈ ((s.edgeTaken.ref .gnss).judged .gnss grade (s.edgeDefects near)).defects ↔
      s.edgeDiffers near := by
  rw [State.edgeTaken_gnss, ← s.edgeDefects_mismatch near]
  unfold Reference.judged
  rw [mem_putDefect, if_neg (by decide)]

theorem Reference.moved.lastEdge {x y : Reference} (h : x.moved y) : y.lastEdge = x.lastEdge :=
  (congrArg Reference.lastEdge h :)

section
variable {s : State} (enabled : (s.ref .gnss).state ≠ .disabled) (near : Nat)
include enabled

theorem edgeTaken_enabled : (s.edgeTaken.ref .gnss).state ≠ .disabled := by
  rw [State.edgeTaken_gnss]
  exact enabled

theorem edgeTaken_lastEdge :
    ((s.edgeTaken.setDefects .gnss (s.edgeDefects near)).ref .gnss).lastEdge = some s.clock.residence := by
  refine (judge_moved (edgeTaken_enabled enabled) _ (s.edgeDefects near)).lastEdge.trans ?_
  rw [State.edgeTaken_gnss]
  rfl

theorem edgeTaken_signalLost :
    Defect.signalLost ∉ ((s.edgeTaken.setDefects .gnss (s.edgeDefects near)).ref .gnss).defects := by
  unfold State.setDefects
  rw [judge_decides (edgeTaken_enabled enabled) _ _ (by decide) (by decide)]
  exact s.edgeDefects_signalLost near _

theorem edgeTaken_mismatch (present :
    Defect.todMismatch ∈ ((s.edgeTaken.setDefects .gnss (s.edgeDefects near)).ref .gnss).defects) :
    s.edgeDiffers near :=
  (edgeTaken_judged s near _).1 (judge_subset (edgeTaken_enabled enabled) _ _ present)

/-- Where the edge cannot fail GNSS at once its TOD_MISMATCH stands (R53, R65, R66). -/
theorem edgeTaken_keeps_mismatch (differs : s.edgeDiffers near) (other : (s.ref .gnss).state ≠ .restoring)
    (holds : (s.ref .gnss).state = .qualified → 0 < (s.ref .gnss).cfg.holdOff) :
    Defect.todMismatch ∈ ((s.edgeTaken.setDefects .gnss (s.edgeDefects near)).ref .gnss).defects := by
  have present := (edgeTaken_judged s near (s.edgeTaken.ref .gnss).grade).2 differs
  rw [setDefects_stays (edgeTaken_enabled enabled)]
  · exact present
  · refine Reference.react_stays (List.ne_nil_of_mem present) ?_ (fun qualified => ⟨?_, ?_⟩) _
    · rw [State.edgeTaken_gnss]; exact other
    · rw [State.edgeTaken_gnss] at qualified ⊢; exact holds qualified
    · rw [State.edgeTaken_gnss]
      unfold newlyFar Reference.judged
      simp [mem_putDefect, State.mem_edgeDefects_ne]

end

theorem edgeDiffers_iff (s : State) (near : Nat) :
    s.edgeDiffers near ↔ match s.gnss.held.map fun i => (i.label : Int) with
      | some l => s.servo.state ≠ .freerun ∧ l ≠ near
      | none => Defect.todMismatch ∈ (s.ref .gnss).defects := by
  unfold State.edgeDiffers
  cases s.gnss.held with
  | none => exact Iff.rfl
  | some i => exact and_congr Iff.rfl (not_congr Int.ofNat_inj.symm)

/-- Settles O31: the tests of an edge in their order, then the accepted edge block by block. -/
theorem ppsEdgeIsTaken : Obligations.PpsEdgeIsTaken := by
  intro s dt k v x
  have run := fun input => exec_ppsInputEdge (s := s) (k := k) input dt
  have pin : v.tpin k = (s.tpin k).ppsStamped ⟨v.clock.counter, s.clock.epoch⟩ := State.tpin_updPin_same _ k _
  refine ⟨fun other => exec_ppsInputEdge_other other dt, fun input disabled => ?_, fun input enabled =>
    ⟨fun last previous early => ?_, fun apart => ?_⟩⟩
  · exact (run input).trans (congrArg Host.Outcome.next (State.gnssEdge_disabled (s := v) disabled))
  · exact (run input).trans (congrArg Host.Outcome.next (State.gnssEdge_spurious (s := v) enabled previous early))
  · intro ns near label
    have kept := kept_edgeTaken v (v.edgeDefects near)
    have steady : (v.tpin k).steady _ := kept.pins k
    have differs := edgeDiffers_iff v near
    refine ⟨_, (run input).trans (congrArg Host.Outcome.next (State.gnssEdge_accepted (s := v) enabled apart)), ?_,
      ⟨fun present => differs.1 (edgeTaken_mismatch (s := v) enabled near present), fun other notRestoring holds =>
        edgeTaken_keeps_mismatch (s := v) enabled near (differs.2 other) notRestoring holds⟩,
      edgeTaken_signalLost (s := v) enabled near, edgeTaken_lastEdge (s := v) enabled near,
      steady.lastInput.trans (congrArg Pin.lastInput pin :), steady.cfg.trans (congrArg Pin.cfg pin :),
      steady.inputEdges.trans (congrArg (fun z : Pin => z.ctr.inputEdges) pin :),
      steady.cycles.trans (congrArg Pin.cycles pin :), steady.high.trans (congrArg Pin.high pin :)⟩
    have frame : (v.updGnss fun g => g.edgeTaken ns v.edgeSecond v.clock.epoch) = _ :=
      congrArg (fun g => { v with gnss := g }) ((Gnss.edgeTaken_eq v.gnss ns near v.clock.epoch).trans
        (by rw [show v.clock.epoch = s.clock.epoch from s.pass_epoch dt]))
    rw [frame] at kept
    exact kept

end Sys2Proof.Machine
end

section
/-! PROOFS. Edges of the frequency inputs, and the windows judged on them (O32). -/
namespace Sys2Proof.Machine
open Sys2Proof

/-! ## FREQ_INPUT_EDGE and LINE_CLOCK_CYCLE (R58, R160) -/

/-- A FREQ_IN pin once edges have been counted, the last of them stamped (R160). -/
def Pin.freqStamped (now : Stamp) (edges : Nat) (x : Pin) : Pin :=
  { x with lastInput := some now, cycles := x.cycles + edges }

theorem exec_freqInputEdge_other {s : State} {k : Fin 4} (other : (s.tpin k).cfg.function ≠ .freqIn) (dt edges : Nat) :
    exec (.freqInputEdge dt k edges) s = .next s := congrArg Host.Outcome.next (if_neg fun both => other both.1)

theorem exec_freqInputEdge {s : State} {k : Fin 4} {edges : Nat} (input : (s.tpin k).cfg.function = .freqIn)
    (some' : 0 < edges) (dt : Nat) : exec (.freqInputEdge dt k edges) s = .next ((s.pass dt).updPin k
      (Pin.freqStamped ⟨(s.pass dt).clock.counter, s.clock.epoch⟩ edges)).extEdge := by
  refine congrArg Host.Outcome.next ((if_pos ⟨input, some'⟩).trans ?_)
  unfold State.freqEdges
  rw [State.pass_stamp]
  rfl

theorem State.extEdge_disabled {s : State} (disabled : (s.ref .ext).state = .disabled) : s.extEdge = s :=
  if_pos disabled

/-- An edge that reaches an enabled EXT starts its edge interval and ends SIGNAL_LOST (R58). -/
theorem State.extEdge_enabled {s : State} (enabled : (s.ref .ext).state ≠ .disabled) :
    UpstreamKept [.ext] [] s s.extEdge ∧ Defect.signalLost ∉ (s.extEdge.ref .ext).defects ∧
      (s.extEdge.ref .ext).lastEdge = some s.clock.residence := by
  generalize started : s.updRef .ext (fun y => { y with lastEdge := some s.res }) = u
  have whole : s.extEdge = u.setDefects .ext (putDefect .signalLost false) := by
    rw [← started]
    exact if_neg enabled
  have ref : u.ref .ext = { s.ref .ext with lastEdge := some s.clock.residence } := by
    rw [← started]
    exact State.ref_updRef_same s .ext _
  have enabled' : (u.ref .ext).state ≠ .disabled := by rw [ref]; exact enabled
  rw [whole]
  refine ⟨?_, judge_drops enabled' _ (by decide) (by decide), ?_⟩
  · rw [← started]
    exact (kept_updRef s .ext _).trans (kept_setDefects _ .ext _)
  · refine (judge_moved enabled' _ (putDefect .signalLost false)).lastEdge.trans ?_
    rw [ref]
    rfl

theorem exec_lineClockCycle_down {s : State} {c : Client} (down : (s.port (clientPort c)).linkUp = false)
    (dt cycles : Nat) : exec (.lineClockCycle dt c cycles) s = .next s :=
  congrArg Host.Outcome.next (if_neg fun both => by rw [down] at both; exact absurd both.1 (by decide))

theorem exec_lineClockCycle_up {s : State} {c : Client} {cycles : Nat} (up : (s.port (clientPort c)).linkUp = true)
    (some' : 0 < cycles) (dt : Nat) : exec (.lineClockCycle dt c cycles) s =
      .next ((s.pass dt).updPort (clientPort c) fun x => { x with
        lineCycles := x.lineCycles + cycles
        lineEdge := some ⟨(s.pass dt).clock.counter, s.clock.epoch⟩ }) := by
  refine congrArg Host.Outcome.next ((if_pos ⟨up, some'⟩).trans ?_)
  unfold State.lineCycle
  rw [State.pass_stamp]

/-! ## Windows (R57, R58) -/

/-- A quotient rounded to nearest, as the statements measure it: against what was divided. -/
theorem roundDiv_near (a : Int) {b : Int} (pos : 0 < b) :
    2 * (b * roundDiv a b - a).natAbs ≤ b.natAbs ∧
      (2 * (b * roundDiv a b - a).natAbs = b.natAbs → a.natAbs ≤ (b * roundDiv a b).natAbs) := by
  have nearest := roundDiv_nearest a pos
  rwa [← Int.natAbs_neg, neg_sub] at nearest

section
variable {s : State} {b : Nat} {r : Ref}

theorem windowResult_phase {p0 p1 : Int} (phase : phaseCapable r = true) (began : (s.ref r).pStart = some p0)
    (ended : s.sampleOf b r = some p1) : s.windowResult b r = some (phaseWindow p0 p1) := by
  unfold State.windowResult
  dsimp only
  rw [if_pos phase, began, ended]

theorem windowResult_phase_none (phase : phaseCapable r = true)
    (missing : (s.ref r).pStart = none ∨ s.sampleOf b r = none) : s.windowResult b r = none := by
  unfold State.windowResult
  dsimp only
  rw [if_pos phase]
  rcases missing with missing | missing <;> rw [missing]
  cases (s.ref r).pStart <;> rfl

theorem windowResult_capture {c0 c1 : Nat} (plain : phaseCapable r = false) (whole : (s.ref r).winVoid = false)
    (began : (s.ref r).capStart = some c0) (ended : s.captureOf r = some c1) :
    s.windowResult b r = some (captureWindow c0 c1) := by
  unfold State.windowResult
  dsimp only
  rw [if_neg (by rw [plain]; decide), if_neg (by rw [whole]; decide), began, ended]

theorem windowResult_capture_none (plain : phaseCapable r = false)
    (missing : (s.ref r).winVoid = true ∨ (s.ref r).capStart = none ∨ s.captureOf r = none) :
    s.windowResult b r = none := by
  unfold State.windowResult
  dsimp only
  rw [if_neg (by rw [plain]; decide)]
  rcases missing with void | missing | missing
  · rw [if_pos void]
  · rw [missing, ite_self]
  · rw [missing]
    cases (s.ref r).capStart <;> exact ite_self _

end

/-- A capture: the cycles in units of reference time, and the counter's interval since the last, of this Epoch (R58). -/
theorem captureFrom_iff (s : State) (rate cycles : Nat) (edge : Option Stamp) (cap : Nat) :
    s.captureFrom rate cycles edge = some cap ↔ ∃ e, edge = some e ∧ e.epoch = s.clock.epoch ∧
      cap = cycles * cycleUnits rate + (s.clock.counter - e.counter) := by
  unfold State.captureFrom
  cases edge with
  | none => simp
  | some e =>
    by_cases same : e.epoch = s.clock.epoch
    · simp [same, eq_comm]
    · simp [same]

theorem captureOf_line (s : State) (c : Client) : s.captureOf (lineRef c) =
    s.captureFrom lineRate (s.port (clientPort c)).lineCycles (s.port (clientPort c)).lineEdge := by
  cases c <;> rfl

theorem captureOf_ext {s : State} {k : Fin 4} (pin : s.freqPin = some k) :
    s.captureOf .ext = s.captureFrom (s.ref .ext).cfg.declaredRate (s.tpin k).cycles (s.tpin k).lastInput := by
  unfold State.captureOf
  rw [pin]
  rfl

theorem captureOf_ext_none {s : State} (pin : s.freqPin = none) : s.captureOf .ext = none := by
  unfold State.captureOf
  rw [pin]
  rfl

theorem freqPin_some {s : State} {k : Fin 4} (input : (s.tpin k).cfg.function = .freqIn)
    (only : ∀ j, (s.tpin j).cfg.function = .freqIn → j = k) : s.freqPin = some k := by
  unfold State.freqPin
  cases found : allPins.find? fun j => (s.tpin j).cfg.function = .freqIn with
  | none => exact absurd input (by simpa using List.find?_eq_none.1 found k (mem_allPins k))
  | some j => exact congrArg some (only j (by simpa using List.find?_some found))

theorem freqPin_none {s : State} (none' : ∀ k, (s.tpin k).cfg.function ≠ .freqIn) : s.freqPin = none :=
  List.find?_eq_none.2 fun k _ => by simpa using none' k

/-! ## A window judged (R59, R163) -/

theorem pinsOffset_tpin (s : State) (r : Ref) (d : Int) (k : Fin 4) : (s.pinsOffset r d).tpin k =
    if (s.tpin k).bypassRef = some r then (s.tpin k).takeOffset s.clock.osc d else s.tpin k := by
  refine foldl_own (read := State.tpin) (env := fun _ => ())
    (g := fun _ _ x => if x.bypassRef = some r then x.takeOffset s.clock.osc d else x)
    (op := fun t k => t.updPin k fun x => if x.bypassRef = some r then x.takeOffset s.clock.osc d else x)
    (fun t j => State.tpin_updPin_same t j _) (fun t j b ne => State.tpin_updPin_ne ne t _) (fun _ _ => rfl) allPins
    (by decide) s k (mem_allPins k)

theorem pinsOffset_frame (s : State) (r : Ref) (d : Int) :
    s.pinsOffset r d = { s with pins := (s.pinsOffset r d).pins } := rfl

theorem Pin.steady.bypassRef {x y : Pin} (h : x.steady y) : y.bypassRef = x.bypassRef := h.restarted.1.bypassRef

/-- What the Pin Unit takes from a window result of a reference (R163; log 70). -/
def State.pinsJudged (s : State) (r : Ref) (dOsc : Int) : State := (s.pinsOffset r dOsc).pinsFallback r

theorem pinsJudged_frame (s : State) (r : Ref) (dOsc : Int) :
    s.pinsJudged r dOsc = { s with pins := (s.pinsJudged r dOsc).pins } :=
  (pinsFallback_frame (s.pinsOffset r dOsc) r).trans
    (congrArg (fun u => { u with pins := (s.pinsJudged r dOsc).pins }) (pinsOffset_frame s r dOsc))

theorem pinsJudged_other {s : State} {r : Ref} {k : Fin 4} (other : (s.tpin k).bypassRef ≠ some r) (dOsc : Int) :
    (s.pinsJudged r dOsc).tpin k = s.tpin k := by
  unfold State.pinsJudged
  rw [pinsFallback_tpin, pinsOffset_tpin, if_neg other, if_neg other]

theorem pinsJudged_bypass {s : State} {r : Ref} {k : Fin 4} (bypass : (s.tpin k).bypassRef = some r) (dOsc : Int) :
    ((s.pinsJudged r dOsc).tpin k).bypassOffset = some dOsc := by
  unfold State.pinsJudged
  rw [pinsFallback_tpin, pinsOffset_tpin, if_pos bypass]
  split
  · exact (Pin.steady_fallbackEval _ _ _).restarted.2
  · rfl

/-- A frame but for the pins, which both states have as they are given. -/
theorem UpstreamKept.withPins {own : List Ref} {ownC : List Client} {s t : State} (h : UpstreamKept own ownC s t)
    (pins : Vector Pin 4) : UpstreamKept own ownC { s with pins := pins } { t with pins := pins } :=
  ⟨h.clock, h.flow, h.portMap, h.mgmt, h.pending, h.receiver, h.window, h.sessions, h.refs, h.gnss, h.ports, h.recs,
    fun _ => Pin.steady.refl _⟩

/-- After an event of upstream the pins that take its result differ by it alone, and by what the event brought them. -/
theorem pinsJudged_of_kept {own : List Ref} {s u : State} (kept : UpstreamKept own [] s u) (r : Ref) (dOsc : Int) :
    UpstreamKept own [] { s with pins := (u.pinsJudged r dOsc).pins } (u.pinsJudged r dOsc) ∧
      (∀ q, (u.pinsJudged r dOsc).ref q = u.ref q) ∧
      (∀ k, (s.tpin k).bypassRef = some r → ((u.pinsJudged r dOsc).tpin k).bypassOffset = some dOsc) ∧
      ∀ k, (s.tpin k).bypassRef ≠ some r → (s.tpin k).steady ((u.pinsJudged r dOsc).tpin k) := by
  have frame := pinsJudged_frame u r dOsc
  refine ⟨?_, fun q => ?_, fun k bypass => pinsJudged_bypass ((kept.pins k).bypassRef.trans bypass) dOsc,
    fun k other => ?_⟩
  · have whole := kept.withPins (u.pinsJudged r dOsc).pins
    rwa [← frame] at whole
  · have refs : (u.pinsJudged r dOsc).refs = u.refs := (congrArg State.refs frame :)
    unfold State.ref
    rw [refs]
  · rw [pinsJudged_other (by rwa [(kept.pins k).bypassRef]) dOsc]
    exact kept.pins k

/-- The defect set of a window's result (R59). -/
def Reference.windowDefects (x : Reference) (meanF d : Int) (ds : List Defect) : List Defect :=
  putDefect .wander (x.wanders d) (putDefect .freqRange (decide (x.cfg.acceptRange < (d + meanF).natAbs)) ds)

theorem Reference.wanders_iff (x : Reference) (d : Int) :
    x.wanders d = true ↔ ∃ p, x.prevD = some p ∧ x.cfg.wanderLimit < (d - p).natAbs := by
  unfold Reference.wanders
  cases x.prevD <;> simp

theorem Reference.mem_windowDefects_freqRange (x : Reference) (meanF d : Int) (ds : List Defect) :
    Defect.freqRange ∈ x.windowDefects meanF d ds ↔ x.cfg.acceptRange < (d + meanF).natAbs := by
  unfold Reference.windowDefects
  simp [mem_putDefect]

theorem Reference.mem_windowDefects_wander (x : Reference) (meanF d : Int) (ds : List Defect) :
    Defect.wander ∈ x.windowDefects meanF d ds ↔ ∃ p, x.prevD = some p ∧ x.cfg.wanderLimit < (d - p).natAbs := by
  unfold Reference.windowDefects
  rw [← Reference.wanders_iff, mem_putDefect, if_pos rfl]

/-- The relay once the reference of a window's result has been judged, before the pins take it. -/
def State.windowTaken (s : State) (meanF d : Int) (r : Ref) : State :=
  ((s.updRef r fun y => { y with lastD := some d, prevD := some d }).setDefects r
    ((s.ref r).windowDefects meanF d)).measured r

section
variable {s : State} {r : Ref} {meanF d : Int}

theorem judgeWindow_disabled (disabled : (s.ref r).state = .disabled) (d : Option Int) :
    s.judgeWindow meanF d r = s := if_pos (by simp [Reference.enabled, disabled])

theorem judgeWindow_void (enabled : (s.ref r).state ≠ .disabled) : s.judgeWindow meanF none r =
    s.updRef r fun y => { y with prevD := none, ctr := { y.ctr with windowsVoid := bump y.ctr.windowsVoid } } :=
  if_neg (by simp [Reference.enabled, enabled])

theorem judgeWindow_result (enabled : (s.ref r).state ≠ .disabled) :
    s.judgeWindow meanF (some d) r = (s.windowTaken meanF d r).pinsJudged r (d + meanF) :=
  if_neg (by simp [Reference.enabled, enabled])

theorem kept_windowTaken : UpstreamKept [r] [] s (s.windowTaken meanF d r) :=
  ((kept_updRef s r _).trans (kept_setDefects _ r _)).trans (kept_measured _ r)

theorem Reference.moved.window {x y : Reference} (h : x.moved y) : y.lastD = x.lastD ∧ y.prevD = x.prevD :=
  ⟨(congrArg Reference.lastD h :), (congrArg Reference.prevD h :)⟩

/-- The reference after its window's result: the two offsets kept, FREQ_RANGE and WANDER by the result (R59). -/
theorem windowTaken_ref (enabled : (s.ref r).state ≠ .disabled) (meanF d : Int) :
    let y := (s.windowTaken meanF d r).ref r
    (y.lastD = some d ∧ y.prevD = some d) ∧
      ∀ e, e ≠ .gradeLow → e ≠ .todMismatch →
        (e ∈ y.defects ↔ e ∈ (s.ref r).windowDefects meanF d (s.ref r).defects) := by
  generalize stored : s.updRef r (fun y => { y with lastD := some d, prevD := some d }) = u
  have ref : u.ref r = { s.ref r with lastD := some d, prevD := some d } := by
    rw [← stored]
    exact State.ref_updRef_same s r _
  have enabled' : (u.ref r).state ≠ .disabled := by rw [ref]; exact enabled
  have whole : s.windowTaken meanF d r = (u.setDefects r ((s.ref r).windowDefects meanF d)).measured r := by
    rw [← stored]
    rfl
  rw [whole]
  dsimp only
  refine ⟨?_, fun e grade other => ?_⟩
  · have moved := ((judge_moved enabled' (u.ref r).grade ((s.ref r).windowDefects meanF d)).trans
      (measured_moved _ r)).window
    have before : ((u.ref r).judged r (u.ref r).grade ((s.ref r).windowDefects meanF d)).lastD = some d ∧
        ((u.ref r).judged r (u.ref r).grade ((s.ref r).windowDefects meanF d)).prevD = some d := by
      rw [ref]
      exact ⟨rfl, rfl⟩
    exact ⟨moved.1.trans before.1, moved.2.trans before.2⟩
  · rw [measured_defects other]
    unfold State.setDefects
    rw [judge_decides enabled' _ _ grade other, ref]

end

/-- Settles O32: the two input events, then the windows by their ends, then the judging of a result. -/
theorem frequencyInputsCountTheirCycles : Obligations.FrequencyInputsCountTheirCycles := by
  refine ⟨fun s dt edges some' => ?_, fun s b r => ?_, fun s meanF r => ?_⟩
  · intro now
    refine ⟨fun k other => exec_freqInputEdge_other other dt edges, fun k input => ?_,
      fun c down => exec_lineClockCycle_down down dt edges, fun c up => exec_lineClockCycle_up up some' dt⟩
    intro v
    have run := exec_freqInputEdge input some' dt
    have pin : v.tpin k = (s.tpin k).freqStamped now edges := State.tpin_updPin_same _ k _
    refine ⟨fun disabled => run.trans (congrArg Host.Outcome.next (State.extEdge_disabled (s := v) disabled)),
      fun enabled => ?_⟩
    obtain ⟨kept, present, edge⟩ := State.extEdge_enabled (s := v) enabled
    have steady := kept.pins k
    exact ⟨_, run, kept, present, edge, steady.lastInput.trans (congrArg Pin.lastInput pin :),
      steady.cycles.trans (congrArg Pin.cycles pin :), steady.cfg.trans (congrArg Pin.cfg pin :),
      steady.inputEdges.trans (congrArg (fun z : Pin => z.ctr.inputEdges) pin :)⟩
  · intro x nearest captured
    refine ⟨fun p0 p1 phase began ended => ⟨_, windowResult_phase phase began ended, roundDiv_near _ (by decide)⟩,
      fun c0 c1 plain whole began ended =>
        ⟨_, windowResult_capture plain whole began ended, roundDiv_near _ (by decide)⟩,
      windowResult_phase_none, windowResult_capture_none, fun c cap line => ?_, fun k cap ext input only => ?_,
      fun ext none' => ?_, roundDiv_near _ (by decide), rfl⟩
    · rw [line, captureOf_line]
      exact captureFrom_iff _ _ _ _ _
    · subst ext
      rw [captureOf_ext (freqPin_some input only)]
      exact captureFrom_iff _ _ _ _ _
    · rw [ext]
      exact captureOf_ext_none (freqPin_none none')
  · intro x
    refine ⟨fun d disabled => judgeWindow_disabled disabled d, judgeWindow_void, fun d enabled => ?_⟩
    have whole : s.judgeWindow meanF (some d) r = _ := judgeWindow_result enabled
    obtain ⟨⟨lastD, prevD⟩, defects⟩ := windowTaken_ref enabled meanF d
    obtain ⟨frame, refs, bypass, others⟩ := pinsJudged_of_kept (kept_windowTaken (s := s) (meanF := meanF) (d := d)) r
      (d + meanF)
    rw [whole]
    refine ⟨frame, ?_, ?_, (congrArg Reference.lastD (refs r)).trans lastD,
      (congrArg Reference.prevD (refs r)).trans prevD, bypass, others⟩
    · rw [refs, defects _ (by decide) (by decide)]
      exact x.mem_windowDefects_freqRange meanF d _
    · rw [refs, defects _ (by decide) (by decide)]
      exact x.mem_windowDefects_wander meanF d _

end Sys2Proof.Machine
end

section
/-! PROOFS. An instant of an output pin reached: on the Time Counter, on the Residence Clock or on the oscillator's
time, and what the event changes beside the pin. -/
namespace Sys2Proof.Machine
open Sys2Proof

/-! ## An event of one pin at its instant (R161 to R164; log 4) -/

/-- The event of a pin at an instant that the relay has been brought to: the pin is as given, no other pin moves, and
nothing else but the close of a second that the instant ends. -/
structure PinEvent (k : Fin 4) (s t : State) (x : Pin) : Prop where
  frame  : t = { s.arrive t.clock with pins := t.pins }
  own    : t.tpin k = x
  others : ∀ j, j ≠ k → t.tpin j = s.tpin j

theorem pinEvent_updPin (s : State) (c : Clock) (k : Fin 4) (f : Pin → Pin) :
    PinEvent k s ((s.arrive c).updPin k f) (f (s.tpin k)) :=
  ⟨rfl, State.tpin_updPin_same _ k f, fun _ other => State.tpin_updPin_ne other _ f⟩

/-- An event at a value of the Time Counter that can be reached. -/
theorem State.atInstant_counter {s : State} {target : Nat} (can : s.canReach (target - s.clock.counter)) :
    ∃ c, advanced s (s.arrive c) (target - s.clock.counter) ∧
      ∀ act : State → State, s.atInstant (s.reachCounter target) act = act (s.arrive c) := by
  obtain ⟨c, reached, advance⟩ := State.reach_of_canReach can
  have there : s.reachCounter target = some (s.arrive c) := reached
  refine ⟨c, advance, fun act => ?_⟩
  rw [there]
  rfl

/-! ## The oscillator's time (R163; log 4) -/

/-- The oscillator comes to a time before the counter comes to the next second boundary. -/
def Clock.shortOf (c : Clock) (f : Int) (osc : Nat) : Prop := c.residue + (osc - c.osc) * rateOf f < c.room * unitParts

/-- An oscillator time that can be reached: it is past, or short of the boundary, or falls together with it. -/
def Clock.oscReaches (c : Clock) (f : Int) (osc : Nat) : Prop :=
  osc ≤ c.osc ∨ c.shortOf f osc ∨ (c.shortOf f (osc - 1) ∧ secondsOf c.counter + 1 < secRange)

theorem Clock.shortOf_iff (c : Clock) (f : Int) (osc : Nat) :
    c.shortOf f osc ↔ (c.residue + (osc - c.osc) * rateOf f) / unitParts < c.room :=
  (Nat.div_lt_iff_lt_mul (by decide)).symm

/-- A time that is the first not short of the boundary is the time at which the boundary is reached. -/
theorem Clock.boundaryOsc {f : Int} {c : Clock} {osc : Nat} (ahead : c.osc < osc) (full : ¬ c.shortOf f osc)
    (last : c.shortOf f (osc - 1)) :
    c.boundaryDue = false ∧ c.osc + ceilDiv (unitParts * c.room - c.residue) (rateOf f) = osc := by
  unfold Clock.shortOf at full last
  have step : (osc - c.osc) * rateOf f = (osc - 1 - c.osc) * rateOf f + rateOf f := by
    rw [show osc - c.osc = osc - 1 - c.osc + 1 by omega, Nat.succ_mul]
  have comm : c.room * unitParts = unitParts * c.room := Nat.mul_comm _ _
  have pos : 0 < rateOf f := by omega
  refine ⟨Bool.eq_false_iff.2 fun due => ?_, ?_⟩
  · rw [Clock.room_due due] at last
    omega
  · have least := ceilDiv_le (n := unitParts * c.room - c.residue) (k := osc - c.osc) pos (by omega)
    have enough := (ceilDiv_spec pos (unitParts * c.room - c.residue)).1
    have most : osc - 1 - c.osc < ceilDiv (unitParts * c.room - c.residue) (rateOf f) := by
      by_contra few
      have := Nat.mul_le_mul_right (rateOf f) (Nat.not_lt.1 few)
      omega
    omega

theorem Clock.reachOsc_of {f : Int} {c : Clock} {osc : Nat} (can : c.oscReaches f osc) :
    ∃ c', c.reachOsc f osc = some c' ∧ c'.osc = max osc c.osc := by
  unfold Clock.reachOsc
  dsimp only
  by_cases past : osc ≤ c.osc
  · exact ⟨c, if_pos past, (Nat.max_eq_right past).symm⟩
  · have ahead := Nat.not_le.1 past
    rw [if_neg past]
    by_cases short : c.shortOf f osc
    · rw [if_pos ((c.shortOf_iff f osc).1 short)]
      exact ⟨_, rfl, (Nat.max_eq_left ahead.le).symm⟩
    · obtain ⟨last, within⟩ := (can.resolve_left past).resolve_left short
      obtain ⟨clear, arrives⟩ := Clock.boundaryOsc ahead short last
      rw [if_neg (mt (c.shortOf_iff f osc).2 short)]
      have there : c.toBoundary f = some { c.run f c.room with boundaryDue := true } := by
        unfold Clock.toBoundary
        rw [if_neg (by rw [clear]; decide), if_pos within]
      have time : (c.run f c.room).osc = osc := arrives
      refine ⟨{ c.run f c.room with boundaryDue := true }, ?_, time.trans (Nat.max_eq_left ahead.le).symm⟩
      rw [there, Option.filter_some, clear]
      exact if_pos (decide_eq_true time.ge)

/-- An event at an oscillator time that can be reached. -/
theorem State.atInstant_osc {s : State} {osc : Nat} (can : s.clock.oscReaches s.servo.f osc) :
    ∃ c, c.osc = max osc s.clock.osc ∧ c.epoch = s.clock.epoch ∧
      ∀ act : State → State, s.atInstant (s.reachOsc osc) act = act (s.arrive c) := by
  obtain ⟨c, reached, time⟩ := Clock.reachOsc_of can
  refine ⟨c, time, Clock.reachOsc_epoch reached, fun act => ?_⟩
  unfold State.reachOsc
  rw [reached]
  rfl

/-! ## Two instants in one event (R163; log 54) -/

/-- Arriving once more, at a boundary already stood at or short of one, closes no second twice. -/
theorem State.arrive_again {s : State} {c c' : Clock}
    (same : c.boundaryDue = true → s.clock.boundaryDue = false → c' = c)
    (clear : c.boundaryDue = false → s.clock.boundaryDue = false) : (s.arrive c).arrive c' = s.arrive c' := by
  cases stood : s.clock.boundaryDue with
  | true =>
    have due : c.boundaryDue = true := by
      by_contra open'
      rw [clear (Bool.eq_false_iff.2 open')] at stood
      cases stood
    rw [State.arrive_of_not_due _ c' (.inr due), State.arrive_of_not_due s c' (.inr stood),
      State.arrive_of_not_due s c (.inr stood)]
  | false =>
    cases due : c.boundaryDue with
    | true =>
      rw [same due stood, State.arrive_of_not_due _ c (.inr due)]
      rfl
    | false =>
      rw [State.arrive_of_not_due s c (.inl due)]
      unfold State.arrive
      dsimp only
      rw [due, stood]
      rfl

/-- Where an oscillator time has been reached, an instant from there on is an instant of the relay. -/
theorem State.arrive_reachOsc {s u : State} {osc d : Nat} (there : s.reachOsc osc = some u) (can : u.canReach d) :
    ∃ c, advanced u (s.arrive c) d ∧ c.epoch = s.clock.epoch ∧ u.reach d = some (s.arrive c) := by
  obtain ⟨c, reached, rfl⟩ := Option.map_eq_some_iff.1 there
  obtain ⟨c', reached', advance⟩ := State.reach_of_canReach can
  have cases' := Clock.reachOsc_cases reached
  have again : (s.arrive c).arrive c' = s.arrive c' := by
    refine State.arrive_again (fun due _ => ?_) (fun clear => ?_)
    · obtain ⟨d', arrived, is⟩ := Option.map_eq_some_iff.1 reached'
      have same : d' = c' := (congrArg State.clock is :)
      rw [same] at arrived
      have none' : (s.arrive c).clock.room = 0 := Clock.room_due due
      rcases Clock.reach_cases arrived with ⟨-, stays⟩ | ⟨short, -⟩ | ⟨ahead, full, -⟩
      · exact stays
      · omega
      · omega
    · rcases cases' with ⟨-, rfl⟩ | ⟨-, -, rfl⟩ | ⟨-, -, -, -, -, rfl⟩
      · exact clear
      · exact clear
      · cases clear
  rw [again] at reached' advance
  exact ⟨c', advance, advance.2.2.trans (Clock.reachOsc_epoch reached), reached'⟩

end Sys2Proof.Machine
end
section
/-! PROOFS. FREQ_OUTPUT_EDGE and HALF_CYCLE_END, and where Fallback moves the cycles of a bypass output. -/
namespace Sys2Proof.Machine
open Sys2Proof

/-! ## A cycle of a frequency output (R162, R163) -/

theorem Pin.outputOn_freqOut {x : Pin} (output : x.cfg.function = .freqOut) : x.outputOn = x.cfg.outEnabled := by
  unfold Pin.outputOn isOutput
  rw [output]
  rfl

/-- What the start of a cycle writes in a pin: an edge where it is ACTIVE, and none where it is SQUELCHED. -/
def Pin.cycled (x y : Pin) (res : Nat) (fall : Fall) (phase : FreqPhase) : Prop :=
  (x.squelched = true → y = { x with phase := phase }) ∧
  (x.squelched = false → y = { x with high := some fall, riseRes := some res, phase := phase })

theorem Pin.cycled_cycle (x : Pin) (res : Nat) (fall : Fall) (phase : FreqPhase) :
    x.cycled (x.cycle res fall phase) res fall phase := by
  unfold Pin.cycle
  refine ⟨fun quiet => if_pos quiet, fun live => if_neg ?_⟩
  rw [live]
  decide

/-- The cycle start after `next` follows by the bypass period exactly, the part left over being carried. -/
theorem Pin.bypassAfter_exact (x : Pin) (next rem : Nat) :
    (x.bypassAfter next rem 1).1 * bypassDen x.cfg.rate x.offsetNow + (x.bypassAfter next rem 1).2 =
        next * bypassDen x.cfg.rate x.offsetNow + rem + bypassNum ∧
      (0 < bypassDen x.cfg.rate x.offsetNow → (x.bypassAfter next rem 1).2 < bypassDen x.cfg.rate x.offsetNow) := by
  unfold Pin.bypassAfter
  generalize bypassDen x.cfg.rate x.offsetNow = den
  generalize bypassNum = num
  refine ⟨?_, Nat.mod_lt _⟩
  have whole := Nat.div_add_mod' (1 * num + rem) den
  rw [Nat.add_mul, Nat.add_assoc, whole]
  omega

/-! ## The cycle starts, wherever the cycles are placed -/

theorem exec_freqOutputEdge_other {s : State} {k : Fin 4}
    (other : ¬ ((s.tpin k).cfg.function = .freqOut ∧ (s.tpin k).cfg.outEnabled = true)) :
    exec (.freqOutputEdge k) s = .next s := by
  refine congrArg Host.Outcome.next (if_neg fun ⟨output, on⟩ => other ⟨output, ?_⟩)
  rw [← Pin.outputOn_freqOut output]
  exact on

theorem exec_freqOutputEdge {s : State} {k : Fin 4}
    (live : (s.tpin k).cfg.function = .freqOut ∧ (s.tpin k).cfg.outEnabled = true) :
    exec (.freqOutputEdge k) s = .next (s.freqEdge k) := by
  refine congrArg Host.Outcome.next (if_pos ⟨live.1, ?_⟩)
  rw [Pin.outputOn_freqOut live.1]
  exact live.2

/-- A cycle of a pin has begun at the moment the relay was brought to, and nothing else happened. -/
def cycleBegins (k : Fin 4) (s t : State) (fall : Fall) (phase : FreqPhase) : Prop :=
  PinEvent k s t (t.tpin k) ∧ (s.tpin k).cycled (t.tpin k) t.clock.residence fall phase

theorem cycleBegins_updPin (s : State) (c : Clock) (k : Fin 4) (fall : Fall) (phase : FreqPhase) :
    cycleBegins k s ((s.arrive c).updPin k (Pin.cycle c.residence fall phase)) fall phase := by
  have event := pinEvent_updPin s c k (Pin.cycle c.residence fall phase)
  have cycled := Pin.cycled_cycle (s.tpin k) c.residence fall phase
  rw [← event.own] at cycled
  exact ⟨⟨event.frame, rfl, event.others⟩, cycled⟩

/-- A cycle placed on the counter begins. -/
theorem freqEdge_onCounter {s : State} {k : Fin 4} {done : Nat} (phase : (s.tpin k).phase = .onCounter done)
    (can : s.canReach (nextDue (periodUnits (s.tpin k).cfg.rate) done s.clock.counter - s.clock.counter)) :
    advanced s (s.freqEdge k) (nextDue (periodUnits (s.tpin k).cfg.rate) done s.clock.counter - s.clock.counter) ∧
      cycleBegins k s (s.freqEdge k)
        (.atResidence ((s.freqEdge k).clock.residence + periodUnits (s.tpin k).cfg.rate / 2))
        (.onCounter (nextDue (periodUnits (s.tpin k).cfg.rate) done s.clock.counter)) := by
  obtain ⟨c, advance, acts⟩ := State.atInstant_counter can
  have same : s.freqEdge k = (s.arrive c).updPin k (Pin.cycle c.residence
      (.atResidence (c.residence + periodUnits (s.tpin k).cfg.rate / 2))
      (.onCounter (nextDue (periodUnits (s.tpin k).cfg.rate) done s.clock.counter))) := by
    unfold State.freqEdge
    rw [phase]
    exact acts _
  rw [same]
  exact ⟨advance, cycleBegins_updPin s c k _ _⟩

/-- A bypass cycle begins: its high part and the cycle start that follows go by the bypass period in force. -/
def bypassBegins (k : Fin 4) (s t : State) (first rem : Nat) : Prop :=
  let x := s.tpin k
  cycleBegins k s t (.atOsc (t.clock.osc + bypassNum / (2 * bypassDen x.cfg.rate x.offsetNow)))
    (.onBypass (x.bypassAfter first rem 1).1 (x.bypassAfter first rem 1).2)

/-- Leaving the counter, the next counter instant starts a bypass cycle. -/
theorem freqEdge_leavingCounter {s : State} {k : Fin 4} {done : Nat} (phase : (s.tpin k).phase = .leavingCounter done)
    (can : s.canReach (nextDue (periodUnits (s.tpin k).cfg.rate) done s.clock.counter - s.clock.counter)) :
    advanced s (s.freqEdge k) (nextDue (periodUnits (s.tpin k).cfg.rate) done s.clock.counter - s.clock.counter) ∧
      bypassBegins k s (s.freqEdge k) (s.freqEdge k).clock.osc 0 := by
  obtain ⟨c, advance, acts⟩ := State.atInstant_counter can
  have same : s.freqEdge k = (s.arrive c).updPin k (Pin.bypassRise c.residence c.osc c.osc 0) := by
    unfold State.freqEdge
    rw [phase]
    exact acts _
  rw [same]
  exact ⟨advance, cycleBegins_updPin s c k _ _⟩

/-- In bypass, a cycle begins at the next cycle start on the oscillator's time. -/
theorem freqEdge_onBypass {s : State} {k : Fin 4} {next rem : Nat} (phase : (s.tpin k).phase = .onBypass next rem)
    (can : s.clock.oscReaches s.servo.f next) :
    (s.freqEdge k).clock.osc = max next s.clock.osc ∧ (s.freqEdge k).clock.epoch = s.clock.epoch ∧
      bypassBegins k s (s.freqEdge k) next rem := by
  obtain ⟨c, time, epoch, acts⟩ := State.atInstant_osc can
  have same : s.freqEdge k = (s.arrive c).updPin k (Pin.bypassRise c.residence c.osc next rem) := by
    unfold State.freqEdge
    rw [phase]
    exact acts _
  rw [same]
  exact ⟨time, epoch, cycleBegins_updPin s c k _ _⟩

/-- Leaving bypass, a cycle begins at the first counter instant that does not lie before the end of the bypass cycle. -/
theorem freqEdge_leavingBypass {s u : State} {k : Fin 4} {finish : Nat}
    (phase : (s.tpin k).phase = .leavingBypass finish) (there : s.reachOsc finish = some u)
    (can : u.canReach (nextMultiple (periodUnits (s.tpin k).cfg.rate) u.clock.counter - u.clock.counter)) :
    advanced u (s.freqEdge k) (nextMultiple (periodUnits (s.tpin k).cfg.rate) u.clock.counter - u.clock.counter) ∧
      (s.freqEdge k).clock.epoch = s.clock.epoch ∧
      cycleBegins k s (s.freqEdge k)
        (.atResidence ((s.freqEdge k).clock.residence + periodUnits (s.tpin k).cfg.rate / 2))
        (.onCounter (s.freqEdge k).clock.counter) := by
  obtain ⟨c, advance, epoch, reached⟩ := State.arrive_reachOsc there can
  have same : s.freqEdge k = (s.arrive c).updPin k (Pin.cycle c.residence
      (.atResidence (c.residence + periodUnits (s.tpin k).cfg.rate / 2)) (.onCounter c.counter)) := by
    have arrives : u.reachCounter (nextMultiple (periodUnits (s.tpin k).cfg.rate) u.clock.counter) =
      some (s.arrive c) := reached
    unfold State.freqEdge
    rw [phase]
    dsimp only
    unfold State.leaveBypassEdge
    rw [there]
    dsimp only
    rw [arrives]
    rfl
  rw [same]
  exact ⟨advance, epoch, cycleBegins_updPin s c k _ _⟩

/-! ## The end of a high part (R161 to R163) -/

theorem State.fallAt_none {s : State} {k : Fin 4} (low : (s.tpin k).high = none) : s.fallAt k = s := by
  unfold State.fallAt
  rw [low]

/-- A high part that ends on the Residence Clock: the pin is low from that moment. -/
theorem State.fallAt_residence {s : State} {k : Fin 4} {fall : Nat} (high : (s.tpin k).high = some (.atResidence fall))
    (can : s.canReach (fall - s.clock.residence)) :
    advanced s (s.fallAt k) (fall - s.clock.residence) ∧ PinEvent k s (s.fallAt k) { s.tpin k with high := none } := by
  obtain ⟨c, advance, acts⟩ := State.atInstant_reached can
  have same : s.fallAt k = (s.arrive c).updPin k fun x => { x with high := none } := by
    unfold State.fallAt
    rw [high]
    exact acts _
  rw [same]
  exact ⟨advance, pinEvent_updPin s c k _⟩

/-- A high part that ends on the oscillator's time. -/
theorem State.fallAt_osc {s : State} {k : Fin 4} {osc : Nat} (high : (s.tpin k).high = some (.atOsc osc))
    (can : s.clock.oscReaches s.servo.f osc) :
    (s.fallAt k).clock.osc = max osc s.clock.osc ∧ (s.fallAt k).clock.epoch = s.clock.epoch ∧
      PinEvent k s (s.fallAt k) { s.tpin k with high := none } := by
  obtain ⟨c, time, epoch, acts⟩ := State.atInstant_osc can
  have same : s.fallAt k = (s.arrive c).updPin k fun x => { x with high := none } := by
    unfold State.fallAt
    rw [high]
    exact acts _
  rw [same]
  exact ⟨time, epoch, pinEvent_updPin s c k _⟩

theorem exec_halfCycleEnd {s : State} {k : Fin 4} (output : (s.tpin k).cfg.function = .freqOut) :
    exec (.halfCycleEnd k) s = .next (s.fallAt k) := congrArg Host.Outcome.next (if_pos output)

theorem exec_halfCycleEnd_other {s : State} {k : Fin 4}
    (none' : (s.tpin k).cfg.function ≠ .freqOut ∨ (s.tpin k).high = none) : exec (.halfCycleEnd k) s = .next s := by
  by_cases output : (s.tpin k).cfg.function = .freqOut
  · rw [exec_halfCycleEnd output, State.fallAt_none (none'.resolve_left (not_not_intro output))]
  · exact congrArg Host.Outcome.next (if_neg output)

/-! ## Fallback (R163) -/

theorem Pin.bypassRef_eq_some {x : Pin} {r : Ref} :
    x.bypassRef = some r ↔ x.cfg.function = .freqOut ∧ x.cfg.source = .bypass r := by
  unfold Pin.bypassRef
  by_cases output : x.cfg.function = .freqOut
  · rw [if_pos output]
    cases x.cfg.source with
    | counter => simp
    | bypass q => simp [output]
  · simp [output]

/-- Fallback as it should stand. -/
def Pin.falls (x : Pin) (qualified : Bool) : Bool := !(qualified && x.bypassOffset.isSome)

theorem Pin.falls_iff (x : Pin) (qualified : Bool) :
    x.falls qualified = true ↔ ¬ (qualified = true ∧ x.bypassOffset.isSome = true) := by
  unfold Pin.falls
  cases qualified <;> simp

/-- Where Fallback stands as it should, nothing moves. -/
theorem Pin.fallbackEval_stays {x : Pin} {qualified : Bool} (stays : x.falls qualified = x.fallback) (c : Clock) :
    x.fallbackEval qualified c = x := if_pos stays

/-- Fallback becomes true: the entry is counted, and on a live output the cycle in progress is the last in bypass. -/
theorem Pin.fallbackEval_enters {x : Pin} {qualified : Bool} (was : x.fallback = false)
    (falls : x.falls qualified = true) (c : Clock) : ∃ phase, x.fallbackEval qualified c = { x with
        fallback := true, phase := phase, ctr := { x.ctr with fallbackEntries := bump x.ctr.fallbackEntries } } ∧
      (x.active = true → phase = fallbackPhase x.phase) := by
  have moves : ¬ x.falls qualified = x.fallback := by
    rw [falls, was]
    decide
  refine ⟨_, (if_neg moves).trans (if_pos falls), fun active => ?_⟩
  simp only [active]
  cases x.phase <;> rfl

/-- Fallback becomes false: the counter cycle in progress is the last. -/
theorem Pin.fallbackEval_leaves {x : Pin} {qualified : Bool} (was : x.fallback = true)
    (holds : ¬ x.falls qualified = true) (c : Clock) : x.fallbackEval qualified c =
      { x with fallback := false, phase := bypassPhaseOf c.osc (c.counter - 1) x.phase } := by
  have moves : ¬ x.falls qualified = x.fallback := by
    rw [was]
    exact holds
  exact (if_neg moves).trans (if_neg holds)

theorem Pin.fallbackEval_fallback (x : Pin) (qualified : Bool) (c : Clock) :
    (x.fallbackEval qualified c).fallback = x.falls qualified := by
  by_cases stays : x.falls qualified = x.fallback
  · rw [Pin.fallbackEval_stays stays, stays]
  · cases was : x.fallback with
    | false =>
      have falls : x.falls qualified = true := by
        rw [was] at stays
        exact Bool.not_eq_false _ ▸ stays
      obtain ⟨phase, same, -⟩ := Pin.fallbackEval_enters was falls c
      rw [same, falls]
    | true =>
      have holds : ¬ x.falls qualified = true := by
        rw [was] at stays
        exact stays
      rw [Pin.fallbackEval_leaves was holds, Bool.eq_false_iff.2 holds]

/-- The evaluation touches Fallback, the place of the cycles and the count of the entries. -/
theorem Pin.fallbackEval_frame (x : Pin) (qualified : Bool) (c : Clock) :
    let y := x.fallbackEval qualified c
    y = { x with
      fallback := y.fallback, phase := y.phase, ctr := { x.ctr with fallbackEntries := y.ctr.fallbackEntries } } := by
  by_cases stays : x.falls qualified = x.fallback
  · rw [Pin.fallbackEval_stays stays]
  · by_cases falls : x.falls qualified = true
    · have was : x.fallback = false := Bool.eq_false_iff.2 fun was => stays (falls.trans was.symm)
      obtain ⟨phase, same, -⟩ := Pin.fallbackEval_enters was falls c
      rw [same]
    · have was : x.fallback = true := by
        rw [Bool.eq_false_iff.2 falls] at stays
        exact Bool.not_eq_false _ ▸ (Ne.symm stays)
      rw [Pin.fallbackEval_leaves was falls]

theorem pinsFallback_bypass {s : State} {r : Ref} {k : Fin 4} (bypass : (s.tpin k).bypassRef = some r) :
    (s.pinsFallback r).tpin k = (s.tpin k).fallbackEval ((s.ref r).state = .qualified) s.clock :=
  (pinsFallback_tpin s r k).trans (if_pos bypass)

/-! ## O49 -/

/-- What holds of every frequency output event of a pin, beside the pin itself. -/
theorem PinEvent.only {k : Fin 4} {s t : State} {x : Pin} (event : PinEvent k s t x)
    (epoch : t.clock.epoch = s.clock.epoch) : t = { s.arrive t.clock with pins := t.pins } ∧
      t.clock.epoch = s.clock.epoch ∧ ∀ j, j ≠ k → t.tpin j = s.tpin j := ⟨event.frame, epoch, event.others⟩

theorem bypassBegins.cycle {k : Fin 4} {s t : State} {first rem : Nat} (begins : bypassBegins k s t first rem) :
    let x := s.tpin k
    let den := bypassDen x.cfg.rate x.offsetNow
    ∃ next left, next * den + left = first * den + rem + bypassNum ∧ (0 < den → left < den) ∧
      x.cycled (t.tpin k) t.clock.residence (.atOsc (t.clock.osc + bypassNum / (2 * den))) (.onBypass next left) := by
  obtain ⟨exact', less⟩ := Pin.bypassAfter_exact (s.tpin k) first rem
  exact ⟨_, _, exact', less, begins.2⟩

/-- Settles O49: an edge by the phase the pin stands in, an end of a high part by the clock it is set on, and Fallback
by whether it stands as it should, enters or leaves. -/
theorem frequencyOutputCycles : Obligations.FrequencyOutputCycles := by
  unfold Obligations.FrequencyOutputCycles
  refine ⟨fun s k => ⟨exec_freqOutputEdge_other, fun done live phase can => ?_, fun done live phase can => ?_,
    fun next rem live phase can => ?_, fun finish u live phase there can => ?_, exec_halfCycleEnd_other,
    fun fall output high can => ?_, fun osc output high can => ?_⟩, fun s r k => ?_⟩
  · obtain ⟨advance, event, cycled⟩ := freqEdge_onCounter phase can
    exact ⟨_, exec_freqOutputEdge live, advance, event.only advance.2.2, cycled⟩
  · obtain ⟨advance, begins⟩ := freqEdge_leavingCounter phase can
    exact ⟨_, exec_freqOutputEdge live, advance, begins.1.only advance.2.2, begins.cycle⟩
  · obtain ⟨time, epoch, begins⟩ := freqEdge_onBypass phase can
    exact ⟨_, exec_freqOutputEdge live, time, begins.1.only epoch, begins.cycle⟩
  · obtain ⟨advance, epoch, event, cycled⟩ := freqEdge_leavingBypass phase there can
    exact ⟨_, exec_freqOutputEdge live, advance, event.only epoch, cycled⟩
  · obtain ⟨advance, event⟩ := State.fallAt_residence high can
    exact ⟨_, exec_halfCycleEnd output, advance, event.only advance.2.2, event.own⟩
  · obtain ⟨time, epoch, event⟩ := State.fallAt_osc high can
    exact ⟨_, exec_halfCycleEnd output, time, event.only epoch, event.own⟩
  · refine ⟨pinsFallback_frame s r, fun other => ?_, fun output source => ?_⟩
    · refine (pinsFallback_tpin s r k).trans (if_neg fun bypass => ?_)
      obtain ⟨output, source⟩ := Pin.bypassRef_eq_some.1 bypass
      exact other.elim (absurd output) (absurd source)
    · have bypass := Pin.bypassRef_eq_some.2 ⟨output, source⟩
      rw [pinsFallback_bypass bypass]
      generalize s.tpin k = x at output
      have falls := (x.falls_iff (decide ((s.ref r).state = .qualified))).trans (by rw [decide_eq_true_iff])
      refine ⟨?_, Pin.fallbackEval_frame x _ _, fun same => ?_, fun was now => ?_, fun was now => ?_⟩
      · rw [Pin.fallbackEval_fallback]
        exact falls
      · rw [Pin.fallbackEval_fallback] at same
        exact Pin.fallbackEval_stays same _
      · obtain ⟨phase, same, live⟩ := Pin.fallbackEval_enters was (falls.2 now) s.clock
        rw [same]
        refine ⟨rfl, fun on active => (live ?_).trans ?_⟩
        · unfold Pin.active
          rw [Pin.outputOn_freqOut output, on, active]
          rfl
        · cases x.phase <;> rfl
      · rw [Pin.fallbackEval_leaves was (mt falls.1 now)]
        refine ⟨rfl, ?_⟩
        cases x.phase <;> rfl

end Sys2Proof.Machine
end
section
/-! PROOFS. PPS_OUTPUT_EDGE and PPS_PULSE_END, and the squelch of the outputs. -/
namespace Sys2Proof.Machine
open Sys2Proof

/-! ## The second whose edge comes next (R161) -/

/-- The instant of a second on the Time Counter. -/
def Pin.ppsInstant (x : Pin) (n : Nat) : Int := (n : Int) * 65536000000000 + x.cfg.offset * 65536

/-- A second whose edge is still to come: its instant is after the start and not behind, and no later one had its edge. -/
def Pin.ppsOpen (x : Pin) (counter n : Nat) : Prop :=
  (x.ppsFrom : Int) < x.ppsInstant n ∧ (counter : Int) ≤ x.ppsInstant n ∧ ∀ l, x.ppsLast = some l → l < n

theorem ceilDiv_le_iff {d : Nat} (pos : 0 < d) (n k : Nat) : ceilDiv n d ≤ k ↔ n ≤ k * d :=
  ⟨fun le => (ceilDiv_spec pos n).1.trans (Nat.mul_le_mul_right d le), ceilDiv_le pos⟩

/-- The seconds that are open are those from the next one on. -/
theorem Pin.ppsOpen_iff (x : Pin) (counter n : Nat) : x.ppsOpen counter n ↔ (x.nextPps counter).1 ≤ n := by
  have ahead : ceilDiv ((((max (x.ppsFrom + 1) counter : Nat) : Int) - x.cfg.offset * nsUnits).toNat) secUnits ≤ n ↔
      (x.ppsFrom : Int) < x.ppsInstant n ∧ (counter : Int) ≤ x.ppsInstant n := by
    rw [ceilDiv_le_iff (by decide)]
    unfold Pin.ppsInstant secUnits nsUnits
    omega
  unfold Pin.ppsOpen Pin.nextPps
  dsimp only
  rw [← and_assoc, ← ahead]
  cases x.ppsLast with
  | none => simp
  | some l => simp

theorem Pin.nextPps_instant (x : Pin) (counter : Nat) :
    (x.nextPps counter).2 = (x.ppsInstant (x.nextPps counter).1).toNat := by
  unfold Pin.nextPps Pin.ppsInstant
  dsimp only
  rw [Int.natCast_mul]
  rfl

/-! ## The edge and the end of the pulse (R161, R164) -/

theorem Pin.outputOn_ppsOut {x : Pin} (output : x.cfg.function = .ppsOut) : x.outputOn = x.cfg.outEnabled := by
  unfold Pin.outputOn isOutput
  rw [output]
  rfl

section
variable {s : State} {k : Fin 4}

theorem exec_ppsOutputEdge_other
    (other : ¬ ((s.tpin k).cfg.function = .ppsOut ∧ (s.tpin k).cfg.outEnabled = true)) :
    exec (.ppsOutputEdge k) s = .next s := by
  refine congrArg Host.Outcome.next (if_neg fun ⟨output, on⟩ => other ⟨output, ?_⟩)
  rw [← Pin.outputOn_ppsOut output]
  exact on

/-- The next instant of an enabled pin, with an edge while it is ACTIVE and without one while it is SQUELCHED. -/
theorem exec_ppsOutputEdge (live : (s.tpin k).cfg.function = .ppsOut ∧ (s.tpin k).cfg.outEnabled = true)
    (can : s.canReach (((s.tpin k).nextPps s.clock.counter).2 - s.clock.counter)) :
    let x := s.tpin k
    let next := x.nextPps s.clock.counter
    ∃ c, exec (.ppsOutputEdge k) s = .next ((s.arrive c).updPin k
        (if x.squelched then Pin.ppsPass next.2 else Pin.ppsRise next.1 c.residence)) ∧
      advanced s (s.arrive c) (next.2 - s.clock.counter) := by
  obtain ⟨c, advance, acts⟩ := State.atInstant_counter can
  refine ⟨c, congrArg Host.Outcome.next ((if_pos ⟨live.1, ?_⟩).trans (acts _)), advance⟩
  rw [Pin.outputOn_ppsOut live.1]
  exact live.2

theorem exec_ppsPulseEnd (output : (s.tpin k).cfg.function = .ppsOut) :
    exec (.ppsPulseEnd k) s = .next (s.fallAt k) := congrArg Host.Outcome.next (if_pos output)

theorem exec_ppsPulseEnd_other (none' : (s.tpin k).cfg.function ≠ .ppsOut ∨ (s.tpin k).high = none) :
    exec (.ppsPulseEnd k) s = .next s := by
  by_cases output : (s.tpin k).cfg.function = .ppsOut
  · rw [exec_ppsPulseEnd output, State.fallAt_none (none'.resolve_left (not_not_intro output))]
  · exact congrArg Host.Outcome.next (if_neg output)

end

/-! ## Squelch (R164) -/

section
variable (grade : Nat) (c : Clock) (x : Pin)

/-- Squelch, the place of the cycles and the count of the squelches are all that a grade moves. -/
theorem Pin.squelchEval_frame :
    let y := x.squelchEval grade c
    y = { x with squelched := y.squelched, phase := y.phase, ctr := { x.ctr with squelches := y.ctr.squelches } } := by
  unfold Pin.squelchEval
  split
  · rfl
  · split
    · split <;> rfl
    · split <;> rfl

/-- Each entry into SQUELCHED is counted, and nothing else is. -/
theorem Pin.squelchEval_squelches :
    let y := x.squelchEval grade c
    y.ctr.squelches = (if y.squelched = true ∧ x.squelched = false then bump x.ctr.squelches else x.ctr.squelches) := by
  unfold Pin.squelchEval
  split
  · exact (if_neg fun entered => Bool.noConfusion entered.1).symm
  · split
    · split
      next was => exact (if_neg (by simp [was])).symm
      next was => exact (if_pos (by simp [was])).symm
    · split
      · exact (if_neg fun entered => Bool.noConfusion entered.1).symm
      · exact (if_neg fun entered => Bool.noConfusion (entered.1.symm.trans entered.2)).symm

theorem Pin.squelchEval_squelched_iff : (x.squelchEval grade c).squelched = true ↔
    ((x.cfg.function = .ppsOut ∨ x.cfg.function = .freqOut) ∧ x.cfg.outEnabled = true) ∧ grade < x.cfg.squelch := by
  rw [Pin.squelchEval_squelched, and_assoc]

end

end Sys2Proof.Machine
end
section
/-! PROOFS. A written Pin Table entry (O48). -/
namespace Sys2Proof.Machine
open Sys2Proof

/-! ## The fields of an entry (R156, R196) -/

/-- The Source of an entry as a PUT carries it: its kind, and a reference id (11). -/
def sourceFields : FreqSource → List Byte
  | .counter => [0, 0]
  | .bypass r => [1, BitVec.ofNat 8 (refIdx r).val]

theorem takeSource_fields (source : FreqSource) (rest : List Byte) :
    takeSource (sourceFields source ++ rest) = some (source, rest) := by
  cases source with
  | counter => rfl
  | bypass r =>
    have id : (BitVec.ofNat 8 (refIdx r).val).toNat = (refIdx r).val := by cases r <;> rfl
    have named := refOfNat_idx r
    rw [← id] at named
    exact read_then (takeByte_cons _ _) (read_then (takeByte_cons _ _)
      (congrArg (Option.map fun q => (FreqSource.bypass q, rest)) named))

section
variable (function : PinFunction) (enabled : Bool) (squelch width offset : Int) (rate : Nat) (source : FreqSource)

/-- The entry that the fields of a PUT store, numbers clamped to their ranges (R156). -/
def writtenPinCfg : PinCfg :=
  { function := function, outEnabled := enabled, squelch := held 0 15 squelch, pulseWidth := held 1 999999 width
    offset := heldMag 1000000 offset, rate := rate, source := source }

/-- The fields of a Pin Table entry as a PUT carries them (11). -/
def pinCfgFields : List Byte :=
  encIn pinFunctions function ++ encBool enabled ++ encNum squelch ++ encNum width ++ encNum offset ++
    encIn pinRates rate ++ sourceFields source

theorem pinCfgFields_length : (pinCfgFields function enabled squelch width offset rate source).length = 29 := by
  unfold pinCfgFields
  simp only [List.length_append, encNum_length]
  cases source <;> rfl

variable {squelch width offset rate}

theorem takePinCfg_fields (fitSquelch : isField squelch) (fitWidth : isField width) (fitOffset : isField offset)
    (listed : rate ∈ pinRates) :
    readWhole takePinCfg (pinCfgFields function enabled squelch width offset rate source) =
      some (writtenPinCfg function enabled squelch width offset rate source,
        outside 0 15 squelch || outside 1 999999 width || outside (-1000000) 1000000 offset) := by
  have last := takeSource_fields source []
  rw [List.append_nil] at last
  have named : function ∈ pinFunctions := by cases function <;> decide
  unfold readWhole pinCfgFields
  simp only [List.append_assoc]
  rw [show takePinCfg _ = some _ from
    read_then (takeIn_encIn _ _ named (by decide) _) <| read_then (takeBool_encBool _ _) <|
    read_then (takeNum_encNum _ fitSquelch _) <| read_then (takeNum_encNum _ fitWidth _) <|
    read_then (takeNum_encNum _ fitOffset _) <| read_then (takeIn_encIn _ _ listed (by decide) _) <|
    read_then last rfl]
  rfl

variable (squelch width offset)

theorem pinCfg_clamped_iff :
    (outside 0 15 squelch || outside 1 999999 width || outside (-1000000) 1000000 offset) = true ↔
      ¬ (kept 0 15 squelch ∧ kept 1 999999 width ∧ kept (-1000000) 1000000 offset) := by
  simp only [Bool.or_eq_true, outside_iff, ← not_and_or, and_assoc]

end

/-! ## What forbids a write (R156) -/

theorem isOutput_iff (f : PinFunction) : isOutput f = true ↔ f = .ppsOut ∨ f = .freqOut := by
  cases f <;> simp [isOutput]

theorem isInput_iff (f : PinFunction) : isInput f = true ↔ f = .ppsIn ∨ f = .freqIn := by
  cases f <;> simp [isInput]

theorem Pin.outputOn_iff (x : Pin) :
    x.outputOn = true ↔ (x.cfg.function = .ppsOut ∨ x.cfg.function = .freqOut) ∧ x.cfg.outEnabled = true := by
  unfold Pin.outputOn
  rw [Bool.and_eq_true, isOutput_iff]

/-- A running output that stays enabled is protected in its Function, its Rate, its Source and its Pulse Width. -/
theorem pinHeld_iff (old new : PinCfg) : pinHeld old new = true ↔
    ((old.function = .ppsOut ∨ old.function = .freqOut) ∧ old.outEnabled = true) ∧ new.outEnabled = true ∧
      (old.function ≠ new.function ∨ old.rate ≠ new.rate ∨ old.source ≠ new.source ∨
        old.pulseWidth ≠ new.pulseWidth) := by
  unfold pinHeld
  simp only [Bool.and_eq_true, Bool.or_eq_true, isOutput_iff, decide_eq_true_iff, and_assoc, or_assoc]

/-- An input function that another pin holds is taken. -/
theorem pinTaken_iff (s : State) (k : Fin 4) (f : PinFunction) : s.pinTaken k f = true ↔
    (f = .ppsIn ∨ f = .freqIn) ∧ ∃ j, j ≠ k ∧ (s.tpin j).cfg.function = f := by
  unfold State.pinTaken
  simp only [Bool.and_eq_true, isInput_iff, List.any_eq_true, decide_eq_true_iff]
  exact and_congr_right fun _ => exists_congr fun j => and_iff_right (mem_allPins j)

/-! ## The pin with its new entry (R157) -/

/-- The pin with the entry and what follows from its Function. -/
def Pin.stored (new : PinCfg) (x : Pin) : Pin :=
  { x with
    cfg := new
    lastInput := if x.cfg.function ≠ new.function then none else x.lastInput
    cycles := if x.cfg.function ≠ new.function ∧ new.function = .freqIn then 0 else x.cycles }

/-- Beside the entry stored only the parts of a bypass output move. -/
theorem Pin.rewrite_restarted (c : Clock) (new : PinCfg) (x : Pin) : (x.stored new).restarted (x.rewrite c new) := by
  have bypass : x.rewrite c new =
      if (x.stored new).bypassRef = x.bypassRef ∧ x.cfg.source = new.source then x.stored new
      else if x.bypassRef.isSome && (x.stored new).bypassRef.isSome then (x.stored new).unbypassed c
      else { x.stored new with bypassOffset := none, fallback := true } := rfl
  rw [bypass]
  split
  · rfl
  · split
    · exact (Pin.unbypassed_spec c _).1
    · rfl

section
variable (c : Clock) (new : PinCfg) (x : Pin)

theorem Pin.rewrite_cfg : (x.rewrite c new).cfg = new := (congrArg Pin.cfg (x.rewrite_restarted c new) :)

theorem Pin.rewrite_high : (x.rewrite c new).high = x.high := (congrArg Pin.high (x.rewrite_restarted c new) :)

variable {new x}

/-- The Last Input and the cycles outlive a write that leaves the Function. -/
theorem Pin.rewrite_input (same : x.cfg.function = new.function) :
    (x.rewrite c new).lastInput = x.lastInput ∧ (x.rewrite c new).cycles = x.cycles :=
  ⟨(congrArg Pin.lastInput (x.rewrite_restarted c new) :).trans (if_neg (not_not_intro same)),
    (congrArg Pin.cycles (x.rewrite_restarted c new) :).trans (if_neg fun moved => moved.1 same)⟩

end

/-- The drive of a pin whose entry has been stored: started, stopped, or as it goes on. -/
def Pin.driven (was : Bool) (c : Clock) (freePhase : Nat) (x : Pin) : Pin :=
  if x.outputOn then (if was then x else x.start c freePhase) else x.stop

section
variable (was : Bool) (c : Clock) (freePhase : Nat) (x : Pin)

theorem Pin.driven_leaves : (x.driven was c freePhase).cfg = x.cfg ∧
    (x.driven was c freePhase).lastInput = x.lastInput ∧ (x.driven was c freePhase).cycles = x.cycles := by
  unfold Pin.driven
  split
  · split <;> exact ⟨rfl, rfl, rfl⟩
  · exact ⟨rfl, rfl, rfl⟩

variable {was x}

theorem Pin.driven_off (off : ¬ x.outputOn = true) : (x.driven was c freePhase).high = none :=
  congrArg Pin.high (if_neg off)

theorem Pin.driven_started (on : x.outputOn = true) (start : ¬ was = true) :
    (x.driven was c freePhase).high = none ∧ (x.driven was c freePhase).ppsFrom = c.counter := by
  have started : x.driven was c freePhase = x.start c freePhase := (if_pos on).trans (if_neg start)
  rw [started]
  exact ⟨rfl, rfl⟩

theorem Pin.driven_on (on : x.outputOn = true) (running : was = true) : x.driven was c freePhase = x :=
  (if_pos on).trans (if_pos running)

end

/-! ## What a write leaves alone -/

/-- A write of a pin reaches the references, the pins and the choices of the free phases only, and of these EXT and the
pin itself. -/
structure PinMoved (k : Fin 4) (s t : State) : Prop where
  frame : t = { s with refs := t.refs, pins := t.pins, free := t.free }
  pins  : ∀ j, j ≠ k → t.tpin j = s.tpin j
  refs  : ∀ r, r ≠ .ext → t.ref r = s.ref r

theorem PinMoved.refl (k : Fin 4) (s : State) : PinMoved k s s := ⟨rfl, fun _ _ => rfl, fun _ _ => rfl⟩

theorem PinMoved.trans {k : Fin 4} {s t u : State} (a : PinMoved k s t) (b : PinMoved k t u) : PinMoved k s u :=
  ⟨by rw [b.frame, a.frame], fun j h => (b.pins j h).trans (a.pins j h), fun r h => (b.refs r h).trans (a.refs r h)⟩

section
variable (s : State) (k : Fin 4)

theorem pinMoved_updPin (f : Pin → Pin) : PinMoved k s (s.updPin k f) :=
  ⟨rfl, fun _ other => State.tpin_updPin_ne other s f, fun _ _ => rfl⟩

theorem pinMoved_freqInTaken (old new : PinFunction) : PinMoved k s (s.freqInTaken old new) := by
  unfold State.freqInTaken
  split
  · exact ⟨rfl, fun _ _ => rfl, fun r other => (State.ref_updRef s .ext r _).trans (if_neg other)⟩
  · exact PinMoved.refl k s

theorem freqInTaken_tpin (old new : PinFunction) : (s.freqInTaken old new).tpin k = s.tpin k := by
  unfold State.freqInTaken
  split <;> rfl

/-- A pin that does not become a frequency input leaves the references alone. -/
theorem freqInTaken_none (old : PinFunction) {new : PinFunction} (other : new ≠ .freqIn) :
    s.freqInTaken old new = s := if_neg fun taken => other taken.2

theorem pinDrive_spec (was : Bool) : PinMoved k s (s.pinDrive k was) ∧ (s.pinDrive k was).refs = s.refs ∧
    (s.pinDrive k was).tpin k = (s.tpin k).driven was s.clock (Config.bypassPhase s.free) := by
  have own := State.tpin_updPin_same s k
  have moved := pinMoved_updPin s k
  unfold State.pinDrive Pin.driven
  dsimp only
  split
  · split
    · exact ⟨PinMoved.refl k s, rfl, rfl⟩
    · split
      · exact ⟨(moved _).trans ⟨rfl, fun _ _ => rfl, fun _ _ => rfl⟩, rfl, own _⟩
      · exact ⟨moved _, rfl, own _⟩
  · exact ⟨moved _, rfl, own _⟩

/-! ## The write (R156, R157) -/

/-- The relay once an entry has been written to a pin. -/
def State.pinWritten (cfg : PinCfg) : State :=
  let x := s.tpin k
  (((s.updPin k (Pin.rewrite s.clock cfg)).freqInTaken x.cfg.function cfg.function).pinDrive k x.outputOn).updPin k
    (Pin.squelchEval s.holdover.announced s.clock)

theorem pinMoved_pinWritten (cfg : PinCfg) : PinMoved k s (s.pinWritten k cfg) :=
  (((pinMoved_updPin s k _).trans (pinMoved_freqInTaken _ k _ _)).trans (pinDrive_spec _ k _).1).trans
    (pinMoved_updPin _ k _)

theorem pinWritten_refs {cfg : PinCfg} (other : cfg.function ≠ .freqIn) : (s.pinWritten k cfg).refs = s.refs := by
  unfold State.pinWritten
  dsimp only
  rw [freqInTaken_none _ _ other]
  exact (pinDrive_spec _ k _).2.1

/-- The pin itself, once it is written: the entry, the drive, and the squelch by the grade as it stands. -/
theorem pinWritten_tpin (cfg : PinCfg) : ∃ freePhase, (s.pinWritten k cfg).tpin k =
    (((s.tpin k).rewrite s.clock cfg).driven (s.tpin k).outputOn s.clock freePhase).squelchEval
      s.holdover.announced s.clock := by
  let u := (s.updPin k (Pin.rewrite s.clock cfg)).freqInTaken (s.tpin k).cfg.function cfg.function
  have clock : u.clock = s.clock := (congrArg State.clock (pinMoved_freqInTaken _ k _ _).frame :)
  have own : u.tpin k = (s.tpin k).rewrite s.clock cfg :=
    (freqInTaken_tpin _ k _ _).trans (State.tpin_updPin_same s k _)
  refine ⟨Config.bypassPhase u.free, (State.tpin_updPin_same _ k _).trans (congrArg _ ?_)⟩
  rw [(pinDrive_spec u k _).2.2, own, clock]

end

/-! ## The pin as it is written -/

section
variable {s : State} {k : Fin 4} {cfg : PinCfg}

theorem pinWritten_cfg : ((s.pinWritten k cfg).tpin k).cfg = cfg := by
  obtain ⟨freePhase, written⟩ := pinWritten_tpin s k cfg
  rw [written, (Pin.steady_squelchEval _ _ _).cfg, (Pin.driven_leaves _ _ _ _).1, Pin.rewrite_cfg]

/-- The squelch of the written pin is judged by the grade as it stands. -/
theorem pinWritten_squelched : ((s.pinWritten k cfg).tpin k).squelched = true ↔
    ((cfg.function = .ppsOut ∨ cfg.function = .freqOut) ∧ cfg.outEnabled = true) ∧
      s.holdover.announced < cfg.squelch := by
  obtain ⟨freePhase, written⟩ := pinWritten_tpin s k cfg
  rw [written, Pin.squelchEval_squelched_iff, (Pin.driven_leaves _ _ _ _).1, Pin.rewrite_cfg]

/-- What a write drives: low where the output is off or just turned on, as it was where it goes on. -/
theorem pinWritten_drive :
    let x := s.tpin k
    let y := (s.pinWritten k cfg).tpin k
    let on := (cfg.function = .ppsOut ∨ cfg.function = .freqOut) ∧ cfg.outEnabled = true
    (¬ on → y.high = none) ∧ (on → ¬ x.outputOn = true → y.high = none ∧ y.ppsFrom = s.clock.counter) ∧
      (on → x.outputOn = true → y.high = x.high) := by
  obtain ⟨freePhase, written⟩ := pinWritten_tpin s k cfg
  intro x y on
  have steady := Pin.steady_squelchEval s.holdover.announced s.clock
    ((x.rewrite s.clock cfg).driven x.outputOn s.clock freePhase)
  rw [← written] at steady
  have live : (x.rewrite s.clock cfg).outputOn = true ↔ on := by
    rw [Pin.outputOn_iff, Pin.rewrite_cfg]
  refine ⟨fun off => ?_, fun on start => ?_, fun on running => ?_⟩
  · exact steady.high.trans (Pin.driven_off _ _ (mt live.1 off))
  · obtain ⟨low, start⟩ := Pin.driven_started s.clock freePhase (live.2 on) start
    exact ⟨steady.high.trans low, (congrArg Pin.ppsFrom steady :).trans start⟩
  · refine steady.high.trans ?_
    rw [Pin.driven_on _ _ (live.2 on) running, Pin.rewrite_high]

theorem pinWritten_input (same : (s.tpin k).cfg.function = cfg.function) :
    ((s.pinWritten k cfg).tpin k).lastInput = (s.tpin k).lastInput ∧
      ((s.pinWritten k cfg).tpin k).cycles = (s.tpin k).cycles := by
  obtain ⟨freePhase, written⟩ := pinWritten_tpin s k cfg
  obtain ⟨-, input, cycles⟩ :=
    Pin.driven_leaves (s.tpin k).outputOn s.clock freePhase ((s.tpin k).rewrite s.clock cfg)
  obtain ⟨input', cycles'⟩ := Pin.rewrite_input s.clock same
  rw [written, (Pin.steady_squelchEval _ _ _).lastInput, (Pin.steady_squelchEval _ _ _).cycles, input, cycles]
  exact ⟨input', cycles'⟩

end

/-! ## The answer to a PUT (R156, R196) -/

section
variable {s : State} {p : Port} {k : Fin 4} {bs : List Byte} {cfg : PinCfg} {adjusted : Bool}

theorem State.putEntry_pin (s : State) (p : Port) (k : Fin 4) (bs : List Byte) :
    s.putEntry p 19 k.val bs = s.putPin k bs := dif_pos k.isLt

theorem putEntry_pin_held (decoded : readWhole takePinCfg bs = some (cfg, adjusted))
    (held : pinHeld (s.tpin k).cfg cfg = true) : s.putEntry p 19 k.val bs = .refused 10 := by
  rw [State.putEntry_pin]
  unfold State.putPin
  rw [decoded]
  exact if_pos held

theorem putEntry_pin_taken (decoded : readWhole takePinCfg bs = some (cfg, adjusted))
    (free : ¬ pinHeld (s.tpin k).cfg cfg = true) (taken : s.pinTaken k cfg.function = true) :
    s.putEntry p 19 k.val bs = .refused 9 := by
  rw [State.putEntry_pin]
  unfold State.putPin
  rw [decoded]
  exact (if_neg free).trans (if_pos taken)

theorem putEntry_pin_written (decoded : readWhole takePinCfg bs = some (cfg, adjusted))
    (free : ¬ pinHeld (s.tpin k).cfg cfg = true) (open' : ¬ s.pinTaken k cfg.function = true) :
    s.putEntry p 19 k.val bs = .written (s.pinWritten k cfg) adjusted := by
  rw [State.putEntry_pin]
  unfold State.putPin
  rw [decoded]
  exact (if_neg free).trans (if_neg open')

end

/-! ## O48 -/

/-- Settles O48: the instants of a pulse, the squelch by the grade, and the write by what forbids it. -/
theorem ppsPulses : Obligations.PpsPulses := by
  refine ⟨fun s k => ?_, fun s k => ?_, ?_⟩
  · intro x live instant open'
    refine ⟨exec_ppsOutputEdge_other, fun live => ?_, exec_ppsPulseEnd_other, fun fall output high can => ?_⟩
    · have opens := x.ppsOpen_iff s.clock.counter
      refine ⟨_, (opens _).2 le_rfl, fun n => (opens n).1, fun can => ?_⟩
      have due := x.nextPps_instant s.clock.counter
      obtain ⟨c, run, advance⟩ := exec_ppsOutputEdge (s := s) live (by rw [due]; exact can)
      rw [due] at advance
      have event := pinEvent_updPin s c k (if x.squelched then Pin.ppsPass (x.nextPps s.clock.counter).2
        else Pin.ppsRise (x.nextPps s.clock.counter).1 c.residence)
      refine ⟨_, run, advance, event.frame, fun sounds => event.own.trans ?_, fun quiet => event.own.trans ?_,
        event.others⟩
      · rw [if_neg (by rw [sounds]; decide)]
        rfl
      · rw [if_pos quiet, due]
        rfl
    · obtain ⟨advance, event⟩ := State.fallAt_residence high can
      exact ⟨_, exec_ppsPulseEnd output, advance, event.frame, event.own, event.others⟩
  · intro x t on low
    have own : t.tpin k = x.squelchEval s.holdover.announced s.clock := deliverSquelch_tpin s k
    rw [own]
    exact ⟨deliverSquelch_frame s, x.squelchEval_squelched_iff _ _, x.squelchEval_frame _ _,
      x.squelchEval_squelches _ _⟩
  · intro s dt c k function enabled squelch width offset rate source fitSquelch fitWidth fitOffset listed puts v x cfg
      inRange isOut runs protects taken on
    have decoded := takePinCfg_fields function enabled source fitSquelch fitWidth fitOffset listed
    have small : (pinCfgFields function enabled squelch width offset rate source).length < 65536 := by
      rw [pinCfgFields_length]
      decide
    have slot : k.val < v.putStarts 19 := k.isLt
    have held : pinHeld x.cfg cfg = true ↔ protects := pinHeld_iff x.cfg cfg
    have others : v.pinTaken k function = true ↔ taken := pinTaken_iff v k function
    have running : x.outputOn = true ↔ runs := x.outputOn_iff
    refine ⟨fun forbidden => ?_, fun free held' => ?_, fun free open' => ?_⟩
    · exact put_refused s dt c 19 k.val _ 10 puts (by decide) (by decide) slot (by omega) small
        (putEntry_pin_held decoded (held.2 forbidden))
    · exact put_refused s dt c 19 k.val _ 9 puts (by decide) (by decide) slot (by omega) small
        (putEntry_pin_taken decoded (mt held.1 free) (others.2 held'))
    · obtain ⟨t, run, stored⟩ := put_written s dt c 19 k.val _ (v.pinWritten k cfg) _ inRange puts
        (by decide) (by decide) slot (by omega) small
        (putEntry_pin_written decoded (mt held.1 free) (mt others.1 open')) (pinCfg_clamped_iff squelch width offset)
      have moved := pinMoved_pinWritten v k cfg
      obtain ⟨off, started, goesOn⟩ := pinWritten_drive (s := v) (k := k) (cfg := cfg)
      exact ⟨_, t, run, stored, moved.frame, moved.pins, moved.refs, fun other => pinWritten_refs v k other,
        pinWritten_cfg (s := v), pinWritten_squelched (s := v), off, fun on start => started on (mt running.1 start),
        fun on still => goesOn on (running.2 still), fun same => pinWritten_input (s := v) same⟩

end Sys2Proof.Machine
end

section
/-! PROOFS. ALARM_N through every step (O6): `PinKept` is closed under composition, and holds of every `Calm` operation and
of whatever leaves the Alarm Unit alone, so that only the Alarm Unit's own writes and timers are looked into. -/
namespace Sys2Proof.Machine
open Sys2Proof

/-! ## The relation -/

/-- ALARM_N follows the records, or the pulse, after the operation if it did so before (R184, R185). -/
structure PinKept (s t : State) : Prop where
  pin : s.alarm.pinLaw → t.alarm.pinLaw

theorem PinKept.refl (s : State) : PinKept s s := ⟨id⟩

theorem PinKept.trans {s t u : State} (a : PinKept s t) (b : PinKept t u) : PinKept s u := ⟨fun h => b.pin (a.pin h)⟩

/-- `trans` with its arguments the other way round, the last operation first. -/
theorem PinKept.after {s t u : State} (b : PinKept t u) (a : PinKept s t) : PinKept s u := a.trans b

theorem PinKept.ite {s t u : State} {c : Prop} [Decidable c] (a : PinKept s t) (b : PinKept s u) :
    PinKept s (if c then t else u) := by split <;> assumption

/-- An event that happens only where its guard holds. -/
theorem PinKept.guarded {s t : State} {c : Prop} [Decidable c] (h : PinKept s t) : PinKept s (if c then t else s) :=
  h.ite (PinKept.refl s)

/-- The same where the guard is what forbids the event. -/
theorem PinKept.unless {s t : State} {c : Prop} [Decidable c] (h : PinKept s t) : PinKept s (if c then s else t) :=
  (PinKept.refl s).ite h

theorem PinKept.foldl {α : Type} (f : State → α → State) (h : ∀ t a, PinKept t (f t a)) (l : List α) (s : State) :
    PinKept s (l.foldl f s) := foldl_relates PinKept.refl PinKept.trans h l s

/-- An operation that leaves the Alarm Unit alone. -/
theorem PinKept.aside {s t : State} (h : t.alarm = s.alarm) : PinKept s t := ⟨fun law => h ▸ law⟩

/-- The same, before an operation that keeps the law. -/
theorem PinKept.past {s t u : State} (b : PinKept t u) (h : t.alarm = s.alarm) : PinKept s u := b.after (.aside h)

theorem Calm.pinKept {s t : State} (c : Calm s t) : PinKept s t := ⟨c.pin⟩

theorem Quiet.pinKept {s t : State} (q : Quiet s t) : PinKept s t := ⟨q.calm.pin⟩

theorem Slewed.pinKept {s t : State} (q : Slewed s t) : PinKept s t := ⟨q.calm.pin⟩

theorem Fair.pinKept {s t : State} (f : Fair s t) : PinKept s t := ⟨f.calm.pin⟩

/-! ## The passing of time -/

theorem State.reach_alarm {s u : State} {d : Nat} (h : s.reach d = some u) : u.alarm = s.alarm := by
  obtain ⟨c, -, rfl⟩ := Option.map_eq_some_iff.1 h
  rfl

theorem State.reachOsc_alarm {s u : State} {d : Nat} (h : s.reachOsc d = some u) : u.alarm = s.alarm := by
  obtain ⟨c, -, rfl⟩ := Option.map_eq_some_iff.1 h
  rfl

/-- An operation taken where the relay has come to, if it can come there. -/
theorem pinKept_atInstant (s : State) (there : Option State) (act : State → State)
    (came : ∀ u, there = some u → u.alarm = s.alarm) (h : ∀ u, u.alarm = s.alarm → PinKept u (act u)) :
    PinKept s (s.atInstant there act) := by
  unfold State.atInstant
  split
  · next u => exact (h u (came u rfl)).past (came u rfl)
  · exact PinKept.refl s

theorem pinKept_atReach (s : State) (d : Nat) (act : State → State) (h : ∀ u, PinKept u (act u)) :
    PinKept s (s.atInstant (s.reach d) act) := pinKept_atInstant s _ act (fun _ => State.reach_alarm) fun u _ => h u

theorem pinKept_atReachOsc (s : State) (osc : Nat) (act : State → State) (h : ∀ u, PinKept u (act u)) :
    PinKept s (s.atInstant (s.reachOsc osc) act) :=
  pinKept_atInstant s _ act (fun _ => State.reachOsc_alarm) fun u _ => h u

theorem pinKept_atTimer (s : State) (t : Timer) (seconds : Nat) (act : State → State) (h : ∀ u, PinKept u (act u)) :
    PinKept s (s.atTimer t seconds act) := by
  unfold State.atTimer
  split
  · exact pinKept_atReach s _ act h
  · exact PinKept.refl s

theorem pinKept_atEnd (s : State) (instant : Option Nat) (act : State → State) (h : ∀ u, PinKept u (act u)) :
    PinKept s (s.atEnd instant act) := by
  unfold State.atEnd
  split
  · exact pinKept_atReach s _ act h
  · exact PinKept.refl s

theorem pinKept_afterSpan (s : State) (start : Option Nat) (span : Nat) (act : State → State)
    (h : ∀ u, PinKept u (act u)) : PinKept s (s.afterSpan start span act) := by
  unfold State.afterSpan
  split
  · exact pinKept_atReach s _ act h
  · exact PinKept.refl s

/-! ## The counter moved (R91 to R95) -/

theorem pinKept_moveClock (s : State) (c : Clock) (before : Nat) : PinKept s ((s.withClock c).epochChange before) :=
  (calm_epochChange (s.withClock c) before).pinKept.past rfl

theorem pinKept_moveCounter (s : State) (counter : Nat) : PinKept s (s.moveCounter counter) := pinKept_moveClock s _ _

theorem pinKept_timeStep (s : State) (v : Int) : PinKept s (s.timeStep v) :=
  (pinKept_moveCounter _ _).after (quiet_countServo s _).pinKept

theorem pinKept_timeSet (s : State) (seconds nanos : Nat) : PinKept s (s.timeSet seconds nanos) :=
  (pinKept_moveCounter _ _).after (quiet_countServo s _).pinKept

theorem pinKept_counterCarry (s : State) (c : Clock) : PinKept s (s.withClock c).counterCarry := by
  have carried := pinKept_moveClock (s.countServo fun k => { k with counterWraps := bump k.counterWraps }) (c.moveTo 0)
    counterTop
  exact carried.after (quiet_countServo s _).pinKept

/-! ## The second boundary -/

theorem pinKept_decideFresh (s : State) (e : Int) : PinKept s (s.decideFresh e) := by
  unfold State.decideFresh
  dsimp only
  refine PinKept.ite ?_ (PinKept.ite ?_ ?_)
  · exact (fair_noInput _).pinKept.after ((pinKept_timeStep _ e).after (slewed_updReal s _ rfl).pinKept)
  · have far := (fair_noInput _).pinKept.after (slewed_countReal s fun c => { c with tooFar := bump c.tooFar }).pinKept
    split
    · exact far.trans (fair_setDefects _ _ _).pinKept
    · exact far
  · exact (fair_giveInput _ 0).pinKept.after (slewed_absorb s e).pinKept

theorem pinKept_takeDecision (s : State) (e : Int) : PinKept s (s.takeDecision e) := by
  unfold State.takeDecision
  dsimp only
  refine (slewed_countReal s fun c => { c with decisions := bump c.decisions }).pinKept.trans ?_
  split
  · exact pinKept_decideFresh _ e
  · exact PinKept.ite ((fair_giveInput _ _).pinKept.after (slewed_resume _ _).pinKept)
      ((pinKept_decideFresh _ e).after (slewed_discardSuspended _).pinKept)

theorem pinKept_followSample (s : State) (e : Option Int) : PinKept s (s.followSample e) := by
  unfold State.followSample
  dsimp only
  refine (slewed_slewProgress s).pinKept.trans ?_
  split
  · exact (fair_noInput _).pinKept
  · split
    · exact pinKept_takeDecision _ _
    · exact (fair_giveInput _ _).pinKept
    · exact (fair_noInput _).pinKept

theorem pinKept_work (g : Gathered) (s : State) (w : BoundaryWork) : PinKept s (s.work g w) := by
  cases w with
  | samples =>
    exact (pinKept_followSample _ _).after ((quiet_dropSamples _ _).pinKept.after
      (Fair.foldl (fun (t : State) r => t.judgeSample (g.samples r) r) (fun t r => fair_judgeSample t _ r)
        [.gnss, .pkt0, .pkt1] s).pinKept)
  | windows => exact (fair_windowsWork s g).pinKept
  | tracking => exact (fair_trackingWork s g).pinKept
  | grade => exact (quiet_regrade s).pinKept
  | notices => exact (quiet_notices s).pinKept

theorem pinKept_secondBoundary (s : State) (order : List BoundaryWork) : PinKept s (s.secondBoundary order) := by
  unfold State.secondBoundary State.atBoundary
  split
  · next u e =>
    obtain ⟨c, there, rfl⟩ := Option.map_eq_some_iff.1 e
    exact ((quiet_addMeanF _ _).pinKept.after ((PinKept.foldl _ (pinKept_work _) _ _).after
      (quiet_turnSecond _).pinKept)).past rfl
  · exact PinKept.refl s

theorem pinKept_boundaryWhere (s : State) (state : ServoState) (reached : Servo → Bool) :
    PinKept s (s.boundaryWhere state reached) := (pinKept_secondBoundary s []).guarded

/-! ## The restarts (R201, R202) -/

/-- ALARM_N is asserted after reset by the record of FREERUN (R184, R188; log 40). -/
theorem reset_pinLaw : State.reset.alarm.pinLaw := by
  show (none : Option Nat) = none ∧ true = State.reset.alarm.levelPin
  exact ⟨rfl, by decide⟩

theorem pinKept_powerUp (s : State) (straps : BitVec 4) : PinKept s (s.powerUp straps) := ⟨fun _ => reset_pinLaw⟩

theorem pinKept_zeroCounters (s : State) : PinKept s s.zeroCounters := ⟨id⟩

theorem pinKept_restart (s : State) (scope : RestartScope) : PinKept s (s.restart scope) := by
  cases scope with
  | datapath =>
    have emptied (t : State) : PinKept t t.restartMgmt := .aside rfl
    exact (pinKept_zeroCounters _).after ((emptied _).after (calm_restartBlocks s).pinKept)
  | full => exact pinKept_powerUp s _

theorem pinKept_restartAfterLoss (s : State) (scope : Option RestartScope) : PinKept s (s.restartAfterLoss scope) := by
  cases scope with
  | none => exact PinKept.refl s
  | some scope => exact (pinKept_restart _ scope).past rfl

/-! ## The traffic path (01) -/

theorem pinKept_judgedThen (s : State) (p : Port) (f : Frame) (next : State → State) (h : PinKept s (next s)) :
    PinKept s (s.judgedThen p f next) := by
  unfold State.judgedThen
  split
  · exact h
  · exact .aside rfl
  · exact .aside rfl

theorem pinKept_acceptCommand (s : State) (p : Port) (f : Frame) : PinKept s (s.acceptCommand p f) := by
  unfold State.acceptCommand
  dsimp only
  repeat' refine PinKept.ite (.aside rfl) ?_
  exact .aside rfl

theorem pinKept_manage (s : State) (p : Port) (f : Frame) : PinKept s (s.manage p f) := by
  have accept := pinKept_acceptCommand s p f
  unfold State.manage
  split
  · exact (pinKept_judgedThen s p f _ accept).ite accept
  · exact accept

theorem pinKept_ownerTakes (s : State) (p : Port) (f : Frame) (stamps : Ingress) :
    PinKept s (s.ownerTakes p f stamps) := by
  unfold State.ownerTakes
  split
  · exact (fair_clientSort s _ f stamps).pinKept
  · exact (quiet_siteSort s _ f stamps).pinKept
  · exact PinKept.refl s

theorem pinKept_forward (s : State) (p : Port) (e : EgressSet) (q : QueueClass) (x : QFrame) :
    PinKept s (s.forward p e q x) := by
  unfold State.forward
  split
  · exact .aside rfl
  · exact (Quiet.foldl (fun (t : State) k => (t.offer k q x).1) (fun t k => quiet_offer t k q x) _ s).pinKept

theorem pinKept_actOn (s : State) (p : Port) (f : Frame) (stamps : Ingress) (e : FlowEntry) :
    PinKept s (s.actOn p f stamps e) := by
  unfold State.actOn
  split
  · exact pinKept_forward s p _ _ _
  · exact pinKept_forward s p _ _ _
  · exact (pinKept_judgedThen s p f _ (pinKept_ownerTakes s p f stamps)).ite (.aside rfl)
  · exact pinKept_manage s p f
  · exact .aside rfl

theorem pinKept_classify (s : State) (p : Port) (f : Frame) (stamps : Ingress) :
    PinKept s (s.classify p f stamps) := by
  unfold State.classify
  split
  · exact (pinKept_actOn _ p f stamps _).past rfl
  · exact (pinKept_forward _ p _ _ _).past rfl

theorem pinKept_receive (s : State) (p : Port) (ok : Bool) (f : Frame) : PinKept s (s.receive p ok f) :=
  PinKept.ite ((pinKept_classify _ p f _).past rfl) (.aside rfl)

theorem pinKept_linkClient (s : State) (p : Port) (up : Bool) : PinKept s (s.linkClient p up) := by
  unfold State.linkClient
  split
  · exact PinKept.refl s
  · next c _ =>
    exact PinKept.ite ((fair_syncLine _ c).pinKept.after (fair_clientStart s c).pinKept)
      ((fair_syncLine _ c).pinKept.after (fair_clientStop s c).pinKept)

theorem pinKept_linkSite (s : State) (p : Port) (up : Bool) : PinKept s (s.linkSite p up) := by
  unfold State.linkSite
  split
  · exact PinKept.refl s
  · next k _ => exact PinKept.ite (quiet_siteLinkUp s k).pinKept (quiet_siteLinkDown s k).pinKept

theorem pinKept_linkUp (s : State) (p : Port) : PinKept s (s.linkUp p) :=
  (quiet_report _ _ false).pinKept.after ((pinKept_linkSite _ p true).after ((pinKept_linkClient _ p true).past rfl))

theorem pinKept_linkDown (s : State) (p : Port) : PinKept s (s.linkDown p) :=
  (pinKept_restartAfterLoss _ _).after ((quiet_report _ _ true).pinKept.after ((pinKept_linkSite _ p false).after
    ((pinKept_linkClient _ p false).past rfl)))

theorem State.atEgress_alarm (s : State) (p : Port) (x : QFrame) : (s.atEgress p x).1.alarm = s.alarm := by
  unfold State.atEgress State.correct
  dsimp only
  repeat' split
  all_goals rfl

theorem pinKept_egress (s : State) (p : Port) : PinKept s (s.egress p) := by
  unfold State.egress
  dsimp only
  split
  · exact PinKept.refl s
  · exact PinKept.guarded (.aside (State.atEgress_alarm (s.updPort p _) p _))

theorem pinKept_endTransmit (s : State) (p : Port) (t : TxFrame) : PinKept s (s.endTransmit p t) := by
  unfold State.endTransmit
  dsimp only
  have ended := PinKept.aside (s := s) (t := s.updPort p fun x => { x with tx := none }) rfl
  have sent := PinKept.ite (c := t.counted = true)
    ((quiet_countPort _ p fun c => { c with transmittedFrames := bump c.transmittedFrames }).pinKept.after ended) ended
  split
  · exact sent.trans (pinKept_restart _ _).guarded
  · exact sent

end Sys2Proof.Machine
end

section
/-! PROOFS. The writes, the commands and the Alarm Unit's own events keep the law of ALARM_N, and O6. -/
namespace Sys2Proof.Machine
open Sys2Proof

/-! ## The Alarm Unit written (R169, R180, R185) -/

/-- The law of ALARM_N reads the settings, the configuration, the records, the pulse and the pin alone. -/
theorem Alarm.pinLaw.congr {a b : Alarm} (h : a.pinLaw) (set : b.set.pulseMode = a.set.pulseMode) (cfg : b.cfg = a.cfg)
    (recs : ∀ i, (b.record i).holdsPin = (a.record i).holdsPin) (pulse : b.pulse = a.pulse)
    (pin : b.asserted = a.asserted) : b.pinLaw := by
  have level : b.levelPin = a.levelPin := by
    unfold Alarm.levelPin Alarm.cfgOf
    simp only [cfg, recs]
  unfold Alarm.pinLaw at h ⊢
  rw [set, pulse, pin, level]
  exact h

theorem Alarm.writeCfg_pinLaw (now : Stamp) (res : Nat) (c : Fin 12) (new : AlarmCfg) {a : Alarm} (h : a.pinLaw) :
    (a.writeCfg now res c new).pinLaw := by
  have half : a.halfLaw := Alarm.pinLaw_half h
  unfold Alarm.writeCfg
  exact (AlarmCalm.foldl _ (Alarm.ripe_calm now res _ _) _ _).pin (Alarm.evalPin_pinLaw half)

/-- A record made Pending once for each notice of a list (R180). -/
theorem Alarm.pendAll_eq (l : List Notice) (a : Alarm) :
    let b := l.foldl (fun b n => b.updRec n.record fun r => { r with pending := true }) a
    b = { a with recs := b.recs } ∧ ∀ i, b.record i =
      { a.record i with pending := (a.record i).pending || l.any fun n => n.record = i } := by
  induction l generalizing a with
  | nil => exact ⟨rfl, fun i => by rw [List.any_nil, Bool.or_false]; rfl⟩
  | cons n l ih =>
    obtain ⟨frame, recs⟩ := ih (a.updRec n.record fun r => { r with pending := true })
    refine ⟨frame, fun i => (recs i).trans ?_⟩
    rw [Alarm.record_updRec_of, List.any_cons]
    by_cases e : n.record = i
    · simp [e]
    · simp [e, Ne.symm e]

/-- What notices turned off leave (R180). -/
theorem Alarm.notifyOff_eq (a : Alarm) :
    a.notifyOff = { a with
      recs := a.notifyOff.recs, queue := [], spacing := none
      ctr := { a.ctr with noticesDropped := bumpBy a.queue.length a.ctr.noticesDropped } } ∧
    ∀ i, a.notifyOff.record i =
      { a.record i with pending := (a.record i).pending || a.queue.any fun n => n.record = i } := by
  obtain ⟨frame, recs⟩ := Alarm.pendAll_eq a.queue a
  refine ⟨?_, recs⟩
  unfold Alarm.notifyOff
  rw [frame]

theorem Alarm.notifyChange_pinLaw (now : Stamp) (res : Nat) (was : Bool) {a : Alarm} (h : a.pinLaw) :
    (a.notifyChange now res was).pinLaw := by
  unfold Alarm.notifyChange
  split
  · exact h
  · split
    · exact (Alarm.drain_calm now res _).pin (h.congr rfl rfl (fun _ => rfl) rfl rfl)
    · obtain ⟨frame, recs⟩ := Alarm.notifyOff_eq a
      rw [frame] at recs ⊢
      exact h.congr rfl rfl (fun i => by rw [recs i]; rfl) rfl rfl

/-- The pulse ends, in PULSE mode. -/
theorem Alarm.endPulse_pinLaw {a : Alarm} (mode : a.set.pulseMode = true) : a.endPulse.pinLaw := by
  unfold Alarm.pinLaw
  exact if_pos (c := a.endPulse.set.pulseMode = true) mode ▸ rfl

/-- With the pulse of a left PULSE mode discarded, and one of a mode that stays kept, the pin is right again (R185). -/
theorem Alarm.modeChange_pinLaw {a b : Alarm} (h : a.pinLaw) (cfg : b.cfg = a.cfg) (recs : b.recs = a.recs)
    (pulse : b.pulse = a.pulse) (pin : b.asserted = a.asserted) : (b.modeChange a.set.pulseMode).pinLaw := by
  unfold Alarm.modeChange
  split
  · next same => exact h.congr same.symm cfg (fun i => by unfold Alarm.record; rw [recs]) pulse pin
  · split
    · next mode => exact Alarm.endPulse_pinLaw mode
    · next mode =>
      refine Alarm.evalPin_pinLaw ?_
      unfold Alarm.halfLaw
      rw [if_neg mode]

theorem Alarm.pulseCheck_pinLaw (res : Nat) {a : Alarm} (h : a.pinLaw) : (a.pulseCheck res).pinLaw := by
  unfold Alarm.pulseCheck
  split
  · next t runs =>
    split
    · refine Alarm.endPulse_pinLaw ?_
      by_contra level
      unfold Alarm.pinLaw at h
      rw [if_neg level, runs] at h
      exact Option.some_ne_none t h.1
    · exact h
  · exact h

theorem Alarm.endSpacing_eq (res : Nat) (a : Alarm) : a.endSpacing res = { a with spacing := (a.endSpacing res).spacing } := by
  unfold Alarm.endSpacing
  split
  · split <;> rfl
  · rfl

theorem Alarm.writeSet_pinLaw (now : Stamp) (res : Nat) (new : AlarmSettings) {a : Alarm} (h : a.pinLaw) :
    (a.writeSet now res new).pinLaw := by
  unfold Alarm.writeSet
  rw [Alarm.endSpacing_eq]
  exact Alarm.notifyChange_pinLaw now res _ (Alarm.pulseCheck_pinLaw res (Alarm.modeChange_pinLaw h rfl rfl rfl rfl))

theorem pinKept_updAlarm (s : State) (f : Alarm → Alarm) (h : s.alarm.pinLaw → (f s.alarm).pinLaw) :
    PinKept s (s.updAlarm f) := ⟨h⟩

/-! ## Entries written (R196) -/

/-- A written entry keeps the law of ALARM_N; a refused one leaves nothing. -/
def EntryResult.keepsPin (s : State) : EntryResult → Prop
  | .refused _ => True
  | .written t _ => PinKept s t

theorem EntryResult.keepsPin_ite {s : State} {c : Prop} [Decidable c] {x y : EntryResult} (a : x.keepsPin s)
    (b : y.keepsPin s) : (if c then x else y).keepsPin s := by split <;> assumption

theorem pinKept_putFlow (s : State) (i : Fin 64) (bs : List Byte) : (s.putFlow i bs).keepsPin s := by
  unfold State.putFlow
  split
  · trivial
  · exact EntryResult.keepsPin_ite trivial (EntryResult.keepsPin_ite trivial
      (EntryResult.keepsPin_ite trivial (PinKept.aside rfl)))

theorem pinKept_putPortMap (s : State) (i : Fin 8) (bs : List Byte) : (s.putPortMap i bs).keepsPin s := by
  unfold State.putPortMap
  dsimp only
  split
  · trivial
  · exact PinKept.aside rfl

theorem pinKept_putMgmt (s : State) (p : Port) (bs : List Byte) : (s.putMgmt p bs).keepsPin s := by
  unfold State.putMgmt
  dsimp only
  split
  · trivial
  · exact EntryResult.keepsPin_ite trivial (EntryResult.keepsPin_ite trivial
      (EntryResult.keepsPin_ite trivial (PinKept.aside rfl)))

theorem pinKept_clientChanged (s : State) (c : Client) (old : ClientCfg) : PinKept s (s.clientChanged c old) := by
  have aged (t : State) (p : Prop) [Decidable p] : PinKept t (if p then t
      else t.updClient c (ClientSession.loseAged s.res)) := PinKept.unless (.aside rfl)
  unfold State.clientChanged
  dsimp only
  refine PinKept.trans (PinKept.ite (fair_clientStop s c).pinKept (PinKept.ite (fair_clientStart s c).pinKept
    (fair_clientRetune s c).pinKept.guarded)) ((aged _ _).trans (PinKept.unless ?_))
  exact (fair_noticeExpired _ c).pinKept.guarded

theorem pinKept_putClient (s : State) (c : Client) (bs : List Byte) : (s.putClient c bs).keepsPin s := by
  unfold State.putClient
  split
  · trivial
  · exact (pinKept_clientChanged _ c _).past rfl

theorem pinKept_timersCheck (s : State) (r : Ref) : PinKept s (s.timersCheck r) := by
  unfold State.timersCheck
  dsimp only
  split
  · exact (fair_qualifyExpired s r).pinKept.guarded
  · exact (fair_holdOffExpired s r).pinKept.guarded
  · exact (fair_restoreExpired s r).pinKept.guarded
  · exact PinKept.refl s
  · exact PinKept.refl s

theorem pinKept_refChanged (s : State) (r : Ref) (old : RefCfg) : PinKept s (s.refChanged r old) := by
  have gnss (t : State) (f : Gnss → Gnss) : PinKept t (t.updGnss f) := .aside rfl
  have ref (t : State) (f : Reference → Reference) : PinKept t (t.updRef r f) := .aside rfl
  unfold State.refChanged
  dsimp only
  cases refClient? r with
  | none =>
    exact (gnss s _).guarded.trans ((ref _ _).trans ((fair_judge _ r _ id).pinKept.unless.trans
      (pinKept_timersCheck _ r).unless))
  | some c =>
    exact (gnss s _).guarded.trans ((ref _ _).trans ((fair_judge _ r _ id).pinKept.unless.trans
      ((fair_starveCheck _ c).pinKept.unless.trans (pinKept_timersCheck _ r).unless)))

theorem pinKept_putRef (s : State) (r : Ref) (bs : List Byte) : (s.putRef r bs).keepsPin s := by
  unfold State.putRef
  split
  · trivial
  · exact PinKept.past (PinKept.ite (fair_refDisable _ r).pinKept
      (PinKept.ite (fair_refEnable _ r).pinKept (pinKept_refChanged _ r _).guarded)) rfl

theorem pinKept_putSelector (s : State) (bs : List Byte) : (s.putSelector bs).keepsPin s := by
  unfold State.putSelector
  split
  · trivial
  · exact EntryResult.keepsPin_ite trivial (EntryResult.keepsPin_ite (PinKept.refl s)
      ((fair_reevaluate _).pinKept.past rfl))

theorem pinKept_putRealign (s : State) (bs : List Byte) : (s.putRealign bs).keepsPin s := by
  have checked (t : State) : PinKept t t.suspendedCheck := by
    unfold State.suspendedCheck
    split
    · exact PinKept.refl t
    · exact (slewed_expireSuspended t).pinKept.guarded
  unfold State.putRealign
  split
  · trivial
  · dsimp only
    have written (t : State) (f : Realign → Realign) : PinKept t (t.updReal f) := .aside rfl
    exact (PinKept.ite (written s _) ((written _ _).after (written s _))).trans (checked _).unless

theorem pinKept_putServo (s : State) (bs : List Byte) : (s.putServo bs).keepsPin s := by
  unfold State.putServo
  split
  · trivial
  · exact PinKept.aside rfl

theorem pinKept_putHoldover (s : State) (bs : List Byte) : (s.putHoldover bs).keepsPin s := by
  unfold State.putHoldover
  split
  · trivial
  · exact PinKept.past (quiet_regrade _).pinKept.unless rfl

theorem pinKept_putBudget (s : State) (i : Nat) (bs : List Byte) : (s.putBudget i bs).keepsPin s := by
  unfold State.putBudget
  dsimp only
  split
  · trivial
  · exact EntryResult.keepsPin_ite trivial (EntryResult.keepsPin_ite trivial ((quiet_regrade _).pinKept.past rfl))

theorem pinKept_putSite (s : State) (k : Fin 6) (bs : List Byte) : (s.putSite k bs).keepsPin s := by
  have changed (t : State) (old : SiteCfg) : PinKept t (t.siteChanged k old) := by
    unfold State.siteChanged
    dsimp only
    exact ((quiet_siteGrade t k).pinKept.unless.trans (quiet_enterServing _ k).pinKept.guarded).trans
      (quiet_siteAbsent _ k).pinKept.guarded
  unfold State.putSite
  split
  · trivial
  · exact EntryResult.keepsPin_ite trivial (PinKept.past (PinKept.ite (quiet_siteDisable _ k).pinKept
      (PinKept.ite (quiet_siteEnable _ k).pinKept (changed _ _).guarded)) rfl)

theorem pinKept_putPin (s : State) (k : Fin 4) (bs : List Byte) : (s.putPin k bs).keepsPin s := by
  have pin (t : State) (f : Pin → Pin) : PinKept t (t.updPin k f) := .aside rfl
  have taken (t : State) (a b : PinFunction) : PinKept t (t.freqInTaken a b) := PinKept.guarded (.aside rfl)
  have drive (t : State) (was : Bool) : PinKept t (t.pinDrive k was) := by
    unfold State.pinDrive
    dsimp only
    exact PinKept.ite (PinKept.unless (PinKept.ite (.aside rfl) (pin t _))) (pin t _)
  unfold State.putPin
  split
  · trivial
  · exact EntryResult.keepsPin_ite trivial (EntryResult.keepsPin_ite trivial
      ((pin _ _).after ((drive _ _).after ((taken _ _ _).after (pin s _)))))

theorem pinKept_putAlarmCfg (s : State) (c : Fin 12) (bs : List Byte) : (s.putAlarmCfg c bs).keepsPin s := by
  unfold State.putAlarmCfg
  split
  · trivial
  · exact pinKept_updAlarm s _ (Alarm.writeCfg_pinLaw _ _ c _)

theorem pinKept_putAlarmSet (s : State) (bs : List Byte) : (s.putAlarmSet bs).keepsPin s := by
  unfold State.putAlarmSet
  split
  · trivial
  · exact EntryResult.keepsPin_ite trivial (pinKept_updAlarm s _ (Alarm.writeSet_pinLaw _ _ _))

/-- Every entry written keeps the law of ALARM_N. -/
theorem pinKept_putEntry (s : State) (p : Port) (table index : Nat) (bs : List Byte) :
    (s.putEntry p table index bs).keepsPin s := by
  have within {c : Prop} [Decidable c] (x : c → EntryResult) (hx : ∀ h, (x h).keepsPin s) :
      (if h : c then x h else .refused stBadIndex).keepsPin s := by
    split
    · exact hx _
    · trivial
  unfold State.putEntry
  split
  · exact within _ fun h => pinKept_putFlow s ⟨index, h⟩ bs
  · exact within _ fun h => pinKept_putPortMap s ⟨index, h⟩ bs
  · exact pinKept_putMgmt s p bs
  · exact pinKept_putClient s _ bs
  · split
    · exact pinKept_putRef s _ bs
    · trivial
  · exact pinKept_putSelector s bs
  · exact pinKept_putRealign s bs
  · exact pinKept_putServo s bs
  · exact pinKept_putHoldover s bs
  · exact pinKept_putBudget s index bs
  · exact within _ fun h => pinKept_putSite s ⟨index, h⟩ bs
  · exact within _ fun h => pinKept_putPin s ⟨index, h⟩ bs
  · exact within _ fun h => pinKept_putAlarmCfg s ⟨index, h⟩ bs
  · exact pinKept_putAlarmSet s bs
  · trivial

theorem pinKept_putRun (p : Port) (table : Nat) (n : Nat) : ∀ (index : Nat) (bs : List Byte) (acc : RunResult),
    PinKept acc.state (State.putRun p table n index bs acc).state := by
  induction n with
  | zero => exact fun _ _ _ => PinKept.refl _
  | succ n ih =>
    intro index bs acc
    unfold State.putRun
    split
    · exact PinKept.refl _
    · next fields rest _ =>
      have entry := pinKept_putEntry acc.state p table index fields
      split
      · exact PinKept.refl _
      · next t adjusted e =>
        rw [e] at entry
        exact entry.trans (ih _ rest { acc with
          state := t, adjusted := acc.adjusted || adjusted, count := acc.count + 1
          stored := acc.stored ++ t.encEntry table index })

/-! ## The commands (R191) -/

/-- What a command runs to keeps the law in both cases of a test. -/
theorem pinKept_replyIte {s : State} {c : Prop} [Decidable c] {x y : Reply} (a : PinKept s x.state)
    (b : PinKept s y.state) : PinKept s (if c then x else y).state := by split <;> assumption

theorem pinKept_ackAll (s : State) (is : List (Fin 41)) : PinKept s (s.updAlarm (Alarm.ackAll is)) :=
  (quiet_updAlarm s _ (Alarm.ackAll_calm is s.alarm)).pinKept

theorem pinKept_readFrom (s : State) (table start count : Nat) : PinKept s (s.readFrom table start count).state :=
  have cursor (t : State) (f : Mgmt → Mgmt) : PinKept t (t.updMgmt f) := .aside rfl
  (cursor _ _).after (pinKept_ackAll s _).guarded

theorem pinKept_runGet (s : State) (c : Command) : PinKept s (runGet s c).state :=
  pinKept_replyIte (PinKept.refl s) (pinKept_replyIte (PinKept.refl s) (pinKept_readFrom s _ _ _))

theorem pinKept_runContinue (s : State) (c : Command) : PinKept s (runContinue s c).state :=
  pinKept_replyIte (PinKept.refl s) (pinKept_replyIte (PinKept.refl s) (pinKept_readFrom s _ _ _))

theorem pinKept_runPut (s : State) (c : Command) : PinKept s (runPut s c).state :=
  pinKept_replyIte (PinKept.refl s) (pinKept_replyIte (PinKept.refl s) (pinKept_replyIte (PinKept.refl s)
    (pinKept_replyIte (PinKept.refl s) (pinKept_putRun c.ingress _ _ _ _ ⟨s, false, 0, [], none⟩))))

theorem pinKept_runClear (s : State) (c : Command) : PinKept s (runClear s c).state := by
  have flow (index : Nat) : PinKept s (clearFlow s index).state := by
    unfold clearFlow
    split
    · exact pinKept_replyIte (PinKept.refl s) (.aside rfl)
    · exact PinKept.refl s
  have budget (index : Nat) : PinKept s (clearBudget s index).state :=
    pinKept_replyIte (PinKept.refl s) (pinKept_replyIte (PinKept.refl s) ((quiet_regrade _).pinKept.past rfl))
  exact pinKept_replyIte (PinKept.refl s) (pinKept_replyIte (flow _) (pinKept_replyIte (budget _)
    (pinKept_replyIte (PinKept.refl s) (PinKept.refl s))))

theorem pinKept_pinFlow (s : State) (pinned : Bool) (index : Nat) : PinKept s (pinFlow s pinned index).state := by
  unfold pinFlow
  split
  · exact .aside rfl
  · exact PinKept.refl s

theorem pinKept_force (s : State) (phase : Bool) (r : Ref) : PinKept s (s.force phase r) :=
  PinKept.ite ((fair_reevaluate _).pinKept.after ((applyPhase_spec _ (some r) _).1.pinKept.past rfl))
    ((fair_reevaluate _).pinKept.after ((applyFreq_spec _ (some r) _).1.pinKept.past rfl))

theorem pinKept_runForce (s : State) (c : Command) : PinKept s (runForce s c).state := by
  unfold runForce
  dsimp only
  refine pinKept_replyIte (PinKept.refl s) ?_
  cases refOfNat? (c.arg 1 1) with
  | none => exact PinKept.refl s
  | some r =>
    exact pinKept_replyIte (PinKept.refl s) (pinKept_replyIte (PinKept.refl s) (pinKept_force s (c.arg 0 1 = 0) r))

theorem pinKept_runRelease (s : State) (c : Command) : PinKept s (runRelease s c).state := by
  unfold runRelease
  split
  · exact PinKept.guarded ((fair_reevaluate _).pinKept.past rfl)
  · exact PinKept.guarded ((fair_reevaluate _).pinKept.past rfl)
  · exact PinKept.refl s

theorem pinKept_runTimeSet (s : State) (c : Command) : PinKept s (runTimeSet s c).state :=
  pinKept_replyIte (PinKept.refl s) (pinKept_replyIte (pinKept_timeSet s _ _) (pinKept_timeSet s _ _))

theorem pinKept_runAck (s : State) (c : Command) : PinKept s (runAck s c).state := by
  unfold runAck
  dsimp only
  split
  · exact pinKept_ackAll s _
  · split
    · exact pinKept_ackAll s _
    · exact PinKept.refl s

theorem pinKept_runTest (s : State) (c : Command) : PinKept s (runTest s c).state :=
  have started (t : State) : PinKept t (t.updAlarm fun a => { a with test := some s.res }) := ⟨id⟩
  (started _).after (quiet_report s recTest true).pinKept

theorem pinKept_runRestart (s : State) (c : Command) : PinKept s (runRestart s c).state := by
  unfold runRestart
  split <;> exact PinKept.refl s

/-- An operation that goes on from an offer keeps the law when both continuations do. -/
theorem pinKept_offerThen {s t : State} (p : Port) (q : QueueClass) (f : QFrame) (yes no : State → State)
    (hs : PinKept s t) (hy : ∀ u, PinKept u (yes u)) (hn : ∀ u, PinKept u (no u)) :
    PinKept s (match t.offer p q f with
      | (u, true) => yes u
      | (u, false) => no u) := by
  have offered := hs.trans (quiet_offer t p q f).pinKept
  split
  · next u e => rw [e] at offered; exact offered.trans (hy u)
  · next u e => rw [e] at offered; exact offered.trans (hn u)

theorem pinKept_answer (s : State) (c : Command) (x : Reply) : PinKept x.state (s.answer c x) := by
  unfold State.answer
  dsimp only
  refine pinKept_offerThen _ _ _ id _ (.aside rfl) PinKept.refl fun u => ?_
  cases x.restart with
  | none => exact .aside rfl
  | some scope => exact pinKept_restartAfterLoss u (some scope)

/-- The completion of a command keeps the law when what it runs to does. -/
theorem pinKept_complete (s : State) (dt : Nat) (kind : Command → Bool) (run : State → Command → Reply)
    (h : ∀ t c, PinKept t (run t c).state) : PinKept s (s.complete dt kind run) := by
  unfold State.complete
  split
  · exact PinKept.refl s
  · exact PinKept.guarded ((pinKept_answer _ _ _).after ((h _ _).past rfl))

/-! ## The events of the pins and the alarms -/

theorem pinKept_fallAt (s : State) (k : Fin 4) : PinKept s (s.fallAt k) := by
  unfold State.fallAt
  split
  · next fall _ =>
    cases fall with
    | atResidence t => exact pinKept_atReach s _ _ fun u => .aside rfl
    | atOsc t => exact pinKept_atReachOsc s t _ fun u => .aside rfl
  · exact PinKept.refl s

theorem pinKept_freqEdge (s : State) (k : Fin 4) : PinKept s (s.freqEdge k) := by
  unfold State.freqEdge
  split
  · exact pinKept_atReach s _ _ fun u => .aside rfl
  · exact pinKept_atReach s _ _ fun u => .aside rfl
  · exact pinKept_atReachOsc s _ _ fun u => .aside rfl
  · unfold State.leaveBypassEdge
    split
    · next u there =>
      exact pinKept_atInstant s _ _ (fun v came => (State.reach_alarm came).trans (State.reachOsc_alarm there))
        fun v _ => .aside rfl
    · exact PinKept.refl s

theorem pinKept_noticeOffer (s : State) : ∃ t, execNoticeOffer s = .next t ∧ PinKept s t := by
  have offered (u : State) (collector : Addr) (n : Notice) : PinKept u (u.offerHead collector n) := by
    unfold State.offerHead
    exact pinKept_offerThen _ _ _ _ _ ((quiet_updAlarm _ _ (Alarm.takeHead_calm _ _ _)).pinKept.past rfl)
      (fun v => pinKept_updAlarm v (fun a => { a with ctr := { a.ctr with noticesSent := bump a.ctr.noticesSent } }) id)
      (fun v => pinKept_updAlarm v
        (fun a => { a with ctr := { a.ctr with noticesDiscarded := bump a.ctr.noticesDiscarded } }) id)
  refine ⟨_, rfl, ?_⟩
  split
  · next n _ collector _ _ =>
    refine PinKept.guarded ?_
    unfold State.sendNotice
    split
    · exact pinKept_atReach s _ _ fun u => offered u collector n
    · exact offered s collector n
  · exact PinKept.refl s

theorem pinKept_testInterval (s : State) (span : Nat) : PinKept s (s.afterSpan s.alarm.test span fun u =>
    (u.updAlarm fun a => { a with test := none }).report recTest false) :=
  pinKept_afterSpan s _ _ _ fun u =>
    (quiet_report _ _ _).pinKept.after (pinKept_updAlarm u (fun a => { a with test := none }) id)

/-- A pulse runs in PULSE mode alone, so that its end leaves the pin as the mode asks (R185). -/
theorem Alarm.endPulse_kept {a : Alarm} {t : Nat} (runs : a.pulse = some t) (h : a.pinLaw) : a.endPulse.pinLaw := by
  have ended := Alarm.pulseCheck_pinLaw (t + a.pulseUnits) h
  unfold Alarm.pulseCheck at ended
  rw [runs] at ended
  dsimp only at ended
  rwa [if_pos (by omega)] at ended

theorem pinKept_pulseEnd (s : State) :
    PinKept s (s.afterSpan s.alarm.pulse s.alarm.pulseUnits fun u => u.updAlarm Alarm.endPulse) := by
  unfold State.afterSpan
  split
  · next t runs =>
    exact pinKept_atInstant s _ _ (fun _ => State.reach_alarm) fun u same =>
      pinKept_updAlarm u _ (Alarm.endPulse_kept (same ▸ runs))
  · exact PinKept.refl s

/-! ## Every command -/

/-- What every command keeps. -/
theorem exec_pinKept (i : Instr) (s : State) : ∃ t, exec i s = .next t ∧ PinKept s t := by
  have command := pinKept_complete s
  cases i with
  | powerOn straps => exact ⟨_, rfl, pinKept_powerUp s straps⟩
  | resetPin straps => exact ⟨_, rfl, pinKept_powerUp s straps⟩
  | frameReceived dt p ok f => exact ⟨_, rfl, PinKept.guarded ((pinKept_receive _ p ok f).past rfl)⟩
  | linkUp dt p => exact ⟨_, rfl, PinKept.unless ((pinKept_linkUp _ p).past rfl)⟩
  | linkDown dt p => exact ⟨_, rfl, PinKept.guarded ((pinKept_linkDown _ p).past rfl)⟩
  | egressMoment p => exact ⟨_, rfl, pinKept_egress s p⟩
  | transmitEnd dt p =>
    refine ⟨_, rfl, ?_⟩
    split
    · next t _ => exact (pinKept_endTransmit _ p t).past rfl
    · exact PinKept.refl s
  | secondBoundary order => exact ⟨_, rfl, pinKept_secondBoundary s order⟩
  | counterWrap =>
    refine ⟨_, rfl, ?_⟩
    split
    · next c _ => exact pinKept_counterCarry s c
    · exact PinKept.refl s
  | ppsInputEdge dt k => exact ⟨_, rfl, PinKept.guarded ((fair_gnssEdge _).pinKept.past rfl)⟩
  | freqInputEdge dt k edges => exact ⟨_, rfl, PinKept.guarded ((fair_extEdge _).pinKept.past rfl)⟩
  | todRecord dt b => exact ⟨_, rfl, PinKept.guarded ((fair_todByte _ b).pinKept.past rfl)⟩
  | todFramingError dt => exact ⟨_, rfl, (quiet_todFraming _).pinKept.past rfl⟩
  | todByteGap => exact ⟨_, rfl, PinKept.unless (pinKept_atReach s _ _ fun u => .aside rfl)⟩
  | quietIntervalExpires p =>
    refine ⟨_, rfl, ?_⟩
    split
    · exact pinKept_atReach s _ _ fun u => (quiet_quietOver u p).pinKept
    · exact PinKept.refl s
  | queryDue c =>
    refine ⟨_, rfl, ?_⟩
    split
    · next m _ => exact pinKept_atReach s _ _ fun u => (quiet_queryAt u c m _).pinKept
    · exact PinKept.refl s
  | replyTimeout c =>
    refine ⟨_, rfl, ?_⟩
    split
    · exact pinKept_atReach s _ _ fun u => .aside rfl
    · exact PinKept.refl s
  | noticeIntervalExpires c =>
    exact ⟨_, rfl, (pinKept_atReach s _ _ fun u => (fair_noticeExpired u c).pinKept).guarded⟩
  | gnssSignalTimeout => exact ⟨_, rfl, pinKept_atEnd s _ _ fun u => (fair_gnssLost u).pinKept⟩
  | todIntervalTimeout => exact ⟨_, rfl, pinKept_atEnd s _ _ fun u => (fair_todMissing u).pinKept⟩
  | extEdgeTimeout => exact ⟨_, rfl, pinKept_atEnd s _ _ fun u => (fair_extLost u).pinKept⟩
  | starveCountReached c => exact ⟨_, rfl, (fair_starveCheck s c).pinKept.guarded⟩
  | qualifyTimeReached r =>
    exact ⟨_, rfl, (pinKept_atTimer s _ _ _ fun u => (fair_qualifyExpired u r).pinKept).guarded⟩
  | holdOffExpires r =>
    exact ⟨_, rfl, (pinKept_atTimer s _ _ _ fun u => (fair_holdOffExpired u r).pinKept).guarded⟩
  | restoreWaitReached r =>
    exact ⟨_, rfl, (pinKept_atTimer s _ _ _ fun u => (fair_restoreExpired u r).pinKept).guarded⟩
  | suspendedSlewExpires =>
    refine ⟨_, rfl, ?_⟩
    split
    · exact pinKept_atReach s _ _ fun u => (slewed_expireSuspended u).pinKept
    · exact PinKept.refl s
  | lockCountReached => exact ⟨_, rfl, pinKept_boundaryWhere s _ _⟩
  | unlockCountReached => exact ⟨_, rfl, pinKept_boundaryWhere s _ _⟩
  | holdoverMinute =>
    refine ⟨_, rfl, ?_⟩
    split
    · exact (pinKept_atTimer s _ _ _ fun u => (quiet_minutePassed u).pinKept).guarded
    · exact PinKept.refl s
  | serveDelayExpires k =>
    exact ⟨_, rfl, (pinKept_atTimer s _ _ _ fun u => (quiet_enterServing u k).pinKept).guarded⟩
  | presenceTimeout k =>
    refine ⟨_, rfl, ?_⟩
    split
    · exact (pinKept_atReach s _ _ fun u => (quiet_siteAbsent u k).pinKept).guarded
    · exact PinKept.refl s
  | markDue k => exact ⟨_, rfl, (pinKept_atReach s _ _ fun u => (quiet_markAt u k _).pinKept).guarded⟩
  | ppsOutputEdge k => exact ⟨_, rfl, PinKept.guarded (pinKept_atReach s _ _ fun u => .aside rfl)⟩
  | ppsPulseEnd k => exact ⟨_, rfl, (pinKept_fallAt s k).guarded⟩
  | raiseHoldOffExpires i =>
    exact ⟨_, rfl, (pinKept_afterSpan s _ _ _ fun u =>
      pinKept_updAlarm u _ (Alarm.raiseExpired_calm _ _ i _).pin).guarded⟩
  | clearDelayExpires i =>
    exact ⟨_, rfl, (pinKept_afterSpan s _ _ _ fun u =>
      pinKept_updAlarm u _ (Alarm.clearExpired_calm _ _ i _).pin).guarded⟩
  | noticeOffer => exact pinKept_noticeOffer s
  | testIntervalExpires => exact ⟨_, rfl, pinKept_testInterval s _⟩
  | pinPulseEnd => exact ⟨_, rfl, pinKept_pulseEnd s⟩
  | get dt => exact ⟨_, rfl, command dt _ _ pinKept_runGet⟩
  | continueRead dt => exact ⟨_, rfl, command dt _ _ pinKept_runContinue⟩
  | put dt => exact ⟨_, rfl, command dt _ _ pinKept_runPut⟩
  | clear dt => exact ⟨_, rfl, command dt _ _ pinKept_runClear⟩
  | pin dt => exact ⟨_, rfl, command dt _ _ fun t _ => pinKept_pinFlow t true _⟩
  | unpin dt => exact ⟨_, rfl, command dt _ _ fun t _ => pinKept_pinFlow t false _⟩
  | forceSelect dt => exact ⟨_, rfl, command dt _ _ pinKept_runForce⟩
  | release dt => exact ⟨_, rfl, command dt _ _ pinKept_runRelease⟩
  | slewHold dt => exact ⟨_, rfl, command dt _ _ fun _ _ => .aside rfl⟩
  | slewRelease dt => exact ⟨_, rfl, command dt _ _ fun _ _ => .aside rfl⟩
  | timeSet dt => exact ⟨_, rfl, command dt _ _ pinKept_runTimeSet⟩
  | ack dt => exact ⟨_, rfl, command dt _ _ pinKept_runAck⟩
  | testAlarm dt => exact ⟨_, rfl, command dt _ _ pinKept_runTest⟩
  | status dt => exact ⟨_, rfl, command dt _ _ fun t _ => PinKept.refl t⟩
  | countersClear dt => exact ⟨_, rfl, command dt _ _ fun t _ => pinKept_zeroCounters t⟩
  | restartDatapath dt => exact ⟨_, rfl, command dt _ _ pinKept_runRestart⟩
  | restartFull input => exact ⟨_, rfl, command input.dt _ _ fun _ c => (pinKept_runRestart _ c).past rfl⟩
  | unknownCommand dt => exact ⟨_, rfl, command dt _ _ fun t _ => PinKept.refl t⟩
  | todByteReceived dt b => exact ⟨_, rfl, (fair_todByte _ b).pinKept.past rfl⟩
  | freqOutputEdge k => exact ⟨_, rfl, (pinKept_freqEdge s k).guarded⟩
  | halfCycleEnd k => exact ⟨_, rfl, (pinKept_fallAt s k).guarded⟩
  | lineClockCycle dt c cycles => exact ⟨_, rfl, PinKept.guarded (.aside rfl)⟩

/-- Settles O6: the law of ALARM_N is what every command keeps, and taking a command from the queue leaves the Alarm
Unit alone. -/
theorem stepKeepsAlarmPin : Obligations.StepKeepsAlarmPin := by
  intro s t law h
  unfold step at h
  split at h
  · cases h
    exact law
  · next c rest _ =>
    obtain ⟨u, run, kept⟩ := exec_pinKept c { s with pending := rest }
    rw [run] at h
    cases h
    exact kept.pin law

end Sys2Proof.Machine
end

section
/-! PROOFS. The state after reset is lawful (O4). -/
namespace Sys2Proof.Machine
open Sys2Proof

/-- Nothing is queued after reset, and the Budget Table is the default one, in order (R10, R16, R37, R116, R129, R176). -/
theorem reset_withinRoom : State.reset.WithinRoom where
  ports p := by cases p <;> exact ⟨Nat.zero_le _, Nat.zero_le _⟩
  clients c := ClientSession.empty_room _ _ (by cases c <;> rfl)
  hold := ⟨Nat.zero_le _, show defaultBudget.length ≤ 8 by decide, by decide, fun b h => by cases h; rfl⟩
  notices := ⟨Nat.zero_le _, List.nodup_nil, fun _ m => absurd m List.not_mem_nil, fun h => Bool.noConfusion h, fun _ => rfl⟩
  command := Nat.zero_le _
  tod := Nat.zero_le _

/-- With no reference selected the Realignment Unit is idle (R80, R89). -/
theorem reset_realignLaw : State.reset.realignLaw where
  subject := rfl
  idle := ⟨fun _ => rfl, fun _ => rfl⟩
  undecided _ := ⟨rfl, rfl, rfl⟩
  single h := absurd rfl h
  bound := Nat.zero_le _
  suspended _ h := by cases h

/-- Settles O4: the laws one after the other, each read off the fields of `State.reset`. -/
theorem resetIsLawful : Obligations.ResetIsLawful := by
  have servo : State.reset.servo.inRange := by
    show Servo.inRange {}
    exact ⟨by decide, by decide, by decide, by decide, by decide⟩
  have entry : State.reset.entryLaw := fun h => Bool.noConfusion h
  exact ⟨reset_withinRoom, reset_pinLaw, servo, ⟨Nat.zero_le _, Nat.zero_lt_succ _, nofun⟩, ⟨rfl, rfl, rfl⟩,
    ⟨nofun, nofun⟩, reset_realignLaw, entry, powerUp_flowDisjoint State.reset 0, strapAddress_group 0⟩

end Sys2Proof.Machine
end

section
/-! PROOFS. ACK, TEST_ALARM, STATUS, COUNTERS_CLEAR and a Type that is no command (O58). -/
namespace Sys2Proof.Machine
open Sys2Proof

/-! ## Acknowledging (R182) -/

/-- A record that an acknowledgement reaches: RAISED or CLEARING. -/
def AlarmRecord.isUp (r : AlarmRecord) : Bool := decide (r.state = .raised ∨ r.state = .clearing)

/-- A record acknowledged, if it is RAISED or CLEARING and `named` (R182). -/
def AlarmRecord.ackIf (named : Bool) (r : AlarmRecord) : AlarmRecord := { r with acked := r.acked || (named && r.isUp) }

theorem AlarmRecord.holdsPin_eq (r : AlarmRecord) : r.holdsPin = (r.isUp && !r.acked) := by
  unfold AlarmRecord.holdsPin AlarmRecord.isUp
  rw [Bool.decide_or]

theorem AlarmRecord.ackIf_ackIf (r : AlarmRecord) (x y : Bool) : (r.ackIf x).ackIf y = r.ackIf (x || y) := by
  unfold AlarmRecord.ackIf
  congr 1
  show ((r.acked || (x && r.isUp)) || (y && r.isUp)) = _
  rw [Bool.or_assoc, Bool.and_or_distrib_right]

/-- A record that does not hold the pin has nothing to acknowledge. -/
theorem AlarmRecord.ackIf_idle {r : AlarmRecord} (idle : r.holdsPin = false) (named : Bool) : r.ackIf named = r := by
  have same : (r.acked || (named && r.isUp)) = r.acked := by
    rw [AlarmRecord.holdsPin_eq] at idle
    cases acked : r.acked with
    | true => rfl
    | false =>
      have down : r.isUp = false := by simpa [acked] using idle
      rw [down, Bool.and_false, Bool.or_false]
  unfold AlarmRecord.ackIf
  rw [same]

theorem Alarm.ackOne_record (a : Alarm) (i j : Fin 41) : (a.ackOne i).record j = (a.record j).ackIf (decide (i = j)) := by
  unfold Alarm.ackOne
  by_cases e : j = i
  · subst e
    split
    · next holds =>
      rw [AlarmRecord.holdsPin_eq, Bool.and_eq_true] at holds
      refine (Alarm.record_updRec a j _).trans ?_
      simp [AlarmRecord.ackIf, holds.1]
    · next idle => exact (AlarmRecord.ackIf_idle (by simpa using idle) _).symm
  · have other : (a.record j).ackIf (decide (i = j)) = a.record j := by simp [AlarmRecord.ackIf, Ne.symm e]
    rw [other]
    split
    · exact updRec_only a i _ j e
    · rfl

theorem Alarm.ackOne_queue (a : Alarm) (i : Fin 41) : (a.ackOne i).queue = a.queue := by
  unfold Alarm.ackOne
  split <;> rfl

theorem Alarm.ackFold_leaves (is : List (Fin 41)) (a : Alarm) :
    (is.foldl Alarm.ackOne a).queue = a.queue ∧
      ∀ j, (is.foldl Alarm.ackOne a).record j = (a.record j).ackIf (decide (j ∈ is)) := by
  induction is generalizing a with
  | nil => exact ⟨rfl, fun j => by simp [AlarmRecord.ackIf]⟩
  | cons i is ih =>
    obtain ⟨queue, recs⟩ := ih (a.ackOne i)
    refine ⟨queue.trans (Alarm.ackOne_queue a i), fun j => (recs j).trans ?_⟩
    rw [Alarm.ackOne_record, AlarmRecord.ackIf_ackIf, ← Bool.decide_or]
    simp only [List.mem_cons, eq_comm]

theorem Alarm.evalPin_queue (a : Alarm) : a.evalPin.queue = a.queue := by
  unfold Alarm.evalPin
  split <;> rfl

theorem Alarm.evalPin_ctr (a : Alarm) : a.evalPin.ctr = a.ctr := by
  unfold Alarm.evalPin
  split <;> rfl

/-- The records named are acknowledged where they are RAISED or CLEARING, and no notice is produced (R182). -/
theorem Alarm.ackAll_leaves (is : List (Fin 41)) (a : Alarm) :
    (a.ackAll is).queue = a.queue ∧ (a.ackAll is).set = a.set ∧ (a.ackAll is).cfg = a.cfg ∧
      ∀ j, (a.ackAll is).record j = (a.record j).ackIf (decide (j ∈ is)) := by
  obtain ⟨queue, recs⟩ := Alarm.ackFold_leaves is a
  have calm := Alarm.ackAll_calm is a
  exact ⟨(Alarm.evalPin_queue _).trans queue, calm.set, calm.cfg, fun j => (evalPin_record _ j).trans (recs j)⟩

/-! ## What the commands run to -/

theorem runAck_refused {s : State} {c : Command} (beyond : 40 < c.arg 0 1) (one : c.arg 0 1 ≠ 255) :
    runAck s c = { state := s, status := 4, results := [] } := by
  unfold runAck
  dsimp only
  rw [if_neg one, dif_neg (by omega)]
  rfl

theorem runAck_taken {s : State} {c : Command} (named : c.arg 0 1 ≤ 40 ∨ c.arg 0 1 = 255) :
    ∃ is, runAck s c = { state := s.updAlarm (Alarm.ackAll is), status := 0, results := [] } ∧
      ∀ i, i ∈ is ↔ c.arg 0 1 = 255 ∨ c.arg 0 1 = i.val := by
  unfold runAck
  dsimp only
  by_cases all : c.arg 0 1 = 255
  · rw [if_pos all]
    exact ⟨allRecords, rfl, fun i => iff_of_true (List.mem_finRange i) (.inl all)⟩
  · have small : c.arg 0 1 < 41 := by omega
    rw [if_neg all, dif_pos small]
    refine ⟨[⟨c.arg 0 1, small⟩], rfl, fun i => ?_⟩
    rw [List.mem_singleton, or_iff_right all, Fin.ext_iff]
    exact eq_comm

theorem encIn_servoStates (x : ServoState) : encIn servoStates x = [match x with
    | .freerun => (0 : Byte) | .acquiring => 1 | .locked => 2 | .holdover => 3 | .freqTrack => 4] := by
  cases x <;> rfl

theorem encOpt_encRef (o : Option Ref) : encOpt 1 encRef o = match o with
    | some r => [1, BitVec.ofNat 8 (refIdx r).val]
    | none => [0, 0] := by
  cases o <;> rfl

theorem encEnum_slewStatus (x : Realign) : encEnum x.slewStatus = [match x.slew, x.suspended with
    | some false, _ => (0 : Byte) | some true, _ => 1 | none, some _ => 2 | none, none => 3] := by
  unfold Realign.slewStatus
  rcases x.slew with _ | held
  · cases x.suspended <;> rfl
  · cases held <;> rfl

theorem encOptNum_holdSeconds (s : State) : encOptNum s.holdSeconds = match s.holdover.record with
    | none => 0 :: List.replicate 8 0
    | some r => 1 :: beBytesInt 8
      ((min (timerElapsed r.elapsed s.clock.residence) (4294967295 * 65536000000000) / 65536000000000 : Nat) : Int) := by
  unfold State.holdSeconds
  cases s.holdover.record <;> rfl

/-- Settles O58: each command by what it runs to. -/
theorem otherCommandsAreAnswered : Obligations.OtherCommandsAreAnswered := by
  intro s dt c rest head v index
  have arg : c.arg 0 1 = index := rfl
  refine ⟨fun type => ⟨_, rfl, fun beyond one => ?_, fun named => ?_⟩, fun type => ⟨_, rfl, ?_⟩, fun type => ⟨_, rfl, ?_⟩,
    fun type => ?_, fun type => ⟨_, rfl, ?_⟩⟩
  · exact State.complete_answered s dt _ _ c rest head (decide_eq_true type) _ _ _ (runAck_refused beyond one)
  · obtain ⟨is, run, mem⟩ := runAck_taken (s := v) (c := c) named
    obtain ⟨queue, set, cfg, recs⟩ := Alarm.ackAll_leaves is s.alarm
    refine ⟨s.alarm.ackAll is, State.complete_answered s dt _ _ c rest head (decide_eq_true type) _ _ _ run, queue, set,
      cfg, fun i => (recs i).trans ?_⟩
    rw [decide_eq_decide.2 (mem i)]
    rfl
  · exact ⟨_, State.complete_answered s dt _ _ c rest head (decide_eq_true type) _ _ _ rfl, rfl,
      report_present _ _ _ _ _ _ (by decide), (Alarm.report_calm v.stamp v.res recTest true [] s.alarm).set,
      (Alarm.report_calm v.stamp v.res recTest true [] s.alarm).cfg,
      fun i own other => report_record_ne _ _ _ _ _ _ i own other⟩
  · refine State.complete_answered s dt _ _ c rest head (decide_eq_true type) _ _ _ ?_
    refine congrArg (fun results => ({ state := v, status := 0, results := results } : Reply)) ?_
    have epoch : v.clock.epoch = s.clock.epoch := Clock.pass_epoch _ _ _
    unfold State.statusFields encSelection
    rw [encIn_servoStates, encOpt_encRef, encOpt_encRef, encEnum_slewStatus, encOptNum_holdSeconds, epoch]
    simp only [encBool, encNum, encRes, List.append_assoc, List.cons_append, List.nil_append]
    rfl
  · have answered := State.complete_answered s dt (ofType 0x1E) runCountersClear c rest head (decide_eq_true type)
      v.zeroCounters 0 [] rfl
    refine ⟨v.zeroCounters, _, rfl, answered, ?_, rfl, v.zeroCounters_port, v.zeroCounters_flow, v.zeroCounters_client,
      v.zeroCounters_ref, v.zeroCounters_site, v.zeroCounters_tpin⟩
    rw [answered.mgmt]
    rfl
  · exact State.complete_answered s dt _ _ c rest head (decide_eq_true type) _ _ _ rfl

end Sys2Proof.Machine
end

section
/-! PROOFS. What moving an alarm record can do, said once: a record is turned, and a notice of it placed (R171 to R177). -/
namespace Sys2Proof.Machine
open Sys2Proof

/-! ## A record turned (R172, R185) -/

/-- `b` is the Alarm Unit `a` once record `i` has changed state, its notice not yet produced: the record keeps its Pending
flag and its Cause, and a pulse may have started at the Residence Clock `res`. -/
structure Alarm.Turned (res : Nat) (i : Fin 41) (a b : Alarm) : Prop where
  frame   : b = { a with
    recs := b.recs, asserted := b.asserted, pulse := b.pulse, ctr := { a.ctr with pinPulses := b.ctr.pinPulses } }
  others  : AlarmOnly i a b
  pending : (b.record i).pending = (a.record i).pending
  cause   : (b.record i).cause = (a.record i).cause
  pin     : b.asserted = a.asserted ∧ b.pulse = a.pulse ∨ b.asserted = true ∧ b.pulse = some res

theorem Alarm.Turned.refl (res : Nat) (i : Fin 41) (a : Alarm) : a.Turned res i a :=
  ⟨rfl, AlarmOnly.refl i a, rfl, rfl, .inl ⟨rfl, rfl⟩⟩

theorem Alarm.Turned.trans {res : Nat} {i : Fin 41} {a b c : Alarm} (x : a.Turned res i b) (y : b.Turned res i c) :
    a.Turned res i c := by
  refine ⟨?_, x.others.trans y.others, y.pending.trans x.pending, y.cause.trans x.cause, ?_⟩
  · rw [y.frame, x.frame]
  · rcases y.pin with ⟨level, pulse⟩ | started
    · rw [level, pulse]
      exact x.pin
    · exact .inr started

theorem Alarm.turned_updRec (res : Nat) (i : Fin 41) (a : Alarm) (f : AlarmRecord → AlarmRecord)
    (pending : ∀ r, (f r).pending = r.pending) (cause : ∀ r, (f r).cause = r.cause) : a.Turned res i (a.updRec i f) :=
  ⟨rfl, updRec_only a i f, by rw [Alarm.record_updRec, pending], by rw [Alarm.record_updRec, cause], .inl ⟨rfl, rfl⟩⟩

theorem Alarm.turned_pulseFor (res : Nat) (i : Fin 41) (a : Alarm) : a.Turned res i (a.pulseFor res i) := by
  unfold Alarm.pulseFor
  split
  · exact ⟨rfl, fun _ _ => rfl, rfl, rfl, .inr ⟨rfl, rfl⟩⟩
  · exact Alarm.Turned.refl res i a

/-- The configuration and the settings, in the words of the notices. -/
theorem Alarm.Turned.cfgOf {res : Nat} {i : Fin 41} {a b : Alarm} (x : a.Turned res i b) (j : Fin 41) :
    b.cfgOf j = a.cfgOf j := by rw [x.frame]; rfl

theorem Alarm.Turned.queue {res : Nat} {i : Fin 41} {a b : Alarm} (x : a.Turned res i b) : b.queue = a.queue := by
  rw [x.frame]

theorem Alarm.Turned.set {res : Nat} {i : Fin 41} {a b : Alarm} (x : a.Turned res i b) : b.set = a.set := by
  rw [x.frame]

/-- A raise turns the record and produces its notice. -/
theorem Alarm.raise_turns (now : Stamp) (res : Nat) (i : Fin 41) (a : Alarm) :
    ∃ b, a.Turned res i b ∧ a.raise now res i = b.produce i ∧ b.record i = { a.record i with
      state := .raised, raiseCount := min ((a.record i).raiseCount + 1) 255, acked := false
      first := (a.record i).first.or (some now), last := some now, timer := none } ∧
      (a.set.pulseMode = true → (a.cfgOf i).pinRouted = true → b.asserted = true ∧ b.pulse = some res) := by
  refine ⟨_, (Alarm.turned_updRec res i a _ (fun _ => by rfl) fun _ => by rfl).trans (Alarm.turned_pulseFor res i _), rfl, ?_,
    fun mode routed => ?_⟩
  · rw [pulseFor_record, Alarm.record_updRec]
  · have both : (a.set.pulseMode && (a.cfgOf i).pinRouted) = true := by rw [mode, routed]; rfl
    unfold Alarm.pulseFor
    rw [if_pos (by exact both)]
    exact ⟨rfl, rfl⟩

/-- A clear turns the record and produces its notice. -/
theorem Alarm.clear_turns (now : Stamp) (res : Nat) (i : Fin 41) (a : Alarm) :
    ∃ b, a.Turned res i b ∧ a.clearRecord now i = b.produce i ∧
      b.record i = { a.record i with state := .clear, acked := false, last := some now, timer := none } :=
  ⟨_, Alarm.turned_updRec res i a _ (fun _ => by rfl) fun _ => by rfl, rfl, Alarm.record_updRec a i _⟩

/-- All that a report can do to the Alarm Unit before an overflow is taken up: its record is turned, and then either no
notice is due or one is produced (R171, R172). -/
theorem Alarm.move_turns (now : Stamp) (res : Nat) (i : Fin 41) (present : Bool) (a : Alarm) :
    ∃ b, a.Turned res i b ∧ (a.move now res i present = (b, false) ∨ a.move now res i present = b.produce i) := by
  have shown (p : Bool) : a.Turned res i (a.updRec i fun r => { r with present := p }) :=
    Alarm.turned_updRec res i a _ (fun _ => by rfl) fun _ => by rfl
  unfold Alarm.move
  split
  · exact ⟨a, Alarm.Turned.refl res i a, .inl rfl⟩
  · split
    · unfold Alarm.becomePresent
      dsimp only
      split
      · split
        · obtain ⟨b, turned, raised, -⟩ := Alarm.raise_turns now res i (a.updRec i fun r => { r with present := true })
          exact ⟨b, (shown true).trans turned, .inr raised⟩
        · exact ⟨_, (shown true).trans (Alarm.turned_updRec res i _ _ (fun _ => by rfl) fun _ => by rfl), .inl rfl⟩
      · exact ⟨_, (shown true).trans (Alarm.turned_updRec res i _ _ (fun _ => by rfl) fun _ => by rfl), .inl rfl⟩
      · exact ⟨_, shown true, .inl rfl⟩
      · exact ⟨_, shown true, .inl rfl⟩
    · unfold Alarm.becomeAbsent
      dsimp only
      split
      · exact ⟨_, (shown false).trans (Alarm.turned_updRec res i _ _ (fun _ => by rfl) fun _ => by rfl), .inl rfl⟩
      · split
        · obtain ⟨b, turned, cleared, -⟩ := Alarm.clear_turns now res i (a.updRec i fun r => { r with present := false })
          exact ⟨b, (shown false).trans turned, .inr cleared⟩
        · exact ⟨_, (shown false).trans (Alarm.turned_updRec res i _ _ (fun _ => by rfl) fun _ => by rfl), .inl rfl⟩
      · exact ⟨_, shown false, .inl rfl⟩
      · exact ⟨_, shown false, .inl rfl⟩

/-! ## A notice placed (R174 to R176) -/

theorem AlarmCfg.notifies_iff (c : AlarmCfg) :
    c.notifies = true ↔ (c.route = .notice ∨ c.route = .both) ∧ c.severity ≠ .off := by
  unfold AlarmCfg.notifies
  simp

theorem AlarmCfg.pinRouted_iff (c : AlarmCfg) :
    c.pinRouted = true ↔ (c.route = .pin ∨ c.route = .both) ∧ c.severity ≠ .off := by
  unfold AlarmCfg.pinRouted
  simp

/-- A notice of the record waits in the queue. -/
def Alarm.queued (a : Alarm) (i : Fin 41) : Prop := ∃ n, n ∈ a.queue ∧ n.record = i

theorem Alarm.queued_iff (a : Alarm) (i : Fin 41) : (a.queue.any fun n => n.record = i) = true ↔ a.queued i := by
  rw [List.any_eq_true]
  simp only [decide_eq_true_eq]
  rfl

theorem Alarm.produce_silent {a : Alarm} {i : Fin 41} (silent : (a.cfgOf i).notifies = false) :
    a.produce i = (a, false) := by
  unfold Alarm.produce
  rw [silent]
  rfl

theorem Alarm.produce_queued {a : Alarm} {i : Fin 41} (tells : (a.cfgOf i).notifies = true) (queued : a.queued i) :
    a.produce i = ({ a with
      queue := a.queue.map fun n => if n.record = i then a.noticeOf i else n
      ctr := { a.ctr with noticesRewritten := bump a.ctr.noticesRewritten } }, false) := by
  unfold Alarm.produce Alarm.place
  rw [if_pos tells, if_pos ((a.queued_iff i).2 queued)]

theorem Alarm.produce_off {a : Alarm} {i : Fin 41} (tells : (a.cfgOf i).notifies = true) (free : ¬ a.queued i)
    (off : a.set.notify = false) : a.produce i = (a.updRec i fun r => { r with pending := true }, false) := by
  unfold Alarm.produce Alarm.place
  rw [if_pos tells, if_neg (mt (a.queued_iff i).1 free), off]
  rfl

theorem Alarm.produce_joins {a : Alarm} {i : Fin 41} (tells : (a.cfgOf i).notifies = true) (free : ¬ a.queued i)
    (on : a.set.notify = true) (room : a.queue.length < 16) :
    a.produce i = ({ a with queue := a.queue ++ [a.noticeOf i] }, false) := by
  unfold Alarm.produce Alarm.place
  rw [if_pos tells, if_neg (mt (a.queued_iff i).1 free), on, if_neg (by decide), if_pos (by exact room)]

theorem Alarm.produce_full {a : Alarm} {i : Fin 41} (tells : (a.cfgOf i).notifies = true) (free : ¬ a.queued i)
    (on : a.set.notify = true) (full : 16 ≤ a.queue.length) :
    a.produce i = ({ a.updRec i (fun r => { r with pending := true }) with
      ctr := { a.ctr with noticesDeferred := bump a.ctr.noticesDeferred } }, true) := by
  unfold Alarm.produce Alarm.place
  rw [if_pos tells, if_neg (mt (a.queued_iff i).1 free), on, if_neg (by decide),
    if_neg (by unfold noticeCapacity; omega)]

/-- All that a produced notice can do (R176): it is none, or it is placed by one of the four cases. -/
theorem Alarm.produce_cases (a : Alarm) (i : Fin 41) :
    a.produce i = (a, false) ∨
    a.produce i = ({ a with
      queue := a.queue.map fun n => if n.record = i then a.noticeOf i else n
      ctr := { a.ctr with noticesRewritten := bump a.ctr.noticesRewritten } }, false) ∨
    a.produce i = (a.updRec i fun r => { r with pending := true }, false) ∧ a.set.notify = false ∨
    a.produce i = ({ a with queue := a.queue ++ [a.noticeOf i] }, false) ∧ a.queue.length < 16 ∨
    a.produce i = ({ a.updRec i (fun r => { r with pending := true }) with
      ctr := { a.ctr with noticesDeferred := bump a.ctr.noticesDeferred } }, true) ∧ 16 ≤ a.queue.length := by
  by_cases tells : (a.cfgOf i).notifies = true
  · by_cases queued : a.queued i
    · exact .inr (.inl (Alarm.produce_queued tells queued))
    · cases on : a.set.notify with
      | false => exact .inr (.inr (.inl ⟨Alarm.produce_off tells queued on, rfl⟩))
      | true =>
        by_cases room : a.queue.length < 16
        · exact .inr (.inr (.inr (.inl ⟨Alarm.produce_joins tells queued on room, room⟩)))
        · exact .inr (.inr (.inr (.inr ⟨Alarm.produce_full tells queued on (by omega), by omega⟩)))
  · exact .inl (Alarm.produce_silent (by simpa using tells))

theorem Alarm.rewritten_records (a : Alarm) (i : Fin 41) :
    (a.queue.map fun n => if n.record = i then a.noticeOf i else n).map Notice.record = a.queue.map Notice.record := by
  rw [List.map_map]
  refine List.map_congr_left fun n _ => ?_
  show (if n.record = i then a.noticeOf i else n).record = n.record
  split
  · next e => exact e.symm
  · rfl

/-- What a placed notice leaves: the pin, the timers, the counters of what has left the queue, and every record but for
its Pending flag, which is set or as it was; and with notices on a full queue keeps the records it tells of. -/
structure Alarm.Placed (i : Fin 41) (a b : Alarm) : Prop where
  frame   : b = { a with
    recs := b.recs, queue := b.queue
    ctr := { a.ctr with noticesRewritten := b.ctr.noticesRewritten, noticesDeferred := b.ctr.noticesDeferred } }
  own     : b.record i = { a.record i with pending := (b.record i).pending }
  pending : (a.record i).pending = true → (b.record i).pending = true
  full    : a.set.notify = true → 16 ≤ a.queue.length → b.queue.map Notice.record = a.queue.map Notice.record

theorem Alarm.produce_placed (a : Alarm) (i : Fin 41) : a.Placed i (a.produce i).1 := by
  have pended (c : AlarmCounters) :
      a.Placed i { a.updRec i (fun r => { r with pending := true }) with
        ctr := { a.ctr with noticesRewritten := c.noticesRewritten, noticesDeferred := c.noticesDeferred } } := by
    have own := Alarm.record_updRec a i fun r => { r with pending := true }
    refine ⟨rfl, own.trans (congrArg (fun p => ({ a.record i with pending := p } : AlarmRecord)) ?_), fun _ => ?_,
      fun _ _ => rfl⟩ <;> exact (congrArg AlarmRecord.pending own).symm ▸ rfl
  rcases a.produce_cases i with e | e | ⟨e, off⟩ | ⟨e, room⟩ | ⟨e, -⟩ <;> rw [e]
  · exact ⟨rfl, rfl, id, fun _ _ => rfl⟩
  · exact ⟨rfl, rfl, id, fun _ _ => a.rewritten_records i⟩
  · exact pended a.ctr
  · exact ⟨rfl, rfl, id, fun _ full => absurd room (by omega)⟩
  · exact pended { a.ctr with noticesDeferred := bump a.ctr.noticesDeferred }

/-! ## NOTICE_OVERFLOW (R177) -/

theorem Alarm.move_same {a : Alarm} {i : Fin 41} {present : Bool} (same : (a.record i).present = present) (now : Stamp)
    (res : Nat) : a.move now res i present = (a, false) := by
  unfold Alarm.move
  rw [if_pos same.symm]

/-- NOTICE_OVERFLOW moves once in one event: a second report finds it present. -/
theorem Alarm.overflowed_eq (now : Stamp) (res n : Nat) (a : Alarm) :
    a.overflowed now res (n + 1) = (a.move now res recOverflow true).1 := by
  have present := move_present now res recOverflow true a
  rw [Alarm.overflowed]
  split
  · next b e =>
    rw [e] at present ⊢
    cases n with
    | zero => rfl
    | succ n =>
      rw [Alarm.overflowed, Alarm.move_same present]
  · next b e => rw [e]

theorem Alarm.settle_quiet (now : Stamp) (res : Nat) (a : Alarm) : Alarm.settle now res (a, false) = a.evalPin := rfl

theorem Alarm.settle_full (now : Stamp) (res : Nat) (a : Alarm) :
    Alarm.settle now res (a, true) = (a.move now res recOverflow true).1.evalPin :=
  congrArg Alarm.evalPin (Alarm.overflowed_eq now res 2 a)

/-! ## What is told (R176, R177) -/

/-- `t` is the Alarm Unit `a` once a notice has been placed by the table of R176 for record `i`, in the words of the
statements. -/
def Alarm.Tells (a t : Alarm) (i : Fin 41) (notice : Notice) : Prop :=
  let c := a.cfg.get (conditionOf i)
  let tells := (c.route = .notice ∨ c.route = .both) ∧ c.severity ≠ .off
  let queued := ∃ n, n ∈ a.queue ∧ n.record = i
  (¬ tells → t.queue = a.queue ∧ (t.record i).pending = (a.record i).pending) ∧
  (tells → queued → t.queue = a.queue.map (fun n => if n.record = i then notice else n) ∧
    t.ctr.noticesRewritten = bump a.ctr.noticesRewritten) ∧
  (tells → ¬ queued → a.set.notify = false → t.queue = a.queue ∧ (t.record i).pending = true) ∧
  (tells → ¬ queued → a.set.notify = true → a.queue.length < 16 → t.queue = a.queue ++ [notice]) ∧
  (tells → ¬ queued → a.set.notify = true → 16 ≤ a.queue.length →
    (t.record i).pending = true ∧ (t.record recOverflow).present = true ∧
    t.queue.map Notice.record = a.queue.map Notice.record ∧
    ((a.record recOverflow).present = true → i ≠ recOverflow → t.queue = a.queue ∧
      t.ctr.noticesDeferred = bump a.ctr.noticesDeferred))

/-- A Pending flag once set stays set through a move. -/
theorem Alarm.move_pending {now : Stamp} {res : Nat} {i j : Fin 41} {present : Bool} {a : Alarm}
    (set : (a.record j).pending = true) : ((a.move now res i present).1.record j).pending = true := by
  by_cases own : j = i
  · subst own
    obtain ⟨b, turned, e | e⟩ := Alarm.move_turns now res j present a
    · rw [e]
      exact turned.pending.trans set
    · rw [e]
      exact (b.produce_placed j).pending (turned.pending.trans set)
  · rw [move_only now res i present a j own]
    exact set

/-- With notices on, a full queue tells of the same records after a move (R176). -/
theorem Alarm.move_full {now : Stamp} {res : Nat} {i : Fin 41} {present : Bool} {a : Alarm} (on : a.set.notify = true)
    (full : 16 ≤ a.queue.length) :
    (a.move now res i present).1.queue.map Notice.record = a.queue.map Notice.record := by
  obtain ⟨b, turned, e | e⟩ := Alarm.move_turns now res i present a
  · rw [e]
    exact congrArg _ turned.queue
  · rw [e, (b.produce_placed i).full (turned.set ▸ on) (turned.queue ▸ full), turned.queue]

/-- The notice of a turned record placed, and the overflow it may cause taken up. -/
theorem Alarm.settle_tells (now : Stamp) {res : Nat} {i : Fin 41} {a b : Alarm} (turned : a.Turned res i b) :
    a.Tells (Alarm.settle now res (b.produce i)) i (b.noticeOf i) := by
  have cfg : b.cfgOf i = a.cfg.get (conditionOf i) := turned.cfgOf i
  have queue := turned.queue
  have set := turned.set
  have counts : b.ctr = { a.ctr with pinPulses := b.ctr.pinPulses } := congrArg Alarm.ctr turned.frame
  have tells_iff : (b.cfgOf i).notifies = true ↔ ((a.cfg.get (conditionOf i)).route = .notice ∨
      (a.cfg.get (conditionOf i)).route = .both) ∧ (a.cfg.get (conditionOf i)).severity ≠ .off := by
    rw [AlarmCfg.notifies_iff, cfg]
  have queued_iff : b.queued i ↔ ∃ n, n ∈ a.queue ∧ n.record = i := by unfold Alarm.queued; rw [queue]
  refine ⟨fun silent => ?_, fun tells queued => ?_, fun tells free off => ?_, fun tells free on room => ?_,
    fun tells free on full => ?_⟩
  · rw [Alarm.produce_silent (by simpa using mt tells_iff.1 silent), Alarm.settle_quiet, Alarm.evalPin_queue,
      evalPin_record]
    exact ⟨queue, turned.pending⟩
  · rw [Alarm.produce_queued (tells_iff.2 tells) (queued_iff.2 queued), Alarm.settle_quiet, Alarm.evalPin_queue,
      Alarm.evalPin_ctr, queue, counts]
    exact ⟨rfl, rfl⟩
  · rw [Alarm.produce_off (tells_iff.2 tells) (mt queued_iff.1 free) (set ▸ off), Alarm.settle_quiet,
      Alarm.evalPin_queue, evalPin_record, Alarm.record_updRec]
    exact ⟨queue, rfl⟩
  · rw [Alarm.produce_joins (tells_iff.2 tells) (mt queued_iff.1 free) (set ▸ on) (queue ▸ room), Alarm.settle_quiet,
      Alarm.evalPin_queue, queue]
  · rw [Alarm.produce_full (tells_iff.2 tells) (mt queued_iff.1 free) (set ▸ on) (queue ▸ full), Alarm.settle_full,
      Alarm.evalPin_queue, Alarm.evalPin_ctr, evalPin_record, evalPin_record]
    have pended := Alarm.record_updRec b i fun r => { r with pending := true }
    have kept : (b.updRec i fun r => { r with pending := true }).queue = a.queue := queue
    refine ⟨Alarm.move_pending (congrArg AlarmRecord.pending pended), move_present _ _ _ _ _,
      (Alarm.move_full (set ▸ on) (queue ▸ full)).trans (congrArg _ queue), fun present other => ?_⟩
    have still : ((b.updRec i fun r => { r with pending := true }).record recOverflow).present = true := by
      rw [updRec_only b i _ recOverflow other.symm, turned.others recOverflow other.symm]
      exact present
    rw [Alarm.move_same (by exact still)]
    exact ⟨queue, by rw [counts]⟩

end Sys2Proof.Machine
end

section
/-! PROOFS. How an alarm record moves: at a report, and as its hold-off or its delay runs out (O50). -/
namespace Sys2Proof.Machine
open Sys2Proof

/-! ## Raised and cleared (R172) -/

/-- A raise leaves the record raised, but for the Pending flag that its notice may set. -/
theorem Alarm.raise_record (now : Stamp) (res : Nat) (i : Fin 41) (a : Alarm) :
    ((a.raise now res i).1.record i) = { a.record i with
      state := .raised, raiseCount := min ((a.record i).raiseCount + 1) 255, acked := false
      first := (a.record i).first.or (some now), last := some now, timer := none
      pending := ((a.raise now res i).1.record i).pending } := by
  obtain ⟨b, -, raised, own, -⟩ := a.raise_turns now res i
  have placed := (b.produce_placed i).own
  rw [raised]
  rw [own] at placed
  exact placed

/-- A clear leaves the record clear, but for the Pending flag that its notice may set. -/
theorem Alarm.clearRecord_record (now : Stamp) (i : Fin 41) (a : Alarm) :
    ((a.clearRecord now i).1.record i) = { a.record i with
      state := .clear, acked := false, last := some now, timer := none
      pending := ((a.clearRecord now i).1.record i).pending } := by
  obtain ⟨b, -, cleared, own⟩ := a.clear_turns now 0 i
  have placed := (b.produce_placed i).own
  rw [cleared]
  rw [own] at placed
  exact placed

/-- A RAISED record that is reported present stays as it is, but for Present. -/
theorem Alarm.move_raised {a : Alarm} {i : Fin 41} (raised : (a.record i).state = .raised) (now : Stamp) (res : Nat) :
    (a.move now res i true).1.record i = { a.record i with present := true } := by
  unfold Alarm.move
  split
  · next same =>
    show a.record i = { a.record i with present := true }
    rw [same]
  · rw [if_pos rfl]
    unfold Alarm.becomePresent
    rw [raised]
    exact Alarm.record_updRec a i _

/-- What follows the raise of a record leaves the record raised, NOTICE_OVERFLOW too, whose own overflow reports it
present at most. -/
theorem Alarm.settle_raised {now : Stamp} {res : Nat} {x : Alarm × Bool} {i : Fin 41}
    (raised : (x.1.record i).state = .raised) :
    (Alarm.settle now res x).record i =
      { x.1.record i with present := ((Alarm.settle now res x).record i).present } := by
  obtain ⟨b, full⟩ := x
  cases full with
  | false =>
    rw [Alarm.settle_quiet, evalPin_record]
  | true =>
    rw [Alarm.settle_full, evalPin_record]
    by_cases own : i = recOverflow
    · subst own
      rw [Alarm.move_raised raised]
    · rw [move_only now res recOverflow true b i own]

/-! ## Reports (R171, R172) -/

theorem Alarm.becomePresent_state (now : Stamp) (res : Nat) (i : Fin 41) (a : Alarm) :
    ((a.becomePresent now res i).1.record i).state = match (a.record i).state with
      | .clear => if (a.cfgOf i).raiseHold = 0 then .raised else .raising
      | .clearing => .raised
      | .raising => .raising
      | .raised => .raised := by
  unfold Alarm.becomePresent
  cases state : (a.record i).state with
  | clear =>
    dsimp only
    split
    · rw [Alarm.raise_record]
    · simp [Alarm.record_updRec]
  | clearing => simp [Alarm.record_updRec]
  | raising => simp [Alarm.record_updRec, state]
  | raised => simp [Alarm.record_updRec, state]

theorem Alarm.becomeAbsent_state (now : Stamp) (res : Nat) (i : Fin 41) (a : Alarm) :
    ((a.becomeAbsent now res i).1.record i).state = match (a.record i).state with
      | .raising => .clear
      | .raised => if (a.cfgOf i).clearDelay = 0 then .clear else .clearing
      | .clear => .clear
      | .clearing => .clearing := by
  unfold Alarm.becomeAbsent
  cases state : (a.record i).state with
  | raised =>
    dsimp only
    split
    · rw [Alarm.clearRecord_record]
    · simp [Alarm.record_updRec]
  | raising => simp [Alarm.record_updRec]
  | clear => simp [Alarm.record_updRec, state]
  | clearing => simp [Alarm.record_updRec, state]

/-- The Cause that a report may leave first is read by no move. -/
theorem Alarm.report_moves (now : Stamp) (res : Nat) (i : Fin 41) (present : Bool) (cause : List Defect) (a : Alarm)
    (other : i ≠ recOverflow) : ∃ (b : Alarm) (new : List Defect), b.cfg = a.cfg ∧ b.record i = { a.record i with cause := new } ∧
      (a.report now res i present cause).record i = (b.move now res i present).1.record i := by
  refine ⟨_, if present && i.val < 6 then cause else (a.record i).cause, ?_, ?_, settle_record now res _ i other⟩
  · split <;> rfl
  · split
    · exact Alarm.record_updRec a i _
    · rfl

theorem Alarm.move_state (now : Stamp) (res : Nat) (i : Fin 41) (a : Alarm) :
    ((a.record i).present = false → (a.move now res i true).1 = (a.becomePresent now res i).1) ∧
    ((a.record i).present = true → (a.move now res i false).1 = (a.becomeAbsent now res i).1) := by
  unfold Alarm.move
  exact ⟨fun absent => by rw [absent]; rfl, fun present => by rw [present]; rfl⟩

/-! ## The ends of the hold-off and of the delay (R172, R173) -/

theorem exec_raiseHoldOffExpires_other {s : State} {i : Fin 41} (other : (s.alarm.record i).state ≠ .raising) :
    exec (.raiseHoldOffExpires i) s = .next s := congrArg Host.Outcome.next (if_neg other)

theorem exec_clearDelayExpires_other {s : State} {i : Fin 41} (other : (s.alarm.record i).state ≠ .clearing) :
    exec (.clearDelayExpires i) s = .next s := congrArg Host.Outcome.next (if_neg other)

/-- An interval of the Alarm Unit that can reach its end brings the relay there. -/
theorem State.afterSpan_reached {s : State} {since : Option Nat} {start span : Nat} (runs : since = some start)
    (can : s.canReach (start + span - s.clock.residence)) :
    ∃ k, advanced s (s.arrive k) (start + span - s.clock.residence) ∧
      ∀ act : State → State, s.afterSpan since span act = act (s.arrive k) := by
  subst runs
  exact State.atInstant_reached can

theorem exec_raiseHoldOffExpires {s : State} {i : Fin 41} {start : Nat} (raising : (s.alarm.record i).state = .raising)
    (runs : (s.alarm.record i).timer = some start)
    (can : s.canReach (start + (s.alarm.cfgOf i).raiseHold * secUnits - s.clock.residence)) :
    ∃ k, advanced s (s.arrive k) (start + (s.alarm.cfgOf i).raiseHold * secUnits - s.clock.residence) ∧
      exec (.raiseHoldOffExpires i) s = .next ((s.arrive k).updAlarm fun a =>
        Alarm.settle ⟨k.counter, k.epoch⟩ k.residence (a.raise ⟨k.counter, k.epoch⟩ k.residence i)) := by
  obtain ⟨k, advance, act⟩ := State.afterSpan_reached runs can
  refine ⟨k, advance, congrArg Host.Outcome.next ?_⟩
  rw [if_pos raising, act]
  exact congrArg (fun a => ({ s.arrive k with alarm := a } : State)) (if_pos raising)

theorem exec_clearDelayExpires {s : State} {i : Fin 41} {start : Nat} (clearing : (s.alarm.record i).state = .clearing)
    (runs : (s.alarm.record i).timer = some start)
    (can : s.canReach (start + (s.alarm.cfgOf i).clearDelay * secUnits - s.clock.residence)) :
    ∃ k, advanced s (s.arrive k) (start + (s.alarm.cfgOf i).clearDelay * secUnits - s.clock.residence) ∧
      exec (.clearDelayExpires i) s = .next ((s.arrive k).updAlarm fun a =>
        Alarm.settle ⟨k.counter, k.epoch⟩ k.residence (a.clearRecord ⟨k.counter, k.epoch⟩ i)) := by
  obtain ⟨k, advance, act⟩ := State.afterSpan_reached runs can
  refine ⟨k, advance, congrArg Host.Outcome.next ?_⟩
  rw [if_pos clearing, act]
  exact congrArg (fun a => ({ s.arrive k with alarm := a } : State)) (if_pos clearing)

/-- A pulse once started at this instant runs from it, whatever follows in PULSE mode (R185). -/
theorem Alarm.settle_pulse {now : Stamp} {res : Nat} {i : Fin 41} {b : Alarm} (mode : b.set.pulseMode = true)
    (level : b.asserted = true) (pulse : b.pulse = some res) :
    (Alarm.settle now res (b.produce i)).asserted = true ∧ (Alarm.settle now res (b.produce i)).pulse = some res := by
  have still {c : Alarm} (on : c.set.pulseMode = true) : c.evalPin = c := if_pos on
  have placed := (b.produce_placed i).frame
  have calm := (Alarm.produce_half i b).set
  generalize b.produce i = x at *
  obtain ⟨c, full⟩ := x
  have level' : c.asserted = true := (congrArg Alarm.asserted placed).trans level
  have pulse' : c.pulse = some res := (congrArg Alarm.pulse placed).trans pulse
  have mode' : c.set.pulseMode = true := (congrArg AlarmSettings.pulseMode calm).trans mode
  cases full with
  | false =>
    rw [Alarm.settle_quiet, still mode']
    exact ⟨level', pulse'⟩
  | true =>
    rw [Alarm.settle_full]
    obtain ⟨d, turned, moved⟩ := c.move_turns now res recOverflow true
    have runs : d.asserted = true ∧ d.pulse = some res := by
      rcases turned.pin with ⟨same, goes⟩ | started
      · exact ⟨same.trans level', goes.trans pulse'⟩
      · exact started
    have kept : (c.move now res recOverflow true).1.asserted = d.asserted ∧
        (c.move now res recOverflow true).1.pulse = d.pulse := by
      rcases moved with e | e <;> rw [e]
      · exact ⟨rfl, rfl⟩
      · have frame := (d.produce_placed recOverflow).frame
        exact ⟨(congrArg Alarm.asserted frame).trans rfl, (congrArg Alarm.pulse frame).trans rfl⟩
    rw [still ((congrArg AlarmSettings.pulseMode (Alarm.move_half now res recOverflow true c).set).trans mode')]
    exact ⟨kept.1.trans runs.1, kept.2.trans runs.2⟩

/-- What a raise leaves, its notice placed and its overflow taken up (R172, R174 to R177, R185). -/
theorem Alarm.settle_raise (now : Stamp) (res : Nat) (i : Fin 41) (a : Alarm) :
    let t := Alarm.settle now res (a.raise now res i)
    let r := a.record i
    let count := min (r.raiseCount + 1) 255
    t.record i = { r with
      state := .raised, raiseCount := count, acked := false, first := r.first.or (some now), last := some now
      timer := none, present := (t.record i).present, pending := ((a.raise now res i).1.record i).pending } ∧
    a.Tells t i ⟨i, .raised, (a.cfgOf i).severity, count, some now, r.cause⟩ ∧
    (a.set.pulseMode = true → (a.cfgOf i).pinRouted = true → t.asserted = true ∧ t.pulse = some res) := by
  have record := a.raise_record now res i
  have own := Alarm.settle_raised (now := now) (res := res) (congrArg AlarmRecord.state record)
  rw [record] at own
  obtain ⟨b, turned, raised, turnedOwn, pulse⟩ := a.raise_turns now res i
  have notice : b.noticeOf i = ⟨i, .raised, (a.cfgOf i).severity, min ((a.record i).raiseCount + 1) 255, some now,
      (a.record i).cause⟩ := by
    unfold Alarm.noticeOf
    rw [turned.cfgOf, turnedOwn]
  refine ⟨own, ?_, fun mode routed => ?_⟩
  · rw [raised, ← notice]
    exact Alarm.settle_tells now turned
  · obtain ⟨level, started⟩ := pulse mode routed
    rw [raised]
    exact Alarm.settle_pulse (by rw [turned.set]; exact mode) level started

/-- What a clear leaves, its notice placed and its overflow taken up (R172, R174 to R177). -/
theorem Alarm.settle_clear (now : Stamp) (res : Nat) (i : Fin 41) (a : Alarm) :
    let t := Alarm.settle now res (a.clearRecord now i)
    let r := a.record i
    (i ≠ recOverflow → t.record i = { r with
      state := .clear, acked := false, last := some now, timer := none
      pending := ((a.clearRecord now i).1.record i).pending }) ∧
    a.Tells t i ⟨i, .clear, (a.cfgOf i).severity, r.raiseCount, some now, r.cause⟩ := by
  obtain ⟨b, turned, cleared, turnedOwn⟩ := a.clear_turns now res i
  have notice : b.noticeOf i = ⟨i, .clear, (a.cfgOf i).severity, (a.record i).raiseCount, some now,
      (a.record i).cause⟩ := by
    unfold Alarm.noticeOf
    rw [turned.cfgOf, turnedOwn]
  refine ⟨fun quiet => (settle_record now res _ i quiet).trans (a.clearRecord_record now i), ?_⟩
  rw [cleared, ← notice]
  exact Alarm.settle_tells now turned

/-- Settles O50: reports by the state of the record, and the ends of its two timers by what a raise and a clear leave. -/
theorem alarmRecordsMove : Obligations.AlarmRecordsMove := by
  refine ⟨?_, fun s i => ?_⟩
  · intro a now res i present other r c y
    obtain ⟨b, new, cfg, own, moved⟩ := a.report_moves now res i present [] other
    have cfgOf : b.cfgOf i = c := by unfold Alarm.cfgOf; rw [cfg]
    have reported : y = (b.move now res i present).1.record i := moved
    refine ⟨report_present now res i present [] a other, fun same => ?_, fun up was => ?_, fun down was => ?_⟩
    · rw [reported, Alarm.move_same (by rw [own]; exact same.symm), own]
      exact ⟨rfl, rfl, rfl⟩
    · have state := b.becomePresent_state now res i
      rw [own, cfgOf] at state
      rw [reported, up, (b.move_state now res i).1 (by rw [own]; exact was)]
      exact state
    · have state := b.becomeAbsent_state now res i
      rw [own, cfgOf] at state
      rw [reported, down, (b.move_state now res i).2 (by rw [own]; exact was)]
      exact state
  · intro r c told near
    refine ⟨exec_raiseHoldOffExpires_other, exec_clearDelayExpires_other, ?_, ?_⟩
    · intro start raising runs d can
      obtain ⟨k, advance, run⟩ := exec_raiseHoldOffExpires raising runs can
      have calm := Alarm.settle_calm ⟨k.counter, k.epoch⟩ k.residence _
        (Alarm.raise_half ⟨k.counter, k.epoch⟩ k.residence i s.alarm)
      obtain ⟨own, tells, pulse⟩ := s.alarm.settle_raise ⟨k.counter, k.epoch⟩ k.residence i
      refine ⟨_, run, advance, ⟨rfl, calm.set, calm.cfg, fun j other quiet => ?_⟩, congrArg AlarmRecord.state own,
        congrArg AlarmRecord.raiseCount own, congrArg AlarmRecord.acked own, congrArg AlarmRecord.timer own,
        congrArg AlarmRecord.last own, congrArg AlarmRecord.first own, tells, fun mode route severity =>
        pulse mode ((AlarmCfg.pinRouted_iff _).2 ⟨route, severity⟩)⟩
      exact (settle_record _ _ _ j quiet).trans (raise_only _ _ i s.alarm j other)
    · intro start clearing runs d can
      obtain ⟨k, advance, run⟩ := exec_clearDelayExpires clearing runs can
      have calm := Alarm.settle_calm ⟨k.counter, k.epoch⟩ k.residence _
        (Alarm.clearRecord_half ⟨k.counter, k.epoch⟩ i s.alarm)
      obtain ⟨record, tells⟩ := s.alarm.settle_clear ⟨k.counter, k.epoch⟩ k.residence i
      refine ⟨_, run, advance, ⟨rfl, calm.set, calm.cfg, fun j other quiet => ?_⟩, fun quiet => ?_, tells⟩
      · exact (settle_record _ _ _ j quiet).trans (clearRecord_only _ i s.alarm j other)
      · have own := record quiet
        exact ⟨congrArg AlarmRecord.state own, congrArg AlarmRecord.acked own, (congrArg AlarmRecord.raiseCount own).trans rfl,
          congrArg AlarmRecord.timer own, congrArg AlarmRecord.last own⟩

end Sys2Proof.Machine
end

section
/-! PROOFS. The drain of the pending records (R178), in the words of `Drained`. -/
namespace Sys2Proof.Machine
open Sys2Proof

/-! ## Records drained one after the other -/

/-- A record whose Pending flag has gone where it was drained. -/
def AlarmRecord.unpend (drained : Bool) (r : AlarmRecord) : AlarmRecord := { r with pending := r.pending && !drained }

theorem AlarmRecord.unpend_false (r : AlarmRecord) : r.unpend false = r := by
  unfold AlarmRecord.unpend
  rw [Bool.not_false, Bool.and_true]

theorem Alarm.drainOne_idle {a : Alarm} {i : Fin 41} (idle : (a.record i).pending = false) : a.drainOne i = a := by
  unfold Alarm.drainOne
  rw [idle]
  rfl

theorem Alarm.drainOne_full {a : Alarm} (full : 16 ≤ a.queue.length) (i : Fin 41) : a.drainOne i = a := by
  unfold Alarm.drainOne
  rw [decide_eq_false (show ¬ a.queue.length < noticeCapacity from Nat.not_lt.2 full), Bool.and_false]
  rfl

theorem Alarm.drainFold_full {a : Alarm} (full : 16 ≤ a.queue.length) (l : List (Fin 41)) :
    l.foldl Alarm.drainOne a = a := by
  induction l with
  | nil => rfl
  | cons i l ih => rw [List.foldl_cons, Alarm.drainOne_full full, ih]

/-- A pending record drained while there is room: it gives up its flag, and is told if it is to be. -/
theorem Alarm.drainOne_room {a : Alarm} {i : Fin 41} (waits : (a.record i).pending = true) (room : a.queue.length < 16) :
    a.drainOne i = { a.updRec i (fun r => { r with pending := false }) with
      queue := a.queue ++ if (a.cfgOf i).notifies then [a.noticeOf i] else [] } := by
  unfold Alarm.drainOne
  rw [if_pos (by simp [noticeCapacity, waits, room])]
  split
  · rfl
  · rw [List.append_nil]
    rfl

/-- The records and the queue alone have moved. -/
def Alarm.drainFrame (a d : Alarm) : Prop := d = { a with recs := d.recs, queue := d.queue }

theorem Alarm.drainFrame.trans {a b d : Alarm} (x : a.drainFrame b) (y : b.drainFrame d) : a.drainFrame d := by
  have inner : ({ b with recs := d.recs, queue := d.queue } : Alarm) = { a with recs := d.recs, queue := d.queue } := by
    rw [x]
  exact Eq.trans y inner

theorem Alarm.drainOne_frame (a : Alarm) (i : Fin 41) : a.drainFrame (a.drainOne i) := by
  unfold Alarm.drainOne
  split
  · dsimp only
    split <;> rfl
  · rfl

theorem Alarm.drainFold_frame (l : List (Fin 41)) (a : Alarm) : a.drainFrame (l.foldl Alarm.drainOne a) := by
  induction l generalizing a with
  | nil => rfl
  | cons i l ih => exact (a.drainOne_frame i).trans (ih _)

/-- What the drain of a list of records comes to (R178): the first `k` of those pending give up their flags, and the drain
ends short of the last only where the queue has filled. -/
structure Alarm.DrainedOf (l : List (Fin 41)) (a d : Alarm) (k : Nat) : Prop where
  most   : k ≤ (l.filter fun i => (a.record i).pending).length
  queue  : d.queue = a.queue ++ ((((l.filter fun i => (a.record i).pending).take k).filter fun i =>
    (a.cfgOf i).notifies).map a.noticeOf)
  room   : d.queue.length ≤ 16
  short  : k < (l.filter fun i => (a.record i).pending).length →
    d.queue.length = 16 ∧ ∃ i, i ∈ l ∧ (d.record i).pending = true
  whole  : k = (l.filter fun i => (a.record i).pending).length → ∀ i, i ∈ l → (d.record i).pending = false
  record : ∀ i, d.record i = (a.record i).unpend (((l.filter fun i => (a.record i).pending).take k).contains i)

theorem Alarm.drainFold (l : List (Fin 41)) (once : l.Nodup) (a : Alarm) (room : a.queue.length ≤ 16) :
    ∃ k, a.DrainedOf l (l.foldl Alarm.drainOne a) k := by
  induction l generalizing a with
  | nil =>
    exact ⟨0, Nat.le_refl _, (List.append_nil _).symm, room, fun h => absurd h (Nat.lt_irrefl 0),
      fun _ _ h => absurd h List.not_mem_nil,
      fun i => (AlarmRecord.unpend_false _).symm⟩
  | cons i l ih =>
    obtain ⟨fresh, once⟩ := List.nodup_cons.1 once
    cases waits : (a.record i).pending with
    | false =>
      obtain ⟨k, most, queue, room', short, whole, record⟩ := ih once a room
      rw [List.foldl_cons, Alarm.drainOne_idle waits]
      have pend : ((i :: l).filter fun i => (a.record i).pending) = l.filter fun i => (a.record i).pending :=
        List.filter_cons_of_neg (by simp [waits])
      refine ⟨k, pend ▸ most, pend ▸ queue, room', fun h => ?_, fun h j m => ?_, pend ▸ record⟩
      · obtain ⟨full, j, m, left⟩ := short (pend ▸ h)
        exact ⟨full, j, List.mem_cons_of_mem i m, left⟩
      · rcases List.mem_cons.1 m with rfl | m
        · rw [record]
          unfold AlarmRecord.unpend
          rw [waits]
          rfl
        · exact whole (pend ▸ h) j m
    | true =>
      have pend : ((i :: l).filter fun i => (a.record i).pending) = i :: l.filter fun i => (a.record i).pending :=
        List.filter_cons_of_pos waits
      by_cases full : 16 ≤ a.queue.length
      · rw [Alarm.drainFold_full full]
        refine ⟨0, Nat.zero_le _, (List.append_nil _).symm, room, fun _ => ⟨Nat.le_antisymm room full, i,
          List.mem_cons_self, waits⟩, fun h => ?_, fun j => (AlarmRecord.unpend_false _).symm⟩
        rw [pend] at h
        cases h
      · rw [List.foldl_cons, Alarm.drainOne_room waits (by omega)]
        generalize hb : ({ a.updRec i (fun r => { r with pending := false }) with
          queue := a.queue ++ if (a.cfgOf i).notifies then [a.noticeOf i] else [] } : Alarm) = b
        have own : b.record i = { a.record i with pending := false } := by
          rw [← hb]
          exact Alarm.record_updRec a i _
        have others (j : Fin 41) (ne : j ≠ i) : b.record j = a.record j := by
          rw [← hb]
          exact updRec_only a i _ j ne
        have cfg : b.cfg = a.cfg := by rw [← hb]; rfl
        have notice (j : Fin 41) : b.noticeOf j = a.noticeOf j := by
          unfold Alarm.noticeOf Alarm.cfgOf
          rw [cfg]
          by_cases e : j = i
          · rw [e, own]
          · rw [others j e]
        have joined : b.queue = a.queue ++ if (a.cfgOf i).notifies then [a.noticeOf i] else [] := by rw [← hb]
        have pend' : (l.filter fun j => (b.record j).pending) = l.filter fun j => (a.record j).pending :=
          List.filter_congr fun j m => by rw [others j fun e => fresh (e ▸ m)]
        obtain ⟨k, most, queue, room', short, whole, record⟩ := ih once b (by
          rw [joined, List.length_append]
          split <;> simp only [List.length_cons, List.length_nil] <;> omega)
        rw [pend'] at most queue short whole record
        have notices : b.noticeOf = a.noticeOf := funext notice
        refine ⟨k + 1, ?_, ?_, room', fun h => ?_, fun h j m => ?_, fun j => ?_⟩
        · rw [pend, List.length_cons]
          exact Nat.succ_le_succ most
        · rw [queue, joined, pend, List.take_succ_cons, notices, List.append_assoc]
          unfold Alarm.cfgOf
          rw [cfg, List.filter_cons]
          split <;> rfl
        · obtain ⟨filled, j, m, left⟩ := short (by rw [pend, List.length_cons] at h; omega)
          exact ⟨filled, j, List.mem_cons_of_mem i m, left⟩
        · rcases List.mem_cons.1 m with rfl | m
          · rw [record, own]
            rfl
          · exact whole (by rw [pend, List.length_cons] at h; omega) j m
        · rw [record, pend, List.take_succ_cons, List.contains_cons]
          by_cases e : j = i
          · rw [e, own]
            simp [AlarmRecord.unpend]
          · rw [others j e, beq_eq_false_iff_ne.2 e, Bool.false_or]

/-! ## The drain as a whole (R177, R178) -/

theorem Alarm.anyPending_iff (a : Alarm) : a.anyPending = true ↔ ∃ i, (a.record i).pending = true := by
  unfold Alarm.anyPending allRecords
  simp

/-- An absent NOTICE_OVERFLOW reported absent is no move; one that moves meets no full queue where it is not told, or where
there is room. -/
theorem Alarm.move_meets {now : Stamp} {res : Nat} {i : Fin 41} {present : Bool} {a : Alarm}
    (open' : (a.cfgOf i).notifies = false ∨ a.queue.length < 16) : (a.move now res i present).2 = false := by
  obtain ⟨b, turned, e | e⟩ := a.move_turns now res i present
  · rw [e]
  · rw [e]
    by_cases tells : (b.cfgOf i).notifies = true
    · have room : b.queue.length < 16 :=
        turned.queue ▸ open'.resolve_left (by rw [← turned.cfgOf]; simp [tells])
      rcases b.produce_cases i with e | e | ⟨e, -⟩ | ⟨e, -⟩ | ⟨e, full⟩
      · rw [e]
      · rw [e]
      · rw [e]
      · rw [e]
      · omega
    · rw [Alarm.produce_silent (by simpa using tells)]

theorem Alarm.settle_meets {now : Stamp} {res : Nat} {x : Alarm × Bool} (meets : x.2 = false) :
    Alarm.settle now res x = x.1.evalPin := by
  obtain ⟨b, full⟩ := x
  subst meets
  rfl

/-- The drain of R178 is what `Drained` says of it. -/
theorem Alarm.drain_drained (now : Stamp) (res : Nat) {a : Alarm} (on : a.set.notify = true)
    (room : a.queue.length ≤ 16) : Drained a.queue a (a.drain now res) := by
  have frame := Alarm.drainFold_frame allRecords a
  obtain ⟨k, most, queue, room', short, whole, record⟩ :=
    Alarm.drainFold allRecords (List.nodup_finRange 41) a room
  unfold Alarm.drain
  by_cases waits : a.anyPending = true
  · rw [if_pos (by rw [on, waits]; rfl)]
    dsimp only
    generalize allRecords.foldl Alarm.drainOne a = d at *
    refine ⟨k, most, ?_⟩
    split
    · next left =>
      obtain ⟨i, pend⟩ := d.anyPending_iff.1 left
      have ends : k ≠ (allRecords.filter fun i => (a.record i).pending).length := fun e =>
        Bool.false_ne_true ((whole e i (List.mem_finRange i)).symm.trans pend)
      refine ⟨queue ▸ room', fun h => queue ▸ (short h).1, fun i _ => (evalPin_record d i).trans (record i),
        fun _ => ⟨(Alarm.evalPin_queue d).trans queue, (evalPin_record d _).trans (record _)⟩,
        fun e => absurd e ends, fun e => absurd e ends⟩
    · next none' =>
      have ends : ¬ k < (allRecords.filter fun i => (a.record i).pending).length := fun h => by
        obtain ⟨-, i, -, pend⟩ := short h
        exact none' (d.anyPending_iff.2 ⟨i, pend⟩)
      have cfg : d.cfg = a.cfg := (congrArg Alarm.cfg frame).trans rfl
      refine ⟨queue ▸ room', fun h => absurd h ends, fun i other => ?_, fun h => absurd h ends,
        fun _ _ open' => ?_, fun _ absent => ?_⟩
      · exact ((settle_record now res _ i other).trans (move_only now res recOverflow false d i other)).trans (record i)
      · have meets : (d.move now res recOverflow false).2 = false := Alarm.move_meets (by
          unfold Alarm.cfgOf
          rw [cfg, queue]
          exact open')
        rw [Alarm.settle_meets meets, evalPin_record]
        exact move_present now res recOverflow false d
      · have still : (d.record recOverflow).present = false := by
          rw [record]
          exact absent
        rw [Alarm.move_same still, Alarm.settle_quiet, Alarm.evalPin_queue]
        exact queue
  · have idle (i : Fin 41) : (a.record i).pending = false := by
      by_contra pend
      exact waits (a.anyPending_iff.2 ⟨i, by simpa using pend⟩)
    have none' : (allRecords.filter fun i => (a.record i).pending) = [] := List.filter_eq_nil_iff.2 fun i _ => by simp [idle i]
    have nobody : ¬ 0 < (allRecords.filter fun i => (a.record i).pending).length := by rw [none']; exact Nat.lt_irrefl 0
    have queue' : a.queue ++ [] = a.queue := List.append_nil _
    rw [if_neg (by simp [waits])]
    exact ⟨0, Nat.zero_le _, queue'.symm ▸ room, fun h => absurd h nobody,
      fun i _ => (AlarmRecord.unpend_false _).symm, fun h => absurd h nobody,
      fun _ h => absurd h (Nat.lt_irrefl 0), fun _ _ => queue'.symm⟩

end Sys2Proof.Machine
end

section
/-! PROOFS. NOTICE_OFFER (O51). -/
namespace Sys2Proof.Machine
open Sys2Proof

/-! ## What a notice that is offered leaves (R181) -/

/-- The Alarm Unit's counters of offered notices, once one more is queued or refused. -/
def Alarm.countOffer (queued : Bool) (a : Alarm) : Alarm :=
  { a with ctr := { a.ctr with
      noticesSent := if queued then bump a.ctr.noticesSent else a.ctr.noticesSent
      noticesDiscarded := if queued then a.ctr.noticesDiscarded else bump a.ctr.noticesDiscarded } }

/-- A head notice offered, as a whole. -/
theorem State.offerHead_eq (u : State) (collector : Addr) (n : Notice) : u.offerHead collector n = { u with
    free := u.free + 1
    ports := (u.updPort u.alarm.set.collectorPort
      (PortState.offered u.res .bulk ⟨u.noticeFrame collector n, .alarmNotice⟩)).ports
    alarm := (u.alarm.takeHead u.stamp u.res).countOffer (u.port u.alarm.set.collectorPort).bulkOpen } := by
  have port : (u.useFree.updAlarm (Alarm.takeHead u.stamp u.res)).port u.alarm.set.collectorPort =
      u.port u.alarm.set.collectorPort := rfl
  unfold State.offerHead
  dsimp only
  rw [State.offer_bulk, port]
  cases (u.port u.alarm.set.collectorPort).bulkOpen <;> rfl

/-- The counters of offered notices. -/
def AlarmCounters.sameOffers (x y : AlarmCounters) : Prop :=
  y.noticesSent = x.noticesSent ∧ y.noticesDiscarded = x.noticesDiscarded

theorem Alarm.evalPin_offers (a : Alarm) : a.ctr.sameOffers a.evalPin.ctr := by
  rw [Alarm.evalPin_ctr]
  exact ⟨rfl, rfl⟩

theorem Alarm.move_offers (now : Stamp) (res : Nat) (i : Fin 41) (present : Bool) (a : Alarm) :
    a.ctr.sameOffers (a.move now res i present).1.ctr := by
  obtain ⟨b, turned, e | e⟩ := a.move_turns now res i present
  · rw [e, congrArg Alarm.ctr turned.frame]
    exact ⟨rfl, rfl⟩
  · rw [e, congrArg Alarm.ctr (b.produce_placed i).frame, congrArg Alarm.ctr turned.frame]
    exact ⟨rfl, rfl⟩

theorem Alarm.settle_offers (now : Stamp) (res : Nat) (x : Alarm × Bool) :
    x.1.ctr.sameOffers (Alarm.settle now res x).ctr := by
  obtain ⟨b, full⟩ := x
  cases full with
  | false => exact b.evalPin_offers
  | true =>
    rw [Alarm.settle_full, Alarm.evalPin_ctr]
    exact b.move_offers now res recOverflow true

theorem Alarm.settle_timers (now : Stamp) (res : Nat) (x : Alarm × Bool) :
    x.1.sameTimers (Alarm.settle now res x) := by
  obtain ⟨b, full⟩ := x
  cases full with
  | false => exact b.evalPin_timers
  | true =>
    rw [Alarm.settle_full]
    exact (b.move_timers now res recOverflow true).trans (Alarm.evalPin_timers _)

/-- A drain leaves the spacing, the next sequence and the counters of offered notices. -/
theorem Alarm.drain_leaves (now : Stamp) (res : Nat) (a : Alarm) :
    a.sameTimers (a.drain now res) ∧ a.ctr.sameOffers (a.drain now res).ctr := by
  have frame : a.drainFrame _ := Alarm.drainFold_frame allRecords a
  unfold Alarm.drain
  split
  · dsimp only
    generalize allRecords.foldl Alarm.drainOne a = d at *
    have timers : a.sameTimers d := by rw [frame]; exact Alarm.sameTimers.refl a
    have offers : d.ctr = a.ctr := (congrArg Alarm.ctr frame).trans rfl
    rw [← offers]
    split
    · exact ⟨timers.trans d.evalPin_timers, d.evalPin_offers⟩
    · have moved := d.move_offers now res recOverflow false
      have settled := Alarm.settle_offers now res (d.move now res recOverflow false)
      exact ⟨timers.trans ((d.move_timers now res recOverflow false).trans (Alarm.settle_timers now res _)),
        settled.1.trans moved.1, settled.2.trans moved.2⟩
  · exact ⟨Alarm.sameTimers.refl a, rfl, rfl⟩

/-- With nothing pending there is nothing to drain. -/
theorem Alarm.drain_idle {a : Alarm} (idle : ∀ i, (a.record i).pending = false) (now : Stamp) (res : Nat) :
    a.drain now res = a := by
  have none' : a.anyPending = false := by
    by_contra h
    obtain ⟨i, pend⟩ := a.anyPending_iff.1 (by simpa using h)
    exact Bool.false_ne_true ((idle i).symm.trans pend)
  unfold Alarm.drain
  rw [none', Bool.and_false]
  rfl

/-! ## The instant of the offer (R181) -/

/-- round(10^9 / Notice Rate) ns, in fraction units. -/
theorem Alarm.spacingUnits_eq (a : Alarm) :
    a.spacingUnits = (2 * 1000000000 + a.set.rate) / (2 * a.set.rate) * 65536 := by
  unfold Alarm.spacingUnits roundDiv
  rw [if_pos (by decide)]
  congr 1

theorem exec_noticeOffer_none {s : State} (idle : s.alarm.set.notify = false ∨ s.alarm.set.collector = none ∨
    s.alarm.queue = []) : exec .noticeOffer s = .next s := by
  refine congrArg Host.Outcome.next ?_
  split
  · next n rest collector queue told =>
    rcases idle with off | none' | empty
    · rw [off]
      rfl
    · rw [none'] at told
      cases told
    · rw [empty] at queue
      cases queue
  · rfl

theorem exec_noticeOffer {s : State} {n : Notice} {rest : List Notice} {collector : Addr}
    (on : s.alarm.set.notify = true) (told : s.alarm.set.collector = some collector) (waits : s.alarm.queue = n :: rest) :
    exec .noticeOffer s = .next (s.sendNotice collector n) := by
  show Host.Outcome.next (match s.alarm.queue, s.alarm.set.collector with
    | n :: _, some collector => if s.alarm.set.notify then s.sendNotice collector n else s
    | _, _ => s) = _
  rw [waits, told, on]
  rfl

/-- The units left until the send spacing has run out, none where none runs. -/
def Alarm.offerIn (a : Alarm) (residence : Nat) : Nat :=
  match a.spacing with
  | some start => start + (2 * 1000000000 + a.set.rate) / (2 * a.set.rate) * 65536 - residence
  | none => 0

/-- The head is offered at the end of the send spacing, where that can be reached. -/
theorem State.sendNotice_reached {s : State} (can : s.canReach (s.alarm.offerIn s.clock.residence)) (collector : Addr)
    (n : Notice) : ∃ k, advanced s (s.arrive k) (s.alarm.offerIn s.clock.residence) ∧
      s.sendNotice collector n = (s.arrive k).offerHead collector n := by
  unfold Alarm.offerIn at can ⊢
  unfold State.sendNotice
  cases runs : s.alarm.spacing with
  | some start =>
    rw [runs] at can
    rw [← Alarm.spacingUnits_eq] at can
    obtain ⟨k, advance, act⟩ := State.atInstant_reached (target := start + s.alarm.spacingUnits) can
    exact ⟨k, s.alarm.spacingUnits_eq ▸ advance, act _⟩
  | none =>
    have still : s.arrive s.clock = s := s.arrive_of_not_due s.clock (by cases s.clock.boundaryDue <;> simp)
    exact ⟨s.clock, ⟨rfl, rfl, rfl⟩, by rw [still]⟩

/-- The frame of a notice, in the statement's words. -/
theorem State.noticeFrame_eq (s : State) (collector : Addr) (n : Notice) : s.noticeFrame collector n =
    { dst := collector, src := s.mgmt.station, tag := builtTag s.alarm.set.vlan
      etherType := BitVec.ofNat 16 s.mgmt.partEther
      payload := headerBytes {
        cls := 2, type := 0x21, flags := (Config.managementFlags s.free).toNat, seq := s.alarm.nextSeq
        grade := (Config.noticeGrade s.free).toNat, epoch := (Config.noticeEpoch s.free).toNat
        seconds := (Config.noticeSeconds s.free).toNat, nanos := (Config.noticeNanos s.free).toNat % 1000000000
        correction := (Config.noticeCorrection s.free).toInt, bodyLen := (noticeBody n).length } ++ noticeBody n } := rfl

/-- The Alarm Unit with the head notice taken and the spacing started, before the pending records drain. -/
def Alarm.headTaken (res : Nat) (a : Alarm) : Alarm :=
  { a with queue := a.queue.drop 1, spacing := some res, nextSeq := (a.nextSeq + 1) % 65536 }

theorem Alarm.takeHead_eq (now : Stamp) (res : Nat) (a : Alarm) : a.takeHead now res = (a.headTaken res).drain now res :=
  rfl

/-- Settles O51: the head is taken and the rest drained in the Alarm Unit, and the frame goes to the Collector Port. -/
theorem noticeOfferSendsTheHead : Obligations.NoticeOfferSendsTheHead := by
  intro s n rest collector a p spacing d
  refine ⟨exec_noticeOffer_none, fun on told waits can => ?_⟩
  obtain ⟨k, advance, sent⟩ := State.sendNotice_reached can collector n
  have run : exec .noticeOffer s = .next ((s.arrive k).offerHead collector n) :=
    (exec_noticeOffer on told waits).trans (congrArg _ sent)
  rw [State.offerHead_eq] at run
  have calm := a.takeHead_calm ⟨k.counter, k.epoch⟩ k.residence
  have tail : (a.headTaken k.residence).queue = rest := congrArg (List.drop 1) waits
  obtain ⟨timers, offers⟩ := Alarm.drain_leaves ⟨k.counter, k.epoch⟩ k.residence (a.headTaken k.residence)
  rw [← Alarm.takeHead_eq] at timers offers
  refine ⟨_, (Config.managementFlags s.free).toNat, (Config.noticeGrade s.free).toNat, (Config.noticeEpoch s.free).toNat,
    (Config.noticeSeconds s.free).toNat, (Config.noticeNanos s.free).toNat % 1000000000,
    (Config.noticeCorrection s.free).toInt, run, advance, rfl, fun q other => ?_, ?_, timers.1, timers.2.1, calm.set,
    calm.cfg, ?_, ?_, fun idle => ?_, fun room => ?_⟩
  · exact State.updPort_ne (s := s.arrive k) other _
  · exact ((State.port_updPort (s.arrive k) p p _).trans (if_pos rfl)).trans
      (congrArg (fun f => (s.port p).offered k.residence .bulk ⟨f, .alarmNotice⟩)
        (State.noticeFrame_eq (s.arrive k) collector n))
  · exact congrArg (fun x => if (s.port p).bulkOpen then bump x else x) offers.1
  · exact congrArg (fun x => if (s.port p).bulkOpen then x else bump x) offers.2
  · have still : a.takeHead ⟨k.counter, k.epoch⟩ k.residence = a.headTaken k.residence :=
      (a.takeHead_eq _ _).trans (Alarm.drain_idle (a := a.headTaken k.residence) idle _ _)
    have recs : (a.takeHead ⟨k.counter, k.epoch⟩ k.residence).recs = a.recs := (congrArg Alarm.recs still).trans rfl
    exact ⟨(congrArg Alarm.queue still).trans tail, recs⟩
  · have drained := Alarm.drain_drained ⟨k.counter, k.epoch⟩ k.residence (a := a.headTaken k.residence) on
      (tail ▸ Nat.le_of_lt room)
    rw [tail, ← Alarm.takeHead_eq] at drained
    exact drained

end Sys2Proof.Machine
end

section
/-! PROOFS. The test interval, the end of a pulse, and Alarm Config written: the first two parts of O52. -/
namespace Sys2Proof.Machine
open Sys2Proof

/-! ## TEST_INTERVAL_EXPIRES and PIN_PULSE_END (R185, R186) -/

theorem exec_testIntervalExpires_none {s : State} (none' : s.alarm.test = none) : exec .testIntervalExpires s = .next s := by
  show Host.Outcome.next (s.afterSpan s.alarm.test _ _) = _
  rw [none']
  rfl

theorem exec_pinPulseEnd_none {s : State} (none' : s.alarm.pulse = none) : exec .pinPulseEnd s = .next s := by
  show Host.Outcome.next (s.afterSpan s.alarm.pulse _ _) = _
  rw [none']
  rfl

theorem exec_testIntervalExpires {s : State} {start : Nat} (runs : s.alarm.test = some start)
    (can : s.canReach (start + testUnits - s.clock.residence)) :
    ∃ k, advanced s (s.arrive k) (start + testUnits - s.clock.residence) ∧
      exec .testIntervalExpires s = .next ((s.arrive k).updAlarm fun a =>
        Alarm.report ⟨k.counter, k.epoch⟩ k.residence recTest false [] { a with test := none }) := by
  obtain ⟨k, advance, act⟩ := State.afterSpan_reached runs can
  exact ⟨k, advance, congrArg Host.Outcome.next (act _)⟩

theorem exec_pinPulseEnd {s : State} {start : Nat} (runs : s.alarm.pulse = some start)
    (can : s.canReach (start + s.alarm.pulseUnits - s.clock.residence)) :
    ∃ k, advanced s (s.arrive k) (start + s.alarm.pulseUnits - s.clock.residence) ∧
      exec .pinPulseEnd s = .next ((s.arrive k).updAlarm Alarm.endPulse) := by
  obtain ⟨k, advance, act⟩ := State.afterSpan_reached runs can
  exact ⟨k, advance, congrArg Host.Outcome.next (act _)⟩

/-! ## Alarm Config written (R169) -/

theorem AlarmRecord.ran_iff {x : AlarmRecord} {start : Nat} (runs : x.timer = some start) (res seconds : Nat) :
    x.ran res seconds = true ↔ seconds * secUnits ≤ res - start := by
  unfold AlarmRecord.ran
  rw [runs]
  exact decide_eq_true_iff

theorem Alarm.ripe_raises {a : Alarm} {i : Fin 41} (raising : (a.record i).state = .raising) (now : Stamp) (res : Nat)
    (raise clear : Bool) : a.ripe now res raise clear i =
      if raise = true ∧ (a.record i).ran res (a.cfgOf i).raiseHold = true then Alarm.settle now res (a.raise now res i)
      else a := by
  unfold Alarm.ripe Alarm.raiseExpired
  simp [raising]

theorem Alarm.ripe_clears {a : Alarm} {i : Fin 41} (clearing : (a.record i).state = .clearing) (now : Stamp) (res : Nat)
    (raise clear : Bool) : a.ripe now res raise clear i =
      if clear = true ∧ (a.record i).ran res (a.cfgOf i).clearDelay = true then Alarm.settle now res (a.clearRecord now i)
      else a := by
  unfold Alarm.ripe Alarm.clearExpired
  simp [clearing]

theorem Alarm.ripe_none (now : Stamp) (res : Nat) (i : Fin 41) (a : Alarm) : a.ripe now res false false i = a := rfl

/-- A record that is given the chance to reach its expiry moves alone, but for NOTICE_OVERFLOW. -/
theorem Alarm.ripe_record_ne (now : Stamp) (res : Nat) (raise clear : Bool) (a : Alarm) {i j : Fin 41} (other : j ≠ i)
    (quiet : j ≠ recOverflow) : (a.ripe now res raise clear i).record j = a.record j := by
  unfold Alarm.ripe Alarm.raiseExpired Alarm.clearExpired
  dsimp only
  split
  · split
    · exact (settle_record now res _ j quiet).trans (raise_only now res i a j other)
    · rfl
  · split
    · split
      · exact (settle_record now res _ j quiet).trans (clearRecord_only now i a j other)
      · rfl
    · rfl

theorem Alarm.ripeFold_record_ne (now : Stamp) (res : Nat) (raise clear : Bool) {j : Fin 41} (quiet : j ≠ recOverflow)
    (l : List (Fin 41)) (out : j ∉ l) (a : Alarm) :
    (l.foldl (Alarm.ripe now res raise clear) a).record j = a.record j := by
  induction l generalizing a with
  | nil => rfl
  | cons i l ih =>
    obtain ⟨other, out⟩ := List.ne_and_not_mem_of_not_mem_cons out
    exact (ih out _).trans (Alarm.ripe_record_ne now res raise clear a other quiet)

/-- Among records that are each given their chance once, what becomes of one is its own turn's doing. -/
theorem Alarm.ripeFold_record (now : Stamp) (res : Nat) (raise clear : Bool) {j : Fin 41} (quiet : j ≠ recOverflow)
    (l : List (Fin 41)) (once : l.Nodup) (mem : j ∈ l) (a : Alarm) :
    ∃ b : Alarm, b.cfg = a.cfg ∧ b.record j = a.record j ∧
      (l.foldl (Alarm.ripe now res raise clear) a).record j = (b.ripe now res raise clear j).record j := by
  induction l generalizing a with
  | nil => exact absurd mem List.not_mem_nil
  | cons i l ih =>
    obtain ⟨fresh, once⟩ := List.nodup_cons.1 once
    by_cases own : j = i
    · subst own
      exact ⟨a, rfl, rfl, Alarm.ripeFold_record_ne now res raise clear quiet l fresh _⟩
    · obtain ⟨b, cfg, same, turn⟩ := ih once ((List.mem_cons.1 mem).resolve_left own) (a.ripe now res raise clear i)
      exact ⟨b, cfg.trans (Alarm.ripe_calm now res raise clear a i).cfg,
        same.trans (Alarm.ripe_record_ne now res raise clear a own quiet), turn⟩

/-- In LEVEL mode ALARM_N shows what the records ask for (R184). -/
def Alarm.levelShown (a : Alarm) : Prop := a.set.pulseMode = false → a.asserted = a.levelPin

theorem Alarm.evalPin_shown (a : Alarm) : a.evalPin.levelShown := by
  unfold Alarm.levelShown Alarm.evalPin
  split
  · next pulse => exact fun level => absurd (pulse.symm.trans level) (by decide)
  · exact fun _ => rfl

theorem Alarm.settle_shown (now : Stamp) (res : Nat) (x : Alarm × Bool) : (Alarm.settle now res x).levelShown := by
  obtain ⟨b, full⟩ := x
  cases full with
  | false => exact b.evalPin_shown
  | true => exact Alarm.evalPin_shown _

theorem Alarm.ripe_shown (now : Stamp) (res : Nat) (raise clear : Bool) {a : Alarm} (shown : a.levelShown) (i : Fin 41) :
    (a.ripe now res raise clear i).levelShown := by
  unfold Alarm.ripe Alarm.raiseExpired Alarm.clearExpired
  dsimp only
  split
  · split
    · exact Alarm.settle_shown now res _
    · exact shown
  · split
    · split
      · exact Alarm.settle_shown now res _
      · exact shown
    · exact shown

theorem Alarm.ripeFold_shown (now : Stamp) (res : Nat) (raise clear : Bool) (l : List (Fin 41)) {a : Alarm}
    (shown : a.levelShown) : (l.foldl (Alarm.ripe now res raise clear) a).levelShown := by
  induction l generalizing a with
  | nil => exact shown
  | cons i l ih => exact ih (Alarm.ripe_shown now res raise clear shown i)

theorem Alarm.levelPin_iff (a : Alarm) : a.levelPin = true ↔ ∃ r,
    ((a.cfgOf r).route = .pin ∨ (a.cfgOf r).route = .both) ∧ (a.cfgOf r).severity ≠ .off ∧
      ((a.record r).state = .raised ∨ (a.record r).state = .clearing) ∧ (a.record r).acked = false := by
  unfold Alarm.levelPin allRecords AlarmRecord.holdsPin
  simp [AlarmCfg.pinRouted_iff, and_assoc]

/-! ### The write as a whole -/

section
variable (now : Stamp) (res : Nat) (c : Fin 12) (new : AlarmCfg) (a : Alarm)

theorem Alarm.writeCfg_calm : (a.writeCfg now res c new).cfg = a.cfg.set c.val new ∧
    (a.writeCfg now res c new).set = a.set := by
  have stored : AlarmCalm _ (a.writeCfg now res c new) := AlarmCalm.foldl _ (Alarm.ripe_calm now res _ _) _ _
  have shown := (AlarmHalf.refl { a with cfg := a.cfg.set c.val new }).evalPin
  exact ⟨stored.cfg.trans shown.cfg, stored.set.trans shown.set⟩

/-- The records of other conditions stay. -/
theorem Alarm.writeCfg_other {r : Fin 41} (other : conditionOf r ≠ c) (quiet : r ≠ recOverflow) :
    (a.writeCfg now res c new).record r = a.record r := by
  refine (Alarm.ripeFold_record_ne now res _ _ quiet _ ?_ _).trans (evalPin_record _ r)
  simp [other]

/-- With both times as they were, no record has its chance. -/
theorem Alarm.writeCfg_same (hold : new.raiseHold = (a.cfg.get c).raiseHold)
    (delay : new.clearDelay = (a.cfg.get c).clearDelay) :
    (a.writeCfg now res c new).recs = a.recs ∧ (a.writeCfg now res c new).queue = a.queue := by
  have still : a.writeCfg now res c new = { a with cfg := a.cfg.set c.val new }.evalPin := by
    unfold Alarm.writeCfg
    dsimp only
    rw [decide_eq_false (not_not_intro hold.symm), decide_eq_false (not_not_intro delay.symm)]
    exact List.foldl_fixed' (fun i => Alarm.ripe_none now res i _) _
  rw [still]
  unfold Alarm.evalPin
  split <;> exact ⟨rfl, rfl⟩

/-- A record of the condition has its chance with the new times. -/
theorem Alarm.writeCfg_own {r : Fin 41} (own : conditionOf r = c) (quiet : r ≠ recOverflow) :
    ∃ b : Alarm, b.cfgOf r = new ∧ b.record r = a.record r ∧ (a.writeCfg now res c new).record r =
      (b.ripe now res (decide ((a.cfg.get c).raiseHold ≠ new.raiseHold))
        (decide ((a.cfg.get c).clearDelay ≠ new.clearDelay)) r).record r := by
  have mem : r ∈ allRecords.filter fun i => conditionOf i = c := by simp [allRecords, own]
  obtain ⟨b, cfg, same, turn⟩ := Alarm.ripeFold_record now res (decide ((a.cfg.get c).raiseHold ≠ new.raiseHold))
    (decide ((a.cfg.get c).clearDelay ≠ new.clearDelay)) quiet _ ((List.nodup_finRange 41).filter _) mem
    { a with cfg := a.cfg.set c.val new }.evalPin
  refine ⟨b, ?_, same.trans (evalPin_record _ r), turn⟩
  unfold Alarm.cfgOf
  rw [cfg, own, ((AlarmHalf.refl { a with cfg := a.cfg.set c.val new }).evalPin).cfg]
  exact Vector.getElem_set_self c.isLt

theorem Alarm.writeCfg_raising {r : Fin 41} (own : conditionOf r = c) (quiet : r ≠ recOverflow)
    (raising : (a.record r).state = .raising) :
    (new.raiseHold ≠ (a.cfg.get c).raiseHold → (a.record r).ran res new.raiseHold = true →
      ((a.writeCfg now res c new).record r).state = .raised) ∧
    (new.raiseHold = (a.cfg.get c).raiseHold ∨ ¬ (a.record r).ran res new.raiseHold = true →
      (a.writeCfg now res c new).record r = a.record r) := by
  obtain ⟨b, cfg, same, turn⟩ := a.writeCfg_own now res c new own quiet
  rw [Alarm.ripe_raises (same.symm ▸ raising), cfg, same] at turn
  refine ⟨fun moved ran => ?_, fun stays => ?_⟩
  · rw [turn, if_pos ⟨decide_eq_true moved.symm, ran⟩, settle_record now res _ r quiet, Alarm.raise_record]
  · rw [turn, if_neg fun both => stays.elim (of_decide_eq_true both.1).symm fun short => short both.2, same]

theorem Alarm.writeCfg_clearing {r : Fin 41} (own : conditionOf r = c) (quiet : r ≠ recOverflow)
    (clearing : (a.record r).state = .clearing) :
    (new.clearDelay ≠ (a.cfg.get c).clearDelay → (a.record r).ran res new.clearDelay = true →
      ((a.writeCfg now res c new).record r).state = .clear) ∧
    (new.clearDelay = (a.cfg.get c).clearDelay ∨ ¬ (a.record r).ran res new.clearDelay = true →
      (a.writeCfg now res c new).record r = a.record r) := by
  obtain ⟨b, cfg, same, turn⟩ := a.writeCfg_own now res c new own quiet
  rw [Alarm.ripe_clears (same.symm ▸ clearing), cfg, same] at turn
  refine ⟨fun moved ran => ?_, fun stays => ?_⟩
  · rw [turn, if_pos ⟨decide_eq_true moved.symm, ran⟩, settle_record now res _ r quiet, Alarm.clearRecord_record]
  · rw [turn, if_neg fun both => stays.elim (of_decide_eq_true both.1).symm fun short => short both.2, same]

theorem Alarm.writeCfg_shown : (a.writeCfg now res c new).levelShown :=
  Alarm.ripeFold_shown now res _ _ _ (Alarm.evalPin_shown _)

end

/-! ### The fields of an entry -/

theorem takeAlarmCfg_fields (severity : Severity) (route : Route) {hold delay : Int} (fitHold : isField hold)
    (fitDelay : isField delay) :
    readWhole takeAlarmCfg (encIn severities severity ++ encIn routes route ++ encNum hold ++ encNum delay) =
      some (⟨severity, route, held 0 255 hold, held 0 255 delay⟩, outside 0 255 hold || outside 0 255 delay) := by
  have severe : severity ∈ severities := by cases severity <;> decide
  have routed : route ∈ routes := by cases route <;> decide
  have last := takeNum_encNum delay fitDelay []
  rw [List.append_nil] at last
  unfold readWhole
  simp only [List.append_assoc]
  rw [show takeAlarmCfg _ = some _ from
    read_then (takeIn_encIn _ _ severe (by decide) _) <| read_then (takeIn_encIn _ _ routed (by decide) _) <|
    read_then (takeNum_encNum _ fitHold _) <| read_then last rfl]
  rfl

theorem alarmCfgFields_length (severity : Severity) (route : Route) (hold delay : Int) :
    (encIn severities severity ++ encIn routes route ++ encNum hold ++ encNum delay).length = 18 := by
  simp only [List.length_append, encNum_length]
  rfl

theorem putEntry_alarmCfg {s : State} {p : Port} {i : Fin 12} {bs : List Byte} {cfg : AlarmCfg} {adjusted : Bool}
    (decoded : readWhole takeAlarmCfg bs = some (cfg, adjusted)) :
    s.putEntry p 21 i.val bs = .written (s.updAlarm (Alarm.writeCfg s.stamp s.res i cfg)) adjusted := by
  refine (dif_pos i.isLt).trans ?_
  unfold State.putAlarmCfg
  rw [decoded]

end Sys2Proof.Machine
end

section
/-! PROOFS. Alarm Settings written, and O52. -/
namespace Sys2Proof.Machine
open Sys2Proof

/-! ## Pin Mode, Pin Pulse Width and the spacing written (R181, R185) -/

/-- The Alarm Unit with new settings stored and a spacing that has run out over, before a mode takes effect. -/
def Alarm.storeSet (res : Nat) (new : AlarmSettings) (a : Alarm) : Alarm :=
  { a with set := new, spacing := (a.endSpacing res).spacing }

/-- The Alarm Unit with new settings stored, before Notify Enable takes effect. -/
def Alarm.pinSet (res : Nat) (new : AlarmSettings) (a : Alarm) : Alarm :=
  ((a.storeSet res new).modeChange a.set.pulseMode).pulseCheck res

theorem Alarm.writeSet_eq (now : Stamp) (res : Nat) (new : AlarmSettings) (a : Alarm) :
    a.writeSet now res new = (a.pinSet res new).notifyChange now res a.set.notify := by
  have stored : ({ a.endSpacing res with set := new } : Alarm) = a.storeSet res new := by
    rw [Alarm.endSpacing_eq]
    rfl
  unfold Alarm.writeSet
  rw [stored]
  rfl

/-- The pulse and the pin alone have moved. -/
def Alarm.pinFrame (a b : Alarm) : Prop := b = { a with pulse := b.pulse, asserted := b.asserted }

theorem Alarm.modeChange_frame (was : Bool) (a : Alarm) : a.pinFrame (a.modeChange was) := by
  unfold Alarm.modeChange
  split
  · rfl
  · split
    · rfl
    · unfold Alarm.evalPin
      split <;> rfl

theorem Alarm.pulseCheck_frame (res : Nat) (a : Alarm) : a.pinFrame (a.pulseCheck res) := by
  unfold Alarm.pulseCheck
  split
  · split <;> rfl
  · rfl

theorem Alarm.pinFrame.trans {a b c : Alarm} (x : a.pinFrame b) (y : b.pinFrame c) : a.pinFrame c := by
  have inner : ({ b with pulse := c.pulse, asserted := c.asserted } : Alarm) =
      { a with pulse := c.pulse, asserted := c.asserted } := by rw [x]
  exact Eq.trans y inner

section
variable (now : Stamp) (res : Nat) (new : AlarmSettings) (a : Alarm)

theorem Alarm.pinSet_eq : a.pinSet res new = { a with
    set := new, spacing := (a.endSpacing res).spacing, pulse := (a.pinSet res new).pulse
    asserted := (a.pinSet res new).asserted } :=
  (Alarm.modeChange_frame a.set.pulseMode (a.storeSet res new)).trans (Alarm.pulseCheck_frame res _)

/-- A spacing stays unless it has run out at the rate in force (R181). -/
theorem Alarm.endSpacing_spacing : (a.endSpacing res).spacing = a.spacing.filter fun start =>
    decide (res - start < (2 * 1000000000 + a.set.rate) / (2 * a.set.rate) * 65536) := by
  rw [← Alarm.spacingUnits_eq]
  unfold Alarm.endSpacing
  cases runs : a.spacing with
  | none => exact runs
  | some start =>
    by_cases out : a.spacingUnits ≤ res - start
    · simp [out, Option.filter]
    · simp [out, runs, Option.filter]

variable {new a}

/-- PULSE mode written: the pin is released, and no pulse runs (R185). -/
theorem Alarm.pinSet_toPulse (pulse : new.pulseMode = true) (was : a.set.pulseMode = false) :
    (a.pinSet res new).pulse = none ∧ (a.pinSet res new).asserted = false := by
  have changed : (a.storeSet res new).modeChange a.set.pulseMode = (a.storeSet res new).endPulse := by
    unfold Alarm.modeChange
    rw [if_neg (by simp [was, Alarm.storeSet, pulse]), if_pos (show (a.storeSet res new).set.pulseMode = true from pulse)]
  unfold Alarm.pinSet
  rw [changed]
  exact ⟨rfl, rfl⟩

/-- LEVEL mode written: whatever the pulse was, the law of ALARM_N holds (R185). -/
theorem Alarm.pinSet_toLevel (level : new.pulseMode = false) (was : a.set.pulseMode = true) :
    (a.pinSet res new).pinLaw := by
  have changed : (a.storeSet res new).modeChange a.set.pulseMode =
      { a.storeSet res new with pulse := none }.evalPin := by
    unfold Alarm.modeChange
    rw [if_neg (by simp [was, Alarm.storeSet, level]), if_neg (by simp [Alarm.storeSet, level])]
  have ended : ({ a.storeSet res new with pulse := none } : Alarm).halfLaw := by
    unfold Alarm.halfLaw
    rw [if_neg (by simp [Alarm.storeSet, level])]
  unfold Alarm.pinSet
  rw [changed]
  exact Alarm.pulseCheck_pinLaw res (Alarm.evalPin_pinLaw ended)

theorem Alarm.pulseCheck_runs {a : Alarm} {start : Nat} (runs : a.pulse = some start) :
    a.pulseCheck res = if a.set.pulseWidth * 65536000000 ≤ res - start then a.endPulse else a := by
  unfold Alarm.pulseCheck
  rw [runs]
  rfl

/-- PULSE mode kept: a pulse that has run for the new width ends (R185). -/
theorem Alarm.pinSet_pulse {start : Nat} (pulse : new.pulseMode = true) (was : a.set.pulseMode = true)
    (runs : a.pulse = some start) :
    if new.pulseWidth * 65536000000 ≤ res - start then
      (a.pinSet res new).pulse = none ∧ (a.pinSet res new).asserted = false
    else (a.pinSet res new).pulse = a.pulse ∧ (a.pinSet res new).asserted = a.asserted := by
  have stays : (a.storeSet res new).modeChange a.set.pulseMode = a.storeSet res new := if_pos (was.trans pulse.symm)
  have checked : a.pinSet res new =
      if new.pulseWidth * 65536000000 ≤ res - start then (a.storeSet res new).endPulse else a.storeSet res new := by
    unfold Alarm.pinSet
    rw [stays]
    exact Alarm.pulseCheck_runs res (a := a.storeSet res new) runs
  rw [checked]
  split <;> exact ⟨rfl, rfl⟩

/-! ## Notify Enable written (R178, R180) -/

theorem Alarm.notifyChange_same {was : Bool} (same : a.set.notify = was) : a.notifyChange now res was = a := if_pos same.symm

theorem Alarm.notifyChange_off (off : a.set.notify = false) : a.notifyChange now res true = a.notifyOff := by
  unfold Alarm.notifyChange
  rw [off]
  rfl

theorem Alarm.notifyChange_on (on : a.set.notify = true) :
    a.notifyChange now res false = { a with spacing := none }.drain now res := by
  unfold Alarm.notifyChange
  rw [on]
  rfl

theorem Alarm.notifyChange_stored (was : Bool) (a : Alarm) :
    (a.notifyChange now res was).set = a.set ∧ (a.notifyChange now res was).cfg = a.cfg := by
  unfold Alarm.notifyChange
  split
  · exact ⟨rfl, rfl⟩
  · split
    · have calm := Alarm.drain_calm now res { a with spacing := none }
      exact ⟨calm.set, calm.cfg⟩
    · rw [a.notifyOff_eq.1]
      exact ⟨rfl, rfl⟩

end

/-! ## The settings written as a whole -/

section
variable (now : Stamp) (res : Nat) {new : AlarmSettings} {a : Alarm}

theorem Alarm.writeSet_stored (new : AlarmSettings) (a : Alarm) :
    (a.writeSet now res new).set = new ∧ (a.writeSet now res new).cfg = a.cfg := by
  obtain ⟨set, cfg⟩ := Alarm.notifyChange_stored now res a.set.notify (a.pinSet res new)
  have frame := a.pinSet_eq res new
  rw [Alarm.writeSet_eq]
  exact ⟨set.trans (congrArg Alarm.set frame), cfg.trans ((congrArg Alarm.cfg frame).trans rfl)⟩

/-- With Notify Enable as before, the pin's settings are all that takes effect. -/
theorem Alarm.writeSet_same (same : new.notify = a.set.notify) : a.writeSet now res new = a.pinSet res new :=
  (a.writeSet_eq now res new).trans <| Alarm.notifyChange_same now res <| (congrArg (fun x => x.set.notify)
    (a.pinSet_eq res new)).trans same

/-- Notices turned off (R180). -/
theorem Alarm.writeSet_off (off : new.notify = false) (was : a.set.notify = true) :
    (a.writeSet now res new).queue = [] ∧ (a.writeSet now res new).spacing = none ∧
      (a.writeSet now res new).ctr.noticesDropped = min (a.ctr.noticesDropped + a.queue.length) 4294967295 ∧
      ∀ r, (a.writeSet now res new).record r =
        { a.record r with pending := (a.record r).pending || a.queue.any fun n => n.record = r } := by
  rw [Alarm.writeSet_eq, was, Alarm.pinSet_eq, Alarm.notifyChange_off now res off]
  obtain ⟨frame, record⟩ := Alarm.notifyOff_eq { a with
    set := new, spacing := (a.endSpacing res).spacing, pulse := (a.pinSet res new).pulse
    asserted := (a.pinSet res new).asserted }
  rw [frame] at record ⊢
  exact ⟨rfl, rfl, rfl, record⟩

/-- Notices turned on (R178). -/
theorem Alarm.writeSet_on (on : new.notify = true) (was : a.set.notify = false) :
    (a.writeSet now res new).spacing = none ∧
      ((∀ i, (a.record i).pending = false) →
        (a.writeSet now res new).queue = a.queue ∧ (a.writeSet now res new).recs = a.recs) ∧
      (a.queue.length < 16 → Drained a.queue a (a.writeSet now res new)) := by
  rw [Alarm.writeSet_eq, was, Alarm.pinSet_eq, Alarm.notifyChange_on now res on]
  generalize (a.pinSet res new).pulse = pulse
  generalize (a.pinSet res new).asserted = pin
  refine ⟨(Alarm.drain_leaves now res _).1.1, fun idle => ?_, fun room => ?_⟩
  · rw [Alarm.drain_idle (a := { a with set := new, spacing := none, pulse := pulse, asserted := pin }) idle]
    exact ⟨rfl, rfl⟩
  · exact Alarm.drain_drained now res (a := { a with set := new, spacing := none, pulse := pulse, asserted := pin }) on
      (Nat.le_of_lt room)

/-- LEVEL mode written: no pulse runs, and the pin is set by the records (R185). -/
theorem Alarm.writeSet_toLevel (level : new.pulseMode = false) (was : a.set.pulseMode = true) :
    (a.writeSet now res new).pulse = none ∧ (a.writeSet now res new).asserted = (a.writeSet now res new).levelPin := by
  have law : (a.writeSet now res new).pinLaw := by
    rw [Alarm.writeSet_eq]
    exact Alarm.notifyChange_pinLaw now res _ (Alarm.pinSet_toLevel res level was)
  unfold Alarm.pinLaw at law
  rwa [if_neg (by simp [(Alarm.writeSet_stored now res new a).1, level])] at law

end

/-! ### The fields of the entry -/

/-- The bytes of the Alarm Settings in a PUT. -/
def alarmSetFields (notify : Bool) (rate : Int) (collector : Option Addr) (port : Port) (vlan : Option Int)
    (ack pulse : Bool) (width : Int) : List Byte :=
  encFirst notify ++ encNum rate ++ encOpt 6 encAddr collector ++ encEnum (portIdx port).val ++ encOptInt vlan ++
    encEnum (if ack then 1 else 0) ++ encEnum (if pulse then 1 else 0) ++ encNum width

/-- The Alarm Settings that a PUT stores. -/
def writtenAlarmSet (notify : Bool) (rate : Int) (collector : Option Addr) (port : Port) (vlan : Option Int)
    (ack pulse : Bool) (width : Int) : AlarmSettings :=
  { notify := notify, rate := held 1 64 rate, collector := collector, collectorPort := port
    vlan := vlan.map (held 0 4095), ackOnRead := ack, pulseMode := pulse, pulseWidth := held 10 1000 width }

section
variable (notify : Bool) {rate width : Int} (collector : Option Addr) (port : Port) {vlan : Option Int} (ack pulse : Bool)

theorem takePort_encEnum (r : List Byte) : takeIn allPorts (encEnum (portIdx port).val ++ r) = some (port, r) := by
  cases port <;> rfl

theorem takeFlag_encEnum (b : Bool) (r : List Byte) :
    takeIn [false, true] (encEnum (if b then 1 else 0) ++ r) = some (b, r) := by
  cases b <;> rfl

theorem takeAlarmSet_fields (fitRate : isField rate) (fitVlan : isOptField vlan) (fitWidth : isField width) :
    readWhole takeAlarmSet (alarmSetFields notify rate collector port vlan ack pulse width) =
      some (writtenAlarmSet notify rate collector port vlan ack pulse width,
        outside 1 64 rate || outsideOpt 0 4095 vlan || outside 10 1000 width) := by
  have last := takeNum_encNum width fitWidth []
  rw [List.append_nil] at last
  unfold readWhole alarmSetFields
  simp only [List.append_assoc]
  rw [show takeAlarmSet _ = some _ from
    read_then (takeFirst_encFirst _ _) <| read_then (takeNum_encNum _ fitRate _) <|
    read_then (takeOptAddr_encOpt _ _) <| read_then (takePort_encEnum _ _) <|
    read_then (takeOptNum_encOptInt _ fitVlan _) <| read_then (takeFlag_encEnum _ _) <|
    read_then (takeFlag_encEnum _ _) <| read_then last rfl]
  rfl

theorem alarmSetFields_length (rate : Int) (vlan : Option Int) (width : Int) :
    (alarmSetFields notify rate collector port vlan ack pulse width).length = 36 := by
  have addr : (encOpt 6 encAddr collector).length = 7 := by cases collector <;> rfl
  unfold alarmSetFields
  simp only [List.length_append, encNum_length, encOptInt_length, addr]
  cases notify <;> rfl

end

/-- Notices on without a Collector Address are refused (R179). -/
theorem putEntry_alarmSet_refused {s : State} {p : Port} {bs : List Byte} {set : AlarmSettings} {adjusted : Bool}
    (decoded : readWhole takeAlarmSet bs = some (set, adjusted)) (on : set.notify = true) (nobody : set.collector = none) :
    s.putEntry p 22 0 bs = .refused 10 := by
  show s.putAlarmSet bs = _
  unfold State.putAlarmSet
  rw [decoded]
  exact if_pos (by simp [on, nobody])

theorem putEntry_alarmSet {s : State} {p : Port} {bs : List Byte} {set : AlarmSettings} {adjusted : Bool}
    (decoded : readWhole takeAlarmSet bs = some (set, adjusted)) (told : set.notify = false ∨ set.collector ≠ none) :
    s.putEntry p 22 0 bs = .written (s.updAlarm (Alarm.writeSet s.stamp s.res set)) adjusted := by
  show s.putAlarmSet bs = _
  unfold State.putAlarmSet
  rw [decoded]
  refine if_neg ?_
  rcases told with off | some'
  · simp [off]
  · simpa using fun _ => some'

/-- Settles O52: the two intervals by their ends, and the two tables by what their writes do in the Alarm Unit. -/
theorem testAndPulseEnd : Obligations.TestAndPulseEnd := by
  refine ⟨fun s => ⟨exec_testIntervalExpires_none, exec_pinPulseEnd_none, ?_, ?_⟩, ?_, ?_⟩
  · intro start runs d can
    obtain ⟨k, advance, run⟩ := exec_testIntervalExpires runs can
    have calm := Alarm.report_calm ⟨k.counter, k.epoch⟩ k.residence recTest false [] { s.alarm with test := none }
    exact ⟨_, run, advance, rfl,
      (Alarm.report_timers ⟨k.counter, k.epoch⟩ k.residence recTest false [] { s.alarm with test := none }).2.2,
      report_present _ _ recTest false [] _ (by decide), calm.set, calm.cfg,
      fun i other quiet => report_record_ne _ _ recTest false [] _ i other quiet⟩
  · intro start runs d can
    obtain ⟨k, advance, run⟩ := exec_pinPulseEnd runs can
    exact ⟨_, run, advance, rfl⟩
  · intro s dt c i severity route hold delay fitHold fitDelay puts v old cfg
    obtain ⟨t, run, stored⟩ := put_written s dt c 21 i.val _ (v.updAlarm (Alarm.writeCfg v.stamp v.res i cfg)) _
      (kept 0 255 hold ∧ kept 0 255 delay) puts (by decide) (by decide) i.isLt (by omega)
      (by rw [alarmCfgFields_length]; decide) (putEntry_alarmCfg (takeAlarmCfg_fields severity route fitHold fitDelay))
      (by simp only [Bool.or_eq_true, outside_iff, not_and_or])
    obtain ⟨cfg', set⟩ := s.alarm.writeCfg_calm v.stamp v.res i cfg
    refine ⟨_, t, run, stored, rfl, cfg', set, fun r other quiet => s.alarm.writeCfg_other _ _ i cfg other quiet,
      s.alarm.writeCfg_same _ _ i cfg, fun r start quiet own runs => ?_, fun level => ?_⟩
    · intro ran
      have ran_iff (seconds : Nat) := AlarmRecord.ran_iff runs v.res seconds
      refine ⟨fun raising moved out => ?_, fun raising stays => ?_, fun clearing moved out => ?_, fun clearing stays => ?_⟩
      · exact (s.alarm.writeCfg_raising v.stamp v.res i cfg own quiet raising).1 moved ((ran_iff _).2 out)
      · exact (s.alarm.writeCfg_raising v.stamp v.res i cfg own quiet raising).2 (stays.imp_right (mt (ran_iff _).1))
      · exact (s.alarm.writeCfg_clearing v.stamp v.res i cfg own quiet clearing).1 moved ((ran_iff _).2 out)
      · exact (s.alarm.writeCfg_clearing v.stamp v.res i cfg own quiet clearing).2 (stays.imp_right (mt (ran_iff _).1))
    · have shown := s.alarm.writeCfg_shown v.stamp v.res i cfg (set ▸ level)
      exact (Bool.eq_iff_iff.1 shown).trans (Alarm.levelPin_iff _)
  · intro s dt c notify rate collector port vlan ack pulse width fitRate fitVlan fitWidth puts v a set
    have decoded := takeAlarmSet_fields notify collector port ack pulse fitRate fitVlan fitWidth
    have small : (alarmSetFields notify rate collector port vlan ack pulse width).length < 65536 := by
      rw [alarmSetFields_length]
      decide
    refine ⟨fun on nobody => ?_, fun told => ?_⟩
    · exact put_refused s dt c 22 0 _ 10 puts (by decide) (by decide) (show 0 < 1 from by decide) (by decide) small
        (putEntry_alarmSet_refused decoded on nobody)
    · obtain ⟨t, run, stored⟩ := put_written s dt c 22 0 _ (v.updAlarm (Alarm.writeSet v.stamp v.res set)) _
        (kept 1 64 rate ∧ (∀ x, vlan = some x → kept 0 4095 x) ∧ kept 10 1000 width) puts (by decide) (by decide)
        (show 0 < 1 from by decide) (by decide) small (putEntry_alarmSet decoded told)
        (by simp only [Bool.or_eq_true, outside_iff, outsideOpt_iff, not_and_or, or_assoc])
      obtain ⟨set', cfg⟩ := a.writeSet_stored v.stamp v.res set
      refine ⟨_, t, run, stored, rfl, set', cfg, fun same => ?_, fun off was => Alarm.writeSet_off _ _ off was,
        fun on was => Alarm.writeSet_on _ _ on was, fun mode was same => ?_,
        fun level was => Alarm.writeSet_toLevel _ _ level was, fun start mode was same runs => ?_⟩
      · have same' : a.writeSet v.stamp v.res set = a.pinSet v.res set := Alarm.writeSet_same _ _ same
        have frame := same'.trans (a.pinSet_eq v.res set)
        exact ⟨(congrArg Alarm.queue frame).trans rfl, (congrArg Alarm.recs frame).trans rfl,
          (congrArg Alarm.spacing frame).trans (Alarm.endSpacing_spacing v.res a)⟩
      · have same' : a.writeSet v.stamp v.res set = a.pinSet v.res set := Alarm.writeSet_same _ _ same
        obtain ⟨ends, released⟩ := Alarm.pinSet_toPulse (new := set) v.res mode was
        exact ⟨(congrArg Alarm.pulse same').trans ends, (congrArg Alarm.asserted same').trans released⟩
      · have same' : a.writeSet v.stamp v.res set = a.pinSet v.res set := Alarm.writeSet_same _ _ same
        have pinned := Alarm.pinSet_pulse (new := set) v.res mode was runs
        rw [← same'] at pinned
        exact pinned

end Sys2Proof.Machine
end
